-- ==== Sys2Proof/Word.lean ====
section
/-! DEFINITION. Sys2Proof/Word.lean: the word types of the Ikiuri (R2, R4, R30). -/

namespace Sys2Proof

/-- A 64-bit word: a scalar register, an address, a queue handle (R30). -/
abbrev Word := BitVec 64

/-- One byte of memory. -/
abbrev Byte := BitVec 8

/-- The 32 bits a lane holds of one vector register (R31). -/
abbrev Lane32 := BitVec 32

end Sys2Proof
end

