-- ==== Sys2Proof/Syntax.lean ====
section
/-! DEFINITION. Sys2Proof/Syntax.lean: the instructions and events of the Ikiuri, one constructor for each row of
spec/opcode_table.json. Scalar words carry the fields of their format (R21, R22); lane words carry the fields of the
96-bit canonical word (R23). An event has no word; the objects it acts on, and what comes from outside the machine,
are its operands, which the state holds (EvArg, log 16). Constructors without fields stand last. -/

namespace Sys2Proof

/-- The stored form of a lane instruction (R24). -/
inductive LaneForm where
  | short | medium | long
  deriving DecidableEq, Repr

/-- The fields of a lane word that its group and function leave open (R23): the type code, the
predicate select and its negation, the four operand codes, the modifiers and the immediate. -/
structure LaneOps where
  ty   : BitVec 4
  ps   : BitVec 3
  pn   : Bool
  d    : BitVec 8
  a    : BitVec 8
  b    : BitVec 8
  c    : BitVec 8
  md   : BitVec 6
  im   : BitVec 32
  deriving DecidableEq, Repr

/-- A mailbox request as the host rings it (R360): the function, the header's TAG and CTX, and the payload words. -/
structure MboxReq where
  fn      : Nat
  tag     : BitVec 16
  ctx     : BitVec 6
  payload : List Word
  deriving DecidableEq, Repr

/-- A service image as the boot ROM reads it (R383): its public key, whether its signature verifies over the body, its version
and its body; and the device policy block, which is measured after it. -/
structure BootImage where
  pubkey  : List (BitVec 8)
  sigOk   : Bool
  version : BitVec 32
  body    : List (BitVec 8)
  policy  : List (BitVec 8)
  deriving DecidableEq, Repr

/-- The source device time follows (R371). -/
inductive TimeSource where
  | none | ptp | ptm
  deriving DecidableEq, Repr

/-- The word an error correcting code finds bad (R414), named as the structure names it. -/
inductive EccPlace where
  | pool (cohort off : Nat)
  | operand (cohort off : Nat)
  | l2 (sector : Nat)
  | hbm (sector : Nat)
  | l1 (core line : Nat)
  | icache (core line : Nat)
  | milliner (m off : Nat)
  /-- A sector of the bank of a thread's vector registers, or of a tile (R156). -/
  | vector (tid sector : Nat)
  | tile (tid n sector : Nat)
  /-- A byte of a saved cohort's scratchpad or operand space in the Batt, or a sector of its n-th thread's registers or of one
  of that thread's tiles. -/
  | batt (die image off : Nat)
  | battOperand (die image off : Nat)
  | battVector (die image n sector : Nat)
  | battTile (die image n k sector : Nat)
  | window (die window sector : Nat)
  /-- A sector of a count key's entry in the window cache: the stream and the key. -/
  | keyEntry (die stream : Nat) (key : Word) (sector : Nat)
  | task (slot sector : Nat)
  deriving DecidableEq, Repr

/-- A section the loader marks loaded (R93, R352, R377), with what the check of its object found, and the LAUNCH
records and role maps the loader installs with it (R57, R425). -/
structure LoadSection where
  base      : Word
  size      : Nat
  lane      : Bool
  obj       : Nat
  signed    : Bool
  sigOk     : Bool
  keyDigest : BitVec 256
  digest    : BitVec 256
  launches  : List (Nat × BitVec 64)
  rolemaps  : List (Nat × List (BitVec 16))
  deriving DecidableEq, Repr

/-- An operation that a peer package's network engine brings to this package (R224, R229, R369). The bytes of a copy record
come with the numbers of those that a poisoned sector fed (R242). -/
inductive NetOp where
  | qpush (pkg ctx : Nat) (q : Word) (elems : List (List (BitVec 8))) (wait : Bool)
  | qlen (pkg ctx : Nat) (q : Word) (sel : BitVec 2)
  | red (pkg ctx : Nat) (addr : Word) (op bytes : Nat) (value : BitVec 128)
  | copy (pkg ctx : Nat) (addr : Word) (data : List (BitVec 8)) (bad : List Nat)
  /-- The peer takes the n-th of its waiting pushes to a queue back (R229). -/
  | withdraw (pkg ctx : Nat) (q : Word) (n : Nat)
  /-- The peer asks when a memory barrier's phase reaches a value (R318, R370). -/
  | phase (pkg ctx : Nat) (addr : Word) (v : BitVec 16)
  deriving DecidableEq, Repr

/-- The operands of an event (log 16): the objects it acts on and what the outside of the machine brings. Each event
reads the fields its meaning names. -/
structure EvArg where
  obj    : Nat
  obj2   : Nat
  obj3   : Nat
  word   : Word
  word2  : Word
  bytes  : List (BitVec 8)
  flag   : Bool
  flag2  : Bool
  flag3  : Bool
  bound  : Option Nat
  big    : BitVec 256
  offset : Int
  req    : MboxReq
  img    : BootImage
  sec    : LoadSection
  net    : NetOp
  place  : EccPlace
  src    : TimeSource
  deriving DecidableEq, Repr

/-- No operands. -/
def EvArg.none : EvArg :=
  { obj := 0, obj2 := 0, obj3 := 0, word := 0, word2 := 0, bytes := [], flag := false, flag2 := false, flag3 := false,
    bound := Option.none, big := 0, offset := 0, req := { fn := 0, tag := 0, ctx := 0, payload := [] },
    img := { pubkey := [], sigOk := false, version := 0, body := [], policy := [] },
    sec := { base := 0, size := 0, lane := false, obj := 0, signed := false, sigOk := false, keyDigest := 0,
             digest := 0, launches := [], rolemaps := [] },
    net := .qlen 0 0 0 0, place := .l1 0 0, src := .none }


/-- The one instruction type: one constructor per row of the opcode table, those with fields first, each in the order of the
table. -/
inductive Instr where
  | intAdd (d a b : BitVec 6)
  | intSub (d a b : BitVec 6)
  | intMul (d a b : BitVec 6)
  | intMulh (d a b : BitVec 6)
  | intMulhn (d a b : BitVec 6)
  | intDiv (d a b : BitVec 6)
  | intDivn (d a b : BitVec 6)
  | intRem (d a b : BitVec 6)
  | intRemn (d a b : BitVec 6)
  | intAnd (d a b : BitVec 6)
  | intOr (d a b : BitVec 6)
  | intXor (d a b : BitVec 6)
  | intAndn (d a b : BitVec 6)
  | intShl (d a b : BitVec 6)
  | intShr (d a b : BitVec 6)
  | intSar (d a b : BitVec 6)
  | intMin (d a b : BitVec 6)
  | intMax (d a b : BitVec 6)
  | intMinn (d a b : BitVec 6)
  | intMaxn (d a b : BitVec 6)
  | intClz (d a : BitVec 6)
  | intCtz (d a : BitVec 6)
  | intPopc (d a : BitVec 6)
  | intEq (d a b : BitVec 6)
  | intNe (d a b : BitVec 6)
  | intLt (d a b : BitVec 6)
  | intLtn (d a b : BitVec 6)
  | intLe (d a b : BitVec 6)
  | intLen (d a b : BitVec 6)
  | intSel (d a b : BitVec 6)
  | addi (d a : BitVec 6) (i : BitVec 14)
  | andi (d a : BitVec 6) (i : BitVec 14)
  | ori (d a : BitVec 6) (i : BitVec 14)
  | xori (d a : BitVec 6) (i : BitVec 14)
  | shiShl (d a n : BitVec 6)
  | shiShr (d a n : BitVec 6)
  | shiSar (d a n : BitVec 6)
  | li (d : BitVec 6) (i : BitVec 20)
  | lih (d : BitVec 6) (i : BitVec 20)
  | bcEq0 (a : BitVec 6) (o : BitVec 16)
  | bcNe0 (a : BitVec 6) (o : BitVec 16)
  | bcLt0 (a : BitVec 6) (o : BitVec 16)
  | bcGe0 (a : BitVec 6) (o : BitVec 16)
  | bcLe0 (a : BitVec 6) (o : BitVec 16)
  | bcGt0 (a : BitVec 6) (o : BitVec 16)
  | jmp (o : BitVec 26)
  | call (o : BitVec 26)
  | jrJr (a : BitVec 6)
  | jrJrl (a : BitVec 6)
  | ldN8 (d a : BitVec 6) (o : BitVec 11)
  | ldI8 (d a : BitVec 6) (o : BitVec 11)
  | ldN16 (d a : BitVec 6) (o : BitVec 11)
  | ldI16 (d a : BitVec 6) (o : BitVec 11)
  | ldN32 (d a : BitVec 6) (o : BitVec 11)
  | ldI32 (d a : BitVec 6) (o : BitVec 11)
  | ldN64 (d a : BitVec 6) (o : BitVec 11)
  | stN8 (d a : BitVec 6) (o : BitVec 11)
  | stN16 (d a : BitVec 6) (o : BitVec 11)
  | stN32 (d a : BitVec 6) (o : BitVec 11)
  | stN64 (d a : BitVec 6) (o : BitVec 11)
  | atomAdd (d a b : BitVec 6)
  | atomAnd (d a b : BitVec 6)
  | atomOr (d a b : BitVec 6)
  | atomXor (d a b : BitVec 6)
  | atomMin (d a b : BitVec 6)
  | atomMax (d a b : BitVec 6)
  | atomMinn (d a b : BitVec 6)
  | atomMaxn (d a b : BitVec 6)
  | atomSwap (d a b : BitVec 6)
  | atomCas (d a b : BitVec 6)
  | atomFadd32 (d a b : BitVec 6)
  | atomFadd64 (d a b : BitVec 6)
  | atomFxadd (d a b : BitVec 6)
  | atomFxread (d a i : BitVec 6)
  | redAdd (a b : BitVec 6)
  | redAnd (a b : BitVec 6)
  | redOr (a b : BitVec 6)
  | redXor (a b : BitVec 6)
  | redMin (a b : BitVec 6)
  | redMax (a b : BitVec 6)
  | redMinn (a b : BitVec 6)
  | redMaxn (a b : BitVec 6)
  | redFadd32 (a b : BitVec 6)
  | redFadd64 (a b : BitVec 6)
  | redFxadd (a b : BitVec 6)
  | fenceFence (s : BitVec 6)
  | cachePref (a l : BitVec 6)
  | cacheEvict (a : BitVec 6)
  | cacheEvstep (d a : BitVec 6)
  | srGet (d h l : BitVec 6)
  | srSet (d h l : BitVec 6)
  | laneLrun (a b : BitVec 6)
  | laneLwait (n : BitVec 6)
  | laneLres (d k : BitVec 6)
  | poolGive (d k : BitVec 6)
  | poolClaim (d k : BitVec 6)
  | poolTgive (d k : BitVec 6)
  | poolTclaim (d k : BitVec 6)
  | queueQinit (a k : BitVec 6)
  | queueQpush (d a b : BitVec 6)
  | queueQpop (d a b : BitVec 6)
  | queueQtrypush (d a b : BitVec 6)
  | queueQtrypop (d a b : BitVec 6)
  | queueQres (d a : BitVec 6)
  | queueQcom (a b : BitVec 6)
  | queueQlen (d a s : BitVec 6)
  | queueQpeek (d a b : BitVec 6)
  | queueQclose (a : BitVec 6)
  | queueQdrain (a : BitVec 6)
  | queueQcheck (d a : BitVec 6)
  | copyCstart (d a b : BitVec 6)
  | copyCstat (d a : BitVec 6)
  | copyCabort (a b : BitVec 6)
  | taskSpawn (d a : BitVec 6)
  | taskNote (a : BitVec 6)
  | taskRnext (d : BitVec 6)
  | taskTquery (d a : BitVec 6)
  | winWmark (d a b : BitVec 6)
  | winWclose (d a b : BitVec 6)
  | winWemit (d a b : BitVec 6)
  | winWstate (d a b : BitVec 6)
  | winWbind (d a b : BitVec 6)
  | syncWait (d a b : BitVec 6)
  | syncArrive (d a b : BitVec 6)
  | syncBinit (a b : BitVec 6)
  | syncBphase (d a : BitVec 6)
  | confScset (a b : BitVec 6)
  | confOpset (a : BitVec 6)
  | confEvset (a b : BitVec 6)
  | sysSys (d a b : BitVec 6)
  | sysTrap (a : BitVec 6)
  | sysUint (a b : BitVec 6)
  | timeRdtime (d : BitVec 6)
  | timeRdtick (d : BitVec 6)
  | timeRdpts (d : BitVec 6)
  | viAdd (o : LaneOps)
  | viSub (o : LaneOps)
  | viMul (o : LaneOps)
  | viMulh (o : LaneOps)
  | viMulhn (o : LaneOps)
  | viMad (o : LaneOps)
  | viAnd (o : LaneOps)
  | viOr (o : LaneOps)
  | viXor (o : LaneOps)
  | viAndn (o : LaneOps)
  | viShl (o : LaneOps)
  | viShr (o : LaneOps)
  | viSar (o : LaneOps)
  | viMin (o : LaneOps)
  | viMax (o : LaneOps)
  | viMinn (o : LaneOps)
  | viMaxn (o : LaneOps)
  | viAbs (o : LaneOps)
  | viClz (o : LaneOps)
  | viPopc (o : LaneOps)
  | viAddsat (o : LaneOps)
  | viSubsat (o : LaneOps)
  | viCmpeq (o : LaneOps)
  | viCmpne (o : LaneOps)
  | viCmplt (o : LaneOps)
  | viCmpltn (o : LaneOps)
  | viCmple (o : LaneOps)
  | viCmplen (o : LaneOps)
  | viSel (o : LaneOps)
  | viMov (o : LaneOps)
  | viLi (o : LaneOps)
  | viIota (o : LaneOps)
  | vfAdd (o : LaneOps)
  | vfSub (o : LaneOps)
  | vfMul (o : LaneOps)
  | vfFma (o : LaneOps)
  | vfFms (o : LaneOps)
  | vfMin (o : LaneOps)
  | vfMax (o : LaneOps)
  | vfDiv (o : LaneOps)
  | vfSqrt (o : LaneOps)
  | vfRcp (o : LaneOps)
  | vfRsq (o : LaneOps)
  | vfExp2 (o : LaneOps)
  | vfLog2 (o : LaneOps)
  | vfAbs (o : LaneOps)
  | vfNeg (o : LaneOps)
  | vfCopysign (o : LaneOps)
  | vfCmpeq (o : LaneOps)
  | vfCmplt (o : LaneOps)
  | vfCmple (o : LaneOps)
  | vfCmpun (o : LaneOps)
  | vfClass (o : LaneOps)
  | vfMov (o : LaneOps)
  | vfLi (o : LaneOps)
  | vcCvt (o : LaneOps)
  | vcCvts (o : LaneOps)
  | vcQnpack (o : LaneOps)
  | vcQnunpack (o : LaneOps)
  | vcPack (o : LaneOps)
  | vcUnpack (o : LaneOps)
  | vxShfl (o : LaneOps)
  | vxShup (o : LaneOps)
  | vxShdn (o : LaneOps)
  | vxShxor (o : LaneOps)
  | vxBcast (o : LaneOps)
  | vxScan (o : LaneOps)
  | vxRed (o : LaneOps)
  | vxVote (o : LaneOps)
  | vxBallot (o : LaneOps)
  | vpPand (o : LaneOps)
  | vpPor (o : LaneOps)
  | vpPxor (o : LaneOps)
  | vpPnot (o : LaneOps)
  | vpPmov (o : LaneOps)
  | vpPset (o : LaneOps)
  | lbBrc (o : LaneOps)
  | lbBrk (o : LaneOps)
  | lbCont (o : LaneOps)
  | lbJmp (o : LaneOps)
  | vmLd (o : LaneOps)
  | vmSt (o : LaneOps)
  | vmLdx (o : LaneOps)
  | vmStx (o : LaneOps)
  | vmSld (o : LaneOps)
  | vmSst (o : LaneOps)
  | vmAtom (o : LaneOps)
  | vmRed (o : LaneOps)
  | vmPref (o : LaneOps)
  | mxMres (o : LaneOps)
  | mxMfree (o : LaneOps)
  | mxMfill (o : LaneOps)
  | mxMma (o : LaneOps)
  | mxMmag (o : LaneOps)
  | mxMzero (o : LaneOps)
  | mxMrd (o : LaneOps)
  | mxMwr (o : LaneOps)
  | mxMst (o : LaneOps)
  | mxMstx (o : LaneOps)
  | mxMrow (o : LaneOps)
  | mxMnote (o : LaneOps)
  | slTopk (o : LaneOps)
  | slSmax (o : LaneOps)
  | slSamp (o : LaneOps)
  | slRng (o : LaneOps)
  | lqQpushv (o : LaneOps)
  | lqQpopv (o : LaneOps)
  | taskDone
  | winPark
  | sysEnd
  | sysHalt
  | lbJoin
  | lbRegang
  | lbLend
  | lbNop
  | laneBlockStart
  | laneBlockEnd
  | mxRetire
  | slRetire
  | l2ServeRequest
  | l2MissFill
  | memoryResponse
  | ptsRebase
  | reductionPerform
  | copyTakeRecord
  | copyRecordComplete
  | qputRetry
  | copyFixupReplay
  | copyPageResident
  | carderTakeRecord
  | windowStepOpen
  | windowStepRecord
  | windowStepMerge
  | windowStepClose
  | windowStepExpire
  | windowTimeTrigger
  | wheelFire
  | hatboxDemote
  | carderEmitPush
  | hatboxFullRepeat
  | taskEnginePop
  | taskDecrement
  | taskLaunch
  | taskComplete
  | rangeSplit
  | ttRelease
  | ttReleaseSkip
  | placement
  | starveTimeout
  | evictTimeout
  | preemptRequest
  | drainBoundExpire
  | cohortSave
  | cohortRestore
  | cohortFree
  | partitionSwapOut
  | partitionSwapIn
  | watchdog
  | waitSatisfied
  | waitTimeout
  | sysResponse
  | issueGatingStart
  | issueGatingEnd
  | alarmVolt
  | alarmClock
  | alarmTemp
  | alarmMesh
  | alarmPrivrep
  | mboxCreateContext
  | mboxEndContext
  | mboxWriteLeaf
  | mboxClearLeaf
  | mboxWriteTtSlot
  | mboxMapUserPort
  | mboxWriteUintEntry
  | mboxWritePartition
  | mboxBadRequest
  | mboxDoorbellBusy
  | mboxstWrite
  | pathsyncRead
  | userPortWrite
  | bar0WriteOther
  | scpQpush
  | scpQtrypop
  | scpQlen
  | scpAccess
  | scpSnoop
  | doeInspectRead
  | doeQueueUnbind
  | doeCensus
  | censusDone
  | doeCensusResume
  | doeAttest
  | doeRecoveryImage
  | doeAlarmRequest
  | doeAlarmClear
  | netRemoteOp
  | netFlowDown
  | podBarrierMessage
  | timeSync
  | powerUp
  | pageMigrate
  | hostExtentRelease
  | hostForcedRelease
  | uintDeliver
  | eccUncorrected
  | eccCorrected
  | nonInstructionScalar
  | nonInstructionLane
  | reductionCombinerAccept
  | netRemoteResponse
  | placementStallRepeat
  | sectionMarkedLoaded
  | spdmSession
  | timeSourceSelect
  | flowKeyInstall
  | expectedMeasurementInstall
  | extentMarkMigratable
  | pendingRingHeadAdvance
  deriving DecidableEq, Repr

end Sys2Proof
end

