-- ==== Sys2Proof/Decode.lean ====
section
/-! DEFINITION. Sys2Proof/Decode.lean: from bits to instructions and back (R21-R29, R31, R36-R41), and the rules a lane
word must keep for its expansion to succeed. Every word that is not an instruction is rejected by name. -/

namespace Sys2Proof

/-- Why bits are not an instruction (R40, R41). -/
inductive DecodeError where
  /-- A scalar word that R37 and R40 do not list as an instruction. -/
  | scalarWord
  /-- The stored bytes end before the lane instruction does (R29). -/
  | truncated
  /-- A short index of 0x60-0x7F (R26). -/
  | shortIndex
  /-- An OP or FN that R38 does not assign. -/
  | unassigned
  /-- A TY the group or function does not accept (R36). -/
  | typeCode
  /-- A modifier the function does not accept. -/
  | modifier
  /-- An immediate the function does not accept. -/
  | immediate
  /-- A predicate select where the function gives it no meaning (R302). -/
  | predicate
  /-- An operand code outside its field's kind (R31). -/
  | operand
  /-- The stored form cannot hold the canonical word (R24-R26). -/
  | form
  deriving DecidableEq, Repr

/-- All fields zero: the fields of the lane instructions that read none (R302). -/
def LaneOps.zero : LaneOps :=
  { ty := 0, ps := 0, pn := false, d := 0, a := 0, b := 0, c := 0, md := 0, im := 0 }


/-- Bits 5:0 of a scalar word (R21). -/
abbrev f5_0 (w : BitVec 32) : BitVec 6 := w.extractLsb' 0 6

/-- Bits 7:0 of a scalar word (R21). -/
abbrev f7_0 (w : BitVec 32) : BitVec 8 := w.extractLsb' 0 8

/-- Bits 10:0 of a scalar word (R21). -/
abbrev f10_0 (w : BitVec 32) : BitVec 11 := w.extractLsb' 0 11

/-- Bits 13:0 of a scalar word (R21). -/
abbrev f13_0 (w : BitVec 32) : BitVec 14 := w.extractLsb' 0 14

/-- Bits 13:6 of a scalar word (R21). -/
abbrev f13_6 (w : BitVec 32) : BitVec 8 := w.extractLsb' 6 8

/-- Bits 13:8 of a scalar word (R21). -/
abbrev f13_8 (w : BitVec 32) : BitVec 6 := w.extractLsb' 8 6

/-- Bits 13:11 of a scalar word (R21). -/
abbrev f13_11 (w : BitVec 32) : BitVec 3 := w.extractLsb' 11 3

/-- Bits 15:0 of a scalar word (R21). -/
abbrev f15_0 (w : BitVec 32) : BitVec 16 := w.extractLsb' 0 16

/-- Bits 19:0 of a scalar word (R21). -/
abbrev f19_0 (w : BitVec 32) : BitVec 20 := w.extractLsb' 0 20

/-- Bits 19:14 of a scalar word (R21). -/
abbrev f19_14 (w : BitVec 32) : BitVec 6 := w.extractLsb' 14 6

/-- Bits 21:16 of a scalar word (R21). -/
abbrev f21_16 (w : BitVec 32) : BitVec 6 := w.extractLsb' 16 6

/-- Bits 25:0 of a scalar word (R21). -/
abbrev f25_0 (w : BitVec 32) : BitVec 26 := w.extractLsb' 0 26

/-- Bits 25:20 of a scalar word (R21). -/
abbrev f25_20 (w : BitVec 32) : BitVec 6 := w.extractLsb' 20 6

/-- Bits 25:22 of a scalar word (R21). -/
abbrev f25_22 (w : BitVec 32) : BitVec 4 := w.extractLsb' 22 4

/-- Bits 31:26 of a scalar word (R21). -/
abbrev f31_26 (w : BitVec 32) : BitVec 6 := w.extractLsb' 26 6

/-- Major 0x00 (R37): the selecting field, then the fields that must be zero (R40). -/
def decInt (w : BitVec 32) : Option Instr :=
  match (f7_0 w) with
  | 0x0#8 => some (.intAdd (f25_20 w) (f19_14 w) (f13_8 w))
  | 0x1#8 => some (.intSub (f25_20 w) (f19_14 w) (f13_8 w))
  | 0x2#8 => some (.intMul (f25_20 w) (f19_14 w) (f13_8 w))
  | 0x3#8 => some (.intMulh (f25_20 w) (f19_14 w) (f13_8 w))
  | 0x4#8 => some (.intMulhn (f25_20 w) (f19_14 w) (f13_8 w))
  | 0x5#8 => some (.intDiv (f25_20 w) (f19_14 w) (f13_8 w))
  | 0x6#8 => some (.intDivn (f25_20 w) (f19_14 w) (f13_8 w))
  | 0x7#8 => some (.intRem (f25_20 w) (f19_14 w) (f13_8 w))
  | 0x8#8 => some (.intRemn (f25_20 w) (f19_14 w) (f13_8 w))
  | 0x9#8 => some (.intAnd (f25_20 w) (f19_14 w) (f13_8 w))
  | 0xA#8 => some (.intOr (f25_20 w) (f19_14 w) (f13_8 w))
  | 0xB#8 => some (.intXor (f25_20 w) (f19_14 w) (f13_8 w))
  | 0xC#8 => some (.intAndn (f25_20 w) (f19_14 w) (f13_8 w))
  | 0xD#8 => some (.intShl (f25_20 w) (f19_14 w) (f13_8 w))
  | 0xE#8 => some (.intShr (f25_20 w) (f19_14 w) (f13_8 w))
  | 0xF#8 => some (.intSar (f25_20 w) (f19_14 w) (f13_8 w))
  | 0x10#8 => some (.intMin (f25_20 w) (f19_14 w) (f13_8 w))
  | 0x11#8 => some (.intMax (f25_20 w) (f19_14 w) (f13_8 w))
  | 0x12#8 => some (.intMinn (f25_20 w) (f19_14 w) (f13_8 w))
  | 0x13#8 => some (.intMaxn (f25_20 w) (f19_14 w) (f13_8 w))
  | 0x14#8 => if (f13_8 w) = 0 then some (.intClz (f25_20 w) (f19_14 w)) else none
  | 0x15#8 => if (f13_8 w) = 0 then some (.intCtz (f25_20 w) (f19_14 w)) else none
  | 0x16#8 => if (f13_8 w) = 0 then some (.intPopc (f25_20 w) (f19_14 w)) else none
  | 0x17#8 => some (.intEq (f25_20 w) (f19_14 w) (f13_8 w))
  | 0x18#8 => some (.intNe (f25_20 w) (f19_14 w) (f13_8 w))
  | 0x19#8 => some (.intLt (f25_20 w) (f19_14 w) (f13_8 w))
  | 0x1A#8 => some (.intLtn (f25_20 w) (f19_14 w) (f13_8 w))
  | 0x1B#8 => some (.intLe (f25_20 w) (f19_14 w) (f13_8 w))
  | 0x1C#8 => some (.intLen (f25_20 w) (f19_14 w) (f13_8 w))
  | 0x1D#8 => some (.intSel (f25_20 w) (f19_14 w) (f13_8 w))
  | _ => none

/-- Major 0x01 (R37). -/
def decAddi (w : BitVec 32) : Option Instr := some (.addi (f25_20 w) (f19_14 w) (f13_0 w))

/-- Major 0x02 (R37). -/
def decAndi (w : BitVec 32) : Option Instr := some (.andi (f25_20 w) (f19_14 w) (f13_0 w))

/-- Major 0x03 (R37). -/
def decOri (w : BitVec 32) : Option Instr := some (.ori (f25_20 w) (f19_14 w) (f13_0 w))

/-- Major 0x04 (R37). -/
def decXori (w : BitVec 32) : Option Instr := some (.xori (f25_20 w) (f19_14 w) (f13_0 w))

/-- Major 0x05 (R37): the selecting field, then the fields that must be zero (R40). -/
def decShi (w : BitVec 32) : Option Instr :=
  match (f13_6 w) with
  | 0x0#8 => some (.shiShl (f25_20 w) (f19_14 w) (f5_0 w))
  | 0x40#8 => some (.shiShr (f25_20 w) (f19_14 w) (f5_0 w))
  | 0x80#8 => some (.shiSar (f25_20 w) (f19_14 w) (f5_0 w))
  | _ => none

/-- Major 0x06 (R37). -/
def decLi (w : BitVec 32) : Option Instr := some (.li (f25_20 w) (f19_0 w))

/-- Major 0x07 (R37). -/
def decLih (w : BitVec 32) : Option Instr := some (.lih (f25_20 w) (f19_0 w))

/-- Major 0x08 (R37): the selecting field, then the fields that must be zero (R40). -/
def decBc (w : BitVec 32) : Option Instr :=
  match (f25_22 w) with
  | 0x0#4 => some (.bcEq0 (f21_16 w) (f15_0 w))
  | 0x1#4 => some (.bcNe0 (f21_16 w) (f15_0 w))
  | 0x2#4 => some (.bcLt0 (f21_16 w) (f15_0 w))
  | 0x3#4 => some (.bcGe0 (f21_16 w) (f15_0 w))
  | 0x4#4 => some (.bcLe0 (f21_16 w) (f15_0 w))
  | 0x5#4 => some (.bcGt0 (f21_16 w) (f15_0 w))
  | _ => none

/-- Major 0x09 (R37). -/
def decJmp (w : BitVec 32) : Option Instr := some (.jmp (f25_0 w))

/-- Major 0x0A (R37). -/
def decCall (w : BitVec 32) : Option Instr := some (.call (f25_0 w))

/-- Major 0x0B (R37): the selecting field, then the fields that must be zero (R40). -/
def decJr (w : BitVec 32) : Option Instr :=
  match (f7_0 w) with
  | 0x0#8 => if (f13_8 w) = 0 ∧ (f25_20 w) = 0 then some (.jrJr (f19_14 w)) else none
  | 0x1#8 => if (f13_8 w) = 0 ∧ (f25_20 w) = 0 then some (.jrJrl (f19_14 w)) else none
  | _ => none

/-- Major 0x10 (R37): the selecting field, then the fields that must be zero (R40). -/
def decLd (w : BitVec 32) : Option Instr :=
  match (f13_11 w) with
  | 0x0#3 => some (.ldN8 (f25_20 w) (f19_14 w) (f10_0 w))
  | 0x1#3 => some (.ldI8 (f25_20 w) (f19_14 w) (f10_0 w))
  | 0x2#3 => some (.ldN16 (f25_20 w) (f19_14 w) (f10_0 w))
  | 0x3#3 => some (.ldI16 (f25_20 w) (f19_14 w) (f10_0 w))
  | 0x4#3 => some (.ldN32 (f25_20 w) (f19_14 w) (f10_0 w))
  | 0x5#3 => some (.ldI32 (f25_20 w) (f19_14 w) (f10_0 w))
  | 0x6#3 => some (.ldN64 (f25_20 w) (f19_14 w) (f10_0 w))
  | _ => none

/-- Major 0x11 (R37): the selecting field, then the fields that must be zero (R40). -/
def decSt (w : BitVec 32) : Option Instr :=
  match (f13_11 w) with
  | 0x0#3 => some (.stN8 (f25_20 w) (f19_14 w) (f10_0 w))
  | 0x2#3 => some (.stN16 (f25_20 w) (f19_14 w) (f10_0 w))
  | 0x4#3 => some (.stN32 (f25_20 w) (f19_14 w) (f10_0 w))
  | 0x6#3 => some (.stN64 (f25_20 w) (f19_14 w) (f10_0 w))
  | _ => none

/-- Major 0x12 (R37): the selecting field, then the fields that must be zero (R40). -/
def decAtom (w : BitVec 32) : Option Instr :=
  match (f7_0 w) with
  | 0x0#8 => some (.atomAdd (f25_20 w) (f19_14 w) (f13_8 w))
  | 0x1#8 => some (.atomAnd (f25_20 w) (f19_14 w) (f13_8 w))
  | 0x2#8 => some (.atomOr (f25_20 w) (f19_14 w) (f13_8 w))
  | 0x3#8 => some (.atomXor (f25_20 w) (f19_14 w) (f13_8 w))
  | 0x4#8 => some (.atomMin (f25_20 w) (f19_14 w) (f13_8 w))
  | 0x5#8 => some (.atomMax (f25_20 w) (f19_14 w) (f13_8 w))
  | 0x6#8 => some (.atomMinn (f25_20 w) (f19_14 w) (f13_8 w))
  | 0x7#8 => some (.atomMaxn (f25_20 w) (f19_14 w) (f13_8 w))
  | 0x8#8 => some (.atomSwap (f25_20 w) (f19_14 w) (f13_8 w))
  | 0x9#8 => some (.atomCas (f25_20 w) (f19_14 w) (f13_8 w))
  | 0xA#8 => some (.atomFadd32 (f25_20 w) (f19_14 w) (f13_8 w))
  | 0xB#8 => some (.atomFadd64 (f25_20 w) (f19_14 w) (f13_8 w))
  | 0xC#8 => some (.atomFxadd (f25_20 w) (f19_14 w) (f13_8 w))
  | 0xD#8 => some (.atomFxread (f25_20 w) (f19_14 w) (f13_8 w))
  | _ => none

/-- Major 0x13 (R37): the selecting field, then the fields that must be zero (R40). -/
def decRed (w : BitVec 32) : Option Instr :=
  match (f7_0 w) with
  | 0x0#8 => if (f25_20 w) = 0 then some (.redAdd (f19_14 w) (f13_8 w)) else none
  | 0x1#8 => if (f25_20 w) = 0 then some (.redAnd (f19_14 w) (f13_8 w)) else none
  | 0x2#8 => if (f25_20 w) = 0 then some (.redOr (f19_14 w) (f13_8 w)) else none
  | 0x3#8 => if (f25_20 w) = 0 then some (.redXor (f19_14 w) (f13_8 w)) else none
  | 0x4#8 => if (f25_20 w) = 0 then some (.redMin (f19_14 w) (f13_8 w)) else none
  | 0x5#8 => if (f25_20 w) = 0 then some (.redMax (f19_14 w) (f13_8 w)) else none
  | 0x6#8 => if (f25_20 w) = 0 then some (.redMinn (f19_14 w) (f13_8 w)) else none
  | 0x7#8 => if (f25_20 w) = 0 then some (.redMaxn (f19_14 w) (f13_8 w)) else none
  | 0x8#8 => if (f25_20 w) = 0 then some (.redFadd32 (f19_14 w) (f13_8 w)) else none
  | 0x9#8 => if (f25_20 w) = 0 then some (.redFadd64 (f19_14 w) (f13_8 w)) else none
  | 0xA#8 => if (f25_20 w) = 0 then some (.redFxadd (f19_14 w) (f13_8 w)) else none
  | _ => none

/-- Major 0x14 (R37): the selecting field, then the fields that must be zero (R40). -/
def decFence (w : BitVec 32) : Option Instr :=
  match (f7_0 w) with
  | 0x0#8 => if (f13_8 w) = 0 ∧ (f25_20 w) = 0 then some (.fenceFence (f19_14 w)) else none
  | _ => none

/-- Major 0x15 (R37): the selecting field, then the fields that must be zero (R40). -/
def decCache (w : BitVec 32) : Option Instr :=
  match (f7_0 w) with
  | 0x0#8 => if (f25_20 w) = 0 then some (.cachePref (f19_14 w) (f13_8 w)) else none
  | 0x1#8 => if (f13_8 w) = 0 ∧ (f25_20 w) = 0 then some (.cacheEvict (f19_14 w)) else none
  | 0x2#8 => if (f13_8 w) = 0 then some (.cacheEvstep (f25_20 w) (f19_14 w)) else none
  | _ => none

/-- Major 0x18 (R37): the selecting field, then the fields that must be zero (R40). -/
def decSr (w : BitVec 32) : Option Instr :=
  match (f7_0 w) with
  | 0x0#8 => some (.srGet (f25_20 w) (f19_14 w) (f13_8 w))
  | 0x1#8 => some (.srSet (f25_20 w) (f19_14 w) (f13_8 w))
  | _ => none

/-- Major 0x19 (R37): the selecting field, then the fields that must be zero (R40). -/
def decLane (w : BitVec 32) : Option Instr :=
  match (f7_0 w) with
  | 0x0#8 => if (f25_20 w) = 0 then some (.laneLrun (f19_14 w) (f13_8 w)) else none
  | 0x1#8 => if (f13_8 w) = 0 ∧ (f25_20 w) = 0 then some (.laneLwait (f19_14 w)) else none
  | 0x2#8 => if (f13_8 w) = 0 then some (.laneLres (f25_20 w) (f19_14 w)) else none
  | _ => none

/-- Major 0x1A (R37): the selecting field, then the fields that must be zero (R40). -/
def decPool (w : BitVec 32) : Option Instr :=
  match (f7_0 w) with
  | 0x0#8 => if (f13_8 w) = 0 then some (.poolGive (f25_20 w) (f19_14 w)) else none
  | 0x1#8 => if (f13_8 w) = 0 then some (.poolClaim (f25_20 w) (f19_14 w)) else none
  | 0x2#8 => if (f13_8 w) = 0 then some (.poolTgive (f25_20 w) (f19_14 w)) else none
  | 0x3#8 => if (f13_8 w) = 0 then some (.poolTclaim (f25_20 w) (f19_14 w)) else none
  | _ => none

/-- Major 0x20 (R37): the selecting field, then the fields that must be zero (R40). -/
def decQueue (w : BitVec 32) : Option Instr :=
  match (f7_0 w) with
  | 0x0#8 => if (f25_20 w) = 0 then some (.queueQinit (f19_14 w) (f13_8 w)) else none
  | 0x1#8 => some (.queueQpush (f25_20 w) (f19_14 w) (f13_8 w))
  | 0x2#8 => some (.queueQpop (f25_20 w) (f19_14 w) (f13_8 w))
  | 0x3#8 => some (.queueQtrypush (f25_20 w) (f19_14 w) (f13_8 w))
  | 0x4#8 => some (.queueQtrypop (f25_20 w) (f19_14 w) (f13_8 w))
  | 0x5#8 => if (f13_8 w) = 0 then some (.queueQres (f25_20 w) (f19_14 w)) else none
  | 0x6#8 => if (f25_20 w) = 0 then some (.queueQcom (f19_14 w) (f13_8 w)) else none
  | 0x7#8 => some (.queueQlen (f25_20 w) (f19_14 w) (f13_8 w))
  | 0x8#8 => some (.queueQpeek (f25_20 w) (f19_14 w) (f13_8 w))
  | 0x9#8 => if (f13_8 w) = 0 ∧ (f25_20 w) = 0 then some (.queueQclose (f19_14 w)) else none
  | 0xA#8 => if (f13_8 w) = 0 ∧ (f25_20 w) = 0 then some (.queueQdrain (f19_14 w)) else none
  | 0xB#8 => if (f13_8 w) = 0 then some (.queueQcheck (f25_20 w) (f19_14 w)) else none
  | _ => none

/-- Major 0x21 (R37): the selecting field, then the fields that must be zero (R40). -/
def decCopy (w : BitVec 32) : Option Instr :=
  match (f7_0 w) with
  | 0x0#8 => some (.copyCstart (f25_20 w) (f19_14 w) (f13_8 w))
  | 0x1#8 => if (f13_8 w) = 0 then some (.copyCstat (f25_20 w) (f19_14 w)) else none
  | 0x2#8 => if (f25_20 w) = 0 then some (.copyCabort (f19_14 w) (f13_8 w)) else none
  | _ => none

/-- Major 0x22 (R37): the selecting field, then the fields that must be zero (R40). -/
def decTask (w : BitVec 32) : Option Instr :=
  match (f7_0 w) with
  | 0x0#8 => if (f13_8 w) = 0 then some (.taskSpawn (f25_20 w) (f19_14 w)) else none
  | 0x1#8 => if (f25_20 w) = 0 ∧ (f19_14 w) = 0 ∧ (f13_8 w) = 0 then some .taskDone else none
  | 0x2#8 => if (f13_8 w) = 0 ∧ (f25_20 w) = 0 then some (.taskNote (f19_14 w)) else none
  | 0x3#8 => if (f19_14 w) = 0 ∧ (f13_8 w) = 0 then some (.taskRnext (f25_20 w)) else none
  | 0x4#8 => if (f13_8 w) = 0 then some (.taskTquery (f25_20 w) (f19_14 w)) else none
  | _ => none

/-- Major 0x23 (R37): the selecting field, then the fields that must be zero (R40). -/
def decWin (w : BitVec 32) : Option Instr :=
  match (f7_0 w) with
  | 0x0#8 => if (f25_20 w) = 0 ∧ (f19_14 w) = 0 ∧ (f13_8 w) = 0 then some .winPark else none
  | 0x1#8 => some (.winWmark (f25_20 w) (f19_14 w) (f13_8 w))
  | 0x2#8 => some (.winWclose (f25_20 w) (f19_14 w) (f13_8 w))
  | 0x3#8 => some (.winWemit (f25_20 w) (f19_14 w) (f13_8 w))
  | 0x4#8 => some (.winWstate (f25_20 w) (f19_14 w) (f13_8 w))
  | 0x5#8 => some (.winWbind (f25_20 w) (f19_14 w) (f13_8 w))
  | _ => none

/-- Major 0x24 (R37): the selecting field, then the fields that must be zero (R40). -/
def decSync (w : BitVec 32) : Option Instr :=
  match (f7_0 w) with
  | 0x0#8 => some (.syncWait (f25_20 w) (f19_14 w) (f13_8 w))
  | 0x1#8 => some (.syncArrive (f25_20 w) (f19_14 w) (f13_8 w))
  | 0x2#8 => if (f25_20 w) = 0 then some (.syncBinit (f19_14 w) (f13_8 w)) else none
  | 0x3#8 => if (f13_8 w) = 0 then some (.syncBphase (f25_20 w) (f19_14 w)) else none
  | _ => none

/-- Major 0x25 (R37): the selecting field, then the fields that must be zero (R40). -/
def decConf (w : BitVec 32) : Option Instr :=
  match (f7_0 w) with
  | 0x0#8 => if (f25_20 w) = 0 then some (.confScset (f19_14 w) (f13_8 w)) else none
  | 0x1#8 => if (f13_8 w) = 0 ∧ (f25_20 w) = 0 then some (.confOpset (f19_14 w)) else none
  | 0x2#8 => if (f25_20 w) = 0 then some (.confEvset (f19_14 w) (f13_8 w)) else none
  | _ => none

/-- Major 0x28 (R37): the selecting field, then the fields that must be zero (R40). -/
def decSys (w : BitVec 32) : Option Instr :=
  match (f7_0 w) with
  | 0x0#8 => some (.sysSys (f25_20 w) (f19_14 w) (f13_8 w))
  | 0x1#8 => if (f13_8 w) = 0 ∧ (f25_20 w) = 0 then some (.sysTrap (f19_14 w)) else none
  | 0x2#8 => if (f25_20 w) = 0 then some (.sysUint (f19_14 w) (f13_8 w)) else none
  | 0x3#8 => if (f25_20 w) = 0 ∧ (f19_14 w) = 0 ∧ (f13_8 w) = 0 then some .sysEnd else none
  | 0x4#8 => if (f25_20 w) = 0 ∧ (f19_14 w) = 0 ∧ (f13_8 w) = 0 then some .sysHalt else none
  | _ => none

/-- Major 0x29 (R37): the selecting field, then the fields that must be zero (R40). -/
def decTime (w : BitVec 32) : Option Instr :=
  match (f7_0 w) with
  | 0x0#8 => if (f19_14 w) = 0 ∧ (f13_8 w) = 0 then some (.timeRdtime (f25_20 w)) else none
  | 0x1#8 => if (f19_14 w) = 0 ∧ (f13_8 w) = 0 then some (.timeRdtick (f25_20 w)) else none
  | 0x2#8 => if (f19_14 w) = 0 ∧ (f13_8 w) = 0 then some (.timeRdpts (f25_20 w)) else none
  | _ => none

/-- The instruction a scalar word encodes (R21, R37), or none where the word is not an instruction (R40). -/
def decodeScalar (w : BitVec 32) : Option Instr :=
  match f31_26 w with
  | 0x00#6 => decInt w
  | 0x01#6 => decAddi w
  | 0x02#6 => decAndi w
  | 0x03#6 => decOri w
  | 0x04#6 => decXori w
  | 0x05#6 => decShi w
  | 0x06#6 => decLi w
  | 0x07#6 => decLih w
  | 0x08#6 => decBc w
  | 0x09#6 => decJmp w
  | 0x0A#6 => decCall w
  | 0x0B#6 => decJr w
  | 0x10#6 => decLd w
  | 0x11#6 => decSt w
  | 0x12#6 => decAtom w
  | 0x13#6 => decRed w
  | 0x14#6 => decFence w
  | 0x15#6 => decCache w
  | 0x18#6 => decSr w
  | 0x19#6 => decLane w
  | 0x1A#6 => decPool w
  | 0x20#6 => decQueue w
  | 0x21#6 => decCopy w
  | 0x22#6 => decTask w
  | 0x23#6 => decWin w
  | 0x24#6 => decSync w
  | 0x25#6 => decConf w
  | 0x28#6 => decSys w
  | 0x29#6 => decTime w
  | _ => none

/-- The word of a scalar instruction (R21, R22, R37); none for what has no scalar word. -/
def encodeScalar : Instr → Option (BitVec 32)
  | .intAdd d a b => some (0x0#6 ++ d ++ a ++ b ++ 0x0#8)
  | .intSub d a b => some (0x0#6 ++ d ++ a ++ b ++ 0x1#8)
  | .intMul d a b => some (0x0#6 ++ d ++ a ++ b ++ 0x2#8)
  | .intMulh d a b => some (0x0#6 ++ d ++ a ++ b ++ 0x3#8)
  | .intMulhn d a b => some (0x0#6 ++ d ++ a ++ b ++ 0x4#8)
  | .intDiv d a b => some (0x0#6 ++ d ++ a ++ b ++ 0x5#8)
  | .intDivn d a b => some (0x0#6 ++ d ++ a ++ b ++ 0x6#8)
  | .intRem d a b => some (0x0#6 ++ d ++ a ++ b ++ 0x7#8)
  | .intRemn d a b => some (0x0#6 ++ d ++ a ++ b ++ 0x8#8)
  | .intAnd d a b => some (0x0#6 ++ d ++ a ++ b ++ 0x9#8)
  | .intOr d a b => some (0x0#6 ++ d ++ a ++ b ++ 0xA#8)
  | .intXor d a b => some (0x0#6 ++ d ++ a ++ b ++ 0xB#8)
  | .intAndn d a b => some (0x0#6 ++ d ++ a ++ b ++ 0xC#8)
  | .intShl d a b => some (0x0#6 ++ d ++ a ++ b ++ 0xD#8)
  | .intShr d a b => some (0x0#6 ++ d ++ a ++ b ++ 0xE#8)
  | .intSar d a b => some (0x0#6 ++ d ++ a ++ b ++ 0xF#8)
  | .intMin d a b => some (0x0#6 ++ d ++ a ++ b ++ 0x10#8)
  | .intMax d a b => some (0x0#6 ++ d ++ a ++ b ++ 0x11#8)
  | .intMinn d a b => some (0x0#6 ++ d ++ a ++ b ++ 0x12#8)
  | .intMaxn d a b => some (0x0#6 ++ d ++ a ++ b ++ 0x13#8)
  | .intClz d a => some (0x0#6 ++ d ++ a ++ 0x14#14)
  | .intCtz d a => some (0x0#6 ++ d ++ a ++ 0x15#14)
  | .intPopc d a => some (0x0#6 ++ d ++ a ++ 0x16#14)
  | .intEq d a b => some (0x0#6 ++ d ++ a ++ b ++ 0x17#8)
  | .intNe d a b => some (0x0#6 ++ d ++ a ++ b ++ 0x18#8)
  | .intLt d a b => some (0x0#6 ++ d ++ a ++ b ++ 0x19#8)
  | .intLtn d a b => some (0x0#6 ++ d ++ a ++ b ++ 0x1A#8)
  | .intLe d a b => some (0x0#6 ++ d ++ a ++ b ++ 0x1B#8)
  | .intLen d a b => some (0x0#6 ++ d ++ a ++ b ++ 0x1C#8)
  | .intSel d a b => some (0x0#6 ++ d ++ a ++ b ++ 0x1D#8)
  | .addi d a i => some (0x1#6 ++ d ++ a ++ i)
  | .andi d a i => some (0x2#6 ++ d ++ a ++ i)
  | .ori d a i => some (0x3#6 ++ d ++ a ++ i)
  | .xori d a i => some (0x4#6 ++ d ++ a ++ i)
  | .shiShl d a n => some (0x5#6 ++ d ++ a ++ 0x0#8 ++ n)
  | .shiShr d a n => some (0x5#6 ++ d ++ a ++ 0x40#8 ++ n)
  | .shiSar d a n => some (0x5#6 ++ d ++ a ++ 0x80#8 ++ n)
  | .li d i => some (0x6#6 ++ d ++ i)
  | .lih d i => some (0x7#6 ++ d ++ i)
  | .bcEq0 a o => some (0x80#10 ++ a ++ o)
  | .bcNe0 a o => some (0x81#10 ++ a ++ o)
  | .bcLt0 a o => some (0x82#10 ++ a ++ o)
  | .bcGe0 a o => some (0x83#10 ++ a ++ o)
  | .bcLe0 a o => some (0x84#10 ++ a ++ o)
  | .bcGt0 a o => some (0x85#10 ++ a ++ o)
  | .jmp o => some (0x9#6 ++ o)
  | .call o => some (0xA#6 ++ o)
  | .jrJr a => some (0x2C0#12 ++ a ++ 0x0#14)
  | .jrJrl a => some (0x2C0#12 ++ a ++ 0x1#14)
  | .ldN8 d a o => some (0x10#6 ++ d ++ a ++ 0x0#3 ++ o)
  | .ldI8 d a o => some (0x10#6 ++ d ++ a ++ 0x1#3 ++ o)
  | .ldN16 d a o => some (0x10#6 ++ d ++ a ++ 0x2#3 ++ o)
  | .ldI16 d a o => some (0x10#6 ++ d ++ a ++ 0x3#3 ++ o)
  | .ldN32 d a o => some (0x10#6 ++ d ++ a ++ 0x4#3 ++ o)
  | .ldI32 d a o => some (0x10#6 ++ d ++ a ++ 0x5#3 ++ o)
  | .ldN64 d a o => some (0x10#6 ++ d ++ a ++ 0x6#3 ++ o)
  | .stN8 d a o => some (0x11#6 ++ d ++ a ++ 0x0#3 ++ o)
  | .stN16 d a o => some (0x11#6 ++ d ++ a ++ 0x2#3 ++ o)
  | .stN32 d a o => some (0x11#6 ++ d ++ a ++ 0x4#3 ++ o)
  | .stN64 d a o => some (0x11#6 ++ d ++ a ++ 0x6#3 ++ o)
  | .atomAdd d a b => some (0x12#6 ++ d ++ a ++ b ++ 0x0#8)
  | .atomAnd d a b => some (0x12#6 ++ d ++ a ++ b ++ 0x1#8)
  | .atomOr d a b => some (0x12#6 ++ d ++ a ++ b ++ 0x2#8)
  | .atomXor d a b => some (0x12#6 ++ d ++ a ++ b ++ 0x3#8)
  | .atomMin d a b => some (0x12#6 ++ d ++ a ++ b ++ 0x4#8)
  | .atomMax d a b => some (0x12#6 ++ d ++ a ++ b ++ 0x5#8)
  | .atomMinn d a b => some (0x12#6 ++ d ++ a ++ b ++ 0x6#8)
  | .atomMaxn d a b => some (0x12#6 ++ d ++ a ++ b ++ 0x7#8)
  | .atomSwap d a b => some (0x12#6 ++ d ++ a ++ b ++ 0x8#8)
  | .atomCas d a b => some (0x12#6 ++ d ++ a ++ b ++ 0x9#8)
  | .atomFadd32 d a b => some (0x12#6 ++ d ++ a ++ b ++ 0xA#8)
  | .atomFadd64 d a b => some (0x12#6 ++ d ++ a ++ b ++ 0xB#8)
  | .atomFxadd d a b => some (0x12#6 ++ d ++ a ++ b ++ 0xC#8)
  | .atomFxread d a i => some (0x12#6 ++ d ++ a ++ i ++ 0xD#8)
  | .redAdd a b => some (0x4C0#12 ++ a ++ b ++ 0x0#8)
  | .redAnd a b => some (0x4C0#12 ++ a ++ b ++ 0x1#8)
  | .redOr a b => some (0x4C0#12 ++ a ++ b ++ 0x2#8)
  | .redXor a b => some (0x4C0#12 ++ a ++ b ++ 0x3#8)
  | .redMin a b => some (0x4C0#12 ++ a ++ b ++ 0x4#8)
  | .redMax a b => some (0x4C0#12 ++ a ++ b ++ 0x5#8)
  | .redMinn a b => some (0x4C0#12 ++ a ++ b ++ 0x6#8)
  | .redMaxn a b => some (0x4C0#12 ++ a ++ b ++ 0x7#8)
  | .redFadd32 a b => some (0x4C0#12 ++ a ++ b ++ 0x8#8)
  | .redFadd64 a b => some (0x4C0#12 ++ a ++ b ++ 0x9#8)
  | .redFxadd a b => some (0x4C0#12 ++ a ++ b ++ 0xA#8)
  | .fenceFence s => some (0x500#12 ++ s ++ 0x0#14)
  | .cachePref a l => some (0x540#12 ++ a ++ l ++ 0x0#8)
  | .cacheEvict a => some (0x540#12 ++ a ++ 0x1#14)
  | .cacheEvstep d a => some (0x15#6 ++ d ++ a ++ 0x2#14)
  | .srGet d h l => some (0x18#6 ++ d ++ h ++ l ++ 0x0#8)
  | .srSet d h l => some (0x18#6 ++ d ++ h ++ l ++ 0x1#8)
  | .laneLrun a b => some (0x640#12 ++ a ++ b ++ 0x0#8)
  | .laneLwait n => some (0x640#12 ++ n ++ 0x1#14)
  | .laneLres d k => some (0x19#6 ++ d ++ k ++ 0x2#14)
  | .poolGive d k => some (0x1A#6 ++ d ++ k ++ 0x0#14)
  | .poolClaim d k => some (0x1A#6 ++ d ++ k ++ 0x1#14)
  | .poolTgive d k => some (0x1A#6 ++ d ++ k ++ 0x2#14)
  | .poolTclaim d k => some (0x1A#6 ++ d ++ k ++ 0x3#14)
  | .queueQinit a k => some (0x800#12 ++ a ++ k ++ 0x0#8)
  | .queueQpush d a b => some (0x20#6 ++ d ++ a ++ b ++ 0x1#8)
  | .queueQpop d a b => some (0x20#6 ++ d ++ a ++ b ++ 0x2#8)
  | .queueQtrypush d a b => some (0x20#6 ++ d ++ a ++ b ++ 0x3#8)
  | .queueQtrypop d a b => some (0x20#6 ++ d ++ a ++ b ++ 0x4#8)
  | .queueQres d a => some (0x20#6 ++ d ++ a ++ 0x5#14)
  | .queueQcom a b => some (0x800#12 ++ a ++ b ++ 0x6#8)
  | .queueQlen d a s => some (0x20#6 ++ d ++ a ++ s ++ 0x7#8)
  | .queueQpeek d a b => some (0x20#6 ++ d ++ a ++ b ++ 0x8#8)
  | .queueQclose a => some (0x800#12 ++ a ++ 0x9#14)
  | .queueQdrain a => some (0x800#12 ++ a ++ 0xA#14)
  | .queueQcheck d a => some (0x20#6 ++ d ++ a ++ 0xB#14)
  | .copyCstart d a b => some (0x21#6 ++ d ++ a ++ b ++ 0x0#8)
  | .copyCstat d a => some (0x21#6 ++ d ++ a ++ 0x1#14)
  | .copyCabort a b => some (0x840#12 ++ a ++ b ++ 0x2#8)
  | .taskSpawn d a => some (0x22#6 ++ d ++ a ++ 0x0#14)
  | .taskDone => some (0x88000001#32)
  | .taskNote a => some (0x880#12 ++ a ++ 0x2#14)
  | .taskRnext d => some (0x22#6 ++ d ++ 0x3#20)
  | .taskTquery d a => some (0x22#6 ++ d ++ a ++ 0x4#14)
  | .winPark => some (0x8C000000#32)
  | .winWmark d a b => some (0x23#6 ++ d ++ a ++ b ++ 0x1#8)
  | .winWclose d a b => some (0x23#6 ++ d ++ a ++ b ++ 0x2#8)
  | .winWemit d a b => some (0x23#6 ++ d ++ a ++ b ++ 0x3#8)
  | .winWstate d a b => some (0x23#6 ++ d ++ a ++ b ++ 0x4#8)
  | .winWbind d a b => some (0x23#6 ++ d ++ a ++ b ++ 0x5#8)
  | .syncWait d a b => some (0x24#6 ++ d ++ a ++ b ++ 0x0#8)
  | .syncArrive d a b => some (0x24#6 ++ d ++ a ++ b ++ 0x1#8)
  | .syncBinit a b => some (0x900#12 ++ a ++ b ++ 0x2#8)
  | .syncBphase d a => some (0x24#6 ++ d ++ a ++ 0x3#14)
  | .confScset a b => some (0x940#12 ++ a ++ b ++ 0x0#8)
  | .confOpset a => some (0x940#12 ++ a ++ 0x1#14)
  | .confEvset a b => some (0x940#12 ++ a ++ b ++ 0x2#8)
  | .sysSys d a b => some (0x28#6 ++ d ++ a ++ b ++ 0x0#8)
  | .sysTrap a => some (0xA00#12 ++ a ++ 0x1#14)
  | .sysUint a b => some (0xA00#12 ++ a ++ b ++ 0x2#8)
  | .sysEnd => some (0xA0000003#32)
  | .sysHalt => some (0xA0000004#32)
  | .timeRdtime d => some (0x29#6 ++ d ++ 0x0#20)
  | .timeRdtick d => some (0x29#6 ++ d ++ 0x1#20)
  | .timeRdpts d => some (0x29#6 ++ d ++ 0x2#20)
  | _ => none

/-- The instruction of function FN in group VI (R38). -/
def laneVi (fn : BitVec 8) (o : LaneOps) : Option Instr :=
  match fn with
  | 0x00#8 => some (.viAdd o)
  | 0x01#8 => some (.viSub o)
  | 0x02#8 => some (.viMul o)
  | 0x03#8 => some (.viMulh o)
  | 0x04#8 => some (.viMulhn o)
  | 0x05#8 => some (.viMad o)
  | 0x06#8 => some (.viAnd o)
  | 0x07#8 => some (.viOr o)
  | 0x08#8 => some (.viXor o)
  | 0x09#8 => some (.viAndn o)
  | 0x0A#8 => some (.viShl o)
  | 0x0B#8 => some (.viShr o)
  | 0x0C#8 => some (.viSar o)
  | 0x0D#8 => some (.viMin o)
  | 0x0E#8 => some (.viMax o)
  | 0x0F#8 => some (.viMinn o)
  | 0x10#8 => some (.viMaxn o)
  | 0x11#8 => some (.viAbs o)
  | 0x12#8 => some (.viClz o)
  | 0x13#8 => some (.viPopc o)
  | 0x14#8 => some (.viAddsat o)
  | 0x15#8 => some (.viSubsat o)
  | 0x16#8 => some (.viCmpeq o)
  | 0x17#8 => some (.viCmpne o)
  | 0x18#8 => some (.viCmplt o)
  | 0x19#8 => some (.viCmpltn o)
  | 0x1A#8 => some (.viCmple o)
  | 0x1B#8 => some (.viCmplen o)
  | 0x1C#8 => some (.viSel o)
  | 0x1D#8 => some (.viMov o)
  | 0x1E#8 => some (.viLi o)
  | 0x1F#8 => some (.viIota o)
  | _ => none

/-- The instruction of function FN in group VF (R38). -/
def laneVf (fn : BitVec 8) (o : LaneOps) : Option Instr :=
  match fn with
  | 0x00#8 => some (.vfAdd o)
  | 0x01#8 => some (.vfSub o)
  | 0x02#8 => some (.vfMul o)
  | 0x03#8 => some (.vfFma o)
  | 0x04#8 => some (.vfFms o)
  | 0x05#8 => some (.vfMin o)
  | 0x06#8 => some (.vfMax o)
  | 0x07#8 => some (.vfDiv o)
  | 0x08#8 => some (.vfSqrt o)
  | 0x09#8 => some (.vfRcp o)
  | 0x0A#8 => some (.vfRsq o)
  | 0x0B#8 => some (.vfExp2 o)
  | 0x0C#8 => some (.vfLog2 o)
  | 0x0D#8 => some (.vfAbs o)
  | 0x0E#8 => some (.vfNeg o)
  | 0x0F#8 => some (.vfCopysign o)
  | 0x10#8 => some (.vfCmpeq o)
  | 0x11#8 => some (.vfCmplt o)
  | 0x12#8 => some (.vfCmple o)
  | 0x13#8 => some (.vfCmpun o)
  | 0x14#8 => some (.vfClass o)
  | 0x15#8 => some (.vfMov o)
  | 0x16#8 => some (.vfLi o)
  | _ => none

/-- The instruction of function FN in group VC (R38). -/
def laneVc (fn : BitVec 8) (o : LaneOps) : Option Instr :=
  match fn with
  | 0x00#8 => some (.vcCvt o)
  | 0x01#8 => some (.vcCvts o)
  | 0x02#8 => some (.vcQnpack o)
  | 0x03#8 => some (.vcQnunpack o)
  | 0x04#8 => some (.vcPack o)
  | 0x05#8 => some (.vcUnpack o)
  | _ => none

/-- The instruction of function FN in group VX (R38). -/
def laneVx (fn : BitVec 8) (o : LaneOps) : Option Instr :=
  match fn with
  | 0x00#8 => some (.vxShfl o)
  | 0x01#8 => some (.vxShup o)
  | 0x02#8 => some (.vxShdn o)
  | 0x03#8 => some (.vxShxor o)
  | 0x04#8 => some (.vxBcast o)
  | 0x05#8 => some (.vxScan o)
  | 0x06#8 => some (.vxRed o)
  | 0x07#8 => some (.vxVote o)
  | 0x08#8 => some (.vxBallot o)
  | _ => none

/-- The instruction of function FN in group VP (R38). -/
def laneVp (fn : BitVec 8) (o : LaneOps) : Option Instr :=
  match fn with
  | 0x00#8 => some (.vpPand o)
  | 0x01#8 => some (.vpPor o)
  | 0x02#8 => some (.vpPxor o)
  | 0x03#8 => some (.vpPnot o)
  | 0x04#8 => some (.vpPmov o)
  | 0x05#8 => some (.vpPset o)
  | _ => none

/-- The instruction of function FN in group LB (R38). -/
def laneLb (fn : BitVec 8) (o : LaneOps) : Option Instr :=
  match fn with
  | 0x00#8 => some (.lbBrc o)
  | 0x01#8 => some (.lbBrk o)
  | 0x02#8 => some (.lbCont o)
  | 0x03#8 => some .lbJoin
  | 0x04#8 => some (.lbJmp o)
  | 0x05#8 => some .lbRegang
  | 0x06#8 => some .lbLend
  | 0x07#8 => some .lbNop
  | _ => none

/-- The instruction of function FN in group VM (R38). -/
def laneVm (fn : BitVec 8) (o : LaneOps) : Option Instr :=
  match fn with
  | 0x00#8 => some (.vmLd o)
  | 0x01#8 => some (.vmSt o)
  | 0x02#8 => some (.vmLdx o)
  | 0x03#8 => some (.vmStx o)
  | 0x04#8 => some (.vmSld o)
  | 0x05#8 => some (.vmSst o)
  | 0x06#8 => some (.vmAtom o)
  | 0x07#8 => some (.vmRed o)
  | 0x08#8 => some (.vmPref o)
  | _ => none

/-- The instruction of function FN in group MX (R38). -/
def laneMx (fn : BitVec 8) (o : LaneOps) : Option Instr :=
  match fn with
  | 0x00#8 => some (.mxMres o)
  | 0x01#8 => some (.mxMfree o)
  | 0x02#8 => some (.mxMfill o)
  | 0x03#8 => some (.mxMma o)
  | 0x04#8 => some (.mxMmag o)
  | 0x05#8 => some (.mxMzero o)
  | 0x06#8 => some (.mxMrd o)
  | 0x07#8 => some (.mxMwr o)
  | 0x08#8 => some (.mxMst o)
  | 0x09#8 => some (.mxMstx o)
  | 0x0A#8 => some (.mxMrow o)
  | 0x0B#8 => some (.mxMnote o)
  | _ => none

/-- The instruction of function FN in group SL (R38). -/
def laneSl (fn : BitVec 8) (o : LaneOps) : Option Instr :=
  match fn with
  | 0x00#8 => some (.slTopk o)
  | 0x01#8 => some (.slSmax o)
  | 0x02#8 => some (.slSamp o)
  | 0x03#8 => some (.slRng o)
  | _ => none

/-- The instruction of function FN in group LQ (R38). -/
def laneLq (fn : BitVec 8) (o : LaneOps) : Option Instr :=
  match fn with
  | 0x00#8 => some (.lqQpushv o)
  | 0x01#8 => some (.lqQpopv o)
  | _ => none

/-- The lane instruction of an opcode and a function (R38); none where they are not assigned (R41). -/
def laneInstr (op fn : BitVec 8) (o : LaneOps) : Option Instr :=
  match op with
  | 0x10#8 => laneVi fn o
  | 0x20#8 => laneVf fn o
  | 0x30#8 => laneVc fn o
  | 0x40#8 => laneVx fn o
  | 0x50#8 => laneVp fn o
  | 0x60#8 => laneLb fn o
  | 0x70#8 => laneVm fn o
  | 0x80#8 => laneMx fn o
  | 0x90#8 => laneSl fn o
  | 0xA0#8 => laneLq fn o
  | _ => none

/-- The opcode, function and fields of a lane instruction (R38); none for what is not one. -/
def laneCode : Instr → Option (BitVec 8 × BitVec 8 × LaneOps)
  | .viAdd o => some (0x10#8, 0x00#8, o)
  | .viSub o => some (0x10#8, 0x01#8, o)
  | .viMul o => some (0x10#8, 0x02#8, o)
  | .viMulh o => some (0x10#8, 0x03#8, o)
  | .viMulhn o => some (0x10#8, 0x04#8, o)
  | .viMad o => some (0x10#8, 0x05#8, o)
  | .viAnd o => some (0x10#8, 0x06#8, o)
  | .viOr o => some (0x10#8, 0x07#8, o)
  | .viXor o => some (0x10#8, 0x08#8, o)
  | .viAndn o => some (0x10#8, 0x09#8, o)
  | .viShl o => some (0x10#8, 0x0A#8, o)
  | .viShr o => some (0x10#8, 0x0B#8, o)
  | .viSar o => some (0x10#8, 0x0C#8, o)
  | .viMin o => some (0x10#8, 0x0D#8, o)
  | .viMax o => some (0x10#8, 0x0E#8, o)
  | .viMinn o => some (0x10#8, 0x0F#8, o)
  | .viMaxn o => some (0x10#8, 0x10#8, o)
  | .viAbs o => some (0x10#8, 0x11#8, o)
  | .viClz o => some (0x10#8, 0x12#8, o)
  | .viPopc o => some (0x10#8, 0x13#8, o)
  | .viAddsat o => some (0x10#8, 0x14#8, o)
  | .viSubsat o => some (0x10#8, 0x15#8, o)
  | .viCmpeq o => some (0x10#8, 0x16#8, o)
  | .viCmpne o => some (0x10#8, 0x17#8, o)
  | .viCmplt o => some (0x10#8, 0x18#8, o)
  | .viCmpltn o => some (0x10#8, 0x19#8, o)
  | .viCmple o => some (0x10#8, 0x1A#8, o)
  | .viCmplen o => some (0x10#8, 0x1B#8, o)
  | .viSel o => some (0x10#8, 0x1C#8, o)
  | .viMov o => some (0x10#8, 0x1D#8, o)
  | .viLi o => some (0x10#8, 0x1E#8, o)
  | .viIota o => some (0x10#8, 0x1F#8, o)
  | .vfAdd o => some (0x20#8, 0x00#8, o)
  | .vfSub o => some (0x20#8, 0x01#8, o)
  | .vfMul o => some (0x20#8, 0x02#8, o)
  | .vfFma o => some (0x20#8, 0x03#8, o)
  | .vfFms o => some (0x20#8, 0x04#8, o)
  | .vfMin o => some (0x20#8, 0x05#8, o)
  | .vfMax o => some (0x20#8, 0x06#8, o)
  | .vfDiv o => some (0x20#8, 0x07#8, o)
  | .vfSqrt o => some (0x20#8, 0x08#8, o)
  | .vfRcp o => some (0x20#8, 0x09#8, o)
  | .vfRsq o => some (0x20#8, 0x0A#8, o)
  | .vfExp2 o => some (0x20#8, 0x0B#8, o)
  | .vfLog2 o => some (0x20#8, 0x0C#8, o)
  | .vfAbs o => some (0x20#8, 0x0D#8, o)
  | .vfNeg o => some (0x20#8, 0x0E#8, o)
  | .vfCopysign o => some (0x20#8, 0x0F#8, o)
  | .vfCmpeq o => some (0x20#8, 0x10#8, o)
  | .vfCmplt o => some (0x20#8, 0x11#8, o)
  | .vfCmple o => some (0x20#8, 0x12#8, o)
  | .vfCmpun o => some (0x20#8, 0x13#8, o)
  | .vfClass o => some (0x20#8, 0x14#8, o)
  | .vfMov o => some (0x20#8, 0x15#8, o)
  | .vfLi o => some (0x20#8, 0x16#8, o)
  | .vcCvt o => some (0x30#8, 0x00#8, o)
  | .vcCvts o => some (0x30#8, 0x01#8, o)
  | .vcQnpack o => some (0x30#8, 0x02#8, o)
  | .vcQnunpack o => some (0x30#8, 0x03#8, o)
  | .vcPack o => some (0x30#8, 0x04#8, o)
  | .vcUnpack o => some (0x30#8, 0x05#8, o)
  | .vxShfl o => some (0x40#8, 0x00#8, o)
  | .vxShup o => some (0x40#8, 0x01#8, o)
  | .vxShdn o => some (0x40#8, 0x02#8, o)
  | .vxShxor o => some (0x40#8, 0x03#8, o)
  | .vxBcast o => some (0x40#8, 0x04#8, o)
  | .vxScan o => some (0x40#8, 0x05#8, o)
  | .vxRed o => some (0x40#8, 0x06#8, o)
  | .vxVote o => some (0x40#8, 0x07#8, o)
  | .vxBallot o => some (0x40#8, 0x08#8, o)
  | .vpPand o => some (0x50#8, 0x00#8, o)
  | .vpPor o => some (0x50#8, 0x01#8, o)
  | .vpPxor o => some (0x50#8, 0x02#8, o)
  | .vpPnot o => some (0x50#8, 0x03#8, o)
  | .vpPmov o => some (0x50#8, 0x04#8, o)
  | .vpPset o => some (0x50#8, 0x05#8, o)
  | .lbBrc o => some (0x60#8, 0x00#8, o)
  | .lbBrk o => some (0x60#8, 0x01#8, o)
  | .lbCont o => some (0x60#8, 0x02#8, o)
  | .lbJoin => some (0x60#8, 0x03#8, LaneOps.zero)
  | .lbJmp o => some (0x60#8, 0x04#8, o)
  | .lbRegang => some (0x60#8, 0x05#8, LaneOps.zero)
  | .lbLend => some (0x60#8, 0x06#8, LaneOps.zero)
  | .lbNop => some (0x60#8, 0x07#8, LaneOps.zero)
  | .vmLd o => some (0x70#8, 0x00#8, o)
  | .vmSt o => some (0x70#8, 0x01#8, o)
  | .vmLdx o => some (0x70#8, 0x02#8, o)
  | .vmStx o => some (0x70#8, 0x03#8, o)
  | .vmSld o => some (0x70#8, 0x04#8, o)
  | .vmSst o => some (0x70#8, 0x05#8, o)
  | .vmAtom o => some (0x70#8, 0x06#8, o)
  | .vmRed o => some (0x70#8, 0x07#8, o)
  | .vmPref o => some (0x70#8, 0x08#8, o)
  | .mxMres o => some (0x80#8, 0x00#8, o)
  | .mxMfree o => some (0x80#8, 0x01#8, o)
  | .mxMfill o => some (0x80#8, 0x02#8, o)
  | .mxMma o => some (0x80#8, 0x03#8, o)
  | .mxMmag o => some (0x80#8, 0x04#8, o)
  | .mxMzero o => some (0x80#8, 0x05#8, o)
  | .mxMrd o => some (0x80#8, 0x06#8, o)
  | .mxMwr o => some (0x80#8, 0x07#8, o)
  | .mxMst o => some (0x80#8, 0x08#8, o)
  | .mxMstx o => some (0x80#8, 0x09#8, o)
  | .mxMrow o => some (0x80#8, 0x0A#8, o)
  | .mxMnote o => some (0x80#8, 0x0B#8, o)
  | .slTopk o => some (0x90#8, 0x00#8, o)
  | .slSmax o => some (0x90#8, 0x01#8, o)
  | .slSamp o => some (0x90#8, 0x02#8, o)
  | .slRng o => some (0x90#8, 0x03#8, o)
  | .lqQpushv o => some (0xA0#8, 0x00#8, o)
  | .lqQpopv o => some (0xA0#8, 0x01#8, o)
  | _ => none

/-- Bits of an element of type TY (R36). -/
def tyWidth (ty : BitVec 4) : Nat :=
  match ty with
  | 0x0#4 | 0x4#4 | 0x8#4 => 32
  | 0x1#4 | 0x5#4 | 0x9#4 | 0xA#4 => 16
  | 0x2#4 | 0x6#4 | 0xC#4 | 0xD#4 => 8
  | 0xE#4 | 0xF#4 => 4
  | _ => 64

/-- The kinds of operand a field may hold (R31, R121, R125). -/
inductive FieldKind where
  /-- Not read or written: any code (R28). -/
  | ignored
  /-- A vector register, block argument or block result of the given width. -/
  | vector (width : Nat)
  /-- A run of that many vector registers, none above v247. -/
  | run (n : Nat) (pairs : Bool)
  /-- A predicate. -/
  | pred
  /-- An accumulator tile. -/
  | tile
  /-- A reservation record. -/
  | resv
  deriving DecidableEq, Repr

/-- Whether a code lies in the range its field's kind allows (R31): a 64-bit operand names an even register or a block
argument or result, a run ends at code 0xF7 or below. -/
def FieldKind.allows (k : FieldKind) (code : BitVec 8) : Bool :=
  match k with
  | .ignored => true
  | .vector w => w != 64 || decide (0xF8 ≤ code.toNat) || code.toNat % 2 == 0
  | .run n pairs => decide (code.toNat + n ≤ 0xF8) && (!pairs || code.toNat % 2 == 0)
  | .pred => decide (code.toNat < 8)
  | .tile => decide (code.toNat < 8)
  | .resv => decide (code.toNat < 16)

/-- The kinds of D, A, B and C of a lane instruction, by group and function (R96-R109, R125, R140, R200, R222, R302). -/
def fieldKinds (op fn : BitVec 8) (o : LaneOps) : FieldKind × FieldKind × FieldKind × FieldKind :=
  let v := FieldKind.vector (tyWidth o.ty)
  let v32 := FieldKind.vector 32
  let v64 := FieldKind.vector 64
  let no := FieldKind.ignored
  let f := fn.toNat
  match op with
  | 0x10#8 =>
    if f = 0x05 then (v, v, v, v)
    else if f = 0x1C then (v, v, v, .pred)
    else if 0x16 ≤ f ∧ f ≤ 0x1B then (.pred, v, v, no)
    else if f = 0x11 ∨ f = 0x12 ∨ f = 0x13 ∨ f = 0x1D then (v, v, no, no)
    else if f = 0x1E ∨ f = 0x1F then (v, no, no, no)
    else (v, v, v, no)
  | 0x20#8 =>
    if f = 0x03 ∨ f = 0x04 then (v, v, v, v)
    else if 0x10 ≤ f ∧ f ≤ 0x13 then (.pred, v, v, no)
    else if f = 0x14 then (v32, v, no, no)
    else if f = 0x16 then (v, no, no, no)
    else if f ≤ 0x02 ∨ f = 0x05 ∨ f = 0x06 ∨ f = 0x07 ∨ f = 0x0F then (v, v, v, no)
    else (v, v, no, no)
  | 0x30#8 =>
    let n := 32 / tyWidth o.ty
    let src := o.md.extractLsb' 0 4
    if f = 0 then (v, .vector (tyWidth src), no, no)
    else if f = 1 then (v32, .run (n * (tyWidth src / 32)) (tyWidth src == 64), no, no)
    else if f = 2 then (v32, .run 8 false, v32, no)
    else if f = 3 then (.run 8 false, v32, v32, no)
    else if f = 4 then (v32, .run n false, no, no)
    else (.run n false, v32, no, no)
  | 0x40#8 =>
    if f = 0 then (v, v, v32, no)
    else if f = 7 then (.pred, .pred, no, no)
    else if f = 8 then (v32, .pred, no, no)
    else (v, v, no, no)
  | 0x50#8 =>
    if f ≤ 2 then (.pred, .pred, .pred, no)
    else if f = 5 then (.pred, no, no, no)
    else (.pred, .pred, no, no)
  | 0x70#8 =>
    if f = 0 then (v, v64, no, no)
    else if f = 1 then (no, v64, v, no)
    else if f = 2 then (v, v64, v32, no)
    else if f = 3 then (no, v64, v32, v)
    else if f = 4 then (v, v32, no, no)
    else if f = 5 then (no, v32, v, no)
    else if f = 6 then (v, v64, v32, if o.md.extractLsb' 2 4 = 11 then no else v)
    else if f = 7 then (no, v64, v32, v)
    else (no, v64, v32, no)
  | 0x80#8 =>
    let n := 4 * 2 ^ (o.md.extractLsb' 0 2).toNat
    if f = 0 then (.resv, v64, v64, no)
    else if f = 1 then (.resv, no, no, no)
    else if f = 2 then (.resv, v32, v32, no)
    else if f = 3 then (.tile, .resv, .resv, no)
    else if f = 4 then (.tile, .run 4 false, .resv, .resv)
    else if f = 5 then (.tile, no, no, no)
    else if f = 6 then (.run n false, .tile, no, no)
    else if f = 7 then (.tile, .run n false, no, no)
    else if f = 8 then (no, .tile, v32, no)
    else if f = 9 then (no, .tile, .run 4 false, v64)
    else if f = 10 then (.tile, .run 4 false, no, no)
    else (no, .tile, v64, no)
  | 0x90#8 =>
    if f = 3 then (.run 4 false, v32, no, no)
    else if f = 2 then (v32, v32, v64, no)
    else (v32, v32, v64, v32)
  | 0xA0#8 =>
    if f = 0 then (v32, v64, no, no) else (no, v64, no, .pred)
  | _ => (no, no, no, no)

/-- Whether the group and function accept the type code (R36, R100, R125, R140, R200, R202). -/
def tyOk (op fn : BitVec 8) (o : LaneOps) : Bool :=
  let t := o.ty.toNat
  let f := fn.toNat
  match op with
  | 0x10#8 => decide (t ≤ 7)
  | 0x20#8 => decide (8 ≤ t ∧ t ≤ 11)
  | 0x30#8 =>
    if f = 0 then t != 14
    else if f = 1 then [9, 10, 12, 13, 15].contains t
    else if f = 2 then t == 14
    else if f = 3 then t == 8 || t == 10
    else [1, 2, 5, 6, 9, 10, 12, 13, 14, 15].contains t
  | 0x40#8 => decide (t ≤ 11)
  | 0x70#8 =>
    if f = 8 then t == 0
    else if f = 6 ∨ f = 7 then
      let r := (o.md.extractLsb' 2 4).toNat
      if r ≤ 7 then [0, 3, 4, 7].contains t
      else if r ≤ 9 then [0, 3, 4, 7, 8, 11].contains t
      else t == 8 || t == 11
    else decide (t ≤ 11)
  | 0x80#8 =>
    if f = 5 ∨ f = 10 then t == 0 || t == 8
    else if f = 8 ∨ f = 9 then t == 0 || t == 9 || t == 10
    else t == 0
  | 0x90#8 => if f = 3 then t == 0 else t == 8 || t == 10
  | _ => t == 0

/-- Whether the function accepts the modifiers (R96, R97, R100, R106-R109, R125, R140, R200, R202). -/
def mdOk (op fn : BitVec 8) (o : LaneOps) : Bool :=
  let m := o.md.toNat
  let t := o.ty.toNat
  let f := fn.toNat
  match op with
  | 0x20#8 =>
    let pk := (m / 4) % 2
    decide (m < 8)
      && (pk == 0 || ((t == 9 || t == 10) && decide (f ≤ 6)))
      && (m % 4 == 0 || decide (f ≤ 4) || decide (7 ≤ f ∧ f ≤ 0x0C))
  | 0x30#8 =>
    let src := m % 16
    let rm := m / 16
    if f = 0 then src != 14
    else if f = 1 then (src == 8 || src == 11) && rm == 0
    else if f = 2 then src == 8 && rm == 0
    else if f = 3 then src == 14
    else m == 0
  | 0x40#8 =>
    if f = 5 ∨ f = 6 then
      decide (m < (if f = 5 then 16 else 8)) && (decide (t ≤ 7) || decide (m % 8 ≤ 2))
    else if f = 7 then decide (m ≤ 2)
    else m == 0
  | 0x70#8 =>
    if f = 6 then decide (m / 4 ≤ 11)
    else if f = 7 then decide (m / 4 ≤ 7) || m / 4 == 10 || m / 4 == 12
    else if f = 2 ∨ f = 3 ∨ f = 8 then decide (m < 4)
    else m == 0
  | 0x80#8 =>
    if f = 3 ∨ f = 4 then decide (m < 32)
    else if f = 5 ∨ f = 10 then decide (m < 16)
    else if f = 6 ∨ f = 7 then decide (m < 4)
    else m == 0
  | 0x90#8 =>
    if f = 0 ∨ f = 1 then m == 0 || (m == 2 && t == 8)
    else if f = 2 then m == 0 || ((m == 2 || m == 3) && t == 8)
    else m == 0
  | _ => m == 0

/-- Whether the function accepts the immediate (R96, R99, R106, R109, R125, R140, R222, R302). -/
def imOk (op fn : BitVec 8) (o : LaneOps) : Bool :=
  let i := o.im.toNat
  let t := o.ty.toNat
  let f := fn.toNat
  match op with
  | 0x10#8 => f == 0x1E || f == 0x1F || i == 0
  | 0x20#8 => if f = 0x16 then t == 8 || t == 11 || decide (i < 65536) else i == 0
  | 0x40#8 => decide (1 ≤ f ∧ f ≤ 4) || i == 0
  | 0x50#8 => f == 5 || i == 0
  | 0x60#8 =>
    if f = 1 ∨ f = 2 then decide (0 < o.im.toInt)
    else f == 0 || f == 4 || i == 0
  | 0x70#8 => true
  | 0x80#8 =>
    if f = 2 then true
    else if f = 3 ∨ f = 4 then decide (i < 1048576)
    else if f = 6 ∨ f = 7 then decide (i < 128)
    else i == 0
  | 0x90#8 =>
    if f = 0 then decide (1 ≤ i ∧ i ≤ 1024)
    else if f = 1 then true
    else if f = 2 then o.md.extractLsb' 0 1 = 1 || i == 0
    else i == 0
  | _ => i == 0

/-- The short index of an opcode and function, where one exists (R26). -/
def shortIndex (op fn : BitVec 8) (o : LaneOps) : Option (BitVec 7) :=
  let f := fn.toNat
  match op with
  | 0x10#8 => if f ≤ 0x1F ∧ o.ty = 0 then some (BitVec.ofNat 7 f) else none
  | 0x20#8 => if f ≤ 0x1F ∧ o.ty = 8 then some (BitVec.ofNat 7 (0x20 + f)) else none
  | 0x40#8 => if f ≤ 0x0F ∧ o.ty = 0 then some (BitVec.ofNat 7 (0x40 + f)) else none
  | 0x70#8 => if f ≤ 0x07 ∧ o.ty = 0 then some (BitVec.ofNat 7 (0x50 + f)) else none
  | 0x50#8 => if f ≤ 0x07 ∧ o.ty = 0 then some (BitVec.ofNat 7 (0x58 + f)) else none
  | _ => none

/-- Whether the stored form can hold the canonical word (R24-R26). -/
def formOk (form : LaneForm) (op fn : BitVec 8) (o : LaneOps) : Bool :=
  match form with
  | .long => true
  | .medium => decide (o.im = 0)
  | .short =>
    (shortIndex op fn o).isSome && decide (o.ps = 0 ∧ o.pn = false ∧ o.c = o.d ∧ o.md = 0 ∧ o.im = 0)

/-- Whether the instruction gives the predicate select a meaning, or it is zero (R302). -/
def psOk (op fn : BitVec 8) (o : LaneOps) : Bool :=
  op != 0x60#8 || decide (fn.toNat ≤ 2) || decide (o.ps = 0 ∧ o.pn = false)

/-- The first rule of expansion a lane word breaks (R29, R31, R36, R41); none when it is an instruction. -/
def expandError (form : LaneForm) (op fn : BitVec 8) (o : LaneOps) : Option DecodeError :=
  let k := fieldKinds op fn o
  if (laneInstr op fn o).isNone then some .unassigned
  else if !tyOk op fn o then some .typeCode
  else if !mdOk op fn o then some .modifier
  else if !imOk op fn o then some .immediate
  else if !psOk op fn o then some .predicate
  else if !(k.1.allows o.d && k.2.1.allows o.a && k.2.2.1.allows o.b && k.2.2.2.allows o.c) then some .operand
  else if !formOk form op fn o then some .form
  else none

/-- The opcode, function and type a short index stands for (R26). -/
def shortCode (i : BitVec 7) : Option (BitVec 8 × BitVec 8 × BitVec 4) :=
  let n := i.toNat
  if n < 0x20 then some (0x10#8, BitVec.ofNat 8 n, 0#4)
  else if n < 0x40 then some (0x20#8, BitVec.ofNat 8 (n - 0x20), 8#4)
  else if n < 0x50 then some (0x40#8, BitVec.ofNat 8 (n - 0x40), 0#4)
  else if n < 0x58 then some (0x70#8, BitVec.ofNat 8 (n - 0x50), 0#4)
  else if n < 0x60 then some (0x50#8, BitVec.ofNat 8 (n - 0x58), 0#4)
  else none

/-- The fields of a canonical word (R23). -/
def canonOps (w : BitVec 96) : LaneOps :=
  { ty := w.extractLsb' 74 4, ps := w.extractLsb' 71 3, pn := w.getLsbD 70, d := w.extractLsb' 62 8,
    a := w.extractLsb' 54 8, b := w.extractLsb' 46 8, c := w.extractLsb' 38 8, md := w.extractLsb' 32 6,
    im := w.extractLsb' 0 32 }

/-- The canonical word of an opcode, function and fields (R23). -/
def canonWord (form : LaneForm) (op fn : BitVec 8) (o : LaneOps) : BitVec 96 :=
  (match form with | .short => 0#2 | .medium => 2#2 | .long => 3#2)
    ++ op ++ fn ++ o.ty ++ o.ps ++ BitVec.ofBool o.pn ++ o.d ++ o.a ++ o.b ++ o.c ++ o.md ++ o.im

/-- The instruction of an opcode, function and fields, when its expansion succeeds (R29). -/
def checkLane (form : LaneForm) (op fn : BitVec 8) (o : LaneOps) : Except DecodeError (Instr × LaneForm) :=
  match expandError form op fn o with
  | some e => .error e
  | none =>
    match laneInstr op fn o with
    | some i => .ok (i, form)
    | none => .error .unassigned

/-- Bytes of a stored form (R24). -/
def LaneForm.bytes : LaneForm → Nat
  | .short => 4
  | .medium => 8
  | .long => 12

/-- The lane instruction at the head of a byte stream (R24-R29) with its stored form, or why there is none. Bytes are most significant first
(R2). -/
def decodeLane (bs : List Byte) : Except DecodeError (Instr × LaneForm) :=
  match bs with
  | b0 :: b1 :: b2 :: b3 :: rest =>
    if b0.getLsbD 7 = false then
      match shortCode (b0.extractLsb' 0 7) with
      | none => .error .shortIndex
      | some (op, fn, ty) =>
        checkLane .short op fn
          { ty := ty, ps := 0, pn := false, d := b1, a := b2, b := b3, c := b1, md := 0, im := 0 }
    else
      match rest with
      | b4 :: b5 :: b6 :: b7 :: rest =>
        let hi : BitVec 64 := b0 ++ b1 ++ b2 ++ b3 ++ b4 ++ b5 ++ b6 ++ b7
        if b0.getLsbD 6 = false then
          let w : BitVec 96 := hi ++ 0#32
          checkLane .medium (w.extractLsb' 86 8) (w.extractLsb' 78 8) (canonOps w)
        else
          match rest with
          | c0 :: c1 :: c2 :: c3 :: _ =>
            let w : BitVec 96 := hi ++ (c0 ++ c1 ++ c2 ++ c3 : BitVec 32)
            checkLane .long (w.extractLsb' 86 8) (w.extractLsb' 78 8) (canonOps w)
          | _ => .error .truncated
      | _ => .error .truncated
  | _ => .error .truncated

/-- The 8-bit pieces of a canonical word, most significant first. -/
def canonBytes (w : BitVec 96) : List Byte :=
  [w.extractLsb' 88 8, w.extractLsb' 80 8, w.extractLsb' 72 8, w.extractLsb' 64 8, w.extractLsb' 56 8,
   w.extractLsb' 48 8, w.extractLsb' 40 8, w.extractLsb' 32 8, w.extractLsb' 24 8, w.extractLsb' 16 8,
   w.extractLsb' 8 8, w.extractLsb' 0 8]

/-- The stored bytes of a lane instruction in a stored form, in stream order (R24-R26). -/
def encodeLane (form : LaneForm) (i : Instr) : Option (List Byte) :=
  match laneCode i with
  | none => none
  | some (op, fn, o) =>
    match form with
    | .short =>
      match shortIndex op fn o with
      | none => none
      | some ix => some [0#1 ++ ix, o.d, o.a, o.b]
    | .medium => some ((canonBytes (canonWord form op fn o)).take 8)
    | .long => some (canonBytes (canonWord form op fn o))

/-- Bytes of a number, least significant first. -/
def leBytes : Nat → Nat → List Byte
  | 0, _ => []
  | n + 1, w => BitVec.ofNat 8 w :: leBytes n (w / 256)

/-- The instruction the decoder reads from bits numbered as the opcode table numbers them: a scalar word in 32 bits, a
lane instruction in the bytes of its stream, byte 0 in bits 7:0. -/
def decodeTableWord (nbits w : Nat) : Option Instr :=
  if nbits ≤ 32 then decodeScalar (BitVec.ofNat 32 w)
  else (decodeLane (leBytes (nbits / 8) w)).toOption.map Prod.fst

/-- The words of an instruction: the little-endian bytes of a scalar word (R21), the stream bytes of a lane instruction
in the given stored form (R24). An event has none. -/
def encode (form : LaneForm) (i : Instr) : Option (List Byte) :=
  match encodeScalar i with
  | some w => some [w.extractLsb' 0 8, w.extractLsb' 8 8, w.extractLsb' 16 8, w.extractLsb' 24 8]
  | none => encodeLane form i

end Sys2Proof
end

