-- ==== Sys2Proof/Config.lean ====
section
/-! DEFINITION. Sys2Proof/Config.lean: what is fixed for one Ikiuri (R9-R12, R301) and the free values, the values the
spec leaves undefined (R6). A free value is an opaque constant: nothing can evaluate it. -/

namespace Sys2Proof.Config

/-- Cores of the package (R10). -/
abbrev cores : Nat := 384
/-- Threads a core holds (R11). -/
abbrev slots : Nat := 32
/-- Slices of threads a core holds (R11). -/
abbrev coreSlices : Nat := 128
/-- L2 slices and HBM channels (R12). -/
abbrev channels : Nat := 512
/-- Slots of a die's task table (R285). -/
abbrev taskSlots : Nat := 65536
/-- Bytes of the operand buffer (R11). -/
abbrev operandBytes : Nat := 262144
/-- Entries of a slice's request queue (R161). -/
abbrev requestQueue : Nat := 16
/-- Entries of a slice's miss buffer (R161). -/
abbrev missBuffer : Nat := 32
/-- Reductions a die's combiner holds (R205). -/
abbrev combinerSize : Nat := 1024
/-- Entries of a thread's store buffer (R205). -/
abbrev storeBuffer : Nat := 32
/-- Bound queues a home's directory holds (R409). -/
abbrev directorySize : Nat := 65536
/-- Window records of a die's window cache (R278). -/
abbrev windowCache : Nat := 65536
/-- Window records of a partition's HBM table (R278). -/
abbrev hbmTable : Nat := 268435456
/-- Window records of a partition's host table (R278). -/
abbrev hostTable : Nat := 4294967296
/-- 128-byte lines of one HBM channel: 1,024 GB over 512 channels (R18). Frames lie below it. -/
abbrev channelBytes : Nat := 2000000000

/-- Free value: the 64 bits a scalar register or a word holds when the spec leaves it undefined (R6, log 2); the first
argument is the birth that left it so, the second names the register. -/
opaque freeWord : Nat → Nat → BitVec 64
/-- Free value: the 32 bits of a vector register, predicate or tile cell left undefined (R6, log 2). -/
opaque freeLane : Nat → Nat → BitVec 32
/-- Free value: a byte of scratchpad or operand space left undefined (R6, log 2). -/
opaque freeByte : Nat → Nat → BitVec 8
/-- Free value: the host frame that takes a page of a state area in the host tier, by the page; the spec names none (R279,
log 19). -/
opaque areaFrame : Nat → BitVec 48
/-- Free value: bits that only the device's secrets fix: 0 the boot measurement of the image that has booted, 1 the fused seed
(R381, R383, log 18). -/
opaque freeSecret : Nat → Nat → BitVec 256
/-- Free value: a memory key as the device's generator draws it, two AES-256 keys (R375, log 18). -/
opaque freeKey : Nat → BitVec 512
/-- Free value: the bytes of the maker's public key, whose digest is fused (R383, log 18). -/
opaque bootKey : Nat → BitVec 8
/-- Free value: PK.root, which FIPS 205 key generation computes from SK.seed and PK.seed (R381, log 18). -/
opaque slhRoot : BitVec 128 → BitVec 128 → BitVec 128
/-- Free value: what ESIZE the control block of a remote queue states, which only its own package knows (R224, log 2). -/
opaque freeEsize : Nat → Nat
/-- Free value: the least service image version the fuses accept (R383, log 18). -/
opaque minVersion : BitVec 32
/-- Free value: the bytes of the signature that FIPS 205 makes over a report with the secret key SK.seed, SK.prf, PK.seed and
PK.root (R382, log 18). -/
opaque slhSign : BitVec 256 → BitVec 256 → List (BitVec 8) → Nat → BitVec 8

end Sys2Proof.Config
end

