-- ==== Sys2Proof/Machine/State.lean ====
section
/-! DEFINITION. Sys2Proof/Machine/State.lean: the state of the Ikiuri as plain data, the fault and refusal reasons, and
the state after power-up (R419). INVENTORY.md lists every field with the rule that names it. Sparse collections are
lists of (key, value) pairs with strictly rising keys. -/

namespace Sys2Proof.Machine

/-- A sparse collection by key: strictly rising keys. -/
abbrev SMap (α : Type) := List (Nat × α)

/-- Why a step stops with a fault: only where the issuing party the state names does not exist, so there is nothing to
run. No run reaches it (the agenda and the scheduler name live parties only). Safe: the machine stops. -/
inductive Fault where
  /-- Raised by every instruction meaning when `cur` names no live thread or gang. Safe. -/
  | noIssuer
  deriving DecidableEq, Repr

/-- Why the model has no meaning for a step. -/
inductive Refusal where
  /-- Raised by an arm of the dispatcher whose instruction has no meaning yet. Safe. -/
  | notModelled (mnemonic : String)
  deriving DecidableEq, Repr

/-- A party's sequencer within its thread (R173): the scalar sequencer, or the gang named by its lowest slice. -/
inductive Party where
  | scalar
  | gang (g : Nat)
  deriving DecidableEq, Repr

/-- The party whose instruction is being executed: the thread is named by core*32 + slot; the stored bytes of a lane
instruction (R24); how many line requests of a lane memory instruction are performed in this turn at most, all that can be
where none is named (R201, log 3). -/
structure Issuer where
  tid   : Nat
  party : Party
  len   : Nat
  lines : Option Nat := none
  deriving DecidableEq, Repr

/-- What acts next, where the order of independent agents or the outside world decides (log 3). -/
inductive Move where
  | scalar (tid : Nat)
  | lane (tid gang : Nat)
  /-- A gang's turn in which at most n line requests of its instruction are performed (R201). -/
  | lines (tid gang n : Nat)
  | event (i : Instr) (a : EvArg)
  | tick (clk : Nat)
  deriving DecidableEq, Repr

/-- Registers of one width: what was written, over what they held when the file was made. `init` 0 reads zero, the
power-up image (R419); `init` n > 0 reads the free values of birth n (R6, log 2). -/
structure RegFile (w : Nat) where
  init   : Nat
  writes : SMap (BitVec w)
  deriving DecidableEq, Repr

/-- Token kinds (R254). -/
inductive TokenKind where
  | ifTok | elseTok | loopTok
  deriving DecidableEq, Repr

/-- One entry of a slice's token stack (R254). -/
structure Token where
  kind    : TokenKind
  pending : BitVec 4
  exited  : BitVec 4
  join    : BitVec 32
  deriving DecidableEq, Repr

/-- STATE of a slice (R253). -/
inductive SliceState where
  | issuing | atRegang | ended | idle
  deriving DecidableEq, Repr

/-- What a blocked party waits for (R217, R313-R318, R334). -/
inductive Wait where
  /-- In a waiter list of the queue at this home key. -/
  | queue (q : Nat)
  /-- `queue.qdrain` on the queue at this home key (R219). -/
  | drain (q : Nat) (scratch : Option Nat)
  /-- `sync.wait` with its registers and its deadline in reference ticks; none is no timeout (R316). -/
  | sync (d a b : BitVec 6) (deadline : Option Nat)
  /-- A pop the home has performed (R217): what it gave, still to be stored by the party. -/
  | deliver (d : BitVec 6) (buf pos : Word) (elem : List Byte) (poison : Bool)
  /-- A `sync.wait` withdrawn by a save, to be issued again with the deadline it had (R316). -/
  | resync (deadline : Option Nat)
  /-- `sync.arrive` with WAIT: the designator and the phase arrived in (R318). -/
  | phase (bar : Word) (p : BitVec 16)
  /-- A pool claim in the cohort's waiter order (R261). -/
  | claim
  /-- `task.spawn` held for its release, or for a free slot: the packet it copied at issue (R328). -/
  | spawn (packet : List Byte) (slot : Bool)
  /-- `sys.sys` awaiting its response (R393). -/
  | sys
  /-- A remote operation in flight on a flow (R224, R368). -/
  | remote (flow : Nat)
  /-- A stall that is no wait for another party (R390): the instruction is issued again when memory lets it. -/
  | stall
  /-- A request held at the core's issue port by a full queue, which holds every later request of the core (R160), with how
  many line requests of its instruction have left, and what those that have been performed returned by lane, each value
  with the flags it raised. -/
  | port (sent : Nat) (got : List (Nat × Nat × BitVec 6))
  /-- An access that waits at its home (R161, R183), with the same of the line requests before it. -/
  | home (sent : Nat) (got : List (Nat × Nat × BitVec 6))
  /-- A push whose release is unfinished (R216), with the element loaded at issue (R221, R322); no wait for another party
  (R390). -/
  | loaded (elem : List Byte)
  /-- A gang held by its selection instruction until that retires (R142); no wait for another party (R390). -/
  | select
  /-- Any other wait for another party: the instruction is issued again when it can proceed (R334). -/
  | again
  deriving DecidableEq, Repr

/-- One slice of a thread (R253), with its token stack (bottom first), the sys.sys hold (R393) and what its gang waits
for (kept on every slice of the gang). `since` is when its gang became ready (R300) and `last` when it issued last (R255);
`skip` is the stored length of the `lb.regang` it waits at (R256). -/
structure Slice where
  lpc   : BitVec 32
  skip  : Nat
  mask  : BitVec 4
  gang  : Nat
  st    : SliceState
  stack : List Token
  held  : Bool
  wait  : Option Wait
  since : Nat
  last  : Nat
  deriving DecidableEq, Repr

/-- A queued lane block: its entry and its block arguments b0-b7 (R257). -/
structure Block where
  entry : BitVec 32
  args  : List Word
  deriving DecidableEq, Repr

/-- A declared range (R56). -/
structure Range where
  base   : Nat
  len    : Nat
  read   : Bool
  write  : Bool
  atomic : Bool
  deriving DecidableEq, Repr

/-- An accumulator tile with the slice count of the thread that holds or gave it (R113, R261); cell row*128 + column. `poison`
lists the 32-byte sectors that are poisoned (R414), eight cells each. -/
structure Tile where
  tag    : Nat
  cells  : RegFile 32
  poison : List Nat
  deriving DecidableEq, Repr

/-- A posted reduction (R181, R193): the thread and the party (R173) that issued it, what a fault record says of them
(R388), its lane (0xFF for none), the context, the address, the operation (the OPR code of R202), its size in bytes and the
operand. `owed` says that its thread has detached since, so that its task still waits for it (R329). -/
structure Red where
  uid   : Nat
  core  : Nat
  slot  : Nat
  lane  : Nat
  party : Party
  pc    : Word
  task  : Word
  winid : Word
  ctx   : Nat
  addr  : Nat
  op    : Nat
  bytes : Nat
  value : BitVec 128
  owed  : Bool
  deriving DecidableEq, Repr

/-- Entry reason of a window step (R262). -/
inductive Reason where
  | openR | record | merge | close | expire | pane
  deriving DecidableEq, Repr

/-- A stream record, or a pane record, under delivery: position, sequence number, address of its ring slot, bytes
(R226, R262). -/
structure StreamRec where
  pos   : Nat
  seq   : Nat
  addr  : Nat
  bytes : List Byte
  deriving DecidableEq, Repr

/-- The window step a thread runs (R272): the window and the reason. -/
structure StepRef where
  win    : Nat
  reason : Reason
  deriving DecidableEq, Repr

/-- One thread (R252-R263). `uid` names it for the whole run, whatever slot it sits in; `ranged` says that its task is a
range task (R330); `reserved` holds the queue positions it has reserved: the block, its binding, the position (R218);
`vpoison` the poisoned 32-byte sectors of its vector registers (R414): two registers of a slice each, by slice*124 +
register/2 (log 27). -/
structure Thread where
  uid      : Nat
  ctx      : Nat
  cohort   : Nat
  index    : Nat
  csize    : Nat
  slices   : Nat
  prio     : Nat
  role     : BitVec 16
  vregs    : Nat
  tiles    : List Tile
  s        : RegFile 64
  v        : RegFile 32
  vpoison  : List Nat
  p        : RegFile 32
  y        : RegFile 64
  pc       : Word
  fpflags  : BitVec 6
  fpctl    : BitVec 5
  rngkey   : Word
  rngctr   : Word
  task     : Word
  winid    : Word
  stream   : Word
  sl       : List Slice
  blocks   : List Block
  running  : Bool
  ranges   : List Range
  grant    : List Nat
  clean    : Bool
  wdog     : Nat
  portCopy : Word
  wait     : Option Wait
  redBuf   : List Red
  reserved : List (Nat × Nat × Nat)
  emits    : List (Word × List Byte)
  detached : Bool
  ended    : Bool
  faulted  : Bool
  step     : Option StepRef
  piece    : Nat
  ranged   : Bool
  since    : Nat
  deriving DecidableEq, Repr

/-- A reservation record (R122). -/
structure Resv where
  w0   : Word
  w1   : Word
  live : Bool
  deriving DecidableEq, Repr

/-- A barrier (R317). -/
structure Barrier where
  phase   : BitVec 16
  count   : BitVec 16
  arrived : BitVec 16
  deriving DecidableEq, Repr

/-- Who waits in a queue's list (R209). -/
inductive WaiterWho where
  | thread (tid : Nat) (party : Party)
  | network (flow : Nat)
  | carder (die : Nat)
  | taskEngine (die : Nat)
  deriving DecidableEq, Repr

/-- The operation a waiter will complete (R217, R223). -/
inductive WaitOp where
  | push (d : BitVec 6) (elem : List Byte)
  | reserve (d : BitVec 6)
  | pop (d : BitVec 6) (buf : Word)
  | pushv (o : LaneOps) (len : Nat) (lanes : List Nat) (elems : List (List Byte))
  | popv (o : LaneOps) (len : Nat) (lanes : List Nat)
  /-- A held emission the Carder pushes for a step (R322): the step's uid orders it among its own. -/
  | emit (uid ctx : Nat) (elem : List Byte)
  /-- `queue.qlen` carried to another package (R224). -/
  | value (d : BitVec 6)
  /-- `queue.qtrypush` carried to another package (R224). -/
  | attempt (d : BitVec 6)
  /-- `sync.arrive` carried to another package (R369): the count it offers, and whether it waits for the phase to pass (R318). -/
  | arrive (d : BitVec 6) (bar : Word) (n : BitVec 16) (waits : Bool)
  /-- The wait of such an arrival (R318, R370): the phase arrived in. -/
  | phase (p : BitVec 16)
  deriving DecidableEq, Repr

/-- A waiting operation in one of a queue's two lists (R209). -/
structure Waiter where
  who : WaiterWho
  op  : WaitOp
  deriving DecidableEq, Repr

/-- What a home keeps of a bound queue beside its control block's bytes (R208-R214). `ctx` is the binding context,
`uid` and `core` the binding thread and its core, `va` the block's address, `bind` names the binding itself. -/
structure Queue where
  stream  : Bool
  va      : Word
  ctx     : Nat
  core    : Nat
  uid     : Nat
  bind    : Nat
  commit  : List Bool
  pushers : List Waiter
  poppers : List Waiter
  frozen  : Option (BitVec 10)
  deriving DecidableEq, Repr

/-- A pre-emption request (R398): the bound B in clk, none for a save of every cohort; the placement request that asks,
0 for none; the ungated clk at which it was made; and the requester as a record names it (R402). -/
structure PreReq where
  bound : Option Nat
  req   : Nat
  since : Nat
  who   : Word := 0
  deriving DecidableEq, Repr

/-- One cohort on a core (R260, R261), keyed by core*32 + cohort slot. `pend` holds the pre-emption requests no choice has
been made for, `drain` and `saving` the one chosen (R400, R401), `missed` whether BOUND_MISSED is reported (R402). -/
structure Cohort where
  uid      : Nat
  ctx      : Nat
  entry    : Word
  members  : List Nat
  csize    : Nat
  prio     : Nat
  window   : Bool
  spbase   : Nat
  spsize   : Nat
  scratch  : RegFile 8
  spoison  : List Nat
  operand  : RegFile 8
  opoison  : List Nat
  recs     : SMap Resv
  bars     : SMap Barrier
  freeUnits : Nat
  poolTiles : List Tile
  claims   : List (Nat × Bool × Nat)
  queues   : SMap Queue
  elapsed  : Nat
  pend     : List PreReq
  drain    : Option PreReq
  saving   : Option PreReq
  missed   : Bool
  age      : Nat
  deriving DecidableEq, Repr

/-- An operator-table entry as accepted (R117): combine, reduce, type, flags. -/
structure OpEntry where
  combine : Nat
  reduce  : Nat
  ty      : Option Nat
  flags   : Nat
  deriving DecidableEq, Repr

/-- What an accepted matrix operation will do (R128-R134). -/
inductive MxKind where
  | mfill (rec src n dst : Nat)
  | mma (tile : Nat) (ra rb : Resv) (e : OpEntry) (z : Bool) (k : Nat)
  | mmag (tile : Nat) (ra rb : Resv) (e : OpEntry) (z : Bool) (k : Nat) (idx : List (BitVec 32))
  | mzero (tile : Nat) (value : BitVec 32)
  | mwr (tile col n : Nat) (vals : List (BitVec 32))
  | mst (tile ty off : Nat)
  | mstx (tile ty : Nat) (base : Word) (idx : List (BitVec 32))
  | mrow (tile : Nat) (e : OpEntry) (f32 : Bool) (factors : List (BitVec 32))
  | mnote (tile : Nat) (handle : Word)
  deriving DecidableEq, Repr

/-- The times of an accepted matrix operation (R136), in ungated clk: when its rows start and are free again, when the
gather unit has served it, when it retires. -/
structure MxTime where
  start  : Nat
  free   : Nat
  gather : Nat
  ends   : Nat
  deriving DecidableEq, Repr

/-- An accepted matrix operation (R135): its place in the order of acceptance, the thread and its party (R195), its cohort,
the active lanes, the reservations it uses and its times. `owed` as for a reduction (R329). -/
structure MxOp where
  age    : Nat
  party  : Party
  time   : MxTime
  uid    : Nat
  tid    : Nat
  cohort : Nat
  ctx    : Nat
  slices : Nat
  lanes  : List Nat
  ranges : List Range
  recs   : List Nat
  owned  : List Nat
  kind   : MxKind
  owed   : Bool
  deriving DecidableEq, Repr

/-- An accepted selection operation (R141): the thread, the gang, its active lanes, the instruction's function, word
and stored length, its uniform operands, the block of each lane of `sl.rng` (R151), the ungated clk at which it retires
(R152), and the 4-byte words of scratchpad it has read and written ahead of that (R142), each read with its poison. -/
structure SlOp where
  ends   : Nat
  seen   : SMap (Nat × Bool)
  done   : List Nat
  uid    : Nat
  tid    : Nat
  cohort : Nat
  gang   : Nat
  lanes  : List Nat
  fn     : Nat
  o      : LaneOps
  len    : Nat
  blocks : List (Nat × Nat)
  src    : Nat
  n      : Nat
  base   : Nat
  dst    : Nat
  deriving DecidableEq, Repr

/-- A line of a core's L1 (R159, R175): ASID, VA line number, sector valid bits, lease end, the stamp of its data, and its
bytes as they were filled, of which those of the valid sectors count. -/
structure L1Line where
  asid    : BitVec 16
  vline   : Nat
  sectors : BitVec 4
  lease   : Nat
  stamp   : Nat
  bytes   : List Byte
  deriving DecidableEq, Repr

/-- A line of the scalar instruction cache (R43): ASID, VA line number and the bytes as filled. -/
structure ICLine where
  asid  : BitVec 16
  vline : Nat
  bytes : List Byte
  deriving DecidableEq, Repr

/-- An instruction of the lane instruction cache (R11, R29, R43): ASID, the address its stored bytes begin at, and those
bytes, which stand for its expanded 96-bit word. -/
structure LaneWord where
  asid  : BitVec 16
  va    : Nat
  bytes : List Byte
  deriving DecidableEq, Repr

/-- An answer of a slice on its way to a core (R159, R161): the line, the sectors asked for, its stamp, the end of the
lease under which it enters the L1, if it does, and the line's bytes. -/
structure MemResp where
  asid  : BitVec 16
  vline : Nat
  sectors : BitVec 4
  t     : Nat
  lease : Option Nat
  bytes : List Byte
  deriving DecidableEq, Repr

/-- The last store of a party (R173, R176): its thread's slot and uid, the slice that performed it and the stamp it got. -/
structure StoreMark where
  tid   : Nat
  uid   : Nat
  party : Party
  ch    : Nat
  stamp : Nat
  deriving DecidableEq, Repr

/-- What a core holds beside its threads (R11, R156, R159, R300). `pts` is what the logical clock holds above the clk
counted since the last rebase (R175, log 8); `posted` holds the reductions that threads saved since have left on their way to
the combiner (R403). -/
structure CoreSt where
  poolword  : Word
  pts       : Nat
  l1        : List L1Line
  sicache   : List ICLine
  licache   : List LaneWord
  credits   : List Nat
  lcredits  : List Nat
  closing   : Option Nat
  swapped   : Bool
  mx        : List MxOp
  slq       : List SlOp
  responses : List MemResp
  lastSt    : List StoreMark
  posted    : List Red
  deriving DecidableEq, Repr

/-- A line in its home slice (R12, R175, R183, R186, R409), keyed by its physical line number. `shadow` holds the bytes
behind a dirty line, restored where the line is dropped without write-back (R357, R373). -/
structure L2Line where
  asid    : BitVec 16
  ctx     : Nat
  vline   : Nat
  ch      : Nat
  way     : Nat
  sectors : BitVec 4
  dirty   : Bool
  region  : Nat
  wts     : Nat
  rts     : Nat
  pins    : Nat
  shadow  : List Byte
  deriving DecidableEq, Repr

/-- Whose access stands in a slice's queue (R161): the thread's slot and uid, and its party. -/
structure ReqWho where
  tid   : Nat
  uid   : Nat
  party : Party
  deriving DecidableEq, Repr

/-- A request in a slice's queue or miss buffer (R160, R161): a load, store or atomic of a party, which the party performs
when it has come to the front, or, with no party, a prefetch of a core. The PTS a prefetch carries (R175), its context with
its ASID, its line and sectors, and whether it fills the L1 too (R196). -/
structure MemReq where
  who   : Option ReqWho
  core  : Nat
  pts   : Nat
  ctx   : Nat
  asid  : BitVec 16
  vline : Nat
  sectors : BitVec 4
  l1    : Bool
  deriving DecidableEq, Repr

/-- A slice's request queue and miss buffer (R161). -/
structure SliceQ where
  reqs   : List MemReq
  misses : List MemReq
  deriving DecidableEq, Repr

/-- A TLB entry (R347): ASID, page base, page size, the leaf, and whether it is held for grants (R353). -/
structure TlbEntry where
  asid : BitVec 16
  page : Nat
  size : Nat
  leaf : Word
  held : Bool
  deriving DecidableEq, Repr

/-- A non-leaf entry in a walker's cache (R347): ASID, the level of the entry, the first address it maps, the entry. -/
structure WalkEntry where
  asid  : BitVec 16
  level : Nat
  base  : Nat
  entry : Word
  deriving DecidableEq, Repr

/-- A user-interrupt table entry (R365) with the number of interrupts sent to it. -/
structure UintEntry where
  target  : Word
  runaddr : Word
  pendq   : Word
  pcap    : BitVec 32
  vector  : BitVec 16
  flags   : BitVec 16
  sent    : Nat
  deriving DecidableEq, Repr

/-- A scope-table entry (R179): the cores, bit n for core n, and HOST. -/
structure Scope where
  cores : BitVec 384
  host  : Bool
  deriving DecidableEq, Repr

/-- A code section marked loaded (R93, R352). -/
structure Section where
  base : Nat
  size : Nat
  lane : Bool
  obj  : Nat
  deriving DecidableEq, Repr

/-- A context (R374), keyed by partition*64 + context. -/
structure Ctx where
  asid     : BitVec 16
  priv     : Bool
  root     : Nat
  wdog     : Nat
  rngseed  : Word
  faultQ   : Word
  submitQ  : Word
  lost     : Nat
  lostRun  : Bool
  seq      : Nat
  optab    : SMap Word
  scopes   : SMap Scope
  sched    : SMap Word
  evstep   : BitVec 32
  rolemaps : SMap (List (BitVec 16))
  uints    : SMap UintEntry
  portPage : Option Nat
  sections : List Section
  launches : SMap (BitVec 64)
  halted   : Bool
  deriving DecidableEq, Repr

/-- A time-triggered slot (R296) with its release bookkeeping (R297): the next release time, the slot of its last
instance, and when that instance ended. -/
structure TTSlot where
  period  : Nat
  offset  : Nat
  templ   : Word
  slack   : Nat
  bound   : Nat
  overrun : BitVec 32
  sticky  : Bool
  prio    : Nat
  nextRel : Nat
  last    : Option Word
  freeAt  : Nat
  ctx     : Nat
  deriving DecidableEq, Repr

/-- A partition (R372) with the configuration values of R301 and the state the spec gives it; its memory key, none before that is
drawn and once it is zeroised (R375, R379). -/
structure Partition where
  quads    : BitVec 96
  chbase   : Nat
  chlog    : Nat
  batt     : Bool
  reqsig   : Bool
  alarmpol : BitVec 8
  privthr  : Nat
  sigkey0  : BitVec 256
  sigkey1  : BitVec 256
  level    : Nat
  key      : Option (BitVec 512)
  partm    : BitVec 256
  expected : Option (BitVec 256)
  privAt   : List Nat
  prioW    : BitVec 32
  lease    : Nat
  ptsTick  : Nat
  tHbm     : Nat
  tHost    : Nat
  tIdle1   : Nat
  tIdle2   : Nat
  tStarve  : Nat
  tEvict   : Nat
  tPre     : Nat
  migT     : Nat
  hops     : List Nat
  winNext  : Nat
  tts      : SMap TTSlot
  nextFrame : Nat
  freeFrames : List (Nat × Nat)
  badFrames : List Nat
  tableNext : Nat
  window   : List (Nat × Nat × Nat)
  census   : Nat
  deriving DecidableEq, Repr

/-- A place a record names (R235): global, scratchpad of the starting cohort, or an operand reservation, by its number in
a record's word and by its first byte of the operand space from the taking on. -/
inductive CAddr where
  | global (a : Int)
  | scratch (a : Int)
  | operand (base : Nat) (a : Int)
  deriving DecidableEq, Repr

/-- Where the bytes of one move come from: memory, a row kept in the channel's line buffer (R239), or given bytes with their
poison. -/
inductive CSrc where
  | mem (a : CAddr)
  | row (a : CAddr) (pitch : Int) (w off : Nat)
  | bytes (bs : List (BitVec 8 × Bool))
  deriving DecidableEq, Repr

/-- One move of a record: n bytes to a destination. -/
structure CMove where
  src : CSrc
  dst : CAddr
  n   : Nat
  deriving DecidableEq, Repr

/-- A segment of a record in a missing page (R241): its address and bytes as the fix-up list names them, its side, and the
moves that wait for it. -/
structure CSeg where
  va    : Nat
  len   : Nat
  dest  : Bool
  moves : List CMove
  deriving DecidableEq, Repr

/-- How a record ends (R238, R240): its STATUS code, the address and INFO of its fault record, and whether STATUS is written
already, so that only its action is left. -/
structure CopyEnd where
  code : Nat
  addr : Word
  info : Word
  told : Bool
  deriving DecidableEq, Repr

/-- A transfer record as the engine took it (R233, R234, R236), with how far it has come: the lines it owns, its QPUT
position and the binding it was reserved in, the moves still to make, the segments listed for fix-up and those replayed (R241),
the acknowledgments it awaits from peers, whether a source was poisoned (R242), and how it ends once its writes are performed. -/
structure CopyRec where
  addr   : Word
  raw    : List Byte
  ext    : List Byte
  lines  : List Nat
  qpos   : Option Nat
  qbind  : Nat
  left   : List CMove
  fixes  : List CSeg
  fixed  : Nat
  acks   : Nat
  bad    : Bool
  ending : Option CopyEnd
  deriving DecidableEq, Repr

/-- State of a chain on its channel (R246). -/
inductive ChainState where
  | queued | running | waitPage | waitSlot | waitAck | stopping
  deriving DecidableEq, Repr

/-- A chain (R231, R243): ticket, context, the starting thread's uid and core, its cohort's uid, captured ranges, the
record it is at, the record taken, the lines its head record owns from `copy.cstart` on (R245), and the place of its
record in the order in which engines ask for lines; `stamped` are the lines whose ownership has been stamped already (R183).
`owed` as for a reduction (R329). -/
structure Chain where
  claim  : Nat
  ticket : Nat
  ctx    : Nat
  uid    : Nat
  core   : Nat
  cohort : Nat
  ranges : List Range
  at_    : Word
  taken  : Option CopyRec
  st     : ChainState
  pre    : List Nat
  stamped : List Nat
  owed   : Bool
  deriving DecidableEq, Repr

/-- A buffered input row of a channel (R239): its tag, and its bytes with the poison they were read with. -/
structure LineBuf where
  row   : Nat
  pitch : Int
  len   : Nat
  w     : Nat
  bytes : List (Byte × Bool)
  deriving DecidableEq, Repr

/-- A copy channel (R231, R239), keyed by quad*16 + channel. -/
structure Channel where
  ticket  : Nat
  chains  : List Chain
  linebuf : List LineBuf
  deriving DecidableEq, Repr

/-- Where a window stands in the Carder's table (R283). -/
inductive WinPhase where
  | opening | parked | step | closing | expiring | merging
  deriving DecidableEq, Repr

/-- A window (R277, R283): the fields of its window record, its phase, the record under delivery with its replays, and
the thread that runs its step; the core its thread stays resident on between steps while that has room (R277); the poisoned
sectors of its record (R414); the queue positions its thread has reserved, kept between steps (R218). Keyed by
partition*2^64 + WINID. -/
structure Window where
  ctx     : Nat
  stream  : Nat
  key     : Word
  winid   : Word
  start   : Nat
  last    : Nat
  expiry  : Nat
  state   : Word
  count   : BitVec 32
  panes   : BitVec 16
  carry   : List Word
  paneWin : Bool
  firing  : Bool
  tier    : Nat
  lastCommit : Nat
  phase   : WinPhase
  replays : Nat
  thread  : Option Nat
  partner : Option Nat
  closeReq : Bool
  lastTs  : Nat
  core    : Option Nat
  poison  : List Nat
  reserved : List (Nat × Nat × Nat)
  deriving DecidableEq, Repr

/-- A step the Carder will deliver (R272). `raw` is a record, a pane record or a `win.wclose` not yet resolved into the
windows it reaches; `win` is 0 where the window is found by its start. `ord` is the record's ordinal of its key (R270),
`replays` the count kept with the pending record (R274), `stamp` what its stream's trigger clock showed at its place in
the key's order (R271, R272). -/
structure StepReq where
  key     : Word
  win     : Nat
  reason  : Reason
  record  : StreamRec
  start   : Nat
  pane    : Bool
  raw     : Bool
  sent    : Bool
  time    : Nat
  ord     : Nat
  partner : Nat
  replays : Nat
  stamp   : Nat
  deriving DecidableEq, Repr

/-- The entry of a count key (R270, R277, R278): its next ordinal, when it expires, its tier and its last commit; whether it
is expiring (R280); the poisoned sectors of its record (R414). -/
structure KeyEnt where
  firing : Bool
  poison : List Nat
  next   : Nat
  expiry : Nat
  tier   : Nat
  lastCommit : Nat
  deriving DecidableEq, Repr

/-- The Carder's control of a bound stream (R268-R275): the context, the spec it read, the positions retired above HEAD,
the records taken with the number of windows still to commit them, the steps to deliver, the entries of count keys, the
watermarks that have taken effect, rising, each with the device time at which it did, the keys that wait for the Hatbox
with the time HATBOX_FULL was last sent for each, and the pane records pushed. Keyed as the stream's queue. -/
structure StreamCtl where
  ctx     : Nat
  va      : Word
  spec    : List Byte
  taken   : Nat
  live    : List (StreamRec × Nat)
  retired : List Nat
  steps   : List StepReq
  keys    : SMap KeyEnt
  marks   : List (Nat × Nat)
  full    : List (Word × Nat)
  nrec    : Nat
  paneSeq : Nat
  deriving DecidableEq, Repr

/-- Life of a task slot (R291). -/
inductive TaskState where
  | free | waiting | ready | running | done | failed
  deriving DecidableEq, Repr

/-- A piece of a range task, or an instance of an indirect task, or the one cohort of a plain task (R294, R295). -/
structure Piece where
  lo   : Int
  cur  : Int
  hi   : Int
  live : Bool
  deriving DecidableEq, Repr

/-- A task slot (R285, R291), keyed by die*65536 + slot. `uids` names the threads launched for it whose effects its
completion waits for (R292), `gone` those that have detached, whose effects from before that it waits for (R329), `poison` the
poisoned sectors of its slot (R414). -/
structure TaskSlot where
  gen    : BitVec 16
  count  : Nat
  st     : TaskState
  ctx    : Nat
  packet : List Byte
  paddr  : Word
  prio   : Nat
  pieces : List Piece
  threads : Nat
  bad    : Bool
  uids   : List Nat
  gone   : List Nat
  tt     : Option Nat
  released : Bool
  poison : List Nat
  deriving DecidableEq, Repr

/-- What a placement request places (R298): a piece of a task, a window step, or a saved cohort. -/
inductive ReqKind where
  | task (slot piece : Nat)
  | window (win : Nat)
  | restore (saved : Nat)
  deriving DecidableEq, Repr

/-- A waiting placement request (R298, R299), with the time PLACEMENT_STALL was last sent for it (R418). -/
structure Request where
  id     : Nat
  ctx    : Nat
  prio   : Nat
  age    : Nat
  kind   : ReqKind
  entry  : Word
  csize  : Nat
  slices : Nat
  vregs  : Nat
  tiles  : Nat
  spad   : Nat
  stalled : Option Nat
  deriving DecidableEq, Repr

/-- A saved cohort (R403): its image, the PTS and the core it left, whether it lies in the Batt, its size, and whether a
partition swap keeps it out (R407). -/
structure Saved where
  out     : Bool
  cohort  : Cohort
  threads : List Thread
  die     : Nat
  core    : Nat
  pts     : Nat
  batt    : Bool
  bytes   : Nat
  deriving DecidableEq, Repr

/-- A RAS record (R417). -/
structure Ras where
  type   : Nat
  struct : Nat
  die    : Nat
  part   : Nat
  addr   : Nat
  info   : List Word
  time   : Nat
  seq    : Nat
  deriving DecidableEq, Repr

/-- What a die holds beside its cores: the combiner, decrements in flight, placement requests, averages, the RAS log,
soft-error counters, the Carder's emissions (R181, R290, R298, R400, R416, R417, R322). -/
structure DieSt where
  combiner : List Red
  decs     : List (Word × Bool)
  reqs     : List Request
  avgs     : SMap Nat
  ras      : List Ras
  rasCount : Nat
  softErr  : SMap Nat
  emits    : List (Nat × Nat × Word × List Byte)
  deriving DecidableEq, Repr

/-- An inspection read under way (R411): the address, the words still to be read, those read. -/
structure InspRead where
  addr : Word
  left : Nat
  got  : List Word
  deriving DecidableEq, Repr

/-- A PCIe function's registers (R359, R360), the message-signalled interrupts it has sent, and the inspection read under way on
it (R410). -/
structure PcieFn where
  mboxreq : List Byte
  mboxrsp : List Byte
  mboxst  : BitVec 3
  msix0   : Nat
  msix1   : Nat
  doeResp : List Byte
  spdm    : Bool
  insp    : Option InspRead
  deriving DecidableEq, Repr

/-- An operation in flight on a flow (R224, R368): the uid of the thread that waits, its party, what the answer completes,
the address it named, and whether the peer has been asked to give it up (R229). -/
structure NetWait where
  uid   : Nat
  party : Party
  op    : WaitOp
  addr  : Word
  asked : Bool
  deriving DecidableEq, Repr

/-- A network flow of a die (R368), one for each pair of source package and destination partition: outgoing, to a partition of
a peer, or incoming, from a peer to a partition of this package. Keyed by die*2^15 + package*16 + partition, with 2^14 more
for an incoming one, where the package is the peer. Its key, whether it is
down, the operations in flight, the reductions not yet acknowledged (R194), the copy channels and tickets whose remote
record awaits its acknowledgments, and the messages sent. -/
structure Flow where
  pkg     : Nat
  part    : Nat
  key     : Option Nat
  down    : Bool
  waiting : List NetWait
  reds    : List Red
  copies  : List (Nat × Nat)
  sent    : List (List Word)
  deriving DecidableEq, Repr

/-- A host extent the device may cache (R354-R357). -/
structure Extent where
  base      : Nat
  size      : Nat
  migratable : Bool
  released  : Bool
  deriving DecidableEq, Repr

/-- A user interrupt under delivery (R366): its entry, its value, its number, and whether the host has refused it as a direct
message. -/
structure UintMsg where
  ctx   : Nat
  entry : Nat
  data  : Word
  seq   : Nat
  refused : Bool := false
  deriving DecidableEq, Repr

/-- Run state of the device (R379, R383, R384). -/
inductive DeviceRun where
  | recovery | running | halted
  deriving DecidableEq, Repr

/-- A request of a thread to a Milliner (R364, R393): the Milliner that serves it, the thread, the slice (8 for a scalar
request), the service code, the lane mask, the argument block, the register of a scalar response and the PC of the `sys.sys`. -/
structure SysReq where
  milli : Nat
  tid  : Nat
  uid  : Nat
  slice : Nat
  svc  : BitVec 16
  mask : BitVec 4
  block : Word
  d    : BitVec 6
  pc   : Word
  deriving DecidableEq, Repr

/-- A Milliner (R13), by its number: its local SRAM of 1 MiB and the 32-byte sectors of it that are poisoned (R414). -/
structure Milliner where
  sram   : RegFile 8
  poison : List Nat
  deriving DecidableEq, Repr

/-- Work of a home that waits for an engine's line, or for the release it stands for (R183, R216, R389). -/
inductive Chore where
  /-- A fault record, pushed as a release of its source, a thread by its uid, 0 for none (R389): the context, the core or the
  die that raised it, its bytes. -/
  | record (ctx : Nat) (core : Option Nat) (die uid : Nat) (bytes : List Byte)
  /-- A reserved position to be committed at its holder's end (R218): the block, its binding, the position. -/
  | commit (key bind pos : Nat)
  /-- A queue whose lists have changed: its block is to be stored, and its waiters served (R209, R217). -/
  | settle (key bind : Nat)
  /-- A stream position to be retired (R268). -/
  | retire (stream pos : Nat)
  deriving DecidableEq, Repr

/-- The whole machine. -/
structure State where
  cur       : Issuer
  arg       : EvArg
  agenda    : List Move
  later     : List Move
  freeCount : Nat
  nextUid   : Nat
  nextAge   : Nat
  clk       : Nat
  ptsBase   : Nat
  ungated   : Nat
  gated     : Bool
  timeBase  : Nat
  clkBase   : Nat
  slew      : Int
  timeSrc   : TimeSource
  pkg       : BitVec 10
  run       : DeviceRun
  devLevel  : Nat
  version   : BitVec 32
  bootm     : BitVec 256
  expected  : Option (BitVec 256)
  identity  : Bool
  mem       : List Host.Cell
  poison    : List Nat
  tables    : SMap Word
  l2        : SMap L2Line
  slices    : SMap SliceQ
  tlbs      : SMap (List TlbEntry)
  walkers   : SMap (List WalkEntry)
  pins      : SMap Nat
  migCount  : SMap Nat
  noMigrate : List Nat
  extents   : SMap Extent
  queues    : SMap Queue
  parts     : SMap Partition
  ctxs      : SMap Ctx
  cores     : SMap CoreSt
  threads   : SMap Thread
  cohorts   : SMap Cohort
  dies      : SMap DieSt
  chans     : SMap Channel
  streams   : SMap StreamCtl
  windows   : SMap Window
  tasks     : SMap TaskSlot
  saved     : SMap Saved
  swaps     : SMap Nat
  fns       : SMap PcieFn
  scpWrites : SMap Nat
  scpResp   : List Word
  flows     : SMap Flow
  uints     : List UintMsg
  uintOut   : List (List Word)
  sysReqs   : List SysReq
  millis    : SMap Milliner
  chores    : List Chore
  fused     : SMap Nat
  events    : List (List Word)
  deriving DecidableEq, Repr

/-- A partition with a descriptor's defaults (R300, R301, R398) and nothing else given: the frames start at 0, the
counter of window identifiers at 1 (R277). -/
def Partition.fresh : Partition :=
  { quads := 0, chbase := 0, chlog := 4, batt := false, reqsig := false, alarmpol := 0, privthr := 0, sigkey0 := 0,
    sigkey1 := 0, level := 0, key := none, partm := 0, expected := none, privAt := [],
    prioW := 0x01020408#32, lease := 64, ptsTick := 1, tHbm := 420, tHost := 2600, tIdle1 := 200000,
    tIdle2 := 2000000000, tStarve := 50000, tEvict := 200000, tPre := 4000, migT := 4096, hops := [12, 24, 70, 110],
    winNext := 1, tts := [],
    nextFrame := 0, freeFrames := [], badFrames := [], tableNext := 0, window := [], census := 0 }

/-- Partition 0 until its descriptor is first written: every quad, channels 0-511, CHLOG 9 (R373); its PARTM starts from BOOTM
at the end of boot (R383). -/
def Partition.zero : Partition := { Partition.fresh with quads := BitVec.allOnes 96, chlog := 9 }

/-- A core at power-up: the reset partition word (R156), PTS 0, caches empty, credits loaded (R300). -/
def CoreSt.fresh : CoreSt :=
  { poolword := 0x101010#64, pts := 0, l1 := [], sicache := [], licache := [], credits := [8, 4, 2, 1],
    lcredits := [8, 4, 2, 1, 8, 4, 2, 1], closing := none, swapped := false, mx := [], slq := [], responses := [],
    lastSt := [], posted := [] }

/-- A die at power-up (R419). -/
def DieSt.fresh : DieSt :=
  { combiner := [], decs := [], reqs := [], avgs := [], ras := [], rasCount := 0, softErr := [], emits := [] }

/-- A copy channel at power-up: idle, next ticket 0 (R419). -/
def Channel.fresh : Channel := { ticket := 0, chains := [], linebuf := [] }

/-- A function's registers at power-up: zero (log 1). -/
def PcieFn.fresh : PcieFn :=
  { mboxreq := [], mboxrsp := [], mboxst := 0, msix0 := 0, msix1 := 0, doeResp := [], spdm := false, insp := none }

/-- A task slot at power-up: FREE, GEN 0 (R419). -/
def TaskSlot.fresh : TaskSlot :=
  { gen := 0, count := 0, st := .free, ctx := 0, packet := [], paddr := 0, prio := 0, pieces := [], threads := 0,
    bad := false, uids := [], gone := [], tt := none, released := true, poison := [] }

/-- A Milliner at power-up: its SRAM reads zero (log 1). -/
def Milliner.fresh : Milliner := { sram := { init := 0, writes := [] }, poison := [] }

/-- The stack a Milliner lies on (R13). -/
def milliStack (m : Nat) : Nat := m / 4
/-- The die a Milliner lies on, and whose mailbox ring it stands at (R13). -/
def milliDie (m : Nat) : Nat := m / 16

/-- The machine after boot, before any request has been made (R419, R373). Absent entries of a sparse collection read
as the `fresh` values above. -/
def State.reset : State :=
  { cur := { tid := 0, party := .scalar, len := 4 }, arg := EvArg.none, agenda := [], later := [], freeCount := 1, nextUid := 1,
    nextAge := 0, clk := 0, ptsBase := 0,
    ungated := 0, gated := false, timeBase := 0, clkBase := 0, slew := 0, timeSrc := .none, pkg := 0, run := .running, devLevel := 0,
    version := 0, bootm := Config.freeSecret 0 0, expected := none, identity := true, mem := [], poison := [],
    tables := [], l2 := [], slices := [], tlbs := [], walkers := [], pins := [], migCount := [], noMigrate := [], extents := [],
    queues := [], parts := [(0, { Partition.zero with partm := Config.freeSecret 0 0 })], ctxs := [], cores := [],
    threads := [], cohorts := [], dies := [],
    chans := [], streams := [], windows := [], tasks := [], saved := [], swaps := [], fns := [], scpWrites := [],
    scpResp := [], flows := [], uints := [], uintOut := [], sysReqs := [], millis := [], chores := [], fused := [], events := [] }

end Sys2Proof.Machine
end

