-- ==== Sys2Proof/Machine/Store.lean ====
section
/-! DEFINITION. Sys2Proof/Machine/Store.lean: the plain operations on sparse collections, byte memory and register
files. Memory is the list of its cells in one canonical form: addresses strictly rising, no cell that holds 0, which is
what an unlisted byte reads as (R419, log 6). -/

namespace Sys2Proof.Machine

/-- The value under a key. -/
def look {α : Type} : SMap α → Nat → Option α
  | [], _ => none
  | (k', v) :: t, k => if k' = k then some v else look t k

/-- The collection with a key's value set. -/
def put {α : Type} : SMap α → Nat → α → SMap α
  | [], k, v => [(k, v)]
  | (k', v') :: t, k, v =>
    if k < k' then (k, v) :: (k', v') :: t
    else if k = k' then (k, v) :: t
    else (k', v') :: put t k v

/-- The collection without a key. -/
def del {α : Type} : SMap α → Nat → SMap α
  | [], _ => []
  | (k', v') :: t, k => if k' = k then del t k else (k', v') :: del t k

/-- An element put into a sorted list before the first it does not come after. -/
def insertBy {α : Type} (le : α → α → Bool) (x : α) : List α → List α
  | [] => [x]
  | y :: t => if le x y then x :: y :: t else y :: insertBy le x t

/-- A list sorted by an order, equal elements in the order they stood. -/
def sortBy {α : Type} (le : α → α → Bool) : List α → List α
  | [] => []
  | x :: t => insertBy le x (sortBy le t)

/-- Whether the keys rise strictly. -/
def sorted {α : Type} : SMap α → Bool
  | [] => true
  | [_] => true
  | (k, _) :: (k', v') :: t => decide (k < k') && sorted ((k', v') :: t)

/-- Byte memory in canonical form. -/
def Mem.wf (m : List Host.Cell) : Bool := sorted m && m.all (fun c => c.2 != 0)

/-- The byte at an address; an unlisted byte reads 0 (R419). -/
def Mem.read (m : List Host.Cell) (a : Nat) : Byte := (look m a).getD 0

/-- Memory with one byte written. -/
def Mem.write (m : List Host.Cell) (a : Nat) (b : Byte) : List Host.Cell :=
  if b = 0 then del m a else put m a b

/-- The n bytes at an address as a number, little-endian (R2). -/
def Mem.readN (m : List Host.Cell) (a : Nat) : Nat → Nat
  | 0 => 0
  | n + 1 => (Mem.read m a).toNat + 256 * Mem.readN m (a + 1) n

/-- Memory with the low n bytes of a number written little-endian (R2). -/
def Mem.writeN (m : List Host.Cell) (a : Nat) : Nat → Nat → List Host.Cell
  | 0, _ => m
  | n + 1, v => Mem.writeN (Mem.write m a (BitVec.ofNat 8 v)) (a + 1) n (v / 256)

/-- The n bytes at an address. -/
def Mem.readBytes (m : List Host.Cell) (a : Nat) : Nat → List Byte
  | 0 => []
  | n + 1 => Mem.read m a :: Mem.readBytes m (a + 1) n

/-- Memory with bytes written at an address. -/
def Mem.writeBytes (m : List Host.Cell) (a : Nat) : List Byte → List Host.Cell
  | [] => m
  | b :: bs => Mem.writeBytes (Mem.write m a b) (a + 1) bs

/-- The number bytes stand for, little-endian (R2). -/
def leNat : List Byte → Nat
  | [] => 0
  | b :: bs => b.toNat + 256 * leNat bs

/-- n bytes of a byte list at an offset, as a number. -/
def leAt (bs : List Byte) (off n : Nat) : Nat := leNat ((bs.drop off).take n)

/-- A word of a byte list at an offset. -/
def wordAt (bs : List Byte) (off : Nat) : Word := BitVec.ofNat 64 (leAt bs off 8)

/-- Bytes of a word list, little-endian. -/
def wordsBytes : List Word → List Byte
  | [] => []
  | w :: ws => leBytes 8 w.toNat ++ wordsBytes ws

/-- A byte list with bytes replaced from an offset. -/
def patchBytes (bs : List Byte) (off : Nat) (new : List Byte) : List Byte :=
  bs.take off ++ new ++ bs.drop (off + new.length)

/-- Exactly n bytes of a list, zeros past its end. -/
def padBytes (bs : List Byte) (n : Nat) : List Byte := (bs ++ List.replicate n 0).take n

/-- A 64-bit register of a file. -/
def RegFile.get64 (r : RegFile 64) (k : Nat) : Word :=
  match look r.writes k with
  | some v => v
  | none => if r.init = 0 then 0 else Config.freeWord r.init k

/-- A 32-bit register, predicate mask or cell of a file. -/
def RegFile.get32 (r : RegFile 32) (k : Nat) : Lane32 :=
  match look r.writes k with
  | some v => v
  | none => if r.init = 0 then 0 else Config.freeLane r.init k

/-- A byte of scratchpad or operand space. -/
def RegFile.get8 (r : RegFile 8) (k : Nat) : Byte :=
  match look r.writes k with
  | some v => v
  | none => if r.init = 0 then 0 else Config.freeByte r.init k

/-- A register file with one register written. -/
def RegFile.set {w : Nat} (r : RegFile w) (k : Nat) (v : BitVec w) : RegFile w :=
  { r with writes := put r.writes k v }

/-- n bytes of scratchpad or operand space as a number. -/
def RegFile.readN (r : RegFile 8) (a : Nat) : Nat → Nat
  | 0 => 0
  | n + 1 => (r.get8 a).toNat + 256 * RegFile.readN r (a + 1) n

/-- n bytes of scratchpad or operand space. -/
def RegFile.readBytes (r : RegFile 8) (a : Nat) : Nat → List Byte
  | 0 => []
  | n + 1 => r.get8 a :: RegFile.readBytes r (a + 1) n

/-- Scratchpad or operand space with bytes written. -/
def RegFile.writeBytes (r : RegFile 8) (a : Nat) : List Byte → RegFile 8
  | [] => r
  | b :: bs => RegFile.writeBytes (r.set a b) (a + 1) bs

/-- A file of registers that a birth leaves undefined, with the listed ones written (R262, R6). -/
def RegFile.born {w : Nat} (n : Nat) (ws : SMap (BitVec w)) : RegFile w := { init := n, writes := ws }

/-- The power-up file: every register zero (R419). -/
def RegFile.zero {w : Nat} : RegFile w := { init := 0, writes := [] }

/-- The numbers lo, lo + 1, … of which there are n. -/
def upFrom (lo : Nat) : Nat → List Nat
  | 0 => []
  | n + 1 => lo :: upFrom (lo + 1) n

/-- The element at a position of a list, or a default. -/
def nth {α : Type} (l : List α) (i : Nat) (d : α) : α := (l[i]?).getD d

/-- The list with the element at a position replaced. -/
def setNth {α : Type} : List α → Nat → α → List α
  | [], _, _ => []
  | _ :: t, 0, v => v :: t
  | x :: t, n + 1, v => x :: setNth t n v

/-- A sorted list of numbers with one added. -/
def addNat : List Nat → Nat → List Nat
  | [], k => [k]
  | x :: t, k => if k < x then k :: x :: t else if k = x then x :: t else x :: addNat t k

end Sys2Proof.Machine
end

