-- ==== Sys2Proof/Machine/Flags.lean ====
section
/-! DEFINITION. Sys2Proof/Machine/Flags.lean: the number formats bit by bit, the one rounding function and the flags it
raises (R68-R79), the exact accumulator (R83-R85), and the bit-field helpers of R44. Values are exact: a sign, a natural
number and a power of two. -/

namespace Sys2Proof.Machine

/-- sext(x, w): the low w bits of x read as two's complement (R44). -/
def sext (x w : Nat) : Int :=
  let y := x % 2 ^ w
  if w = 0 then 0 else if y < 2 ^ (w - 1) then (y : Int) else (y : Int) - (2 ^ w : Nat)

/-- wrap(x, w): x mod 2^w (R44). -/
def wrap (x : Int) (w : Nat) : Nat := (x % ((2 ^ w : Nat) : Int)).toNat

/-- clamp(x, lo, hi) (R44). -/
def clampInt (x lo hi : Int) : Int := if x < lo then lo else if hi < x then hi else x

/-- Bits h down to l of a number (R2, R5). -/
def bits (x h l : Nat) : Nat := (x / 2 ^ l) % 2 ^ (h + 1 - l)

/-- Bit length of a number, by fuel. -/
def bitLenAux : Nat → Nat → Nat
  | 0, _ => 0
  | f + 1, n => if n = 0 then 0 else bitLenAux f (n / 2) + 1

/-- Bit length of a number. -/
def bitLen (n : Nat) : Nat := if n = 0 then 0 else Nat.log2 n + 1

/-- The number of one bits among the low w. -/
def popc : Nat → Nat → Nat
  | 0, _ => 0
  | w + 1, x => x % 2 + popc w (x / 2)

/-- Trailing zero bits among the low w; w when there is no one bit. -/
def ctz : Nat → Nat → Nat
  | 0, _ => 0
  | w + 1, x => if x % 2 = 1 then 0 else ctz w (x / 2) + 1

/-- Leading zero bits of a w-bit number. -/
def clz (w x : Nat) : Nat := w - bitLen (x % 2 ^ w)

/-- Rounding modes (R76); the codes of R97. -/
inductive RMode where
  | rne | rz | ru | rd
  deriving DecidableEq, Repr

/-- The rounding mode of a code (R97). -/
def RMode.ofCode (c : Nat) : RMode :=
  match c % 4 with
  | 0 => .rne
  | 1 => .rz
  | 2 => .ru
  | _ => .rd

/-- A floating-point format (R70): exponent and fraction bits, bias, and how its top exponent reads. -/
structure Fmt where
  ew   : Nat
  fw   : Nat
  bias : Nat
  /-- 0: infinities and NaNs as IEEE; 1: e4m3, one NaN code and no infinity; 2: e2m1, neither. -/
  kind : Nat
  deriving DecidableEq, Repr

/-- binary64. -/
def Fmt.f64 : Fmt := { ew := 11, fw := 52, bias := 1023, kind := 0 }
/-- binary32. -/
def Fmt.f32 : Fmt := { ew := 8, fw := 23, bias := 127, kind := 0 }
/-- binary16. -/
def Fmt.f16 : Fmt := { ew := 5, fw := 10, bias := 15, kind := 0 }
/-- bf16. -/
def Fmt.bf16 : Fmt := { ew := 8, fw := 7, bias := 127, kind := 0 }
/-- e4m3. -/
def Fmt.e4m3 : Fmt := { ew := 4, fw := 3, bias := 7, kind := 1 }
/-- e5m2. -/
def Fmt.e5m2 : Fmt := { ew := 5, fw := 2, bias := 15, kind := 0 }
/-- e2m1. -/
def Fmt.e2m1 : Fmt := { ew := 2, fw := 1, bias := 1, kind := 2 }

/-- Width of a format. -/
def Fmt.width (f : Fmt) : Nat := f.ew + f.fw + 1

/-- The format of a float type code (R36). -/
def Fmt.ofTy (ty : Nat) : Fmt :=
  match ty with
  | 8 => .f32
  | 9 => .f16
  | 10 => .bf16
  | 11 => .f64
  | 12 => .e4m3
  | 13 => .e5m2
  | _ => .e2m1

/-- Whether a type code is an integer type. -/
def isIntTy (ty : Nat) : Bool := decide (ty ≤ 7)

/-- Whether an integer type code is signed. -/
def isSigned (ty : Nat) : Bool := decide (ty ≤ 3)

/-- Width of a type code (R36). -/
def widthOf (ty : Nat) : Nat := tyWidth (BitVec.ofNat 4 ty)

/-- Sat(x, ty) (R69). -/
def satTy (x : Int) (ty : Nat) : Int :=
  let w := widthOf ty
  if isSigned ty then clampInt x (-(2 ^ (w - 1) : Nat)) ((2 ^ (w - 1) : Nat) - 1)
  else clampInt x 0 ((2 ^ w : Nat) - 1)

/-- An exact value: NaN, an infinity, or sign and magnitude m·2^e (R44). -/
inductive FVal where
  | nan
  | inf (neg : Bool)
  | fin (neg : Bool) (m : Nat) (e : Int)
  deriving DecidableEq, Repr

/-- The FPFLAGS bits (R78): bit 0 INVALID, 1 DIVZERO, 2 OVERFLOW, 3 UNDERFLOW, 4 INEXACT, 5 FXSAT. -/
abbrev FFlags := BitVec 6

/-- INVALID. -/
abbrev fInvalid : FFlags := 1#6
/-- DIVZERO. -/
abbrev fDivZero : FFlags := 2#6
/-- OVERFLOW. -/
abbrev fOverflow : FFlags := 4#6
/-- UNDERFLOW. -/
abbrev fUnderflow : FFlags := 8#6
/-- INEXACT. -/
abbrev fInexact : FFlags := 16#6
/-- FXSAT. -/
abbrev fFxsat : FFlags := 32#6

/-- CanonNaN of a format (R44, R70). -/
def canonNaN (f : Fmt) : Nat :=
  if f.kind = 2 then 0
  else if f.kind = 1 then 0x7F
  else (2 ^ f.ew - 1) * 2 ^ f.fw + 2 ^ (f.fw - 1)

/-- Value(bits, format) (R44, R70). -/
def Fmt.value (f : Fmt) (x : Nat) : FVal :=
  let neg := x / 2 ^ (f.ew + f.fw) % 2 == 1
  let ex := x / 2 ^ f.fw % 2 ^ f.ew
  let fr := x % 2 ^ f.fw
  if f.kind = 0 ∧ ex = 2 ^ f.ew - 1 then (if fr = 0 then .inf neg else .nan)
  else if f.kind = 1 ∧ ex = 2 ^ f.ew - 1 ∧ fr = 2 ^ f.fw - 1 then .nan
  else if ex = 0 then .fin neg fr (1 - (f.bias : Int) - f.fw)
  else .fin neg (2 ^ f.fw + fr) ((ex : Int) - f.bias - f.fw)

/-- The largest finite magnitude of a format, as m·2^e (R70). -/
def Fmt.maxFin (f : Fmt) : Nat × Int :=
  let top : Nat := if f.kind = 0 then 2 ^ f.ew - 2 else 2 ^ f.ew - 1
  let fr : Nat := if f.kind = 1 then 2 ^ f.fw - 2 else 2 ^ f.fw - 1
  (2 ^ f.fw + fr, (top : Int) - f.bias - f.fw)

/-- The code of the largest finite magnitude. -/
def Fmt.maxCode (f : Fmt) : Nat :=
  let top : Nat := if f.kind = 0 then 2 ^ f.ew - 2 else 2 ^ f.ew - 1
  let fr : Nat := if f.kind = 1 then 2 ^ f.fw - 2 else 2 ^ f.fw - 1
  top * 2 ^ f.fw + fr

/-- The sign bit of a format, set or clear. -/
def Fmt.signBit (f : Fmt) (neg : Bool) : Nat := if neg then 2 ^ (f.ew + f.fw) else 0

/-- An infinity of a format. -/
def Fmt.infCode (f : Fmt) (neg : Bool) : Nat := f.signBit neg + (2 ^ f.ew - 1) * 2 ^ f.fw

/-- m·2^e compared with m'·2^e'. -/
def magCmp (m : Nat) (e : Int) (m' : Nat) (e' : Int) : Ordering :=
  if e ≤ e' then compare m (m' * 2 ^ (e' - e).toNat) else compare (m * 2 ^ (e - e').toNat) m'

/-- m·2^e rounded to a whole number of units 2^q, under a mode and a sign; whether it was exact. -/
def roundUnits (mode : RMode) (neg : Bool) (m : Nat) (e q : Int) : Nat × Bool :=
  if q ≤ e then (m * 2 ^ (e - q).toNat, true)
  else
    let s := (q - e).toNat
    let k := m / 2 ^ s
    let r := m % 2 ^ s
    if r = 0 then (k, true)
    else
      let up := match mode with
        | .rne => decide (2 * r > 2 ^ s) || (decide (2 * r = 2 ^ s) && k % 2 == 1)
        | .rz => false
        | .ru => !neg
        | .rd => neg
      (if up then k + 1 else k, false)

/-- What a finite magnitude beyond the range of a format becomes (R76). -/
def overflowCode (f : Fmt) (mode : RMode) (neg : Bool) : Nat :=
  if f.kind = 0 then
    match mode, neg with
    | .rne, _ => f.infCode neg
    | .rz, _ => f.signBit neg + f.maxCode
    | .ru, false => f.infCode false
    | .ru, true => f.signBit true + f.maxCode
    | .rd, true => f.infCode true
    | .rd, false => f.maxCode
  else f.signBit neg + f.maxCode

/-- Round(±m·2^e, format, mode) of a finite value with the flags it raises (R76). -/
def roundFin (f : Fmt) (mode : RMode) (neg : Bool) (m : Nat) (e : Int) : Nat × FFlags :=
  if m = 0 then (f.signBit neg, 0)
  else
    let lead := e + bitLen m - 1
    let emin : Int := 1 - (f.bias : Int)
    let free := roundUnits mode neg m e (lead - f.fw)
    let mx := f.maxFin
    if magCmp free.1 (lead - f.fw) mx.1 mx.2 = .gt then (overflowCode f mode neg, fOverflow ||| fInexact)
    else
      let q := max lead emin - f.fw
      let r := roundUnits mode neg m e q
      let tiny := magCmp free.1 (lead - f.fw) 1 emin = .lt
      let fl : FFlags := if r.2 then 0 else if tiny then fInexact ||| fUnderflow else fInexact
      let code :=
        if r.1 < 2 ^ f.fw then r.1
        else
          let q' := if r.1 = 2 ^ (f.fw + 1) then q + 1 else q
          let k := if r.1 = 2 ^ (f.fw + 1) then 2 ^ f.fw else r.1
          (q' + f.fw + f.bias).toNat * 2 ^ f.fw + (k - 2 ^ f.fw)
      (f.signBit neg + code, fl)

/-- Round(x, format, mode) (R44, R76). -/
def roundF (f : Fmt) (mode : RMode) : FVal → Nat × FFlags
  | .nan => if f.kind = 2 then (0, fInvalid) else (canonNaN f, 0)
  | .inf neg =>
    if f.kind = 0 then (f.infCode neg, 0)
    else if f.kind = 1 then (canonNaN f, fInvalid)
    else (f.signBit neg + f.maxCode, fInvalid)
  | .fin neg m e => roundFin f mode neg m e

/-- Round(x, integer type, mode) as a w-bit code (R76). -/
def roundI (ty : Nat) (mode : RMode) (x : FVal) : Nat × FFlags :=
  let w := widthOf ty
  match x with
  | .nan => (0, fInvalid)
  | .inf neg => (wrap (satTy (if neg then -(2 ^ 70 : Nat) else (2 ^ 70 : Nat)) ty) w, fInvalid)
  | .fin neg m e =>
    let r := roundUnits mode neg m e 0
    let i : Int := if neg then -(r.1 : Int) else r.1
    let s := satTy i ty
    (wrap s w, if s ≠ i then fInvalid else if r.2 then 0 else fInexact)

/-- Value(bits, ty) of any type code but qn4 (R44, R95). -/
def valueTy (ty x : Nat) : FVal :=
  if isIntTy ty then
    let i : Int := if isSigned ty then sext x (widthOf ty) else (x % 2 ^ widthOf ty : Nat)
    .fin (decide (i < 0)) i.natAbs 0
  else (Fmt.ofTy ty).value x

/-- Round(x, ty, mode) of any type code but qn4 (R44, R76). -/
def roundTy (ty : Nat) (mode : RMode) (x : FVal) : Nat × FFlags :=
  if isIntTy ty then roundI ty mode x else roundF (Fmt.ofTy ty) mode x

/-- Whether a value is a zero. -/
def FVal.isZero : FVal → Bool
  | .fin _ m _ => m == 0
  | _ => false

/-- The sign of a value. -/
def FVal.neg : FVal → Bool
  | .nan => false
  | .inf n => n
  | .fin n _ _ => n

/-- The value with its sign inverted. -/
def FVal.negate : FVal → FVal
  | .nan => .nan
  | .inf n => .inf (!n)
  | .fin n m e => .fin (!n) m e

/-- x + y with the sign of an exact zero sum under the mode (R71); INVALID for ∞ − ∞ (R98). A sum of two +0 stays +0
under RD too, as IEEE 754, which R71 follows, has it (log 20). -/
def FVal.add (mode : RMode) (x y : FVal) : FVal × FFlags :=
  match x, y with
  | .nan, _ => (.nan, 0)
  | _, .nan => (.nan, 0)
  | .inf a, .inf b => if a = b then (.inf a, 0) else (.nan, fInvalid)
  | .inf a, _ => (.inf a, 0)
  | _, .inf b => (.inf b, 0)
  | .fin a m e, .fin b n g =>
    let q := min e g
    let u : Int := (m * 2 ^ (e - q).toNat : Nat)
    let v : Int := (n * 2 ^ (g - q).toNat : Nat)
    let s : Int := (if a then -u else u) + (if b then -v else v)
    if s = 0 then
      let z := if a = b ∧ m = 0 ∧ n = 0 then a else decide (mode = .rd)
      (.fin z 0 0, 0)
    else (.fin (decide (s < 0)) s.natAbs q, 0)

/-- x · y; INVALID for 0 · ∞ (R98). -/
def FVal.mul (x y : FVal) : FVal × FFlags :=
  match x, y with
  | .nan, _ => (.nan, 0)
  | _, .nan => (.nan, 0)
  | .inf a, .inf b => (.inf (a != b), 0)
  | .inf a, .fin b n _ => if n = 0 then (.nan, fInvalid) else (.inf (a != b), 0)
  | .fin a m _, .inf b => if m = 0 then (.nan, fInvalid) else (.inf (a != b), 0)
  | .fin a m e, .fin b n g => (.fin (a != b) (m * n) (e + g), 0)

/-- x · y + z before its one rounding; INVALID for 0 · ∞ even when z is NaN (R98). -/
def FVal.fma (mode : RMode) (x y z : FVal) : FVal × FFlags :=
  let p := x.mul y
  let s := p.1.add mode z
  (s.1, p.2 ||| (if p.2 = 0 then s.2 else 0))

/-- A quotient m/n·2^e as a value that rounds as the exact one does: at least 64 more bits than any format holds, and a
last bit that says whether anything was left over. -/
def divMag (m n : Nat) (e : Int) : Nat × Int :=
  let s := bitLen n + 70
  let k := m * 2 ^ s
  let q := k / n
  (2 * q + (if k % n = 0 then 0 else 1), e - s - 1)

/-- x / y (R98). -/
def FVal.div (x y : FVal) : FVal × FFlags :=
  match x, y with
  | .nan, _ => (.nan, 0)
  | _, .nan => (.nan, 0)
  | .inf _, .inf _ => (.nan, fInvalid)
  | .inf a, .fin b _ _ => (.inf (a != b), 0)
  | .fin a _ _, .inf b => (.fin (a != b) 0 0, 0)
  | .fin a m e, .fin b n g =>
    if n = 0 then (if m = 0 then (.nan, fInvalid) else (.inf (a != b), fDivZero))
    else
      let d := divMag m n (e - g)
      (.fin (a != b) d.1 d.2, 0)

/-- Integer square root, bit by bit: the largest r with r² ≤ n, by fuel over the bits of the root. -/
def isqrtAux (n : Nat) : Nat → Nat → Nat
  | 0, r => r
  | b + 1, r =>
    let t := r + 2 ^ b
    isqrtAux n b (if t * t ≤ n then t else r)

/-- Integer square root. -/
def isqrt (n : Nat) : Nat := isqrtAux n ((bitLen n + 1) / 2 + 1) 0

/-- √x (R98). -/
def FVal.sqrt (x : FVal) : FVal × FFlags :=
  match x with
  | .nan => (.nan, 0)
  | .inf false => (.inf false, 0)
  | .inf true => (.nan, fInvalid)
  | .fin neg m e =>
    if m = 0 then (.fin neg 0 0, 0)
    else if neg then (.nan, fInvalid)
    else
      let odd := e % 2 = 1
      let m1 := if odd then 2 * m else m
      let e1 := if odd then e - 1 else e
      let k := m1 * 2 ^ 140
      let r := isqrt k
      (.fin false (2 * r + (if r * r = k then 0 else 1)) (e1 / 2 - 70 - 1), 0)

/-- 1 / √x (R98). -/
def FVal.rsqrt (x : FVal) : FVal × FFlags :=
  match x with
  | .nan => (.nan, 0)
  | .inf false => (.fin false 0 0, 0)
  | .inf true => (.nan, fInvalid)
  | .fin neg m e =>
    if m = 0 then (.inf neg, fDivZero)
    else if neg then (.nan, fInvalid)
    else
      let odd := e % 2 = 1
      let m1 := if odd then 2 * m else m
      let e1 := if odd then e - 1 else e
      let h := bitLen m1 + 80
      let r := isqrt (2 ^ (2 * h) / m1)
      (.fin false (2 * r + (if r * r * m1 = 2 ^ (2 * h) then 0 else 1)) (-(e1 / 2) - h - 1), 0)

/-- Fixed-point bits of the special functions (log 11). -/
def spBits : Nat := 400

/-- ln 2 in fixed point, rounded down. -/
def ln2Fix : Nat :=
  1789879222497203190815761498240779176894896805856420935579692301363062920687047601279850318367644315849030039181347319086

/-- Σ tⁿ/n! in fixed point, from a term on, by fuel. -/
def expSeries (t : Nat) : Nat → Nat → Nat → Nat
  | 0, _, _ => 0
  | f + 1, n, term => term + expSeries t f (n + 1) (term * t / 2 ^ spBits / (n + 1))

/-- 2^x (R98). A non-integer dyadic x gives an irrational 2^x, so the last bit of the value always says "more" (log
11). -/
def FVal.exp2 (x : FVal) : FVal × FFlags :=
  match x with
  | .nan => (.nan, 0)
  | .inf false => (.inf false, 0)
  | .inf true => (.fin false 0 0, 0)
  | .fin neg m e =>
    if m = 0 then (.fin false 1 0, 0)
    else if 14 ≤ e + bitLen m then
      (if neg then .fin false 1 (-(2 ^ 14 : Nat)) else .fin false 1 (2 ^ 14 : Nat), 0)
    else
      let s := (-e).toNat
      let mag := if 0 ≤ e then m * 2 ^ e.toNat else m
      let v : Int := if neg then -(mag : Int) else mag
      let den : Nat := 2 ^ s
      let i := v / (den : Int)
      let fr := (v % (den : Int)).toNat
      if fr = 0 then (.fin false 1 i, 0)
      else
        let f := if spBits ≤ s then fr / 2 ^ (s - spBits) else fr * 2 ^ (spBits - s)
        let t := f * ln2Fix / 2 ^ spBits
        let y := min (expSeries t 90 0 (2 ^ spBits)) (2 ^ (spBits + 1) - 1)
        (.fin false (2 * y + 1) (i - spBits - 1), 0)

/-- Σ z^(2k+1)/(2k+1) in fixed point, by fuel. -/
def atanhSeries (z2 : Nat) : Nat → Nat → Nat → Nat
  | 0, _, _ => 0
  | f + 1, k, zp => zp / (2 * k + 1) + atanhSeries z2 f (k + 1) (zp * z2 / 2 ^ spBits)

/-- log2 x (R98). It is exact only where x is a power of two (log 11). -/
def FVal.log2 (x : FVal) : FVal × FFlags :=
  match x with
  | .nan => (.nan, 0)
  | .inf false => (.inf false, 0)
  | .inf true => (.nan, fInvalid)
  | .fin neg m e =>
    if m = 0 then (.inf true, fDivZero)
    else if neg then (.nan, fInvalid)
    else
      let b := bitLen m - 1
      let ex : Int := e + b
      if m = 2 ^ b then (.fin (decide (ex < 0)) ex.natAbs 0, 0)
      else
        let z := (m - 2 ^ b) * 2 ^ spBits / (m + 2 ^ b)
        let at2 := 2 * atanhSeries (z * z / 2 ^ spBits) 140 0 z
        let l := at2 * 2 ^ spBits / ln2Fix
        if 0 ≤ ex then (.fin false (2 * (ex.toNat * 2 ^ spBits + l) + 1) (-(spBits : Int) - 1), 0)
        else (.fin true (2 * ((-ex).toNat * 2 ^ spBits - l - 1) + 1) (-(spBits : Int) - 1), 0)

/-- −0 orders below +0 and a lone NaN gives the other operand (R99): the smaller, or the larger, of two values. -/
def FVal.pick (wantMax : Bool) (x y : FVal) : FVal :=
  match x, y with
  | .nan, v => v
  | v, .nan => v
  | x, y =>
    let key : FVal → Int × Nat × Int := fun v =>
      match v with
      | .nan => (0, 0, 0)
      | .inf n => (if n then -2 else 2, 0, 0)
      | .fin n m e => (if n then -1 else 1, m, e)
    let kx := key x
    let ky := key y
    let less : Bool :=
      if kx.1 ≠ ky.1 then decide (kx.1 < ky.1)
      else
        match magCmp kx.2.1 kx.2.2 ky.2.1 ky.2.2 with
        | .lt => decide (0 < kx.1)
        | .gt => decide (kx.1 < 0)
        | .eq => false
    if wantMax then (if less then y else x) else (if less then x else y)

/-- Whether x < y, both not NaN, +0 equal to −0 (R99). -/
def FVal.lt (x y : FVal) : Bool :=
  match x, y with
  | .nan, _ => false
  | _, .nan => false
  | .inf a, .inf b => a && !b
  | .inf a, _ => a
  | _, .inf b => !b
  | .fin a m e, .fin b n g =>
    if m = 0 ∧ n = 0 then false
    else if m = 0 then !b
    else if n = 0 then a
    else if a ≠ b then a
    else if a then magCmp m e n g = .gt
    else magCmp m e n g = .lt

/-- Whether x = y, both not NaN, +0 equal to −0 (R99). -/
def FVal.feq (x y : FVal) : Bool :=
  match x, y with
  | .nan, _ => false
  | _, .nan => false
  | .inf a, .inf b => a == b
  | .inf _, _ => false
  | _, .inf _ => false
  | .fin a m e, .fin b n g =>
    if m = 0 ∧ n = 0 then true
    else (m != 0) && (n != 0) && a == b && decide (magCmp m e n g = .eq)

/-- The code of a value that a format holds exactly, a NaN as CanonNaN. -/
def encodeF (f : Fmt) (x : FVal) : Nat := (roundF f .rne x).1

/-- RNE of a + b in a format, both given as codes (R44, R98). -/
def addF (f : Fmt) (a b : Nat) : Nat × FFlags :=
  let s := (f.value a).add .rne (f.value b)
  let r := roundF f .rne s.1
  (r.1, r.2 ||| s.2)

/-- RNE of a · b in a format. -/
def mulF (f : Fmt) (a b : Nat) : Nat × FFlags :=
  let s := (f.value a).mul (f.value b)
  let r := roundF f .rne s.1
  (r.1, r.2 ||| s.2)

/-- RNE of a / b in a format. -/
def divF (f : Fmt) (a b : Nat) : Nat × FFlags :=
  let s := (f.value a).div (f.value b)
  let r := roundF f .rne s.1
  (r.1, r.2 ||| s.2)

/-- The conversion of `fxadd` (R84): the addend of an f32 or f64 value as a signed number of units 2^−64. -/
def fxConvert (x : FVal) : Int × FFlags :=
  match x with
  | .nan => (0, fInvalid)
  | .inf neg => (if neg then -(2 ^ 127 : Nat) else (2 ^ 127 : Nat) - 1, fFxsat)
  | .fin neg m e =>
    let r := roundUnits .rne neg m e (-64)
    let i : Int := if neg then -(r.1 : Int) else r.1
    let c := clampInt i (-(2 ^ 127 : Nat)) ((2 ^ 127 : Nat) - 1)
    (c, (if c ≠ i then fFxsat else 0) ||| (if r.2 then 0 else fInexact))

/-- The value `fxread` returns (R85). -/
def fxRead (f : Fmt) (x : Nat) : Nat × FFlags :=
  let i := sext x 128
  roundFin f .rne (decide (i < 0)) i.natAbs (-64)

/-- The levels of the qn4 codebook, in units of 1/256 (R74). -/
def qnLevel256 : List Int := [-256, -178, -134, -101, -73, -47, -23, 0, 20, 41, 63, 87, 113, 144, 185, 256]

/-- Level(c) of a qn4 code (R74). -/
def qnLevel (c : Nat) : FVal :=
  let l := nth qnLevel256 (c % 16) 0
  .fin (decide (l < 0)) l.natAbs (-8)

/-- The block scale s of a qn4 block (R75): RNE(F·q) in f32, then times 2^−8 rounded to nearest even. -/
def qnScale (f q : Nat) : Nat :=
  let p := (roundF .f32 .rne ((Fmt.f32.value f).mul (.fin false q 0)).1).1
  (roundF .f32 .rne ((Fmt.f32.value p).mul (.fin false 1 (-8))).1).1

/-- One round of Philox4x32 (R150). -/
def philoxRound (k : Nat × Nat) (c : Nat × Nat × Nat × Nat) : Nat × Nat × Nat × Nat :=
  let p0 := 0xD2511F53 * c.1
  let p1 := 0xCD9E8D57 * c.2.2.1
  (Nat.xor (Nat.xor (p1 / 2 ^ 32) c.2.1) k.1, p1 % 2 ^ 32,
   Nat.xor (Nat.xor (p0 / 2 ^ 32) c.2.2.2) k.2, p0 % 2 ^ 32)

/-- The rounds of Philox4x32, by fuel. -/
def philoxRounds : Nat → Nat × Nat → Nat × Nat × Nat × Nat → Nat × Nat × Nat × Nat
  | 0, _, c => c
  | n + 1, k, c =>
    philoxRounds n ((k.1 + 0x9E3779B9) % 2 ^ 32, (k.2 + 0xBB67AE85) % 2 ^ 32) (philoxRound k c)

/-- Philox4x32-10 (R150): the four output words of a key and a counter. -/
def philox (key : Word) (c0 c1 c2 c3 : Nat) : List Nat :=
  let r := philoxRounds 10 (key.toNat % 2 ^ 32, key.toNat / 2 ^ 32) (c0 % 2 ^ 32, c1 % 2 ^ 32, c2 % 2 ^ 32, c3 % 2 ^ 32)
  [r.1, r.2.1, r.2.2.1, r.2.2.2]

/-- The Castagnoli CRC over one byte, by fuel over its bits (R207). -/
def crcBits : Nat → Nat → Nat
  | 0, c => c
  | n + 1, c => crcBits n (if c % 2 = 1 then Nat.xor (c / 2) 0x82F63B78 else c / 2)

/-- CRC-32C of bytes from a running value. -/
def crcGo : List Byte → Nat → Nat
  | [], c => c
  | b :: bs, c => crcGo bs (crcBits 8 (Nat.xor c b.toNat))

/-- CRC-32C (R207). -/
def crc32c (bs : List Byte) : Nat := Nat.xor (crcGo bs 0xFFFFFFFF) 0xFFFFFFFF

end Sys2Proof.Machine
end

