-- ==== Sys2Proof/Machine/Operands.lean ====
section
/-! DEFINITION. Sys2Proof/Machine/Operands.lean: where each piece of state stands, and every operand form: scalar
registers (R30), lane operands (R31, R45), predicates, runs, uniform operands (R125), immediates and offsets (R22). -/

namespace Sys2Proof.Machine

/-- The outcome of a step of this machine. -/
abbrev Out := Host.Outcome State Fault Refusal

/-- Partition p (R372). -/
def State.partAt (s : State) (p : Nat) : Partition := (look s.parts p).getD Partition.fresh
/-- Core n (R10). -/
def State.coreAt (s : State) (n : Nat) : CoreSt := (look s.cores n).getD CoreSt.fresh
/-- Die d (R9). -/
def State.dieAt (s : State) (d : Nat) : DieSt := (look s.dies d).getD DieSt.fresh
/-- Copy channel, quad*16 + channel (R231). -/
def State.chanAt (s : State) (c : Nat) : Channel := (look s.chans c).getD Channel.fresh
/-- Task slot, die*65536 + slot (R285). -/
def State.taskAt (s : State) (k : Nat) : TaskSlot := (look s.tasks k).getD TaskSlot.fresh
/-- PCIe function n (R358). -/
def State.fnAt (s : State) (n : Nat) : PcieFn := (look s.fns n).getD PcieFn.fresh

/-- The machine with a thread replaced. -/
def State.setThread (s : State) (tid : Nat) (t : Thread) : State := { s with threads := put s.threads tid t }
/-- The machine with a core replaced. -/
def State.setCore (s : State) (n : Nat) (c : CoreSt) : State := { s with cores := put s.cores n c }
/-- The machine with a cohort replaced. -/
def State.setCohort (s : State) (k : Nat) (c : Cohort) : State := { s with cohorts := put s.cohorts k c }
/-- The machine with a context replaced. -/
def State.setCtx (s : State) (k : Nat) (c : Ctx) : State := { s with ctxs := put s.ctxs k c }
/-- The machine with a partition replaced. -/
def State.setPart (s : State) (k : Nat) (p : Partition) : State := { s with parts := put s.parts k p }
/-- The machine with a die replaced. -/
def State.setDie (s : State) (k : Nat) (d : DieSt) : State := { s with dies := put s.dies k d }
/-- The machine with a copy channel replaced. -/
def State.setChan (s : State) (k : Nat) (c : Channel) : State := { s with chans := put s.chans k c }
/-- The machine with a task slot replaced. -/
def State.setTask (s : State) (k : Nat) (t : TaskSlot) : State := { s with tasks := put s.tasks k t }
/-- The machine with a function replaced. -/
def State.setFn (s : State) (k : Nat) (f : PcieFn) : State := { s with fns := put s.fns k f }
/-- The machine with a global queue's home state replaced. -/
def State.setQueue (s : State) (k : Nat) (q : Queue) : State := { s with queues := put s.queues k q }
/-- The machine with a window replaced. -/
def State.setWindow (s : State) (k : Nat) (w : Window) : State := { s with windows := put s.windows k w }
/-- The machine with a stream's control replaced. -/
def State.setStream (s : State) (k : Nat) (c : StreamCtl) : State := { s with streams := put s.streams k c }

/-- Core of a thread name. -/
def coreOf (tid : Nat) : Nat := tid / 32
/-- Die of a core (R10). -/
def dieOfCore (core : Nat) : Nat := core / 96
/-- Quad of a core (R10). -/
def quadOfCore (core : Nat) : Nat := core / 4
/-- Partition of a context key. -/
def partOfCtx (ctx : Nat) : Nat := ctx / 64
/-- The partition whose quads hold a core (R372). -/
def State.partOfCore (s : State) (core : Nat) : Option Nat :=
  (s.parts.find? (fun p => p.2.quads.getLsbD (core / 4))).map Prod.fst

/-- The thread that issues, if it lives. -/
def issuer (s : State) : Option Thread :=
  match look s.threads s.cur.tid with
  | some t => if t.ended then none else some t
  | none => none

/-- What an instruction of the issuing thread does; with no live thread there is nothing to run. -/
def onThread (s : State) (k : Nat → Thread → Out) : Out :=
  match issuer s with
  | some t => k s.cur.tid t
  | none => .fault .noIssuer

/-- S(i): the value of s(i); 0 for s0 (R30, R44). -/
def Thread.S (t : Thread) (i : BitVec 6) : Word := if i = 0 then 0 else t.s.get64 i.toNat

/-- SetS(i, v): s(i) := v, unless i is 0 (R30, R44). -/
def Thread.setS (t : Thread) (i : BitVec 6) (v : Word) : Thread :=
  if i = 0 then t else { t with s := t.s.set i.toNat v }

/-- S(a + i) for a run of scalar registers. -/
def Thread.SRun (t : Thread) (a : BitVec 6) (i : Nat) : Word := t.S (BitVec.ofNat 6 (a.toNat + i))

/-- The thread at its next scalar instruction, waiting for nothing. -/
def Thread.step4 (t : Thread) : Thread := { t with pc := t.pc + 4, wait := none }

/-- A number as a 64-bit word. -/
def word (n : Nat) : Word := BitVec.ofNat 64 n

/-- An integer as a 64-bit word: wrap(x, 64). -/
def wordI (n : Int) : Word := BitVec.ofInt 64 n

/-- −1: closed, or none left (R220, R295). -/
def wMinus1 : Word := BitVec.allOnes 64
/-- −2: the operation would have blocked (R220). -/
def wMinus2 : Word := BitVec.allOnes 64 - 1

/-- The scalar instruction completes, writing d (R22, R86). -/
def aluDone (s : State) (tid : Nat) (t : Thread) (d : BitVec 6) (v : Word) : Out :=
  .next (s.setThread tid (t.setS d v).step4)

/-- sext(imm, 14) (R22). -/
def sextImm (i : BitVec 14) : Word := i.signExtend 64
/-- zext(imm, 14) (R22). -/
def zextImm (i : BitVec 14) : Word := i.setWidth 64
/-- PC + 4·sext(off, 16) (R22). -/
def branchTarget (pc : Word) (o : BitVec 16) : Word := pc + (o.signExtend 64 <<< 2)
/-- PC + 4·sext(off, 26) (R22). -/
def jumpTarget (pc : Word) (o : BitVec 26) : Word := pc + (o.signExtend 64 <<< 2)
/-- S(a) + sext(off, 11)·2^sz, wrapped (R189). -/
def smAddress (base : Word) (o : BitVec 11) (sz : Nat) : Word := base + (o.signExtend 64 <<< sz)

/-- Lanes of a slice in its current mask (R253). -/
def sliceLanes (i : Nat) (sl : Slice) : List Nat :=
  (upFrom 0 4).filterMap (fun b => if sl.mask.getLsbD b then some (4 * i + b) else none)

/-- The slices of a thread that issue as the gang g (R255). -/
def Thread.gangSlices (t : Thread) (g : Nat) : List Nat :=
  (upFrom 0 t.sl.length).filter (fun i =>
    match t.sl[i]? with
    | some sl => sl.gang == g && sl.st == .issuing
    | none => false)

/-- Every lane of the slices of a gang, active or not (R105). -/
def Thread.gangLanes (t : Thread) (g : Nat) : List Nat :=
  (t.gangSlices g).flatMap (fun i => [4 * i, 4 * i + 1, 4 * i + 2, 4 * i + 3])

/-- The lanes of a gang whose mask bit is set, in ascending order (R253, R302). -/
def Thread.maskedLanes (t : Thread) (g : Nat) : List Nat :=
  (t.gangSlices g).flatMap (fun i => match t.sl[i]? with | some sl => sliceLanes i sl | none => [])

/-- Pred(L, k): bit L of pk; 1 when k is 0 (R44). -/
def Thread.pred (t : Thread) (l k : Nat) : Bool := k == 0 || (t.p.get32 k).getLsbD l

/-- ActiveLanes(): the lanes of a gang whose Active value is true, in ascending order (R44, R45). -/
def Thread.activeLanes (t : Thread) (g : Nat) (o : LaneOps) : List Nat :=
  (t.maskedLanes g).filter (fun l => t.pred l o.ps.toNat != o.pn)

/-- The block arguments of the running block; none gives zeros (R31, R45). -/
def Thread.blockArg (t : Thread) (k : Nat) : Word :=
  if t.running then
    match t.blocks with
    | b :: _ => nth b.args k 0
    | [] => 0
  else 0

/-- Key of a vector register of a lane. -/
def vKey (l r : Nat) : Nat := l * 256 + r

/-- LaneRead(L, code, ty) for a type of w bits (R45). -/
def Thread.laneRead (t : Thread) (l : Nat) (code : BitVec 8) (w : Nat) : Nat :=
  let c := code.toNat
  if 0xF8 ≤ c then
    let b := t.blockArg (c - 0xF8)
    if w = 64 then b.toNat else b.toNat % 2 ^ 32
  else if w = 64 then (t.v.get32 (vKey l c)).toNat + 2 ^ 32 * (t.v.get32 (vKey l (c + 1))).toNat
  else (t.v.get32 (vKey l c)).toNat

/-- One lane's part of LaneWrite into a vector register (R45). -/
def writeLane (r : RegFile 32) (l c w x : Nat) : RegFile 32 :=
  if w = 64 then (r.set (vKey l c) (BitVec.ofNat 32 x)).set (vKey l (c + 1)) (BitVec.ofNat 32 (x / 2 ^ 32))
  else r.set (vKey l c) (BitVec.ofNat 32 (x % 2 ^ w))

/-- Whether 64-bit results of lanes in the pair of registers from c on cover a whole sector of the register bank (R414, R415):
the two registers of all four lanes of a slice. -/
def pairWhole (c : Nat) (ls : List Nat) (x : Nat) : Bool :=
  c % 2 == 0 && x % 124 == c / 2 && (upFrom (4 * (x / 124)) 4).all (fun l => ls.contains l)

/-- LaneWrite of every lane's result, in ascending lane order (R45): a vector register of each lane, or the block
result yk from the highest lane, sign-extended where the type is i8, i16 or i32 (R31). -/
def Thread.writeLanes (t : Thread) (w : Nat) (signed : Bool) (code : BitVec 8) (res : List (Nat × Nat)) : Thread :=
  let c := code.toNat
  if 0xF8 ≤ c then
    match res.getLast? with
    | some (_, x) =>
      let v : Word := if signed && w != 64 then BitVec.ofInt 64 (sext x w) else BitVec.ofNat 64 (x % 2 ^ w)
      { t with y := t.y.set (c - 0xF8) v }
    | none => t
  else
    { t with
      v := res.foldl (fun r p => writeLane r p.1 c w p.2) t.v
      vpoison := if w = 64 then t.vpoison.filter (fun x => !pairWhole c (res.map Prod.fst) x) else t.vpoison }

/-- LaneWrite for a type code. -/
def Thread.writeTy (t : Thread) (ty : BitVec 4) (code : BitVec 8) (res : List (Nat × Nat)) : Thread :=
  t.writeLanes (tyWidth ty) (decide (ty.toNat ≤ 2)) code res

/-- LaneWrite of n32 values. -/
def Thread.writeN32 (t : Thread) (code : BitVec 8) (res : List (Nat × Nat)) : Thread :=
  t.writeLanes 32 false code res

/-- Bits of a predicate written for the given lanes; p0 discards writes (R31). -/
def Thread.writePred (t : Thread) (code : BitVec 8) (res : List (Nat × Bool)) : Thread :=
  if code = 0 then t
  else
    let old := t.p.get32 code.toNat
    let new := res.foldl (fun m p =>
      if p.2 then m ||| (1#32 <<< p.1) else m &&& ~~~(1#32 <<< p.1)) old
    { t with p := t.p.set code.toNat new }

/-- Uniform(code, ty): the value of the lowest active lane (R125). -/
def Thread.uniform (t : Thread) (lanes : List Nat) (code : BitVec 8) (w : Nat) : Nat :=
  match lanes with
  | l :: _ => t.laneRead l code w
  | [] => 0

/-- A run of four n32 registers of a lane (R125). -/
def Thread.run4 (t : Thread) (l : Nat) (code : BitVec 8) (i : Nat) : Nat := (t.v.get32 (vKey l (code.toNat + i))).toNat

/-- The first register past those a field names, 0 for none that counts against VREGS (R32). -/
def fieldTop (k : FieldKind) (code : BitVec 8) : Nat :=
  match k with
  | .vector w => if 0xF8 ≤ code.toNat then 0 else code.toNat + (if w = 64 then 2 else 1)
  | .run n _ => code.toNat + n
  | _ => 0

/-- Whether a lane instruction names a vector register at or above VREGS, or a tile the thread does not hold (R32). -/
def namesBeyond (op fn : BitVec 8) (o : LaneOps) (t : Thread) : Bool :=
  let k := fieldKinds op fn o
  let regs := decide (t.vregs < fieldTop k.1 o.d) || decide (t.vregs < fieldTop k.2.1 o.a) || decide (t.vregs < fieldTop k.2.2.1 o.b)
    || decide (t.vregs < fieldTop k.2.2.2 o.c)
  let tile (kk : FieldKind) (c : BitVec 8) : Bool := kk == .tile && decide (t.tiles.length ≤ c.toNat)
  regs || tile k.1 o.d || tile k.2.1 o.a

/-- The slices of a gang moved on by the stored length of the instruction, waiting for nothing. -/
def Thread.advance (t : Thread) (g len : Nat) : Thread :=
  let gs := t.gangSlices g
  { t with sl := (upFrom 0 t.sl.length).filterMap (fun i =>
      (t.sl[i]?).map (fun sl =>
        if gs.contains i then { sl with lpc := sl.lpc + BitVec.ofNat 32 len, wait := none } else sl)) }

/-- The slices of a gang with a wait set. -/
def Thread.gangWait (t : Thread) (g : Nat) (w : Option Wait) : Thread :=
  let gs := t.gangSlices g
  { t with sl := (upFrom 0 t.sl.length).filterMap (fun i =>
      (t.sl[i]?).map (fun sl => if gs.contains i then { sl with wait := w } else sl)) }

/-- The lane PC of a gang. -/
def Thread.gangPc (t : Thread) (g : Nat) : BitVec 32 :=
  match t.gangSlices g with
  | i :: _ => match t.sl[i]? with | some sl => sl.lpc | none => 0
  | [] => 0

/-- A party's instruction waits: it stays at the instruction, out of the ready set (R217, R334). -/
def Thread.block (t : Thread) (p : Party) (w : Wait) : Thread :=
  match p with
  | .scalar => { t with wait := some w }
  | .gang g => t.gangWait g (some w)

/-- FPFLAGS with flags ORed in, one atomic OR (R35, R79). -/
def Thread.orFlags (t : Thread) (f : FFlags) : Thread := { t with fpflags := t.fpflags ||| f }

/-- The thread no longer clean (R399). -/
def Thread.dirty (t : Thread) : Thread := { t with clean := false }

end Sys2Proof.Machine
end

