-- ==== Sys2Proof/Machine/Access.lean ====
section
/-! DEFINITION. Sys2Proof/Machine/Access.lean: where an address leads (R154-R165, R345-R351), the L2, L1 and clock
bookkeeping of an access (R159, R167, R175, R186), the RAS log (R417), and the checks made on an address (R45). -/

namespace Sys2Proof.Machine

/-- Reference time in ns since the last correction (R15): one rt of 24 clk is 10 ns. -/
def State.sinceSync (s : State) : Nat := (s.clk - s.clkBase) * 10 / 24

/-- Device time in ns (R15, R371): reference time, with the correction under way slewed in at 200 ppm. -/
def State.time (s : State) : Nat :=
  let e := s.sinceSync
  let c := min s.slew.natAbs (e * 2 / 10000)
  s.timeBase + (if 0 ≤ s.slew then e + c else e - c)

/-- TICK: reference ticks since power-up (R15, R34). -/
def State.tick (s : State) : Nat := s.clk / 24

/-- ASID of a context (R346). -/
def State.asidOf (s : State) (ctx : Nat) : BitVec 16 :=
  match look s.ctxs ctx with
  | some c => c.asid
  | none => 0

/-- Functions of a partition send MSI-X vector 1 (R359, R358): function n serves partition n. -/
def State.msix1 (s : State) (fn : Nat) : State :=
  s.setFn fn { s.fnAt fn with msix1 := (s.fnAt fn).msix1 + 1 }

/-- A RAS record on a die's ring (R417), with its interrupt. `part` 255 is the device. -/
def State.addRas (s : State) (type struct die part addr : Nat) (info : List Word) : State :=
  let d := s.dieAt die
  let r : Ras := { type, struct, die, part, addr, info, time := s.time, seq := d.rasCount }
  let kept := if 4096 ≤ d.ras.length then d.ras.tail else d.ras
  let s := s.setDie die { d with ras := kept ++ [r], rasCount := d.rasCount + 1 }
  if part = 255 then s.parts.foldl (fun s p => s.msix1 p.1) s else s.msix1 part

/-- XOR of the k-bit fields of a number (R162). -/
def foldBits (k : Nat) : Nat → Nat → Nat
  | 0, _ => 0
  | f + 1, x => if x = 0 then 0 else Nat.xor (x % 2 ^ k) (foldBits k f (x / 2 ^ k))

/-- The slice index of a line under k (R162): the fold of VA[46:7]. -/
def sliceIndex (k va : Nat) : Nat := foldBits k 40 (va / 128 % 2 ^ 40)

/-- The home channel of an address for a context (R163). -/
def State.homeOf (s : State) (ctx va : Nat) : Nat :=
  let p := s.partAt (partOfCtx ctx)
  p.chbase + sliceIndex p.chlog va

/-- The set of a line in its slice (R162): VA[18+k : 7+k]. -/
def setIndex (k va : Nat) : Nat := va / 2 ^ (7 + k) % 4096

/-- Bits of a table entry (R348). -/
def leafV (e : Word) : Bool := e.getLsbD 63
/-- LEAF. -/
def leafLeaf (e : Word) : Bool := e.getLsbD 62
/-- RES. -/
def leafRes (e : Word) : Bool := e.getLsbD 61
/-- W. -/
def leafW (e : Word) : Bool := e.getLsbD 60
/-- A. -/
def leafA (e : Word) : Bool := e.getLsbD 59
/-- NC. -/
def leafNC (e : Word) : Bool := e.getLsbD 58
/-- SPK. -/
def leafSpk (e : Word) : Nat := bits e.toNat 57 56
/-- REGION. -/
def leafRegion (e : Word) : Nat := bits e.toNat 55 50
/-- KIND: 0 device, 1 host, 2 pod-remote. -/
def leafKind (e : Word) : Nat := bits e.toNat 49 48
/-- FRAME. -/
def leafFrame (e : Word) : Nat := bits e.toNat 47 0

/-- Bytes an entry of a level maps (R347): 64 KiB, 2 MiB, 1 GiB. -/
def levelShift (l : Nat) : Nat := if l = 0 then 16 else 21 + 9 * (l - 1)

/-- The address of the entry a level of the walk reads (R347). -/
def entryAddr (table l va : Nat) : Nat :=
  table + 8 * (if l = 0 then va / 2 ^ 16 % 32 else va / 2 ^ levelShift l % 512)

/-- Key of a table-store word. -/
def tableKey (part addr : Nat) : Nat := part * 2 ^ 60 + addr

/-- Whether a leaf maps a page of a size (R348). -/
def leafOk (k : Nat) (e : Word) (size : Nat) : Bool :=
  leafKind e != 3
  && (leafKind e != 2 || leafRes e)
  && (leafKind e != 0 || (decide (128 * 2 ^ k ≤ size) && decide ((leafFrame e + 1) * (size / 2 ^ k) ≤ Config.channelBytes)))

/-- What a walk finds (R347, R348): nothing mapped, an entry that breaks R348, or a leaf with its page size. -/
inductive Walk where
  | unmapped
  | malformed (entry : Nat)
  | leaf (e : Word) (size entry : Nat)
  deriving DecidableEq, Repr

/-- The walk from a level down (R347, R348), by levels left. -/
def walkFrom (tables : SMap Word) (part k va : Nat) : Nat → Nat → Walk
  | 0, table =>
    let a := entryAddr table 0 va
    let e := (look tables (tableKey part a)).getD 0
    if !leafV e then .unmapped
    else if leafLeaf e && leafOk k e (2 ^ 16) then .leaf e (2 ^ 16) a
    else .malformed a
  | l + 1, table =>
    let a := entryAddr table (l + 1) va
    let e := (look tables (tableKey part a)).getD 0
    if !leafV e then .unmapped
    else if leafLeaf e then
      if l + 1 ≤ 2 && leafOk k e (2 ^ levelShift (l + 1)) then .leaf e (2 ^ levelShift (l + 1)) a
      else .malformed a
    else if bits e.toNat 61 48 = 0 ∧ bits e.toNat 11 0 = 0 then walkFrom tables part k va l (leafFrame e)
    else .malformed a

/-- The walk of a context's table (R347). -/
def State.walk (s : State) (ctx va : Nat) : Walk :=
  match look s.ctxs ctx with
  | some c =>
    let part := partOfCtx ctx
    walkFrom s.tables part (s.partAt part).chlog va 4 c.root
  | none => .unmapped

/-- Where an address leads: nowhere, to a page whose data is not present, to a byte of device memory (channel*2^48 +
local address) or host memory (2^64 + host address), or to a page of another package. -/
inductive Place where
  | none
  | absent
  | byte (pa : Nat)
  | remote (handle : Nat)
  deriving DecidableEq, Repr

/-- Key of a byte of host memory. -/
def hostKey (a : Nat) : Nat := 2 ^ 64 + a

/-- Whether a byte key is host memory. -/
def isHost (pa : Nat) : Bool := decide (2 ^ 64 ≤ pa)

/-- The host frame that stands for the user port of a context (R367, log 14): the last 1,024 of the host's frames. -/
def portFrame (ctx : Nat) : Nat := 2 ^ 48 - 1024 + ctx

/-- The byte key of a context's user port. -/
def portKey (ctx : Nat) : Nat := hostKey (portFrame ctx * 2 ^ 16)

/-- COUNT of a context's user port (R367). -/
def State.portCount (s : State) (ctx : Nat) : Word := word (Mem.readN s.mem (portKey ctx + 8) 8)

/-- Where a leaf puts an address (R164, R165, R369). -/
def placeOf (chbase k va : Nat) (e : Word) (size : Nat) : Place :=
  match leafKind e with
  | 1 => .byte (hostKey (leafFrame e * 2 ^ 16 + va % size))
  | 2 => .remote (leafFrame e)
  | _ =>
    if leafRes e then
      .byte ((chbase + sliceIndex k va) * 2 ^ 48 + leafFrame e * (size / 2 ^ k)
        + va % size / 2 ^ (7 + k) * 128 + va % 128)
    else .absent

/-- The L2 line that holds an address under its name (R159, R346), with its physical line number. -/
def State.lineNamed (s : State) (asid : BitVec 16) (vline : Nat) : Option (Nat × L2Line) :=
  s.l2.find? (fun p => p.2.asid == asid && p.2.vline == vline)

/-- Where an address of a context leads: a line in L2 consults no table entry (R349), every other is walked. -/
def State.place (s : State) (ctx va : Nat) : Place :=
  match s.lineNamed (s.asidOf ctx) (va / 128) with
  | some (pl, _) => .byte (pl * 128 + va % 128)
  | none =>
    match s.walk ctx va with
    | .leaf e size _ => placeOf (s.partAt (partOfCtx ctx)).chbase (s.partAt (partOfCtx ctx)).chlog va e size
    | _ => .none

/-- The leaf of an address, if its walk finds one. -/
def State.leafAt (s : State) (ctx va : Nat) : Option (Word × Nat) :=
  match s.walk ctx va with
  | .leaf e size _ => some (e, size)
  | _ => none

/-- A walk that meets a malformed entry writes a RAS record (R348), on the die of the line's home. -/
def State.walkRas (s : State) (ctx va : Nat) : State :=
  match s.place ctx va, s.walk ctx va with
  | .none, .malformed a =>
    s.addRas 10 0 (s.homeOf ctx va / 128) (partOfCtx ctx) a [(s.asidOf ctx).setWidth 64]
  | _, _ => s

/-- The walks of several addresses, with the RAS records they write (R348). -/
def State.walksRas (s : State) (ctx : Nat) (vas : List Nat) : State := vas.foldl (fun s va => s.walkRas ctx va) s

/-- The distance of a region of a context (R167). -/
def regionDistance (c : Option Ctx) (region : Nat) : Nat :=
  match c with
  | none => 0x80000000
  | some c =>
    let w := (look c.sched region).getD 0
    match bits w.toNat 33 32 with
    | 0 => 0x80000000
    | 1 => (BitVec.ofNat 32 w.toNat - c.evstep).toNat
    | 2 => 0
    | _ => 0xFFFFFFFF

/-- Whether a line lies in the state area of a window of the window cache (R279). -/
def Window.pins (w : Window) (l : L2Line) : Bool :=
  w.ctx == l.ctx && w.tier == 0 && w.state.getLsbD 15
    && decide (bits w.state.toNat 56 16 * 65536 ≤ l.vline * 128)
    && decide (l.vline * 128 < (bits w.state.toNat 56 16 + bits w.state.toNat 7 0 + 1) * 65536)

/-- The distance of a line (R167); a pinned line (R212, R279) is at 0. -/
def State.distance (s : State) (l : L2Line) : Nat :=
  if l.pins ≠ 0 ∨ s.windows.any (fun w => w.2.pins l) then 0 else regionDistance (look s.ctxs l.ctx) l.region

/-- Dies of a partition that hold cores, ascending (R268). -/
def Partition.dies (p : Partition) : List Nat := (upFrom 0 4).filter (fun d => (p.quads >>> (24 * d)).setWidth 24 != 0#24)

/-- The die whose Carder takes a key's records (R268). -/
def State.dieOfKey (s : State) (part : Nat) (key : Word) : Nat :=
  let ds := (s.partAt part).dies
  let h := Nat.xor (Nat.xor (bits key.toNat 15 0) (bits key.toNat 31 16)) (Nat.xor (bits key.toNat 47 32) (bits key.toNat 63 48))
  nth ds (h % ds.length) 0

/-- Records in a die's window cache (R278): windows and the entries of count keys, of every partition on the die. -/
def State.cacheRecords (s : State) (die : Nat) : Nat :=
  (s.windows.filter (fun w => w.2.tier == 0 && s.dieOfKey (partOfCtx w.2.ctx) w.2.key == die)).length
    + (s.streams.map (fun c => (c.2.keys.filter (fun k =>
        k.2.tier == 0 && s.dieOfKey (partOfCtx c.2.ctx) (word k.1) == die)).length)).foldl (· + ·) 0

/-- Whether a line of a die's window cache, a pinned region (R168, R278), stands in way 0 of a set: a record takes two lines,
and line j of the 131,072 lies in slice j mod 128 of the die, set j / 128 (log 9). -/
def State.cacheHolds (s : State) (ch set : Nat) : Bool := decide (set * 128 + ch % 128 < 2 * s.cacheRecords (ch / 128))

/-- Ways of a set that lines of a partition replace within (R168). -/
def State.ways (s : State) (part ch set : Nat) : List Nat :=
  let ws := if (s.partAt part).batt then upFrom 0 13 else upFrom 0 16
  if s.cacheHolds ch set then ws.tail else ws

/-- The lines that stand where a window cache has come to stand leave (R168). -/
def State.yieldWays (s : State) : State :=
  { s with l2 := s.l2.filter (fun l =>
      !(l.2.way == 0 && s.cacheHolds l.2.ch (setIndex (s.partAt (partOfCtx l.2.ctx)).chlog (l.2.vline * 128)))) }

/-- The lines of a set, with their physical line numbers. -/
def State.setLines (s : State) (ch k set : Nat) : List (Nat × L2Line) :=
  s.l2.filter (fun p => p.2.ch == ch && setIndex k (p.2.vline * 128) == set)

/-- The line of a list with the largest distance, ties to the lowest way (R167). -/
def State.farthest (s : State) : List (Nat × L2Line) → Option (Nat × L2Line)
  | [] => none
  | x :: t =>
    match s.farthest t with
    | none => some x
    | some y =>
      let dx := s.distance x.2
      let dy := s.distance y.2
      if dx > dy || (dx = dy && x.2.way < y.2.way) then some x else some y

/-- Line number of scratchpad bytes of a cohort, for ownership (R183); a line of memory is named by its physical line
number. -/
def scratchLine (uid off : Nat) : Nat := 2 ^ 80 + uid * 2 ^ 24 + off / 128

/-- A piece of an access that lies in one line. -/
structure Chunk where
  va : Nat
  n  : Nat
  deriving DecidableEq, Repr

/-- Bytes split at the 128-byte lines, by fuel over the lines. -/
def chunksAux : Nat → Nat → Nat → List Chunk
  | 0, _, _ => []
  | f + 1, va, n =>
    if n = 0 then []
    else
      let m := min n (128 - va % 128)
      { va, n := m } :: chunksAux f (va + m) (n - m)

/-- The pieces of an access, one for each line it touches, in ascending address (R160). -/
def chunks (va n : Nat) : List Chunk := chunksAux (n / 128 + 2) va n

/-- Whether a chain owns a line (R183, R243). -/
def Chain.owns (h : Chain) (id : Nat) : Bool :=
  h.pre.contains id || (match h.taken with | some r => r.lines.contains id | none => false)

/-- The moves of the segments a record has skipped and not yet replayed (R241). -/
def CopyRec.skipped (r : CopyRec) : List CMove := (r.fixes.drop r.fixed).flatMap (fun g => g.moves)

/-- The destination lines of the segments a chain has skipped, in memory by now (R241): it has kept them. -/
def State.fixLines (s : State) (h : Chain) : List Nat :=
  (h.taken.elim [] CopyRec.skipped).flatMap (fun m =>
    match m.dst with
    | .global v => (chunks v.toNat m.n).filterMap (fun c =>
        match s.place h.ctx c.va with
        | .byte pa => some (pa / 128)
        | _ => none)
    | _ => [])

/-- Whether a chain owns a line, that of a skipped segment too. -/
def State.chainOwns (s : State) (h : Chain) (id : Nat) : Bool := h.owns id || (s.fixLines h).contains id

/-- Whether an engine owns a line (R133, R183): a matrix store or a copy record in flight. -/
def State.ownsLine (s : State) (id : Nat) : Bool :=
  s.cores.any (fun c => c.2.mx.any (fun o => o.owned.contains id))
  || s.chans.any (fun c => c.2.chains.any (fun h => s.chainOwns h id))

/-- The lines that engines own. -/
def State.ownedLines (s : State) : List Nat :=
  s.cores.flatMap (fun c => c.2.mx.flatMap (fun o => o.owned))
    ++ s.chans.flatMap (fun c => c.2.chains.flatMap (fun h =>
      h.pre ++ h.taken.elim [] (fun r => r.lines) ++ s.fixLines h))

/-- Way a new line takes, and the line it replaces (R167, R168): a free way, else the victim. A line that an engine owns
(R183) is replaced like any other: its ownership stands at the home, not in the line. -/
def State.victim (s : State) (ctx va : Nat) : Nat × Option Nat :=
  let part := partOfCtx ctx
  let k := (s.partAt part).chlog
  let lines := s.setLines (s.homeOf ctx va) k (setIndex k va)
  let ways := s.ways part (s.homeOf ctx va) (setIndex k va)
  match ways.find? (fun w => lines.all (fun p => p.2.way != w)) with
  | some w => (w, none)
  | none =>
    match s.farthest (lines.filter (fun p => ways.contains p.2.way)) with
    | some (pl, l) => (l.way, some pl)
    | none => (0, none)

/-- A line leaves L2, written back: memory already holds its bytes. -/
def State.dropLine (s : State) (pl : Nat) : State := { s with l2 := del s.l2 pl }

/-- A line leaves L2 without write-back (R357, R373): the bytes behind it return. -/
def State.loseLine (s : State) (pl : Nat) : State :=
  match look s.l2 pl with
  | some l =>
    if l.dirty then { s with mem := Mem.writeBytes s.mem (pl * 128) l.shadow, l2 := del s.l2 pl }
    else { s with l2 := del s.l2 pl }
  | none => s

/-- A list without its first element that an order of replacement may take. -/
def dropFirst {α : Type} (p : α → Bool) : List α → List α
  | [] => []
  | x :: t => if p x then t else x :: dropFirst p t

/-- A channel's TLB with an entry in place of any it holds for the same page (R347): at most 1,024 entries, the oldest that
no grant holds leaves (R353, log 9). -/
def tlbEnter (old : List TlbEntry) (t : TlbEntry) : List TlbEntry :=
  let rest := old.filter (fun e => !(e.asid == t.asid && e.page == t.page && e.size == t.size))
  (if 1024 ≤ rest.length then dropFirst (fun e => !e.held) rest else rest) ++ [t]

/-- A TLB entry enters a channel's TLB (R347). -/
def State.tlbFill (s : State) (ch : Nat) (t : TlbEntry) : State :=
  { s with tlbs := put s.tlbs ch (tlbEnter ((look s.tlbs ch).getD []) t) }

/-- The non-leaf entries a walk reads (R347), from a level down by levels left: level, first address mapped, entry. -/
def walkPath (tables : SMap Word) (part va : Nat) : Nat → Nat → List (Nat × Nat × Word)
  | 0, _ => []
  | l + 1, table =>
    let e := (look tables (tableKey part (entryAddr table (l + 1) va))).getD 0
    if leafV e && !leafLeaf e then
      (l + 1, va / 2 ^ levelShift (l + 1) * 2 ^ levelShift (l + 1), e) :: walkPath tables part va l (leafFrame e)
    else []

/-- A channel's walker keeps the non-leaf entries it read (R347): at most 256, the oldest leave (log 9). -/
def State.walkerFill (s : State) (ctx va ch : Nat) : State :=
  match look s.ctxs ctx with
  | none => s
  | some c =>
    let asid := c.asid
    let old := (look s.walkers ch).getD []
    let new := (walkPath s.tables (partOfCtx ctx) va 4 c.root).foldl (fun (w : List WalkEntry) x =>
      let e : WalkEntry := { asid, level := x.1, base := x.2.1, entry := x.2.2 }
      if w.contains e then w else (if 256 ≤ w.length then w.tail else w) ++ [e]) old
    if new = old then s else { s with walkers := put s.walkers ch new }

/-- Key of a page of a context: pins (R353) and migration counts (R354). -/
def State.pageKey (s : State) (ctx base : Nat) : Nat := (s.asidOf ctx).toNat * 2 ^ 64 + base

/-- Page base of an address. -/
def pageBase (va size : Nat) : Nat := va / size * size

/-- Key of a migration count (R354): a page, the memory controller that counts, and the requesting die. -/
def countKey (page ch die : Nat) : Nat := (page * 512 + ch) * 4 + die

/-- The TLB, the walker's cache and the migration count of a line fill that misses (R347, R354): a page in the TLB is not
walked. -/
def State.missCount (s : State) (ctx va ch die : Nat) : State :=
  match s.leafAt ctx va with
  | some (e, size) =>
    let base := pageBase va size
    let asid := s.asidOf ctx
    let s :=
      if ((look s.tlbs ch).getD []).any (fun t => t.asid == asid && t.page == base && t.size == size) then s
      else (s.walkerFill ctx va ch).tlbFill ch { asid, page := base, size, leaf := e, held := false }
    if leafKind e = 1 then
      let key := countKey (s.pageKey ctx base) ch die
      let n := (look s.migCount key).getD 0
      { s with migCount := put s.migCount key (min (n + 1) (s.partAt (partOfCtx ctx)).migT) }
    else s
  | none => s

/-- A line enters its home slice under a name (R161, R186): in a way of its set, in place of the victim, with the region of
its page. `old` gives what it keeps. -/
def State.enterLine (s : State) (ctx va pl die : Nat) (old : L2Line) : State :=
  let v := s.victim ctx va
  let ch := s.homeOf ctx va
  let s := s.missCount ctx va ch die
  let s := match v.2 with
    | some out => s.dropLine out
    | none => s
  let region := match s.leafAt ctx va with
    | some (e, _) => leafRegion e
    | none => 0
  { s with l2 := put s.l2 pl { old with asid := s.asidOf ctx, ctx, vline := va / 128, ch, way := v.1, region } }

/-- A line as a fill brings it: clean, with the stamps 0 (log 9). -/
def State.freshLine (s : State) (pl : Nat) : L2Line :=
  { asid := 0, ctx := 0, vline := 0, ch := 0, way := 0, sectors := 0xF, dirty := false, region := 0, wts := 0, rts := 0,
    pins := (s.queues.filter (fun q => q.1 / 128 == pl)).length, shadow := [] }

/-- The line of a byte stands in L2 under its name afterwards: filled on a miss (R161), moved when it stands under
another name, which costs a fill (R186). -/
def State.fillLine (s : State) (ctx va pa die : Nat) : State :=
  let pl := pa / 128
  match look s.l2 pl with
  | some l =>
    if l.asid = s.asidOf ctx ∧ l.vline = va / 128 then s
    else (s.dropLine pl).enterLine ctx va pl die l
  | none => s.enterLine ctx va pl die (s.freshLine pl)

/-- What a core's logical clock has counted since the last rebase (R175, R178, log 8): one unit each PTS_TICK clk of its
partition. -/
def State.ptsClk (s : State) (core : Nat) : Nat :=
  (s.clk - s.ptsBase) / max 1 (s.partAt ((s.partOfCore core).getD 0)).ptsTick

/-- A core's logical clock (R175, log 8). -/
def State.pts (s : State) (n : Nat) : Nat := (s.coreAt n).pts + s.ptsClk n

/-- Who asks at a home: the port of a core, whose logical clock goes with the request (R175), or a unit of a die with no
clock of its own: an engine, a core's code fetch, the host's or a peer's port. -/
inductive Asker where
  | core (n : Nat)
  | unit (die : Nat)
  deriving DecidableEq, Repr

/-- A core's PTS becomes max(PTS, t) (R175). -/
def State.ptsTo (s : State) (a : Asker) (t : Nat) : State :=
  match a with
  | .core n => s.setCore n { s.coreAt n with pts := max (s.coreAt n).pts (t - s.ptsClk n) }
  | .unit _ => s

/-- The PTS a request carries (R175); a unit's requests carry 0 (log 9). -/
def State.ptsOf (s : State) : Asker → Nat
  | .core n => s.pts n
  | .unit _ => 0

/-- An agent with no core or engine of its own, as it asks at an address's home: the host, a peer, a Milliner (log 9). -/
def State.homeUnitOf (s : State) (ctx va : Nat) : Asker := .unit (s.homeOf ctx va / 128)

/-- Die of a requester (R354). -/
def Asker.die : Asker → Nat
  | .core n => dieOfCore n
  | .unit d => d

/-- Whether a logical clock has reached the limit of R178, which holds every memory port until the rebase, or the end of a
lease has, above which the next store to its line would put one (log 8). -/
def State.ptsFull (s : State) : Bool :=
  decide (2 ^ 47 - 1 ≤ s.clk - s.ptsBase) || s.cores.any (fun c => decide (2 ^ 47 - 1 ≤ s.pts c.1))
    || s.l2.any (fun l => decide (2 ^ 47 - 1 ≤ l.2.rts))

/-- The sectors of a line that bytes touch (R160). -/
def sectorMask (va n : Nat) : BitVec 4 :=
  (upFrom 0 4).foldl (fun m i =>
    if va % 128 < 32 * (i + 1) ∧ 32 * i < va % 128 + n then m ||| (1#4 <<< i) else m) 0

/-- The bytes of the sectors of a mask taken from one line image, the others from another. -/
def sectorBytes (m : BitVec 4) (new old : List Byte) : List Byte :=
  (upFrom 0 4).flatMap (fun i => if m.getLsbD i then (new.drop (32 * i)).take 32 else (old.drop (32 * i)).take 32)

/-- A line enters a core's L1 under a lease with the stamp of its data (R159, R175): 256 sets of 8 ways, the oldest of a full
set leaves (log 9). Sectors whose own lease has ended do not come back under the new one. -/
def State.l1Fill (s : State) (core : Nat) (n : L1Line) : State :=
  let c := s.coreAt core
  match c.l1.find? (fun l => l.asid == n.asid && l.vline == n.vline) with
  | some _ =>
    s.setCore core { c with l1 := c.l1.map (fun l =>
      if l.asid = n.asid ∧ l.vline = n.vline then
        (if s.pts core ≤ l.lease then
          { n with sectors := l.sectors ||| n.sectors, bytes := sectorBytes n.sectors n.bytes l.bytes }
        else n)
      else l) }
  | none =>
    let same := c.l1.filter (fun l => l.vline % 256 == n.vline % 256)
    let kept := match same with
      | o :: _ => if 8 ≤ same.length then c.l1.filter (fun l => l != o) else c.l1
      | [] => c.l1
    s.setCore core { c with l1 := kept ++ [n] }

/-- The line of a core's L1 that serves a load of some sectors (R159): the lease covers PTS and every sector is there. -/
def State.l1Line (s : State) (a : Asker) (ctx vline : Nat) (m : BitVec 4) : Option L1Line :=
  match a with
  | .core c =>
    (s.coreAt c).l1.find? (fun l => l.asid == s.asidOf ctx && l.vline == vline
      && decide (s.pts c ≤ l.lease) && (l.sectors &&& m) == m)
  | .unit _ => none

/-- Whether the loads of a line bypass the L1 with a zero-length lease (R184, R348): host-tier lines and NC pages. -/
def State.noLease (s : State) (ctx va pa : Nat) : Bool :=
  isHost pa || (match s.leafAt ctx va with | some (e, _) => leafNC e | none => false)

/-- A slice's queues. -/
def State.sliceAt (s : State) (ch : Nat) : SliceQ := (look s.slices ch).getD { reqs := [], misses := [] }

/-- Whether a request of a slice is the issuing party's own access to a line (R161). -/
def State.isOwn (s : State) (vline : Nat) (r : MemReq) : Bool :=
  match r.who with
  | some w => w.tid == s.cur.tid && w.party == s.cur.party && r.vline == vline
      && (look s.threads w.tid).any (fun t => t.uid == w.uid)
  | none => false

/-- Whether a request stands in a slice. -/
def SliceQ.holds (q : SliceQ) (own : MemReq → Bool) : Bool := q.misses.any own || q.reqs.any own

/-- The requests of a slice's queue that it takes before one's own, or before one that has yet to join (R161). -/
def SliceQ.ahead (q : SliceQ) (own : MemReq → Bool) : List MemReq :=
  if q.misses.any own then [] else q.reqs.takeWhile (fun r => !own r)

/-- The misses of a slice that are filled before one's own (R161). -/
def SliceQ.older (q : SliceQ) (own : MemReq → Bool) : List MemReq := q.misses.takeWhile (fun r => !own r)

/-- A slice without a request. -/
def SliceQ.without (q : SliceQ) (own : MemReq → Bool) : SliceQ :=
  { reqs := q.reqs.filter (fun r => !own r), misses := q.misses.filter (fun r => !own r) }

/-- The issuing party's access to a line leaves its slice's queue as it is performed (R161). -/
def State.leaveQueue (s : State) (ctx va : Nat) : State :=
  let ch := s.homeOf ctx va
  match look s.slices ch with
  | some q => if q.holds (s.isOwn (va / 128)) then { s with slices := put s.slices ch (q.without (s.isOwn (va / 128))) } else s
  | none => s

/-- The bookkeeping of a read performed at home (R175): the line filled, its lease, the core's PTS and L1. -/
def State.readTouch (s : State) (a : Asker) (ctx va : Nat) (m : BitVec 4) (pa : Nat) : State :=
  let s := (s.leaveQueue ctx va).fillLine ctx va pa a.die
  match look s.l2 (pa / 128) with
  | some l =>
    let t := max (s.ptsOf a) l.wts
    let short := s.noLease ctx va pa
    let e := if short then t else max l.rts (t + (s.partAt (partOfCtx ctx)).lease)
    let s := { s with l2 := put s.l2 (pa / 128) { l with rts := max l.rts e } }
    let s := s.ptsTo a t
    match a with
    | .core c =>
      if short then s
      else s.l1Fill c { asid := s.asidOf ctx, vline := va / 128, sectors := m, lease := e, stamp := l.wts,
                        bytes := Mem.readBytes s.mem (pa / 128 * 128) 128 }
    | .unit _ => s
  | none => s

/-- The least stamp of a store to a slice marked as following another (R175, R176): one above the stamp the slice gave the
store before it, where both lie in one slice; `before` is that one's slice and stamp. -/
def follows (before : Option (Nat × Nat)) (ch : Nat) : Nat :=
  match before with
  | some (c, t) => if c = ch then t + 1 else 0
  | none => 0

/-- The slice and the stamp of a store that has been performed at a byte. -/
def State.stampAt (s : State) (ctx va pa : Nat) : Option (Nat × Nat) :=
  (look s.l2 (pa / 128)).map (fun l => (s.homeOf ctx va, l.wts))

/-- The bookkeeping of a store or atomic at home (R175): the line filled, stamped and dirty, the core's PTS raised. It
stands before the bytes are written, so that the line keeps what lies behind it. `before` is the slice and the stamp of the
party's store before this one, which this one is marked as following. -/
def State.writeTouch (s : State) (a : Asker) (ctx va pa : Nat) (before : Option (Nat × Nat)) : State :=
  let q := follows before (s.homeOf ctx va)
  let s := (s.leaveQueue ctx va).fillLine ctx va pa a.die
  match look s.l2 (pa / 128) with
  | some l =>
    let t := max (max (s.ptsOf a) q) (max (l.wts + 1) (l.rts + 1))
    let shadow := if l.dirty then l.shadow else Mem.readBytes s.mem (pa / 128 * 128) 128
    let s := { s with l2 := put s.l2 (pa / 128) { l with wts := t, rts := t, dirty := true, shadow } }
    s.ptsTo a t
  | none => s

/-- Whether an engine owns the line of a byte (R183). -/
def State.ownedByte (s : State) (pa : Nat) : Bool := s.ownsLine (pa / 128)

/-- Whether an access must wait at its home for what is no engine's line: every port is held for a rebase (R178), older
requests stand in the slice's queue, or the line misses and older misses stand before it (R161, R251). An access of the
issuing party that stands in the queue has left its port. -/
def State.homeWaits (s : State) (ctx va pa : Nat) : Bool :=
  let q := s.sliceAt (s.homeOf ctx va)
  let own := s.isOwn (va / 128)
  (s.ptsFull && !q.holds own) || !(q.ahead own).isEmpty || ((look s.l2 (pa / 128)).isNone && !(q.older own).isEmpty)

/-- Whether an access must wait at its home: an engine owns the line (R183), or its turn has not come. -/
def State.mustWait (s : State) (ctx va pa : Nat) : Bool := s.ownedByte pa || s.homeWaits ctx va pa

/-- The 32-byte sectors that bytes of physical memory touch. -/
def sectorsOf (pa n : Nat) : List Nat := upFrom (pa / 32) ((pa + n + 31) / 32 - pa / 32)

/-- Whether a channel lies in a partition's interleave set (R162). -/
def Partition.hasChannel (p : Partition) (ch : Nat) : Bool := decide (p.chbase ≤ ch) && decide (ch < p.chbase + 2 ^ p.chlog)

/-- Whether a byte is of a line whose partition's key is zeroised, at level 2 (R379): it reads as poisoned (R376). -/
def State.keyGone (s : State) (pa : Nat) : Bool :=
  !isHost pa && s.parts.any (fun p => decide (2 ≤ p.2.level) && p.2.hasChannel (pa / 2 ^ 48))

/-- Whether a sector that bytes touch is poisoned (R414). -/
def State.poisoned (s : State) (pa n : Nat) : Bool := (sectorsOf pa n).any (fun x => s.poison.contains x) || s.keyGone pa

/-- A store clears the poison of the sectors it covers whole (R190). -/
def State.unpoison (s : State) (pa n : Nat) : State :=
  { s with poison := s.poison.filter (fun x => !(decide (pa ≤ 32 * x) && decide (32 * x + 32 ≤ pa + n))) }

/-- Sectors poisoned (R242, R414). -/
def State.addPoison (s : State) (xs : List Nat) : State := { s with poison := xs.foldl addNat s.poison }

/-- One address in each 64 KiB that bytes touch, by fuel. -/
def chunksOf64KAux : Nat → Nat → Nat → List Nat
  | 0, _, _ => []
  | f + 1, va, e => if e ≤ va then [] else va :: chunksOf64KAux f ((va / 65536 + 1) * 65536) e

/-- One address in each 64 KiB that bytes touch. -/
def chunksOf64K (va n : Nat) : List Nat := chunksOf64KAux (n / 65536 + 2) va (va + n)

/-- Whether a physical byte lies in a device frame of a partition's set: local bytes [lo, lo + len) of its channels. -/
def inFrame (p : Partition) (lo len pa : Nat) : Bool :=
  decide (pa < 2 ^ 64) && decide (p.chbase ≤ pa / 2 ^ 48) && decide (pa / 2 ^ 48 < p.chbase + 2 ^ p.chlog)
    && decide (lo ≤ pa % 2 ^ 48) && decide (pa % 2 ^ 48 < lo + len)

/-- A frame of a partition's set taken for a page of a size, with the partition afterwards (R353): a freed one of the
same size, else the next; none when the channels are full. -/
def Partition.takeFrame (p : Partition) (size : Nat) : Option (Nat × Partition) :=
  let unit := size / 2 ^ p.chlog
  match p.freeFrames.find? (fun f => f.2 == size) with
  | some f => some (f.1, { p with freeFrames := p.freeFrames.erase f })
  | none =>
    let f := (p.nextFrame + unit - 1) / unit
    if (f + 1) * unit ≤ Config.channelBytes then some (f, { p with nextFrame := (f + 1) * unit }) else none

/-- A frame filled with zeros (R353), its poison cleared. -/
def State.zeroFrame (s : State) (p : Partition) (size f : Nat) : State :=
  let unit := size / 2 ^ p.chlog
  { s with
    mem := s.mem.filter (fun c => !(inFrame p (f * unit) unit c.1))
    poison := s.poison.filter (fun x => !(inFrame p (f * unit) unit (32 * x))) }

/-- A leaf entry with a frame present. -/
def leafWith (e : Word) (f : Nat) : Word :=
  BitVec.ofNat 64 (bits e.toNat 63 62 * 2 ^ 62 + 2 ^ 61 + bits e.toNat 60 48 * 2 ^ 48 + f % 2 ^ 48)

/-- A page that a Milliner makes resident (R241, R353): none when no frame is free. A page that is already present, or
that is not mapped, stays as it is. -/
def State.makeResident (s : State) (ctx va : Nat) : Option State :=
  match s.walk ctx va with
  | .leaf e size a =>
    if leafKind e = 0 ∧ leafRes e = false then
      let part := partOfCtx ctx
      match (s.partAt part).takeFrame size with
      | some (f, p) =>
        let s := s.setPart part p
        some { s.zeroFrame p size f with tables := put s.tables (tableKey part a) (leafWith e f) }
      | none => none
    else some s
  | _ => some s

/-- The pages that bytes touch made resident, as far as frames are free. -/
def State.resident (s : State) (ctx va n : Nat) : State :=
  (chunksOf64K va n).foldl (fun s a => (s.makeResident ctx a).getD s) s

/-- The outcome of an access: a result, a fault code (R387), or a wait at the home. -/
inductive Acc (α : Type) where
  | ok (x : α)
  | fault (code : Nat)
  | wait

/-- The byte an address leads to, or why it leads to none: TRANSLATE (R190), RANGE through a pod-remote page (R369), a
wait at the home (R183). -/
def State.reach (s : State) (ctx va : Nat) : Acc Nat :=
  match s.place ctx va with
  | .none => .fault 0x06
  | .absent => .fault 0x06
  | .remote _ => .fault 0x05
  | .byte pa => if s.mustWait ctx va pa then .wait else .ok pa

/-- What a list of accesses comes to: every result, or the first fault or wait. -/
def accAll {α β : Type} (f : α → Acc β) : List α → Acc (List (α × β))
  | [] => .ok []
  | c :: t =>
    match f c with
    | .fault e => .fault e
    | .wait => .wait
    | .ok x =>
      match accAll f t with
      | .ok r => .ok ((c, x) :: r)
      | .fault e => .fault e
      | .wait => .wait

/-- What stands in the way of an access to every piece, before any is performed. -/
def State.reachAll (s : State) (ctx : Nat) (cs : List Chunk) : Acc (List (Chunk × Nat)) :=
  accAll (fun c => s.reach ctx c.va) cs

/-- Where a load of some sectors of a line takes its bytes (R159, R160): a line of the core's L1, or the home. -/
inductive Source where
  | l1 (l : L1Line)
  | home (pa : Nat)
  deriving DecidableEq, Repr

/-- Where a load of sectors of an address's line is served: the L1 is looked up first (R160). -/
def State.source (s : State) (a : Asker) (ctx va : Nat) (m : BitVec 4) : Acc Source :=
  match s.l1Line a ctx (va / 128) m with
  | some l => .ok (.l1 l)
  | none =>
    match s.reach ctx va with
    | .ok pa => .ok (.home pa)
    | .fault f => .fault f
    | .wait => .wait

/-- The source of another address of the same line. -/
def Source.moved (va dst : Nat) : Source → Source
  | .l1 l => .l1 l
  | .home pa => .home (pa - va % 128 + dst % 128)

/-- The n bytes at an address that a source gives a load (R175): those its L1 line was filled with, or those at the home. -/
def State.given (s : State) (va n : Nat) : Source → List Byte
  | .l1 l => (l.bytes.drop (va % 128)).take n
  | .home pa => Mem.readBytes s.mem pa n

/-- Whether a load's bytes return poisoned (R190, R414): no line of an L1 is. -/
def State.spoiled (s : State) (n : Nat) : Source → Bool
  | .l1 _ => false
  | .home pa => s.poisoned pa n

/-- The bookkeeping of a load of sectors of a line (R175, R176): from the L1, the core's PTS takes the stamp of the data. -/
def State.loaded (s : State) (a : Asker) (ctx va : Nat) (m : BitVec 4) : Source → State
  | .l1 l => s.ptsTo a l.stamp
  | .home pa => s.readTouch a ctx va m pa

/-- n bytes read by a requester (R175), POISON where a sector is poisoned (R190). -/
def State.readBytes (s : State) (a : Asker) (ctx va n : Nat) : Acc (List Byte × State) :=
  match accAll (fun c => s.source a ctx c.va (sectorMask c.va c.n)) (chunks va n) with
  | .fault f => .fault f
  | .wait => .wait
  | .ok ps =>
    if ps.any (fun p => s.spoiled p.1.n p.2) then .fault 0x07
    else
      .ok (ps.flatMap (fun p => s.given p.1.va p.1.n p.2),
        ps.foldl (fun s p => s.loaded a ctx p.1.va (sectorMask p.1.va p.1.n) p.2) s)

/-- n bytes of one line read in one access at the home, past the L1 (R85, R192, R318, R319). -/
def State.homeBytes (s : State) (a : Asker) (ctx va n : Nat) : Acc (List Byte × State) :=
  match s.reach ctx va with
  | .fault f => .fault f
  | .wait => .wait
  | .ok pa =>
    if s.poisoned pa n then .fault 0x07
    else .ok (Mem.readBytes s.mem pa n, s.readTouch a ctx va (sectorMask va n) pa)

/-- Bytes of one line written at home. -/
def State.writeChunk (s : State) (a : Asker) (ctx va pa : Nat) (before : Option (Nat × Nat)) (bs : List Byte) : State :=
  let s := s.writeTouch a ctx va pa before
  let s := s.unpoison pa bs.length
  { s with mem := Mem.writeBytes s.mem pa bs }

/-- Bytes written to pieces in turn, each marked as following the one before it (R176). -/
def State.writeChunks (s : State) (a : Asker) (ctx : Nat) : Option (Nat × Nat) → List (Chunk × Nat) → List Byte → State
  | _, [], _ => s
  | before, (c, pa) :: t, bs =>
    let s := s.writeChunk a ctx c.va pa before (bs.take c.n)
    State.writeChunks s a ctx (s.stampAt ctx c.va pa) t (bs.drop c.n)

/-- Bytes written by a requester (R175, R190), the first piece marked as following a store before it, if any. -/
def State.writeAfter (s : State) (a : Asker) (ctx va : Nat) (before : Option (Nat × Nat)) (bs : List Byte) : Acc State :=
  match s.reachAll ctx (chunks va bs.length) with
  | .fault f => .fault f
  | .wait => .wait
  | .ok ps => .ok (s.writeChunks a ctx before ps bs)

/-- Bytes written by a requester whose store follows none. -/
def State.writeBytes (s : State) (a : Asker) (ctx va : Nat) (bs : List Byte) : Acc State := s.writeAfter a ctx va none bs

/-- The bytes at an address as they stand, with no access made: what an access would read. -/
def State.peekBytes (s : State) (ctx va n : Nat) : List Byte :=
  (chunks va n).flatMap (fun c =>
    match s.place ctx c.va with
    | .byte pa => Mem.readBytes s.mem pa c.n
    | _ => List.replicate c.n 0)

/-- The access kinds of Check (R45). -/
inductive Kind where
  | read | write | atomic
  deriving DecidableEq, Repr

/-- Whether a range allows a kind of access (R56). -/
def Range.allows (r : Range) : Kind → Bool
  | .read => r.read
  | .write => r.write
  | .atomic => r.atomic

/-- Whether [va, va + n) lies wholly inside one range that allows the kind (R45). -/
def inRanges (rs : List Range) (va n : Nat) (k : Kind) : Bool :=
  rs.any (fun r => r.allows k && decide (r.base ≤ va) && decide (va + n ≤ r.base + r.len))

/-- Bytes of a queue's bound control block (R213). -/
def Queue.size (q : Queue) : Nat := if q.stream then 128 else 64

/-- Whether physical bytes overlap a bound global control block (R213). -/
def State.hitsQcb (s : State) (pa n : Nat) : Bool :=
  s.queues.any (fun q => decide (pa < q.1 + q.2.size) && decide (q.1 < pa + n))

/-- Whether bytes of a context overlap a bound global control block (R45, R213). -/
def State.overlapsQcb (s : State) (ctx va n : Nat) : Bool :=
  (chunks va n).any (fun c =>
    match s.place ctx c.va with
    | .byte pa => s.hitsQcb pa c.n
    | _ => false)

/-- Check(va, n, kind) with the RANGE of R155 before it (R45): the fault code, if any. -/
def State.check (s : State) (t : Thread) (va : Word) (n : Nat) (k : Kind) (aligned : Bool) : Option Nat :=
  if bits va.toNat 63 57 ≠ 0 then some 0x05
  else if aligned && va.toNat % n != 0 then some 0x04
  else if !inRanges t.ranges va.toNat n k then some 0x05
  else if k != .read && s.overlapsQcb t.ctx va.toNat n then some 0x09
  else none

/-- Whether an engine owns scratchpad bytes of a cohort (R133, R183). -/
def State.scratchOwned (s : State) (c : Cohort) (off n : Nat) : Bool :=
  (upFrom (off / 128) ((off + n + 127) / 128 - off / 128)).any (fun l => s.ownsLine (scratchLine c.uid (l * 128)))

/-- Whether scratchpad bytes overlap a bound control block of the cohort (R213). -/
def Cohort.hitsQcb (c : Cohort) (off n : Nat) : Bool :=
  c.queues.any (fun q => decide (off < q.1 + q.2.size) && decide (q.1 < off + n))

/-- Whether scratchpad bytes of a cohort are poisoned (R414). -/
def Cohort.poisoned (c : Cohort) (off n : Nat) : Bool := (sectorsOf off n).any (fun x => c.spoison.contains x)

/-- Scratchpad bytes written, clearing the poison of sectors covered whole (R190). -/
def Cohort.writeScratch (c : Cohort) (off : Nat) (bs : List Byte) : Cohort :=
  { c with
    scratch := c.scratch.writeBytes off bs
    spoison := c.spoison.filter (fun x => !(decide (off ≤ 32 * x) && decide (32 * x + 32 ≤ off + bs.length))) }

end Sys2Proof.Machine
end

