-- ==== Sys2Proof/Machine/Home.lean ====
section
/-! DEFINITION. Sys2Proof/Machine/Home.lean: the operations a queue's home performs (R207-R227). A control block's bytes
stand in memory or scratchpad; what only the home keeps stands in Queue. Every operation is indivisible, wakes the
waiters it can serve, and names the waiters it ends. -/

namespace Sys2Proof.Machine

/-- A queue at its home: a global block by its physical byte, a scratchpad block by its cohort and offset (R212). -/
inductive QRef where
  | global (pa : Nat)
  | scratch (ck off : Nat)
  deriving DecidableEq, Repr

/-- The bound queue at a reference. -/
def State.queueAt (s : State) : QRef → Option Queue
  | .global pa => look s.queues pa
  | .scratch ck off =>
    match look s.cohorts ck with
    | some c => look c.queues off
    | none => none

/-- Key a thread's reservation is kept under: the physical byte of the block, or the scratchpad offset over the host
space. -/
def QRef.key : QRef → Nat
  | .global pa => pa
  | .scratch ck off => 2 ^ 90 + ck * 2 ^ 32 + off

/-- The reference a key stands for. -/
def refOf (key : Nat) : QRef :=
  if key < 2 ^ 90 then .global key else .scratch ((key - 2 ^ 90) / 2 ^ 32) ((key - 2 ^ 90) % 2 ^ 32)

/-- The bound queue replaced. -/
def State.putQueue (s : State) (r : QRef) (q : Queue) : State :=
  match r with
  | .global pa => s.setQueue pa q
  | .scratch ck off =>
    match look s.cohorts ck with
    | some c => s.setCohort ck { c with queues := put c.queues off q }
    | none => s

/-- Bytes of a control block. -/
def State.qcbBytes (s : State) (r : QRef) (n : Nat) : List Byte :=
  match r with
  | .global pa => Mem.readBytes s.mem pa n
  | .scratch ck off =>
    match look s.cohorts ck with
    | some c => c.scratch.readBytes off n
    | none => List.replicate n 0

/-- Bytes of a control block written by its home. -/
def State.putQcb (s : State) (r : QRef) (bs : List Byte) : State :=
  match r with
  | .global pa => { s with mem := Mem.writeBytes s.mem pa bs }
  | .scratch ck off =>
    match look s.cohorts ck with
    | some c => s.setCohort ck { c with scratch := c.scratch.writeBytes off bs }
    | none => s

/-- The home's access to the control block's line (R175): one atomic of the requester. -/
def State.touchQcb (s : State) (r : QRef) (q : Queue) (a : Asker) : State :=
  match r with
  | .global pa => s.writeTouch a q.ctx q.va.toNat pa none
  | .scratch _ _ => s

/-- A field of a control block (R207). -/
def qHead (b : List Byte) : Nat := leAt b 0 4
/-- TAIL. -/
def qTail (b : List Byte) : Nat := leAt b 4 4
/-- CAP. -/
def qCap (b : List Byte) : Nat := leAt b 8 4
/-- ESIZE. -/
def qEsize (b : List Byte) : Nat := leAt b 12 2
/-- FLAGS. -/
def qFlags (b : List Byte) : Nat := leAt b 14 2
/-- BASE. -/
def qBase (b : List Byte) : Nat := leAt b 16 8
/-- FREE. -/
def qFree (b : List Byte) : Nat := leAt b 24 4
/-- RESV. -/
def qResv (b : List Byte) : Nat := leAt b 28 4
/-- SCOPE (R208). -/
def qScope (b : List Byte) : Nat := bits (qFlags b) 10 6
/-- CLOSED. -/
def qClosed (b : List Byte) : Bool := (qFlags b).testBit 4
/-- DRAINING. -/
def qDraining (b : List Byte) : Bool := (qFlags b).testBit 5
/-- HOME. -/
def qHome (b : List Byte) : Nat := bits (qFlags b) 1 0

/-- A difference of positions (R207). -/
def posSub (a b : Nat) : Nat := (a + 2 ^ 32 - b % 2 ^ 32) % 2 ^ 32

/-- Whether m elements can be pushed now (R215, R223). -/
def canPush (b : List Byte) (m : Nat) : Bool := decide (m ≤ qFree b) && decide (qResv b + m ≤ 64)

/-- Visible elements (R215). -/
def qLen (b : List Byte) : Nat := posSub (qTail b) (qHead b)

/-- A field of a byte list set to a number. -/
def setField (b : List Byte) (off n v : Nat) : List Byte := patchBytes b off (leBytes n v)

/-- Die of a flow's network engine (R368): a flow is keyed by die*2^15 + package*16 + partition, with 2^14 more for one that
comes in. -/
def flowDie (k : Nat) : Nat := k / 2 ^ 15

/-- The waiter word of a list (R209). -/
def waiterWord (ws : List Waiter) : Nat :=
  match ws with
  | [] => 0
  | w :: _ =>
    let id : Nat := match w.who with
      | .thread tid _ => coreOf tid * 2 ^ 20 + tid % 32 * 2 ^ 15
      | .network f => 2 ^ 29 + flowDie f * 2 ^ 20
      | .carder die => 2 * 2 ^ 29 + die * 2 ^ 20
      | .taskEngine die => 3 * 2 ^ 29 + die * 2 ^ 20
    2 ^ 31 + id + min ws.length 0x7FFF

/-- The control block with its waiter words and CHECK computed (R207, R209). -/
def sealQcb (q : Queue) (b : List Byte) : List Byte :=
  let b := setField (setField b 0x20 4 (waiterWord q.pushers)) 0x24 4 (waiterWord q.poppers)
  setField b 0x3C 4 (crc32c (b.take 0x3C))

/-- A queue and its block stored by the home. -/
def State.store (s : State) (r : QRef) (q : Queue) (b : List Byte) : State :=
  (s.putQueue r q).putQcb r (sealQcb q b)

/-- Whether a number is a power of two from 1 to 2^24. -/
def goodCap (c : Nat) : Bool := (upFrom 0 25).any (fun i => c == 2 ^ i)

/-- Bytes the ring of a reference may extend to (R214). -/
def State.ringLimit (s : State) : QRef → Nat
  | .global _ => 2 ^ 57
  | .scratch ck _ =>
    match look s.cohorts ck with
    | some c => c.spsize
    | none => 0

/-- One cause of a mask. -/
def cause (b : Bool) (i : Nat) : Nat := if b then 2 ^ i else 0

/-- The OWNER word of a context (R207). -/
def State.ownerWord (s : State) (ctx : Nat) : Nat := partOfCtx ctx * 2 ^ 16 + (s.asidOf ctx).toNat

/-- Causes 1 to 6 of R214, and the FLAGS and reserved fields of cause 7. -/
def State.fieldCauses (s : State) (r : QRef) (stream : Bool) (b : List Byte) : Nat :=
  let used := posSub (qTail b) (qHead b)
  let low := if stream then 16 else 8
  cause (decide (qCap b < used)) 1
    + cause (decide (qFree b + used + qResv b ≠ qCap b)) 2
    + cause (!goodCap (qCap b)) 3
    + cause (decide (qEsize b % 8 ≠ 0) || decide (qEsize b < low) || decide (256 < qEsize b)) 4
    + cause (decide (qBase b % 64 ≠ 0) || decide (s.ringLimit r < qBase b + qCap b * qEsize b)) 5
    + cause (decide (64 < qResv b)) 6

/-- FLAGS and the reserved fields of a block, a stream's extension among them (R214, cause 7). -/
def badFlags (b : List Byte) : Bool :=
  qHome b == 3 || decide (qFlags b ≥ 2 ^ 11) || decide (leAt b 0x30 12 ≠ 0) || decide (leAt b 0x78 8 ≠ 0)

/-- Whether a bound block's bytes are poisoned (R415). -/
def State.qcbPoisoned (s : State) (r : QRef) (n : Nat) : Bool :=
  match r with
  | .global pa => s.poisoned pa n
  | .scratch ck off =>
    match look s.cohorts ck with
    | some c => c.poisoned off n
    | none => false

/-- The cause mask of a bound queue (R214): 0 when it is intact; a frozen queue keeps its mask. -/
def State.causes (s : State) (r : QRef) (q : Queue) : Nat :=
  match q.frozen with
  | some m => m.toNat
  | none =>
    let b := s.qcbBytes r q.size
    cause (decide (leAt b 0x3C 4 ≠ crc32c (b.take 0x3C)) || s.qcbPoisoned r q.size) 0
      + s.fieldCauses r q.stream b
      + cause (badFlags b || decide (leAt b 0x28 4 ≠ s.ownerWord q.ctx)) 7

/-- Who an operation ends, and with what: the waiter, the fault code, the cause mask and the block's address. -/
structure Ended where
  who  : WaiterWho
  code : Nat
  info : Nat
  addr : Word
  ctx  : Nat
  deriving DecidableEq, Repr

/-- What a home answers. -/
inductive QAns where
  | pos (p : Nat)
  | popped (p : Nat) (elem : List Byte) (poison : Bool)
  | many (ps : List Nat) (elems : List (List Byte)) (poison : Bool)
  | closed
  | blocked
  | corrupt (causes : Nat)
  | unmapped
  | badPos
  deriving DecidableEq, Repr

/-- The machine after a home's operation, the waiters it ended, and the answer. -/
structure HomeOut where
  s     : State
  ended : List Ended
  ans   : QAns

/-- Waiters of a list ended with a code. -/
def endAll (q : Queue) (code info : Nat) (ws : List Waiter) : List Ended :=
  ws.map (fun w => { who := w.who, code, info, addr := q.va, ctx := match w.op with | .emit _ c _ => c | _ => q.ctx })

/-- Whether a party waits in `queue.qdrain` for a queue (R219). -/
def drainsHere (r : QRef) (w : Option Wait) : Bool :=
  match w, r with
  | some (.drain q none), .global pa => q == pa
  | some (.drain q (some ck)), .scratch ck' off => q == off && ck == ck'
  | _, _ => false

/-- The threads that wait in `queue.qdrain` for a queue (R219). -/
def State.drainers (s : State) (r : QRef) : List Nat :=
  s.threads.filterMap (fun p => if drainsHere r p.2.wait then some p.1 else none)

/-- Work of a home put off to the end of the step, once. -/
def State.addChore (s : State) (c : Chore) : State := if s.chores.contains c then s else { s with chores := s.chores ++ [c] }

/-- A queue whose block is to be stored and whose waiters are to be looked at anew. -/
def State.resettle (s : State) (r : QRef) (q : Queue) : State := s.addChore (.settle r.key q.bind)

/-- A queue frozen (R214): its waiters end with QCB_CORRUPT, its bytes stay; the `sync.wait`s on it end with it (R316). -/
def State.freeze (s : State) (r : QRef) (q : Queue) (m : Nat) : HomeOut :=
  let dr : List Waiter := (s.drainers r).map (fun t => { who := .thread t .scalar, op := .reserve 0 })
  let q' := { q with frozen := some (BitVec.ofNat 10 m), pushers := [], poppers := [] }
  { s := (s.putQueue r q').resettle r q, ended := endAll q 0x08 m (q.pushers ++ q.poppers ++ dr), ans := .corrupt m }

/-- A line that is no longer pinned by a queue (R212). -/
def State.unpin (s : State) (r : QRef) : State :=
  match r with
  | .global pa =>
    match look s.l2 (pa / 128) with
    | some l => { s with l2 := put s.l2 (pa / 128) { l with pins := l.pins - 1 } }
    | none => s
  | .scratch _ _ => s

/-- A line pinned by a queue (R212). -/
def State.pin (s : State) (r : QRef) : State :=
  match r with
  | .global pa =>
    match look s.l2 (pa / 128) with
    | some l => { s with l2 := put s.l2 (pa / 128) { l with pins := l.pins + 1 } }
    | none => s
  | .scratch _ _ => s

/-- A queue unbound: the home stops guarding it, its bytes stay (R219). -/
def State.unbind (s : State) (r : QRef) : State :=
  let s := s.unpin r
  match r with
  | .global pa => { s with queues := del s.queues pa }
  | .scratch ck off =>
    match look s.cohorts ck with
    | some c => s.setCohort ck { c with queues := del c.queues off }
    | none => s

/-- The element address of a position (R207). -/
def slotAddr (b : List Byte) (p : Nat) : Nat := qBase b + p % qCap b * qEsize b

/-- The home of a bound queue (R163, R212), as R409 numbers homes: its slice, or 512 and the core of its scratchpad. -/
def State.homeIndex (s : State) (r : QRef) (q : Queue) : Nat :=
  match r with
  | .global _ => s.homeOf q.ctx q.va.toNat
  | .scratch ck _ => 512 + ck / 32

/-- The home as it asks for a ring's line (R215). -/
def State.homeUnit (s : State) (r : QRef) (q : Queue) : Asker :=
  let h := s.homeIndex r q
  .unit (if h < 512 then h / 128 else dieOfCore (h - 512))

/-- The addresses among n bytes of a queue's space whose lines cannot be accessed now (R161, R178, R183, R251). -/
def State.ringWaits (s : State) (r : QRef) (ctx a n : Nat) : List Nat :=
  match r with
  | .global _ =>
    ((chunks a n).filter (fun c =>
      match s.place ctx c.va with
      | .byte pa => s.mustWait ctx c.va pa
      | _ => false)).map (fun c => c.va)
  | .scratch ck _ => if (look s.cohorts ck).elim false (fun c => s.scratchOwned c a n) then [a] else []

/-- Whether n bytes of a queue's space cannot be accessed now. -/
def State.ringOwned (s : State) (r : QRef) (ctx a n : Nat) : Bool := !(s.ringWaits r ctx a n).isEmpty

/-- The addresses of the ring slots of n positions from p whose lines cannot be accessed now. -/
def State.slotWaits (s : State) (r : QRef) (q : Queue) (b : List Byte) (p n : Nat) : List Nat :=
  (upFrom p n).flatMap (fun i => s.ringWaits r q.ctx (slotAddr b i) (qEsize b))

/-- Whether the ring slots of n positions from p cannot be accessed now. -/
def State.slotsOwned (s : State) (r : QRef) (q : Queue) (b : List Byte) (p n : Nat) : Bool := !(s.slotWaits r q b p n).isEmpty

/-- The address of a block in its space. -/
def blockAddr (r : QRef) (q : Queue) : Nat :=
  match r with
  | .global _ => q.va.toNat
  | .scratch _ off => off

/-- What an operation that pushes or pops n elements waits for at the home: the addresses, of the block's line and the slots',
that cannot be accessed now (R161, R178, R183, R215). -/
def State.queueWaits (s : State) (r : QRef) (push : Bool) (n : Nat) : List Nat :=
  match s.queueAt r with
  | none => []
  | some q =>
    let b := s.qcbBytes r 64
    s.ringWaits r q.ctx (blockAddr r q) 64
    ++ (if push then (if canPush b n then s.slotWaits r q b (qTail b + qResv b) n else [])
        else s.slotWaits r q b (qHead b) (min n (qLen b)))

/-- Whether an operation that pushes or pops n elements must wait at the home. -/
def State.queueBusy (s : State) (r : QRef) (push : Bool) (n : Nat) : Bool := !(s.queueWaits r push n).isEmpty

/-- Whether a ring slot is mapped, made resident where it is only absent (R211, R353, log 5). -/
def State.slotReady (s : State) (r : QRef) (q : Queue) (b : List Byte) (p : Nat) : State × Bool :=
  match r with
  | .global _ =>
    let s := s.resident q.ctx (slotAddr b p) (qEsize b)
    (s, (chunks (slotAddr b p) (qEsize b)).all (fun c =>
      match s.place q.ctx c.va with
      | .byte _ => true
      | _ => false))
  | .scratch _ _ => (s, true)

/-- An element written by the home in a ring slot (R215). -/
def State.writeSlot (s : State) (r : QRef) (q : Queue) (b : List Byte) (p : Nat) (e : List Byte) : State :=
  match r with
  | .global _ =>
    let ps := (chunks (slotAddr b p) e.length).filterMap (fun c =>
      match s.place q.ctx c.va with
      | .byte pa => some (c, pa)
      | _ => none)
    s.writeChunks (s.homeUnit r q) q.ctx none ps e
  | .scratch ck _ =>
    match look s.cohorts ck with
    | some c => s.setCohort ck (c.writeScratch (slotAddr b p) e)
    | none => s

/-- An element read by the home from a ring slot, and whether it is poisoned (R215, R221). -/
def State.readSlot (s : State) (r : QRef) (q : Queue) (b : List Byte) (p : Nat) : List Byte × Bool × State :=
  match r with
  | .global _ =>
    let ps := (chunks (slotAddr b p) (qEsize b)).filterMap (fun c =>
      match s.place q.ctx c.va with
      | .byte pa => some (c, pa)
      | _ => none)
    (ps.flatMap (fun x => Mem.readBytes s.mem x.2 x.1.n), ps.any (fun x => s.poisoned x.2 x.1.n),
      ps.foldl (fun s x => s.readTouch (s.homeUnit r q) q.ctx x.1.va (sectorMask x.1.va x.1.n) x.2) s)
  | .scratch ck _ =>
    match look s.cohorts ck with
    | some c => (c.scratch.readBytes (slotAddr b p) (qEsize b), c.poisoned (slotAddr b p) (qEsize b), s)
    | none => ([], false, s)

/-- TAIL over the committed prefix (R215, R218, R225), by the commit map: each position passed counts in PUSHES and,
for a stream, in SEQ. -/
def passPrefix : List Bool → List Byte → List Byte × List Bool
  | true :: t, b =>
    let b := setField b 4 4 ((qTail b + 1) % 2 ^ 32)
    let b := setField b 28 4 (qResv b - 1)
    let b := setField b 0x2C 4 ((leAt b 0x2C 4 + 1) % 2 ^ 32)
    let b := if 128 ≤ b.length then setField b 0x60 8 ((leAt b 0x60 8 + 1) % 2 ^ 64) else b
    passPrefix t b
  | l, b => (b, l)

/-- A position taken at TAIL + RESV, committed or not (R215, R218). -/
def takePos (q : Queue) (b : List Byte) (committed : Bool) : Nat × Queue × List Byte :=
  let p := (qTail b + qResv b) % 2 ^ 32
  let b := setField b 24 4 (qFree b - 1)
  let b := setField b 28 4 (qResv b + 1)
  let r := passPrefix (q.commit ++ [committed]) b
  (p, { q with commit := r.2 }, r.1)

/-- Elements pushed at consecutive positions (R215, R223). -/
def State.pushAll (s : State) (r : QRef) (q : Queue) (b : List Byte) : List (List Byte) → State × Queue × List Byte × List Nat
  | [] => (s, q, b, [])
  | e :: t =>
    let p := (qTail b + qResv b) % 2 ^ 32
    let s := (s.slotReady r q b p).1.writeSlot r q b p e
    let x := takePos q b true
    let y := s.pushAll r x.2.1 x.2.2 t
    (y.1, y.2.1, y.2.2.1, p :: y.2.2.2)

/-- n elements popped from HEAD (R215). -/
def State.popAll (s : State) (r : QRef) (q : Queue) : Nat → List Byte → State × List Byte × List (Nat × List Byte × Bool)
  | 0, b => (s, b, [])
  | n + 1, b =>
    let p := qHead b
    let e := (s.slotReady r q b p).1.readSlot r q b p
    let b := setField b 0 4 ((p + 1) % 2 ^ 32)
    let b := setField b 24 4 (qFree b + 1)
    let y := e.2.2.popAll r q n b
    (y.1, y.2.1, (p, e.1, e.2.1) :: y.2.2)

/-- A waiting scalar party completes with a value (R217). -/
def State.wakeScalar (s : State) (tid : Nat) (d : BitVec 6) (v : Word) (stamp : Nat) : State :=
  match look s.threads tid with
  | some t => (s.setThread tid (t.setS d v).step4).ptsTo (.core (coreOf tid)) stamp
  | none => s

/-- The words of an element in a lane's register run (R222). -/
def runWrites (code l : Nat) : Nat → Nat → List Byte → SMap Lane32 → SMap Lane32
  | 0, _, _, m => m
  | n + 1, j, e, m => runWrites code l n (j + 1) (e.drop 4) (put m (vKey l (code + j)) (BitVec.ofNat 32 (leNat (e.take 4))))

/-- `lq.qpopv` delivers (R223): the i-th element to the i-th lane, and the predicate of lanes that received one. -/
def Thread.popvDeliver (t : Thread) (o : LaneOps) (lanes : List Nat) (elems : List (List Byte)) : Thread :=
  let pairs := lanes.zip elems
  let v := pairs.foldl (fun v x => { v with writes := runWrites o.d.toNat x.1 (x.2.length / 4) 0 x.2 v.writes }) t.v
  let t := { t with v }
  t.writePred o.c (lanes.zipIdx.map (fun x => (x.1, decide (x.2 < elems.length))))

/-- `lq.qpushv` delivers its positions (R223). -/
def Thread.pushvDeliver (t : Thread) (o : LaneOps) (lanes ps : List Nat) : Thread := t.writeN32 o.d (lanes.zip ps)

/-- The stamp of a block's line. -/
def State.qcbStamp (s : State) (r : QRef) : Nat :=
  match r with
  | .global pa => match look s.l2 (pa / 128) with | some l => l.wts | none => 0
  | .scratch _ _ => 0

/-- Number of elements a waiter pushes, or takes. -/
def WaitOp.count : WaitOp → Nat
  | .pushv _ _ lanes _ => lanes.length
  | .popv _ _ lanes => lanes.length
  | _ => 1

/-- A waiter answered with elements or positions (R217, R223). -/
def State.wake (s : State) (w : Waiter) (ps : List Nat) (elems : List (List Byte)) (poison : Bool) (stamp : Nat) :
    State :=
  match w.who with
  | .thread tid party =>
    match look s.threads tid with
    | none => s
    | some t =>
      match w.op with
      | .push d _ => s.wakeScalar tid d (word (ps.headD 0)) stamp
      | .reserve d =>
        let t := { (t.setS d (word (ps.headD 0))).step4 with
          reserved := t.reserved ++ [(nth ps 1 0, nth ps 2 0, ps.headD 0)] }
        (s.setThread tid t).ptsTo (.core (coreOf tid)) stamp
      | .pop d buf =>
        match ps, elems with
        | p :: _, e :: _ =>
          (s.setThread tid { t with wait := some (.deliver d buf (word p) e poison) }).ptsTo (.core (coreOf tid)) stamp
        | _, _ => s.wakeScalar tid d wMinus1 stamp
      | .pushv o len lanes _ =>
        let g := match party with | .gang g => g | .scalar => 0
        (s.setThread tid ((t.pushvDeliver o lanes ps).advance g len)).ptsTo (.core (coreOf tid)) stamp
      | .popv o len lanes =>
        let g := match party with | .gang g => g | .scalar => 0
        let t' := if poison then t.gangWait g (some (.deliver 0 0 0 [] true))
          else (t.popvDeliver o lanes elems).advance g len
        (s.setThread tid t').ptsTo (.core (coreOf tid)) stamp
      | .emit _ _ _ => s
      | .value _ => s
      | .attempt _ => s
      | .arrive _ _ _ _ => s
      | .phase _ => s
  | .network f =>
    match look s.flows f with
    | some fl => { s with flows := put s.flows f { fl with sent := fl.sent ++ [ps.map word] } }
    | none => s
  | .carder _ => s
  | .taskEngine _ => s

/-- Whether the head of a queue's pushers can be served (R217). -/
def pushDue (q : Queue) (b : List Byte) : Bool := (q.pushers.head?).any (fun w => canPush b w.op.count)
/-- Whether the head of its poppers can. -/
def popDue (q : Queue) (b : List Byte) : Bool := (q.poppers.head?).any (fun w => decide (w.op.count ≤ qLen b) || qClosed b)

/-- The elements a waiter pushes. -/
def WaitOp.elems : WaitOp → List (List Byte)
  | .push _ e => [e]
  | .pushv _ _ _ es => es
  | .emit _ _ e => [e]
  | _ => []

/-- The head of a queue's pushers served (R217). -/
def State.servePush (s : State) (r : QRef) (q : Queue) (b : List Byte) (w : Waiter) (ws : List Waiter) : State :=
  let q := { q with pushers := ws }
  match w.op with
  | .reserve _ =>
    let x := takePos q b false
    let s := s.store r x.2.1 x.2.2
    s.wake w [x.1, r.key, q.bind] [] false (s.qcbStamp r)
  | op =>
    let x := s.pushAll r q b op.elems
    let s := x.1.store r x.2.1 x.2.2.1
    s.wake w x.2.2.2 [] false (s.qcbStamp r)

/-- The head of a queue's poppers served (R217). -/
def State.servePop (s : State) (r : QRef) (q : Queue) (b : List Byte) (w : Waiter) (ws : List Waiter) : State :=
  let q := { q with poppers := ws }
  let x := s.popAll r q (min w.op.count (qLen b)) b
  let s := x.1.store r q x.2.1
  s.wake w (x.2.2.map (fun e => e.1)) (x.2.2.map (fun e => e.2.1)) (x.2.2.any (fun e => e.2.2)) (s.qcbStamp r)

/-- The waiters a queue can serve, served in order (R217), by fuel over the waiters: pushers while there is room,
poppers while elements are visible or the queue is closed. -/
def State.serve (r : QRef) : Nat → State → State
  | 0, s => s
  | f + 1, s =>
    match s.queueAt r with
    | none => s
    | some q =>
      let b := s.qcbBytes r q.size
      let push (s : State) : Option State :=
        match q.pushers with
        | w :: ws =>
          if pushDue q b && !s.queueBusy r true w.op.count then some (s.servePush r q b w ws) else none
        | [] => none
      let pop (s : State) : Option State :=
        match q.poppers with
        | w :: ws =>
          if popDue q b && !s.queueBusy r false w.op.count then some (s.servePop r q b w ws) else none
        | [] => none
      match push s with
      | some s => State.serve r f s
      | none =>
        match pop s with
        | some s => State.serve r f s
        | none => s

/-- A drained queue unbinds, and its `queue.qdrain` completes (R219). -/
def State.drainDone (s : State) (r : QRef) : State :=
  match s.queueAt r with
  | none => s
  | some q =>
    let b := s.qcbBytes r 64
    if qDraining b && qLen b == 0 && qResv b == 0 && q.pushers.isEmpty && q.poppers.isEmpty && q.frozen == none then
      (s.drainers r).foldl (fun s tid =>
        match look s.threads tid with
        | some t => s.setThread tid t.step4
        | none => s) (s.unbind r)
    else s

/-- After an operation: waiters are served, and a drained queue unbinds. A waiter whose lines cannot be accessed now is looked
at again (R183). -/
def State.settle (s : State) (r : QRef) : State :=
  match s.queueAt r with
  | none => s
  | some q =>
    let s := State.serve r (q.pushers.length + q.poppers.length + 1) s
    let s := match s.queueAt r with
      | some q => if pushDue q (s.qcbBytes r q.size) || popDue q (s.qcbBytes r q.size) then s.resettle r q else s
      | none => s
    s.drainDone r

/-- An operation on an intact bound queue: the guard of R214, then the body. -/
def State.guarded (s : State) (r : QRef) (a : Asker) (k : State → Queue → List Byte → HomeOut) : HomeOut :=
  match s.queueAt r with
  | none => { s, ended := [], ans := .corrupt 0x100 }
  | some q =>
    let m := s.causes r q
    if m ≠ 0 then
      if q.frozen = none then s.freeze r q m else { s, ended := [], ans := .corrupt m }
    else
      let s := s.touchQcb r q a
      k s q (s.qcbBytes r q.size)

/-- Whether the ring slots of n positions from p are mapped. -/
def State.slotsReady (s : State) (r : QRef) (q : Queue) (b : List Byte) (p n : Nat) : Bool :=
  (upFrom p n).all (fun i => (s.slotReady r q b i).2)

/-- Push of m elements (R215, R223): closed, blocked behind a full ring or a waiter, or done with the positions. -/
def State.homePush (s : State) (r : QRef) (a : Asker) (es : List (List Byte)) : HomeOut :=
  s.guarded r a (fun s q b =>
    if qClosed b then { s, ended := [], ans := .closed }
    else if !q.pushers.isEmpty || !canPush b es.length then { s, ended := [], ans := .blocked }
    else if !s.slotsReady r q b (qTail b + qResv b) es.length then { s, ended := [], ans := .unmapped }
    else
      let x := s.pushAll r q b es
      let s := (x.1.store r x.2.1 x.2.2.1).settle r
      { s, ended := [], ans := .many x.2.2.2 [] false })

/-- Pop of m elements (R215, R223): an open queue gives all or none, a closed one what is left. -/
def State.homePop (s : State) (r : QRef) (a : Asker) (m : Nat) : HomeOut :=
  s.guarded r a (fun s q b =>
    let n := min m (qLen b)
    if qLen b < m ∧ ¬ qClosed b then { s, ended := [], ans := .blocked }
    else if !q.poppers.isEmpty ∧ ¬ qClosed b then { s, ended := [], ans := .blocked }
    else if n = 0 then { s, ended := [], ans := .closed }
    else if !s.slotsReady r q b (qHead b) n then { s, ended := [], ans := .unmapped }
    else
      let x := s.popAll r q n b
      let s := (x.1.store r q x.2.1).settle r
      { s, ended := [], ans := .many (x.2.2.map (fun e => e.1)) (x.2.2.map (fun e => e.2.1))
          (x.2.2.any (fun e => e.2.2)) })

/-- Peek (R221). -/
def State.homePeek (s : State) (r : QRef) (a : Asker) : HomeOut :=
  s.guarded r a (fun s q b =>
    if qLen b = 0 then { s, ended := [], ans := if qClosed b then .closed else .blocked }
    else
      let x := s.slotReady r q b (qHead b)
      if !x.2 then { s, ended := [], ans := .unmapped }
      else
        let e := x.1.readSlot r q b (qHead b)
        { s := e.2.2, ended := [], ans := .popped (qHead b) e.1 e.2.1 })

/-- Reservation (R218). -/
def State.homeReserve (s : State) (r : QRef) (a : Asker) : HomeOut :=
  s.guarded r a (fun s q b =>
    if qClosed b then { s, ended := [], ans := .closed }
    else if !q.pushers.isEmpty || !canPush b 1 then { s, ended := [], ans := .blocked }
    else
      let x := takePos q b false
      { s := s.store r x.2.1 x.2.2, ended := [], ans := .pos x.1 })

/-- Commit of a reserved position (R218, R221). -/
def State.homeCommit (s : State) (r : QRef) (a : Asker) (p : Word) : HomeOut :=
  s.guarded r a (fun s q b =>
    let i := posSub p.toNat (qTail b)
    if p.toNat < 2 ^ 32 ∧ i < qResv b ∧ nth q.commit i true = false then
      let x := passPrefix (setNth q.commit i true) b
      { s := (s.store r { q with commit := x.2 } x.1).settle r, ended := [], ans := .pos i }
    else { s, ended := [], ans := .badPos })

/-- A value of the queue (R220): 0 TAIL − HEAD, 1 FREE, 2 RESV, 3 CAP. -/
def qSelect (b : List Byte) (sel : Nat) : Nat :=
  match sel with
  | 0 => qLen b
  | 1 => qFree b
  | 2 => qResv b
  | _ => qCap b

/-- `queue.qlen` at the home. -/
def State.homeLen (s : State) (r : QRef) (a : Asker) (sel : Nat) : HomeOut :=
  s.guarded r a (fun s _ b => { s, ended := [], ans := .pos (qSelect b sel) })

/-- FLAGS with CLOSED set, and DRAINING where asked. -/
def closeFlags (b : List Byte) (drain : Bool) : List Byte :=
  setField b 14 2 (Nat.lor (qFlags b) (if drain then 0x30 else 0x10))

/-- Close (R219): waiting pushers end with QUEUE_CLOSED, waiting poppers complete with −1 or what is left. -/
def State.homeClose (s : State) (r : QRef) (a : Asker) (drain : Bool) : HomeOut :=
  s.guarded r a (fun s q b =>
    let ended := endAll q 0x0A 0 q.pushers
    let q := { q with pushers := [] }
    let s := (s.store r q (closeFlags b drain))
    { s := State.serve r (q.poppers.length + 1) s, ended, ans := .pos 0 })

/-- Whether the requirements of binding hold (R212): cause bit 9 where one fails. -/
def bindBad (r : QRef) (b : List Byte) (full : Bool) : Bool :=
  let scratch := match r with | .scratch _ _ => true | .global _ => false
  decide (qHead b ≠ qTail b) || decide (qResv b ≠ 0) || decide (leAt b 0x20 8 ≠ 0) || qClosed b || qDraining b
    || ((qHome b == 0) != scratch)
    || (qHome b == 0 && qScope b != 1) || (qHome b == 2 && decide (qScope b < 5)) || full

/-- Bound queues of a home's directory (R409), in a fixed order. -/
def State.directory (s : State) (h : Nat) : List (QRef × Queue) :=
  (s.queues.map (fun q => (QRef.global q.1, q.2))
    ++ s.cohorts.flatMap (fun c => c.2.queues.map (fun q => (QRef.scratch c.1 q.1, q.2)))).filter
      (fun x => s.homeIndex x.1 x.2 == h)

/-- Binding (R212): the cause mask, 0 where the queue is bound. A stream counts SEQ from 0, as PUSHES (R225). The
binding takes a name of its own. -/
def State.homeBind (s : State) (r : QRef) (q : Queue) (a : Asker) : Nat × State :=
  let b := s.qcbBytes r q.size
  let m := s.fieldCauses r q.stream b + cause (badFlags b) 7
    + cause (bindBad r b (decide (Config.directorySize ≤ (s.directory (s.homeIndex r q)).length))) 9
  let m := if s.qcbPoisoned r q.size then m + 1 else m
  if m ≠ 0 then (m, s)
  else
    let s := s.touchQcb r q a
    let b := setField (setField b 0x28 4 (s.ownerWord q.ctx)) 0x2C 4 0
    let b := if q.stream then setField b 0x60 8 0 else b
    (0, { (s.store r { q with bind := s.nextUid } b).pin r with nextUid := s.nextUid + 1 })

/-- Whether a thread is admitted to a queue by SCOPE (R208). -/
def State.admits (s : State) (q : Queue) (scope uid core : Nat) : Bool :=
  match scope with
  | 0 => uid == q.uid
  | 1 => core == q.core
  | 2 => core / 4 == q.core / 4
  | 3 => core / 96 == q.core / 96
  | 4 => true
  | 5 => true
  | 6 => true
  | n =>
    match look s.ctxs q.ctx with
    | some c => match look c.scopes n with | some e => e.cores.getLsbD core | none => false
    | none => false

/-- Whether engines and the host are admitted (R208). -/
def engineScope (b : List Byte) : Bool := qScope b == 4 || qScope b == 5 || qScope b == 6

/-- A waiter joins a list of its queue (R217). -/
def State.joinWait (s : State) (r : QRef) (push : Bool) (w : Waiter) : State :=
  match s.queueAt r with
  | some q =>
    let q := if push then { q with pushers := q.pushers ++ [w] } else { q with poppers := q.poppers ++ [w] }
    s.store r q (s.qcbBytes r 64)
  | none => s

end Sys2Proof.Machine
end

