-- ==== Sys2Proof/Machine/Record.lean ====
section
/-! DEFINITION. Sys2Proof/Machine/Record.lean: the fault record and its push into the context's fault queue (R388,
R389). -/

namespace Sys2Proof.Machine

/-- The fields of a fault record that its source gives (R388). -/
structure FRec where
  code    : Nat
  source  : Nat
  lane    : Nat
  ends    : Nat
  core    : Nat
  slot    : Nat
  replays : Nat
  pc      : Word
  task    : Word
  winid   : Word
  addr    : Word
  info    : Word
  deriving DecidableEq, Repr

/-- The 64 bytes of a record (R388). -/
def FRec.bytes (r : FRec) (time seq : Nat) : List Byte :=
  leBytes 1 r.code ++ leBytes 1 r.source ++ leBytes 1 r.lane ++ leBytes 1 r.ends ++ leBytes 2 r.core
    ++ leBytes 1 r.slot ++ leBytes 1 (min r.replays 255) ++ leBytes 8 r.pc.toNat ++ leBytes 8 r.task.toNat
    ++ leBytes 8 r.winid.toNat ++ leBytes 8 r.addr.toNat ++ leBytes 8 r.info.toNat ++ leBytes 8 time
    ++ leBytes 4 (seq % 2 ^ 32) ++ leBytes 4 0

/-- The reference of a global queue named by an address of a context: none where it leads to no byte. -/
def State.globalRef (s : State) (ctx va : Nat) : Option QRef :=
  match s.place ctx va with
  | .byte pa => some (.global pa)
  | _ => none

/-- A record that could not be written (R389): LOST counts it, and the first since the last written one interrupts. -/
def State.lostRecord (s : State) (ctx : Nat) (c : Ctx) : State :=
  let s := s.setCtx ctx { c with lost := c.lost + 1, lostRun := true }
  if c.lostRun then s else s.msix1 (partOfCtx ctx)

/-- A fault record raised in a context (R389): SEQ counts it and its time is now; it is pushed as a release of its source, a
thread by its uid or 0, at the end of the step or once that release is done. TRANSLATE of a walk that met a malformed entry
has its RAS record too (R348). -/
def State.raise (s : State) (ctx : Nat) (a : Asker) (uid : Nat) (r : FRec) : State :=
  let s := if r.code = 0x06 then s.walkRas ctx r.addr.toNat else s
  match look s.ctxs ctx with
  | none => s
  | some c =>
    let core := match a with | .core n => some n | .unit _ => none
    { s.setCtx ctx { c with seq := c.seq + 1 } with
      chores := s.chores ++ [.record ctx core a.die uid (r.bytes s.time c.seq)] }

/-- Who asks for a record's push. -/
def recordAsker (core : Option Nat) (die : Nat) : Asker := core.elim (.unit die) .core

/-- A record pushed on its context's fault queue, or lost (R389); the waiters that the home ends. -/
def State.pushRecord (s : State) (ctx : Nat) (a : Asker) (bs : List Byte) : State × List Ended :=
  match look s.ctxs ctx with
  | none => (s, [])
  | some c =>
    match s.globalRef ctx c.faultQ.toNat with
    | none => (s.lostRecord ctx c, [])
    | some q =>
      let b := s.qcbBytes q 64
      if (s.queueAt q).isSome && qEsize b == 64 && engineScope b then
        let h := s.homePush q a [bs]
        match h.ans with
        | .many _ _ _ =>
          let c := (look h.s.ctxs ctx).getD c
          ((h.s.setCtx ctx { c with lostRun := false }).msix1 (partOfCtx ctx), h.ended)
        | _ => (h.s.lostRecord ctx c, h.ended)
      else (s.lostRecord ctx c, [])

/-- Whether a record's push must wait at the fault queue's home (R183). -/
def State.recordBusy (s : State) (ctx : Nat) : Bool :=
  match (look s.ctxs ctx).bind (fun c => s.globalRef ctx c.faultQ.toNat) with
  | some q => s.queueBusy q true 1
  | none => false

/-- A record of an engine that ends nothing (R387). -/
def engineRec (code source slot : Nat) (pc addr info : Word) : FRec :=
  { code, source, lane := 0xFF, ends := 0, core := 0xFFFF, slot, replays := 0, pc, task := 0, winid := 0, addr, info }

end Sys2Proof.Machine
end

