-- ==== Sys2Proof/Machine/Windows.lean ====
section
/-! DEFINITION. Sys2Proof/Machine/Windows.lean: the Carder's control of streams, windows and steps (R265-R283): reading a
spec, retiring records, resolving a record into the steps it sets off, committing a step and ending one that failed. -/

namespace Sys2Proof.Machine

/-- KIND of a spec (R266): 0 count, 1 time, 2 gap. -/
def wsKind (b : List Byte) : Nat := leAt b 0 1
/-- TRIGGER. -/
def wsTrigger (b : List Byte) : Nat := leAt b 1 1
/-- MCAST. -/
def wsMcast (b : List Byte) : Nat := leAt b 2 1
/-- SHAPE. -/
def wsShape (b : List Byte) : Nat := leAt b 3 1
/-- NRANGE. -/
def wsNrange (b : List Byte) : Nat := leAt b 4 1
/-- LEN. -/
def wsLen (b : List Byte) : Nat := leAt b 8 8
/-- STEP. -/
def wsStep (b : List Byte) : Nat := leAt b 16 8
/-- GAP. -/
def wsGap (b : List Byte) : Nat := leAt b 24 8
/-- LATE. -/
def wsLate (b : List Byte) : Nat := leAt b 0x20 8
/-- EARLY. -/
def wsEarly (b : List Byte) : Nat := leAt b 0x28 4
/-- REPLAY; 0 means 3. -/
def wsReplay (b : List Byte) : Nat := if leAt b 0x2C 4 = 0 then 3 else leAt b 0x2C 4
/-- IDLE. -/
def wsIdle (b : List Byte) : Nat := leAt b 0x30 8
/-- RANGES. -/
def wsRanges (b : List Byte) : Nat := leAt b 0x38 8
/-- PANE mode. -/
def wsPane (b : List Byte) : Bool := wsShape b % 2 == 1
/-- P of R275. -/
def wsPaneLen (b : List Byte) : Nat := Nat.gcd (wsLen b) (wsStep b)
/-- The entry address of a reason (R266, R275). -/
def wsEntry (b : List Byte) (r : Reason) (pane : Bool) : Nat :=
  if pane then leAt b 0x68 8
  else match r with
    | .openR => leAt b 0x40 8
    | .record => leAt b 0x48 8
    | .pane => leAt b 0x48 8
    | .merge => leAt b 0x50 8
    | .close => leAt b 0x58 8
    | .expire => leAt b 0x60 8

/-- Code of a reason in s1 (R262). -/
def Reason.code : Reason → Nat
  | .openR => 0
  | .record => 1
  | .merge => 2
  | .close => 3
  | .expire => 4
  | .pane => 5

/-- Whether a spec obeys R267. -/
def wsOk (b : List Byte) : Bool :=
  let k := wsKind b
  let tr := wsTrigger b
  let lenStep := decide (1 ≤ wsLen b) && decide (1 ≤ wsStep b)
    && decide ((wsLen b + wsStep b - 1) / wsStep b ≤ wsMcast b)
  decide (k ≤ 2) && decide (tr ≤ 2) && decide (1 ≤ wsMcast b) && decide (wsMcast b ≤ 64)
    && (if k = 2 then decide (1 ≤ wsGap b) && (tr != 1 || decide (1 ≤ wsLen b)) && (tr == 1 || wsLen b == 0)
          && wsStep b == 0
        else lenStep && wsGap b == 0)
    && (tr != 1 || k == 2) && (tr != 2 || k != 0)
    && (!wsPane b || (k != 2 && leAt b 0x68 8 != 0)) && (wsPane b || leAt b 0x68 8 == 0)
    && decide (wsIdle b < 2 ^ 32 * 1000)
    && leAt b 0x40 8 != 0 && leAt b 0x48 8 != 0 && leAt b 0x58 8 != 0
    && decide (wsShape b < 64) && leAt b 5 3 == 0 && leAt b 0x78 8 == 0 && decide (wsNrange b ≤ 8)
    && (wsNrange b != 0 || wsRanges b == 0) && wsRanges b % 16 == 0
    && (k == 2 || leAt b 0x50 8 == 0)
    && [0x40, 0x48, 0x50, 0x58, 0x60, 0x68].all (fun o => decide (leAt b o 8 < 2 ^ 48))
    && decide (leAt b 0x72 2 = 0)

/-- A declared range's 16 bytes (R56): none where it breaks R56. -/
def rangeOf (b : List Byte) : Option Range :=
  let base := leAt b 0 8
  let len := leAt b 8 6
  let acc := leAt b 14 2
  if len = 0 ∨ 2 ^ 57 < base + len ∨ 2 ^ 57 ≤ base ∨ 8 ≤ acc then none
  else some { base, len, read := acc.testBit 0, write := acc.testBit 1, atomic := acc.testBit 2 }

/-- n declared ranges from a byte list (R56). -/
def rangesOf : Nat → List Byte → Option (List Range)
  | 0, _ => some []
  | n + 1, b =>
    match rangeOf b, rangesOf n (b.drop 16) with
    | some r, some t => some (r :: t)
    | _, _ => none

/-- The open windows of a key in a stream, panes or not, in ascending start (R271). -/
def State.openWindows (s : State) (stream : Nat) (key : Word) (pane : Bool) : List (Nat × Window) :=
  sortBy (fun a b => decide (a.2.start ≤ b.2.start))
    (s.windows.filter (fun w => w.2.stream == stream && w.2.key == key && w.2.paneWin == pane))

/-- The window a step names: by key, or by its start. -/
def State.windowOf (s : State) (stream : Nat) (r : StepReq) : Option (Nat × Window) :=
  if r.win ≠ 0 then (look s.windows r.win).map (fun w => (r.win, w))
  else s.windows.find? (fun w => w.2.stream == stream && w.2.key == r.key && w.2.start == r.start
    && w.2.paneWin == r.pane)

/-- The first step of every key: what may be delivered (R272). -/
def keyHeads : List StepReq → List Word → List StepReq
  | [], _ => []
  | r :: t, seen => if seen.contains r.key then keyHeads t seen else r :: keyHeads t (r.key :: seen)

/-- The first step of a key replaced by a list of steps. -/
def replaceHead (key : Word) (new : List StepReq) : List StepReq → List StepReq
  | [] => []
  | r :: t => if r.key = key then new ++ t else r :: replaceHead key new t

/-- The position a window kind compares: timestamp, or ordinal for a count kind (R270). -/
def StreamRec.ts (r : StreamRec) : Nat := leAt r.bytes 8 8 % 2 ^ 63
/-- KEY of a record (R226). -/
def StreamRec.key (r : StreamRec) : Word := wordAt r.bytes 0
/-- W of a record. -/
def StreamRec.mark (r : StreamRec) : Bool := decide (2 ^ 63 ≤ leAt r.bytes 8 8)

/-- The window starts a position belongs to (R270), ascending: s mod STEP = 0 and s ≤ x < s + LEN. -/
def startsOf (len step x : Nat) : List Nat :=
  let top := x / step
  (upFrom (top - (len + step - 1) / step) (min top ((len + step - 1) / step) + 1)).filterMap (fun i =>
    if x < i * step + len then some (i * step) else none)

/-- No record: CLOSE and EXPIRE steps carry zeros (R272). -/
def StreamRec.none : StreamRec := { pos := 0, seq := 0, addr := 0, bytes := [] }

/-- The steps that open a window if none stands, then deliver a record to it (R272). -/
def State.openThen (s : State) (stream : Nat) (r : StepReq) (start : Nat) (pane : Bool) (reason : Reason) :
    List StepReq :=
  let base := { r with raw := false, start, pane, win := 0, sent := false, replays := 0 }
  let stands := s.windows.any (fun w => w.2.stream == stream && w.2.key == r.key && w.2.start == start
    && w.2.paneWin == pane)
  (if stands then [] else [{ base with reason := .openR }]) ++ [{ base with reason }]

/-- What a raw step resolves into (R270, R275, R276, R280, R324), as the key stands now. -/
def State.expand (s : State) (stream : Nat) (ctl : StreamCtl) (r : StepReq) : List StepReq :=
  let b := ctl.spec
  let base := { r with raw := false, sent := false, replays := 0 }
  match r.reason with
  | .record =>
    if wsKind b = 2 then
      let t := r.record.ts
      let ws := (s.openWindows stream r.key false).filter (fun w =>
        decide (w.2.start < t + wsGap b) && decide (t < w.2.last + wsGap b))
      match ws with
      | [] => [{ base with reason := .openR, start := t }, { base with reason := .record, start := t }]
      | [a] => [{ base with win := a.1, start := a.2.start }]
      | a :: c :: _ =>
        if wsEntry b .merge false = 0 then
          [{ base with reason := .close, win := c.1, start := c.2.start, record := StreamRec.none, time := s.time },
           { base with win := a.1, start := a.2.start }]
        else [{ base with reason := .merge, win := a.1, start := a.2.start, partner := c.1 },
              { base with win := a.1, start := a.2.start }]
    else
      let x := if wsKind b = 0 then r.ord else r.record.ts
      if wsPane b then s.openThen stream r (x / wsPaneLen b * wsPaneLen b) true .record
      else (startsOf (wsLen b) (wsStep b) x).flatMap (fun st => s.openThen stream r st false .record)
  | .pane =>
    (startsOf (wsLen b) (wsStep b) r.start).flatMap (fun st => s.openThen stream r st false .pane)
  | .close =>
    (s.openWindows stream r.key true ++ s.openWindows stream r.key false).map (fun w =>
      { base with win := w.1, start := w.2.start, pane := w.2.paneWin, record := StreamRec.none, time := s.time })
  | .expire =>
    (s.openWindows stream r.key true ++ s.openWindows stream r.key false).map (fun w =>
      { base with win := w.1, start := w.2.start, pane := w.2.paneWin })
  | _ => [base]

/-- The number of windows a resolved list commits its record to: its RECORD steps (R273). -/
def commitCount (rs : List StepReq) : Nat := (rs.filter (fun r => r.reason == .record)).length

/-- HEAD over the prefix of retired positions, by fuel (R268): FREE grows, and NREC counts. -/
def headPrefix : Nat → List Byte → List Nat → List Byte × List Nat
  | 0, b, l => (b, l)
  | f + 1, b, l =>
    if l.contains (qHead b) then
      let h := qHead b
      let b := setField (setField b 0 4 ((h + 1) % 2 ^ 32)) 24 4 (qFree b + 1)
      headPrefix f b (l.erase h)
    else (b, l)

/-- A position to be retired by the stream's home at the end of the step, or once it can (R183, R268). -/
def State.retire (s : State) (stream pos : Nat) : State := { s with chores := s.chores ++ [.retire stream pos] }

/-- A position retired (R268): HEAD moves over the retired prefix, waiting pushers are served. The home checks the block before
it acts: a damaged stream freezes, a frozen one stays as it is (R214, R227). -/
def State.retireNow (s : State) (stream pos : Nat) : HomeOut :=
  let r : QRef := .global stream
  match look s.streams stream, s.queueAt r with
  | some ctl, some q =>
    s.guarded r (s.homeUnit r q) (fun s q b =>
      let b := setField b 0x68 8 (leAt b 0x68 8 + 1)
      let x := headPrefix (ctl.retired.length + 1) b (ctl.retired ++ [pos])
      let s := s.setStream stream { ctl with retired := x.2, nrec := ctl.nrec + 1 }
      { s := (s.store r q x.1).settle r, ended := [], ans := .pos pos })
  | _, _ => { s, ended := [], ans := .pos pos }

/-- A record committed for one of its windows; the last commit retires it (R268, R273). -/
def State.commitFor (s : State) (stream pos : Nat) : State :=
  match look s.streams stream with
  | none => s
  | some ctl =>
    match ctl.live.find? (fun x => x.1.pos == pos) with
    | none => s
    | some (_, n) =>
      if n ≤ 1 then
        (s.setStream stream { ctl with live := ctl.live.filter (fun x => x.1.pos != pos) }).retire stream pos
      else
        s.setStream stream { ctl with live := ctl.live.map (fun x =>
          if x.1.pos = pos then (x.1, n - 1) else x) }

/-- Positions whose holder has ended are committed, each once its home can (R218). -/
def State.commitReserved (s : State) (rs : List (Nat × Nat × Nat)) : State :=
  { s with chores := s.chores ++ rs.map (fun r => Chore.commit r.1 r.2.1 r.2.2) }

/-- A window deleted (R273, R274): its thread ends with it (R218). -/
def State.dropWindow (s : State) (wk : Nat) : State :=
  { s with windows := del s.windows wk }.commitReserved ((look s.windows wk).elim [] (fun w => w.reserved))

/-- Steps placed before the first step of their key (R272). -/
def insertFront (key : Word) (new : List StepReq) : List StepReq → List StepReq
  | [] => new
  | r :: t => if r.key = key then new ++ r :: t else r :: insertFront key new t

/-- A step placed at the position of its event (R272): before a `win.wclose` of its key at a later position (R324). -/
def insertRecord (new : StepReq) : List StepReq → List StepReq
  | [] => [new]
  | r :: t =>
    let ahead := posSub r.record.pos new.record.pos
    if r.key = new.key ∧ r.raw ∧ r.reason = .close ∧ 0 < ahead ∧ ahead < 2 ^ 31 then new :: r :: t
    else r :: insertRecord new t

/-- A step with no record. -/
def plainStep (key : Word) (win start : Nat) (pane : Bool) (reason : Reason) (time stamp : Nat) : StepReq :=
  { key, win, reason, record := StreamRec.none, start, pane, raw := false, sent := false, time, ord := 0, partner := 0,
    replays := 0, stamp }

/-- The clock a stream's triggers are held against (R271): WMARK as it has taken effect, or device time. -/
def State.trigClock (s : State) (ctl : StreamCtl) : Nat :=
  if wsTrigger ctl.spec = 2 then (ctl.marks.getLast?.getD (0, 0)).1 else s.time

/-- What the trigger clock must reach for a window to close (R271): 0 where commits alone have closed it, none where only a
further commit can; a pane has length P (R275). -/
def closeEnd (spec : List Byte) (late : Nat) (w : Window) : Option Nat :=
  let len := if w.paneWin then wsPaneLen spec else wsLen spec
  match wsKind spec with
  | 0 => if 0 < w.count.toNat ∧ w.start + len ≤ w.last + 1 then some 0 else none
  | 1 => some (w.start + len + late)
  | _ => if wsTrigger spec = 1 ∧ wsLen spec ≤ w.count.toNat then some 0 else some (w.last + wsGap spec + late)

/-- The event that closes a window once its trigger holds (R271, R272): what the trigger clock showed at it, and its device
time, which no commit of the window follows. -/
def State.closeEvent (s : State) (ctl : StreamCtl) (late : Nat) (w : Window) : Option (Nat × Nat) :=
  match closeEnd ctl.spec late w with
  | none => none
  | some 0 => some (0, w.lastCommit)
  | some e =>
    if wsTrigger ctl.spec = 2 then
      (ctl.marks.find? (fun m => decide (e ≤ m.1))).map (fun m => (m.1, max m.2 w.lastCommit))
    else if e ≤ s.time then some (e, max e w.lastCommit)
    else none

/-- Whether a `win.wclose` stands before records the Carder has not taken yet (R324). -/
def StepReq.ahead (r : StepReq) (taken : Nat) : Bool :=
  r.raw && r.reason == .close && decide (2 ^ 31 ≤ posSub taken r.record.pos)

/-- Whether a window's CLOSE may come before the step that heads its key's order (R272, R275, R338): never while that one
runs, nor before a pane record's steps are named; between the steps of one record or pane record, only for a window below
the next one that no open pane still feeds. -/
def State.closeFits (s : State) (stream : Nat) (ctl : StreamCtl) (w : Window) (h : StepReq) : Bool :=
  let fed := wsPane ctl.spec && (s.openWindows stream w.key true).any (fun p =>
    decide (w.start ≤ p.2.start) && decide (p.2.start < w.start + wsLen ctl.spec))
  if h.sent then false
  else if h.raw then h.reason != .pane
  else
    match h.reason with
    | .expire => true
    | .close => false
    | _ => !w.paneWin && !h.pane && decide (w.start < h.start) && !fed

/-- The windows of a key that an event before the key's next step closes, with that event (R271, R272): in the order of the
events; those one event closes, panes first (R275), in ascending start. -/
def State.dueCloses (s : State) (stream : Nat) (ctl : StreamCtl) (key : Word) : List ((Nat × Window) × (Nat × Nat)) :=
  let late := leAt (s.qcbBytes (.global stream) 128) 0x48 8
  let head := ctl.steps.find? (fun r => r.key == key)
  let before (v : Nat) : Bool := match head with
    | some h => h.ahead ctl.taken || decide (v ≤ h.stamp)
    | none => true
  let ws := (s.openWindows stream key true ++ s.openWindows stream key false).filter (fun w =>
    w.2.phase == .parked && !w.2.closeReq && head.elim true (s.closeFits stream ctl w.2))
  let due := ws.filterMap (fun w => (s.closeEvent ctl late w.2).bind (fun e => if before e.1 then some (w, e) else none))
  sortBy (fun a b => decide (a.2.1 ≤ b.2.1)) due

/-- The keys of a stream's windows. -/
def State.windowKeys (s : State) (stream : Nat) : List Word :=
  ((s.windows.filter (fun w => w.2.stream == stream)).map (fun w => w.2.key)).eraseDups

/-- Whether a partition's agents act (R379, R412): the device runs, and the partition is neither quarantined nor held by a
census. -/
def State.partRuns (s : State) (part : Nat) : Bool :=
  s.run == .running && (s.partAt part).level == 0 && (s.partAt part).census == 0

/-- Whether the agents act for a context (R397). -/
def State.ctxRuns (s : State) (ctx : Nat) : Bool :=
  s.partRuns (partOfCtx ctx) && (look s.ctxs ctx).elim false (fun c => !c.halted)

/-- Whether a core's threads are in place and their partition runs. -/
def State.coreRuns (s : State) (core : Nat) (ctx : Nat) : Bool := !(s.coreAt core).swapped && s.partRuns (partOfCtx ctx)

/-- Whether the Carder acts on a stream (R379, R397, R412). -/
def State.streamRuns (s : State) (stream : Nat) : Bool := (look s.streams stream).any (fun c => s.ctxRuns c.ctx)

/-- Whether some window of a stream can receive its CLOSE step now. -/
def State.closable (s : State) (stream : Nat) (ctl : StreamCtl) : Bool :=
  (s.windowKeys stream).any (fun k => !(s.dueCloses stream ctl k).isEmpty)

/-- The CLOSE step of the first window of a key that is due one, placed before the key's next step (R271, R272): the next
window is looked at once this one's step is over. -/
def State.placeClose (s : State) (stream : Nat) (key : Word) : State :=
  match look s.streams stream with
  | none => s
  | some ctl =>
    match s.dueCloses stream ctl key with
    | [] => s
    | (w, e) :: _ =>
      let step := plainStep key w.1 w.2.start w.2.paneWin .close e.2 e.1
      (s.setStream stream { ctl with steps := insertFront key [step] ctl.steps }).setWindow w.1 { w.2 with closeReq := true }

/-- CLOSE steps placed for the keys of a stream, key by key (R271). -/
def State.placeCloses (s : State) (stream : Nat) : State :=
  (s.windowKeys stream).foldl (fun s k => s.placeClose stream k) s

/-- The head step of a key changed. -/
def State.setHead (s : State) (stream : Nat) (key : Word) (new : List StepReq) : State :=
  match look s.streams stream with
  | some ctl => s.setStream stream { ctl with steps := replaceHead key new ctl.steps }
  | none => s

/-- The head step of a key. -/
def State.headStep (s : State) (stream : Nat) (key : Word) : Option StepReq :=
  match look s.streams stream with
  | some ctl => ctl.steps.find? (fun r => r.key == key)
  | none => none

/-- The later step of one record or pane record for one window removed, as that window failed. -/
def dropFor (pos start : Nat) (pane : Bool) : List StepReq → List StepReq
  | [] => []
  | r :: t =>
    if r.record.pos = pos ∧ r.start = start ∧ r.pane = pane ∧ r.raw = false ∧ (r.reason = .record ∨ r.reason = .pane) then t
    else r :: dropFor pos start pane t

/-- PRED_FAILED (R391): every window that would have taken the failed pane's record is deleted, with its record. -/
def State.predFailed (s : State) (stream : Nat) (ctl : StreamCtl) (pane : Window) : State :=
  let ws := (s.openWindows stream pane.key false).filter (fun w =>
    decide (w.2.start ≤ pane.start) && decide (pane.start < w.2.start + wsLen ctl.spec))
  ws.foldl (fun s w =>
    (s.dropWindow w.1).raise w.2.ctx (.unit (s.dieOfKey (partOfCtx w.2.ctx) w.2.key)) 0
      { code := 0x16, source := 5, lane := 0xFF, ends := 3, core := 0xFFFF, slot := 0xFF, replays := 0, pc := 0,
        task := 0, winid := w.2.winid, addr := 0, info := pane.winid }) s

/-- The raw records of a pane that fails count as committed for it (R274, R391): every record of its key in its range, those
not yet resolved too, whose only window it is. -/
def State.paneCommitted (s : State) (stream : Nat) (w : Window) (plen : Nat) : State :=
  match look s.streams stream with
  | none => s
  | some ctl =>
    let at' (r : StepReq) : Nat := if wsKind ctl.spec = 0 then r.ord else r.record.ts
    let inPane : StepReq → Bool := fun r => r.key == w.key && r.reason == .record && (r.raw || r.pane)
      && decide (w.start ≤ at' r) && decide (at' r < w.start + plen)
    let gone := ctl.steps.filter inPane
    let s := s.setStream stream { ctl with steps := ctl.steps.filter (fun r => !inPane r) }
    gone.foldl (fun s r => if r.raw then s.retire stream r.record.pos else s.commitFor stream r.record.pos) s

/-- Data records held behind the expiry of their count key (R280): numbered from 0 again, in their order. -/
def renumber (key : Word) : Nat → List StepReq → List StepReq
  | _, [] => []
  | n, r :: t =>
    if r.key = key ∧ r.raw = true ∧ r.reason = .record then { r with ord := n } :: renumber key (n + 1) t
    else r :: renumber key n t

/-- The entry of a count key goes with the last window that expires; the records held behind the expiry start again at
ordinal 0 (R280). -/
def State.dropKey (s : State) (stream : Nat) (key : Word) : State :=
  match look s.streams stream with
  | some ctl =>
    if wsKind ctl.spec ≠ 0 ∨ s.windows.any (fun w => w.2.stream == stream && w.2.key == key) then s
    else
      let n := (ctl.steps.filter (fun r => r.key == key && r.raw && r.reason == .record)).length
      let keys := if n = 0 then del ctl.keys key.toNat
        else put ctl.keys key.toNat { firing := false, poison := [], next := n, expiry := 0, tier := 0, lastCommit := s.time }
      s.setStream stream { ctl with keys, steps := renumber key 0 ctl.steps }
  | none => s

/-- Whether a step's record counts as committed for its window when that window fails (R274): a raw record's OPEN or
RECORD step. -/
def StepReq.commits (r : StepReq) (spec : List Byte) : Bool :=
  (r.reason == .record || r.reason == .openR) && (!wsPane spec || r.pane)

/-- The phase a window stands in again after a step that did not reach its park (R283). -/
def Reason.phaseAgain : Reason → WinPhase
  | .close => .closing
  | .expire => .expiring
  | _ => .parked

/-- What follows a step that ended without its park (R274): redelivered with its replay counted (or not, for a flush);
past REPLAY the window fails. The second part is ENDS and the replay count of the record. -/
def State.stepFailed (s : State) (stream wk : Nat) (counted : Bool) : State × Nat × Nat :=
  match look s.streams stream, look s.windows wk with
  | some ctl, some w =>
    match ctl.steps.find? (fun r => r.key == w.key) with
    | none => (s, 2, 0)
    | some r =>
      let n := if counted then r.replays + 1 else r.replays
      if counted ∧ wsReplay ctl.spec < n then
        let rest := replaceHead w.key [] ctl.steps
        let rest := if r.reason = .openR then dropFor r.record.pos r.start r.pane rest else rest
        let s := (s.setStream stream { ctl with steps := rest }).dropWindow wk
        let s := if r.commits ctl.spec then s.commitFor stream r.record.pos else s
        let s := if w.paneWin then (s.paneCommitted stream w (wsPaneLen ctl.spec)).predFailed stream ctl w else s
        (if r.reason = .expire then s.dropKey stream w.key else s, 3, n)
      else
        let s := s.setStream stream
          { ctl with steps := replaceHead w.key [{ r with sent := false, replays := n }] ctl.steps }
        let s := if r.reason = .openR then s.dropWindow wk
          else s.setWindow wk { w with replays := min n 255, thread := none, phase := r.reason.phaseAgain }
        (s, 2, n)
  | _, _ => (s, 2, 0)

end Sys2Proof.Machine
end

