-- ==== Sys2Proof/Machine/Ops.lean ====
section
/-! DEFINITION. Sys2Proof/Machine/Ops.lean: taking a fault (R385-R391), the shared operation of every instruction that
raises one; the end of a thread (R386, R396); reductions and the events that order them (R181, R182, R193); the loads,
stores and atomics of a thread (R189-R192); the addresses of queues (R211). -/

namespace Sys2Proof.Machine

/-- Fields of a task handle (R285). -/
def hDie (h : Word) : Nat := bits h.toNat 1 0
/-- SLOT of a handle. -/
def hSlot (h : Word) : Nat := bits h.toNat 17 2
/-- GEN of a handle. -/
def hGen (h : Word) : Nat := bits h.toNat 33 18
/-- PART of a handle. -/
def hPart (h : Word) : Nat := bits h.toNat 37 34
/-- Key of a handle's slot. -/
def hKey (h : Word) : Nat := hDie h * 65536 + hSlot h
/-- A handle (R285). -/
def handleOf (part gen slot die : Nat) : Word := word (part * 2 ^ 34 + gen * 2 ^ 18 + slot * 4 + die)

/-- What a fault says (R388): the code, the source, the lowest failing lane (0xFF for none), the PC, the address and
INFO. -/
structure FArg where
  code   : Nat
  source : Nat
  lane   : Nat
  pc     : Word
  addr   : Word
  info   : Word
  deriving DecidableEq, Repr

/-- A fault of the scalar sequencer. -/
def scalarF (t : Thread) (code : Nat) (addr info : Word) : FArg :=
  { code, source := 0, lane := 0xFF, pc := t.pc, addr, info }

/-- The PC word of a lane fault (R388). -/
def lanePc (l : BitVec 32) : Word := BitVec.ofNat 64 (2 ^ 63 + l.toNat)

/-- A fault of a gang. -/
def gangF (t : Thread) (g code lane : Nat) (addr info : Word) : FArg :=
  { code, source := 1, lane, pc := lanePc (t.gangPc g), addr, info }

/-- A party's fault with no lane. -/
def partyF (t : Thread) (p : Party) (code : Nat) (addr info : Word) : FArg :=
  match p with
  | .scalar => scalarF t code addr info
  | .gang g => gangF t g code 0xFF addr info

/-- A thread's entries in the waiter lists of a queue removed. -/
def Queue.without (q : Queue) (tid : Nat) : Queue :=
  let keep : Waiter → Bool := fun w => match w.who with | .thread x _ => x != tid | _ => true
  { q with pushers := q.pushers.filter keep, poppers := q.poppers.filter keep }

/-- Whether a thread waits in a queue's lists. -/
def Queue.holds (q : Queue) (tid : Nat) : Bool :=
  (q.pushers ++ q.poppers).any (fun w => match w.who with | .thread x _ => x == tid | _ => false)

/-- Whether a carried operation waits at its peer's queue (R224). -/
def WaitOp.waits : WaitOp → Bool
  | .push _ _ => true
  | .pushv _ _ _ _ => true
  | _ => false

/-- Whether a request of a slice is some party's of a thread. -/
def requestOf (tid : Nat) (r : MemReq) : Bool := r.who.any (fun w => w.tid == tid)

/-- A peer asked to give up what waits there for a thread (R229, R334): a push, which it answers; the wait of an arrival,
which ends at once. -/
def Flow.askBack (f : Flow) (uid : Nat) : Flow :=
  let ask (w : NetWait) : Bool := w.uid == uid && w.op.waits && !w.asked
  let gone (w : NetWait) : Bool := w.uid == uid && (match w.op with | .phase _ => true | _ => false)
  { f with
    waiting := (f.waiting.filter (fun w => !gone w)).map (fun w => if ask w then { w with asked := true } else w)
    sent := f.sent ++ (f.waiting.filter (fun w => ask w || gone w)).map (fun w => [w.addr, 11]) }

/-- A thread's operations at peers taken back, as far as a peer can give them up. -/
def State.askBack (s : State) (uid : Nat) : State :=
  if s.flows.any (fun f => f.2.waiting.any (fun w => w.uid == uid)) then
    { s with flows := s.flows.map (fun f => (f.1, f.2.askBack uid)) }
  else s

/-- A queue's lists without a thread: the home stores its block at the end of the step, or once it can (R209). -/
def State.leaveQueues (s : State) (tid : Nat) (qs : List (QRef × Queue)) : State :=
  qs.foldl (fun s x => if x.2.holds tid then (s.putQueue x.1 (x.2.without tid)).resettle x.1 x.2 else s) s

/-- A thread leaves every list it waits in (R229, R334): of queues, here and at peers, of slices, of its pool. -/
def State.withdraw (s : State) (tid : Nat) : State :=
  let s := (look s.threads tid).elim s (fun t => s.askBack t.uid)
  let s := if s.slices.any (fun q => q.2.holds (requestOf tid)) then
      { s with slices := s.slices.map (fun q => (q.1, q.2.without (requestOf tid))) }
    else s
  let s := s.leaveQueues tid (s.queues.map (fun q => (QRef.global q.1, q.2)))
  let ck := (look s.threads tid).elim 0 (fun t => t.cohort)
  match look s.cohorts ck with
  | none => s
  | some c =>
    let s := s.leaveQueues tid (c.queues.map (fun q => (QRef.scratch ck q.1, q.2)))
    match look s.cohorts ck with
    | some c => if c.claims.any (fun x => x.1 == tid) then s.setCohort ck { c with claims := c.claims.filter (fun x => x.1 != tid) } else s
    | none => s

/-- Pages of a grant unpinned (R353): the TLBs hold the entry of a page whose count falls to 0 no longer. -/
def State.unpinPages (s : State) (ps : List Nat) : State :=
  let pins := ps.foldl (fun m k =>
      let n := (look m k).getD 0
      if n ≤ 1 then del m k else put m k (n - 1)) s.pins
  let freed := ps.filter (fun k => (look pins k).isNone)
  let f (t : TlbEntry) : TlbEntry :=
    if t.held ∧ freed.contains (t.asid.toNat * 2 ^ 64 + t.page) then { t with held := false } else t
  { s with pins, tlbs := if freed.isEmpty then s.tlbs else s.tlbs.map (fun x => (x.1, x.2.map f)) }

/-- A task's account of a thread that ends or detaches (R291, R329). -/
def State.taskThreadEnds (s : State) (t : Thread) (faulted : Bool) : State :=
  if t.task = 0 ∨ t.detached then s
  else
    let k := hKey t.task
    let ts := s.taskAt k
    if ts.gen.toNat ≠ hGen t.task then s
    else
      let last := (s.threads.filter (fun x => x.2.task == t.task && x.2.piece == t.piece && !x.2.ended
        && !x.2.detached && x.2.uid != t.uid)).isEmpty
      let pieces := if last then
          (ts.pieces.zipIdx.map (fun p => if p.2 = t.piece then { p.1 with live := false } else p.1))
        else ts.pieces
      s.setTask k { ts with threads := ts.threads - 1, bad := ts.bad || faulted, pieces }

/-- The positions a thread that ends had reserved (R218): a window's thread goes on with its window, whatever step of it
ends; those of any other are committed. -/
def State.leaveReserved (s : State) (t : Thread) : State :=
  match t.step.bind (fun st => (look s.windows st.win).map (fun w => (st.win, w))) with
  | some (wk, w) => if t.reserved = w.reserved then s else s.setWindow wk { w with reserved := t.reserved }
  | none => s.commitReserved t.reserved

/-- A thread ends (R386, R396): it leaves every list, its grant and its reservations go, its queued and running blocks
with them; the cohort keeps its room until it is freed (R260). -/
def State.endThread (s : State) (tid : Nat) (faulted : Bool) : State :=
  match look s.threads tid with
  | none => s
  | some t =>
    let s := s.withdraw tid
    let t' : Thread := { t with
      ended := true, faulted, wait := none, blocks := [], running := false, grant := [], reserved := [], emits := [],
      sl := t.sl.map (fun x => { x with st := .idle, wait := none, held := false }) }
    let s := (s.setThread tid t').unpinPages t.grant
    let s := { s with sysReqs := s.sysReqs.filter (fun r => r.uid != t.uid) }
    (s.leaveReserved t).taskThreadEnds t faulted

/-- A PRIV fault counts towards PRIVTHR (R374). -/
def State.countPriv (s : State) (ctx code : Nat) : State :=
  if code = 0x14 then
    let p := partOfCtx ctx
    s.setPart p { s.partAt p with privAt := (s.partAt p).privAt ++ [s.time] }
  else s

/-- Fault(code) (R44, R386-R389), the one operation by which an instruction raises a fault: the unit it ends, and its
record. A fault that finds the thread ended writes its record and ends nothing. -/
def State.fault (s : State) (tid : Nat) (f : FArg) : State :=
  match look s.threads tid with
  | none => s
  | some t =>
    let s := s.countPriv t.ctx f.code
    let core := coreOf tid
    let mk (ends n : Nat) : FRec :=
      { code := f.code, source := f.source, lane := f.lane, ends, core, slot := tid % 32, replays := n, pc := f.pc,
        task := t.task, winid := t.winid, addr := f.addr, info := f.info }
    if t.ended then s.raise t.ctx (.core core) t.uid (mk 0 0)
    else
      let s := s.endThread tid true
      match t.step with
      | some st =>
        let stream := (look s.windows st.win).elim 0 (fun w => w.stream)
        let y := s.stepFailed stream st.win true
        y.1.raise t.ctx (.core core) t.uid (mk y.2.1 y.2.2)
      | none => s.raise t.ctx (.core core) t.uid (mk (if t.task = 0 ∨ t.detached then 1 else 4) 0)

/-- What a peer is told of an operation this package does not perform: −1, the fault code and INFO. -/
def refusal (code : Nat) (info : Word) : List Word := [wMinus1, word code, info]

/-- A waiter ended by its queue (R214, R219, R224, R322): a thread takes the fault; a dropped emission writes a record; a
network operation is answered −1 where the queue is closed, and the fault where it is frozen. -/
def State.endOne (s : State) (e : Ended) : State :=
  match e.who with
  | .thread tid p => (look s.threads tid).elim s (fun t => s.fault tid (partyF t p e.code e.addr (word e.info)))
  | .carder d => s.raise e.ctx (.unit d) 0 (engineRec e.code 5 0xFF 0 e.addr (word e.info))
  | .network f =>
    match look s.flows f with
    | some fl =>
      let ws := if e.code = 0x0A then [wMinus1] else refusal e.code (word e.info)
      { s with flows := put s.flows f { fl with sent := fl.sent ++ [ws] } }
    | none => s
  | .taskEngine _ => s

/-- The ends of a home's operation, applied. -/
def State.applyEnds (s : State) (es : List Ended) : State := es.foldl State.endOne s

/-- A home's operation that no instruction of this package asked for: its waiters' ends, and the record of a queue it has just
found corrupt, which goes to the queue's owner (R214, R362). -/
def State.homeActed (s : State) (r : QRef) (h : HomeOut) : State :=
  let s' := h.s.applyEnds h.ended
  match h.ans, s.queueAt r with
  | .corrupt m, some q => if q.frozen = none then s'.raise q.ctx (s.homeUnit r q) 0 (engineRec 0x08 7 0xFF 0 q.va (word m)) else s'
  | _, _ => s'

/-- An instruction that faults: the next state has the fault taken. -/
def faultOut (s : State) (tid : Nat) (f : FArg) : Out := .next (s.fault tid f)

/-- Whether a thread still runs. -/
def State.alive (s : State) (tid : Nat) : Bool :=
  match look s.threads tid with
  | some t => !t.ended
  | none => false

/-- A thread changed where it stands now; nothing where it has ended. -/
def State.onLive (s : State) (tid : Nat) (f : Thread → Thread) : State :=
  match look s.threads tid with
  | some t => if t.ended then s else s.setThread tid (f t)
  | none => s

/-- A scalar instruction completes with a result, on the machine its accesses left. -/
def State.finish (s : State) (tid : Nat) (d : BitVec 6) (v : Word) : State := s.onLive tid (fun t => (t.setS d v).step4)

/-- A party's instruction waits, issued again when it can proceed (R334). -/
def State.hold (s : State) (tid : Nat) (p : Party) (w : Wait) : State := s.onLive tid (fun t => t.block p w)

/-- Flags raised and the instruction complete; an enabled trap follows (R44, R79). -/
def State.trapAfter (s : State) (tid : Nat) (fl : FFlags) (f : FArg) : State :=
  match look s.threads tid with
  | some t =>
    if t.ended then s
    else
      let s := s.setThread tid (t.orFlags fl)
      let en := fl &&& t.fpctl.setWidth 6
      if en = 0 then s else s.fault tid { f with code := 0x15, info := en.setWidth 64 }
  | none => s

/-- The value of an atomic operation (R191, R192, R202) on w bits by its OPR code, with the flags of a float add: 0-3
add, and, or, xor; 4, 5 signed min, max; 6, 7 unsigned; 8 swap; 9 cas; 10 fadd; 12 fxadd. -/
def atomNew (op w old x cmp : Nat) : Nat × FFlags :=
  match op with
  | 0 => ((old + x) % 2 ^ w, 0)
  | 1 => (Nat.land old x, 0)
  | 2 => (Nat.lor old x, 0)
  | 3 => (Nat.xor old x, 0)
  | 4 => (if sext x w < sext old w then x else old, 0)
  | 5 => (if sext old w < sext x w then x else old, 0)
  | 6 => (min old x, 0)
  | 7 => (max old x, 0)
  | 8 => (x, 0)
  | 9 => (if old = cmp then x else old, 0)
  | 10 => addF (if w = 32 then .f32 else .f64) old x
  | 12 => ((old + x) % 2 ^ w, 0)
  | _ => (old, 0)

/-- Reductions of a thread, by its uid, that are not performed (R181): those its die's combiner holds, those a save has left on
their way there (R403), those in its store buffer. -/
def State.postedBy (s : State) (uid : Nat) : List Red :=
  let mine : Red → Bool := fun r => r.uid == uid
  s.dies.flatMap (fun d => d.2.combiner.filter mine) ++ s.cores.flatMap (fun c => c.2.posted.filter mine)
    ++ s.threads.flatMap (fun t => t.2.redBuf.filter mine)

/-- The key of a flow (R368) of a die's network engine: outgoing to a partition of a peer, or incoming from a peer to a
partition of this package. -/
def flowKey (die : Nat) (incoming : Bool) (pkg part : Nat) : Nat :=
  die * 2 ^ 15 + (if incoming then 2 ^ 14 else 0) + pkg * 16 + part

/-- Whether a flow comes in from a peer. -/
def flowIn (k : Nat) : Bool := k.testBit 14

/-- The flow under a key, as it stands. -/
def State.flowAt (s : State) (k : Nat) : Flow :=
  (look s.flows k).getD
    { pkg := k / 16 % 1024, part := k % 16, key := none, down := false, waiting := [], reds := [], copies := [], sent := [] }

/-- The flow of a pod-remote page handle (R369) for the traffic of a die (R368). -/
def handleFlow (die h : Nat) : Nat := flowKey die false (bits h 47 38) (bits h 37 34)

/-- A fault record that names the issuing thread and lane of a reduction, as it stood at issue, and ends nothing (R193). -/
def State.redRecord (s : State) (r : Red) (code : Nat) : State :=
  s.raise r.ctx (.core r.core) r.uid
    { code, source := if r.pc.getLsbD 63 then 1 else 0, lane := r.lane, ends := 0, core := r.core, slot := r.slot,
      replays := 0, pc := r.pc, task := r.task, winid := r.winid, addr := word r.addr, info := 0 }

/-- A reduction performed at its home (R193): none while it must wait there. A poisoned sector drops it with a record, and
so does a control block bound there since its issue (R213); a page of another package carries it over the network
(R369). -/
def State.performRed (s : State) (r : Red) : Option State :=
  match s.place r.ctx r.addr with
  | .remote h =>
    let k := handleFlow (dieOfCore r.core) h
    let fl := s.flowAt k
    if fl.down then some (s.redRecord r 0x06)
    else
      let fl := { fl with reds := fl.reds ++ [r], sent := fl.sent ++ [[word r.addr, word r.op, word r.value.toNat]] }
      some { s with flows := put s.flows k fl }
  | .byte pa =>
    if s.mustWait r.ctx r.addr pa then none
    else if s.hitsQcb pa r.bytes then some (s.redRecord r 0x09)
    else if s.poisoned pa r.bytes then some (s.redRecord r 0x07)
    else
      let new := (atomNew r.op (8 * r.bytes) (Mem.readN s.mem pa r.bytes) r.value.toNat 0).1
      let s := s.writeTouch (.core r.core) r.ctx r.addr pa none
      some { s with mem := Mem.writeN s.mem pa r.bytes new }
  | _ => some (s.redRecord r 0x06)

/-- A reduction leaves the combiner, the way there, or the store buffer. -/
def State.dropRed (s : State) (r : Red) : State :=
  let die := dieOfCore r.core
  let d := s.dieAt die
  let c := s.coreAt r.core
  if d.combiner.contains r then s.setDie die { d with combiner := d.combiner.erase r }
  else if c.posted.contains r then s.setCore r.core { c with posted := c.posted.erase r }
  else
    let tid := r.core * 32 + r.slot
    match look s.threads tid with
    | some t => s.setThread tid { t with redBuf := t.redBuf.erase r }
    | none => s

/-- Reductions performed in turn, and whether all were: one whose line is owned stays posted. -/
def State.performAll (s : State) : List Red → State × Bool
  | [] => (s, true)
  | r :: t =>
    match (s.dropRed r).performRed r with
    | some s => s.performAll t
    | none => ((s.performAll t).1, false)

/-- Whether two pieces of memory of a context overlap. -/
def overlaps (a n b m : Nat) : Bool := decide (a < b + m) && decide (b < a + n)

/-- Whether a reduction's location is among n bytes of its context: under their addresses, or under another name of the same
frame (R186). -/
def State.redMeets (s : State) (va n : Nat) (r : Red) : Bool :=
  overlaps va n r.addr r.bytes
  || (match s.place r.ctx r.addr with
      | .byte p => (chunks va n).any (fun c =>
          match s.place r.ctx c.va with
          | .byte q => overlaps q c.n p r.bytes
          | _ => false)
      | _ => false)

/-- Whether a thread's cohort is being saved: its threads have stopped at an instruction boundary (R403). -/
def State.stopped (s : State) (tid : Nat) : Bool :=
  match (look s.threads tid).bind (fun t => look s.cohorts t.cohort) with
  | some c => c.saving.isSome
  | none => false

/-- Whether a context's threads run at all: the device runs (R383) and the partition is not quarantined (R379). -/
def State.canRun (s : State) (ctx : Nat) : Bool := s.run == .running && (s.partAt (partOfCtx ctx)).level == 0

/-- Whether a thread may issue: its context runs, its partition is not held by a census (R412), its core not swapped out (R407),
the context not halted (R397), and no save has stopped it (R403). -/
def State.mayIssue (s : State) (tid : Nat) (ctx : Nat) : Bool :=
  s.canRun ctx && (s.partAt (partOfCtx ctx)).census == 0 && !(s.coreAt (coreOf tid)).swapped
    && (match look s.ctxs ctx with | some c => !c.halted | none => true) && !s.stopped tid

/-- Whether a memory instruction that waits has line requests under way (R160, R201), which a save, a halt or a census waits for
(R206, R403). -/
def inFlight : Option Wait → Bool
  | some (.port _ _) => true
  | some (.home _ _) => true
  | _ => false

/-- Whether a party may go on: its thread may issue, or what it has under way is to be completed. -/
def State.mayGoOn (s : State) (tid : Nat) (ctx : Nat) (w : Option Wait) : Bool :=
  s.mayIssue tid ctx || (inFlight w && s.canRun ctx)

/-- Whether a wait is of a request held at its core's issue port (R160). -/
def atPort : Option Wait → Bool
  | some (.port _ _) => true
  | _ => false

/-- How far a memory instruction that waits has come (R160, R201): the line requests that have left or been performed, and
what they returned by lane. -/
def progress : Option Wait → Option (Nat × List (Nat × Nat × FFlags))
  | some (.port n got) => some (n, got)
  | some (.home n got) => some (n, got)
  | some (.loaded _) => some (0, [])
  | _ => none

/-- How far a party's memory instruction has come before it waited. -/
def Thread.sentBefore (t : Thread) : Party → Nat × List (Nat × Nat × FFlags)
  | .scalar => (progress t.wait).getD (0, [])
  | .gang g => ((t.gangSlices g).findSome? (fun i => (t.sl[i]?).bind (fun x => progress x.wait))).getD (0, [])

/-- Whether requests of a core wait behind one that a full queue or a full combiner holds at the issue port (R160, R205):
another party's request, or a posted reduction. The party that issues is `cur`'s. -/
def State.portHeld (s : State) (core : Nat) : Bool :=
  let full := decide (Config.combinerSize ≤ (s.dieAt (dieOfCore core)).combiner.length)
  (full && !(s.coreAt core).posted.isEmpty) || s.threads.any (fun p => p.1 / 32 == core && s.canRun p.2.ctx && !p.2.ended
    && ((full && !p.2.redBuf.isEmpty)
      || (atPort p.2.wait && !(p.1 == s.cur.tid && s.cur.party == .scalar))
      || p.2.sl.any (fun x => atPort x.wait && !(p.1 == s.cur.tid && s.cur.party == .gang x.gang))))

/-- The thread's own reductions to bytes it is about to access (R182), behind what the core's issue port holds. -/
def State.ownFirst (s : State) (tid : Nat) (t : Thread) (va n : Nat) : Option State :=
  if s.portHeld (coreOf tid) then none
  else
    let x := s.performAll ((s.postedBy t.uid).filter (s.redMeets va n))
    if x.2 then some x.1 else none

/-- Whether a record's CTRL word says it is attached (R234). -/
def attachBit (raw : List Byte) : Bool := (leAt raw 8 4).testBit 30

/-- The records a chain reaches from an address on that the engine is to take (R232): those with OWN set, up to the first
without it or the end. By fuel, none twice. -/
def State.recordsAhead (s : State) (ctx : Nat) : Nat → List Nat → Nat → List (List Byte)
  | 0, _, _ => []
  | f + 1, seen, a =>
    if a = 0 ∨ seen.contains a then []
    else
      let raw := s.peekBytes ctx a 64
      if (leAt raw 8 4).testBit 31 then raw :: State.recordsAhead s ctx f (a :: seen) (leAt raw 0 8) else []

/-- The attached records of a chain that are not yet performed (R182, R234): the one taken, and those it has still to
reach. -/
def State.attachedOf (s : State) (h : Chain) : List (List Byte) :=
  (match h.taken with
    | some r => r.raw :: s.recordsAhead h.ctx 4096 [r.addr.toNat] (leAt r.raw 0 8)
    | none => s.recordsAhead h.ctx 4096 [] h.at_.toNat).filter attachBit

/-- Whether every attached engine operation of a thread is performed (R182): copy records and matrix stores. -/
def State.enginesDone (s : State) (uid : Nat) : Bool :=
  s.chans.all (fun c => c.2.chains.all (fun h => h.uid != uid || (s.attachedOf h).isEmpty))
    && s.cores.all (fun c => c.2.mx.all (fun o => o.uid != uid || (match o.kind with
        | .mst _ _ _ => false
        | .mstx _ _ _ _ => false
        | _ => true)))

/-- Reductions of a thread that wait for a peer's acknowledgment (R194). -/
def State.remoteReds (s : State) (uid : Nat) : Bool := s.flows.any (fun f => f.2.reds.any (fun r => r.uid == uid))

/-- A release of a thread, by its uid (R182, R216): every reduction it posted is performed, those on other packages
acknowledged, and every attached engine operation is done. The machine as far as it has come, and whether it is. -/
def State.release (s : State) (uid : Nat) : State × Bool :=
  let x := s.performAll (s.postedBy uid)
  (x.1, x.2 && x.1.enginesDone uid && !x.1.remoteReds uid)

/-- Bytes a thread loads (R176, R190), its own reductions to them performed first. -/
def State.loadT (s : State) (tid : Nat) (t : Thread) (va n : Nat) : Acc (List Byte × State) :=
  match s.ownFirst tid t va n with
  | none => .wait
  | some s => s.readBytes (.core (coreOf tid)) t.ctx va n

/-- Bytes a thread reads in one access at their home (R85, R192, R319), its own reductions to them performed first. -/
def State.loadHomeT (s : State) (tid : Nat) (t : Thread) (va n : Nat) : Acc (List Byte × State) :=
  match s.ownFirst tid t va n with
  | none => .wait
  | some s => s.homeBytes (.core (coreOf tid)) t.ctx va n

/-- The slice and stamp of the last store of the party that issues (R176). -/
def State.storeBefore (s : State) (tid : Nat) (t : Thread) : Option (Nat × Nat) :=
  ((s.coreAt (coreOf tid)).lastSt.find? (fun m => m.tid == tid && m.uid == t.uid && m.party == s.cur.party)).map
    (fun m => (m.ch, m.stamp))

/-- The party's store to a byte, just performed, kept as its last one (R176). -/
def State.markStore (s : State) (tid : Nat) (t : Thread) (va : Nat) : State :=
  match s.place t.ctx va with
  | .byte pa =>
    match s.stampAt t.ctx va pa with
    | some (ch, stamp) =>
      let c := s.coreAt (coreOf tid)
      let others := c.lastSt.filter (fun m => !(m.tid == tid && m.party == s.cur.party))
      let mark : StoreMark := { tid, uid := t.uid, party := s.cur.party, ch, stamp }
      s.setCore (coreOf tid) { c with lastSt := mark :: others }
    | none => s
  | _ => s

/-- Bytes a thread stores, each store of the issuing party after the one before it (R176). -/
def State.storeT (s : State) (tid : Nat) (t : Thread) (va : Nat) (bs : List Byte) : Acc State :=
  match s.ownFirst tid t va bs.length with
  | none => .wait
  | some s =>
    match s.writeAfter (.core (coreOf tid)) t.ctx va (s.storeBefore tid t) bs with
    | .ok s => .ok (s.markStore tid t (va + bs.length - 1))
    | .fault f => .fault f
    | .wait => .wait

/-- A returning atomic of a thread (R174, R192) on n bytes: what a function of the old value says is written; the old
value is answered. -/
def State.atomT (s : State) (tid : Nat) (t : Thread) (va n : Nat) (f : Nat → Nat) : Acc (Nat × State) :=
  match s.ownFirst tid t va n with
  | none => .wait
  | some s =>
    match s.reach t.ctx va with
    | .fault c => .fault c
    | .wait => .wait
    | .ok pa =>
      if s.poisoned pa n then .fault 0x07
      else
        let old := Mem.readN s.mem pa n
        let s := s.writeTouch (.core (coreOf tid)) t.ctx va pa none
        .ok (old, { s with mem := Mem.writeN s.mem pa n (f old) })

/-- Bytes of an element buffer, or of a packet, in a space (R211). -/
inductive Space where
  | global (va : Nat)
  | scratch (off : Nat)
  deriving DecidableEq, Repr

/-- A space-tagged address (R211): RANGE where its tag or its unused bits are not allowed. -/
def spaceOf (a : Word) : Option Space :=
  match bits a.toNat 63 62 with
  | 0 => if bits a.toNat 61 57 = 0 then some (.global (bits a.toNat 56 0)) else none
  | 1 => if bits a.toNat 61 32 = 0 then some (.scratch (bits a.toNat 31 0)) else none
  | _ => none

/-- The reference of a queue address (R211) with the checks made on it: the fault code, or the reference. The line's
size says how many bytes are checked. -/
def State.queueRef (s : State) (t : Thread) (a : Word) (size : Nat) : Sum Nat QRef :=
  match spaceOf a with
  | none => .inl 0x05
  | some (.global va) =>
    if va % 64 ≠ 0 then .inl 0x04
    else if !inRanges t.ranges va size .atomic then .inl 0x05
    else
      match s.place t.ctx va with
      | .byte pa => .inr (.global pa)
      | .remote _ => .inl 0x05
      | _ => .inl 0x06
  | some (.scratch off) =>
    if off % 64 ≠ 0 then .inl 0x04
    else
      match look s.cohorts t.cohort with
      | some c => if c.spsize < off + size then .inl 0x05 else .inr (.scratch t.cohort off)
      | none => .inl 0x05

/-- The partition and the SCOPE of a queue against a thread (R208, R221): PRIV where it is not admitted. -/
def State.queuePriv (s : State) (tid : Nat) (t : Thread) (r : QRef) : Bool :=
  match s.queueAt r with
  | some q => partOfCtx q.ctx != partOfCtx t.ctx || !s.admits q (qScope (s.qcbBytes r 64)) t.uid (coreOf tid)
  | none => false

/-- The element buffer of n bytes (R211): the fault code, if any. -/
def State.bufferCheck (s : State) (t : Thread) (a : Word) (n : Nat) (k : Kind) : Option Nat :=
  match spaceOf a with
  | none => some 0x05
  | some (.global va) =>
    if va % 8 ≠ 0 then some 0x04
    else if !inRanges t.ranges va n k then some 0x05
    else if k != .read && s.overlapsQcb t.ctx va n then some 0x09
    else none
  | some (.scratch off) =>
    if off % 8 ≠ 0 then some 0x04
    else
      match look s.cohorts t.cohort with
      | some c => if c.spsize < off + n then some 0x05 else if k != .read && c.hitsQcb off n then some 0x09 else none
      | none => some 0x05

/-- The bytes of an element buffer loaded by a party (R221). -/
def State.bufferLoad (s : State) (tid : Nat) (t : Thread) (a : Word) (n : Nat) : Acc (List Byte × State) :=
  match spaceOf a with
  | some (.global va) => s.loadT tid t va n
  | some (.scratch off) =>
    match look s.cohorts t.cohort with
    | some c =>
      if s.scratchOwned c off n then .wait
      else if c.poisoned off n then .fault 0x07
      else .ok (c.scratch.readBytes off n, s)
    | none => .fault 0x05
  | none => .fault 0x05

/-- An element stored in a buffer by a party (R221). -/
def State.bufferStore (s : State) (tid : Nat) (t : Thread) (a : Word) (bs : List Byte) : Acc State :=
  match spaceOf a with
  | some (.global va) => s.storeT tid t va bs
  | some (.scratch off) =>
    match look s.cohorts t.cohort with
    | some c => if s.scratchOwned c off bs.length then .wait else .ok (s.setCohort t.cohort (c.writeScratch off bs))
    | none => .fault 0x05
  | none => .fault 0x05

/-- An access that must wait behind others joins its slice's queue (R161), in the order of arrival: not where it stands there
already, where an engine owns the line (R183), where the ports are held (R178), or where the queue is full. -/
def State.joinQueue (s : State) (w : ReqWho) (ctx va : Nat) : State :=
  let ch := s.homeOf ctx va
  let q := s.sliceAt ch
  match s.place ctx va with
  | .byte pa =>
    if s.ownedByte pa || s.ptsFull || q.holds (s.isOwn (va / 128)) || Config.requestQueue ≤ q.reqs.length then s
    else
      let r : MemReq := { who := some w, core := coreOf w.tid, pts := 0, ctx, asid := s.asidOf ctx, vline := va / 128,
                          sectors := 0xF, l1 := false }
      { s with slices := put s.slices ch { q with reqs := q.reqs ++ [r] } }
  | _ => s

/-- Whether an access waits at its core's issue port for a full queue to make room (R160). -/
def State.queueFull (s : State) (ctx va : Nat) : Bool :=
  let q := s.sliceAt (s.homeOf ctx va)
  decide (Config.requestQueue ≤ q.reqs.length) && !q.holds (s.isOwn (va / 128))

/-- A party's requests leave the queues of slices but for those of some lines. -/
def State.leaveOthers (s : State) (w : ReqWho) (keep : List Nat) : State :=
  let gone (r : MemReq) : Bool := r.who == some w && !keep.contains r.vline
  if s.slices.any (fun q => q.2.holds gone) then { s with slices := s.slices.map (fun q => (q.1, q.2.without gone)) } else s

/-- The accesses of a context that a party waits for join the queues of their slices (R161), and no others of its stand there. -/
def State.join (s : State) (tid : Nat) (t : Thread) (p : Party) (ctx : Nat) (vas : List Nat) : State :=
  let w : ReqWho := { tid, uid := t.uid, party := p }
  vas.foldl (fun s va => s.joinQueue w ctx va) (s.leaveOthers w (vas.map (fun va => va / 128)))

/-- A party's instruction waits, with what it has done so far: the accesses of a context it waits for join the queues of their
slices, or are held at the issue port by a full one (R160, R161). -/
def State.await (s : State) (tid : Nat) (t : Thread) (p : Party) (ctx sent : Nat) (got : List (Nat × Nat × FFlags))
    (vas : List Nat) : State :=
  (s.join tid t p ctx vas).hold tid p (if vas.any (s.queueFull ctx) then .port sent got else .home sent got)

/-- The first line of n bytes whose access waits at its home. -/
def State.lineWaits (s : State) (ctx va n : Nat) : List Nat :=
  (((chunks va n).map (fun c => c.va)).filter (fun a => match s.reach ctx a with | .wait => true | _ => false)).take 1

/-- An access's result used, its fault taken, or the party held while the home of one of its n bytes cannot serve it. -/
def accOut {α : Type} (s : State) (tid : Nat) (t : Thread) (p : Party) (va : Word) (n : Nat) (r : Acc α) (k : α → Out) : Out :=
  match r with
  | .ok x => k x
  | .fault c => faultOut s tid (partyF t p c va 0)
  | .wait => .next (s.await tid t p t.ctx 0 [] (s.lineWaits t.ctx va.toNat n))

/-- Whether an element buffer can be stored to now: the pop waits otherwise, before the home acts. -/
def State.bufferFree (s : State) (t : Thread) (a : Word) (n : Nat) : Acc Unit :=
  match spaceOf a with
  | some (.global va) =>
    match s.reachAll t.ctx (chunks va n) with
    | .ok _ => .ok ()
    | .fault f => .fault f
    | .wait => .wait
  | some (.scratch off) =>
    match look s.cohorts t.cohort with
    | some c => if s.scratchOwned c off n then .wait else .ok ()
    | none => .fault 0x05
  | none => .fault 0x05

/-- One decrement sent to a task slot (R290): the task engine performs it in arrival order. -/
def State.sendDecrement (s : State) (h : Word) (failed : Bool) : State :=
  let d := s.dieAt (hDie h)
  s.setDie (hDie h) { d with decs := d.decs ++ [(h, failed)] }

/-- The loaded scalar section that holds a word (R93). -/
def State.scodeAt (s : State) (ctx pc : Nat) : Option Section :=
  match look s.ctxs ctx with
  | some c => c.sections.find? (fun x => !x.lane && decide (x.base ≤ pc) && decide (pc + 4 ≤ x.base + x.size))
  | none => none

/-- A thread's lane code section (R257, R311): the LCODE of the object whose scalar code its cohort entered. -/
def State.laneSection (s : State) (t : Thread) : Option Section :=
  match look s.ctxs t.ctx, look s.cohorts t.cohort with
  | some c, some h =>
    match s.scodeAt t.ctx h.entry.toNat with
    | some x => c.sections.find? (fun y => y.lane && y.obj == x.obj)
    | none => none
  | _, _ => none

/-- The scratchpad of a thread's cohort. -/
def State.cohortOf (s : State) (t : Thread) : Option Cohort := look s.cohorts t.cohort

end Sys2Proof.Machine
end

