-- ==== Sys2Proof/Machine/Paging.lean ====
section
/-! DEFINITION. Sys2Proof/Machine/Paging.lean: what the Milliner service does with page tables (R346-R351): the leaves a
context maps, the rule on aliases, tables made on the way to an entry, shootdowns, frames given back. -/

namespace Sys2Proof.Machine

/-- A leaf a table maps: its page, its size, its entry, and the entry's address in the table store. -/
structure Mapped where
  va    : Nat
  size  : Nat
  entry : Word
  addr  : Nat
  deriving DecidableEq, Repr

/-- Entries of a table of a level (R347). -/
def tableEntries (l : Nat) : Nat := if l = 0 then 32 else 512

/-- The leaves under a table of a level (R347) that maps addresses from a base on. -/
def leavesIn (tables : SMap Word) (part : Nat) : Nat → Nat → Nat → List Mapped
  | 0, table, base =>
    (inTable tables part 0 table).filterMap (fun x =>
      if leafV x.2 && leafLeaf x.2 then some { va := base + x.1 * 2 ^ 16, size := 2 ^ 16, entry := x.2, addr := table + 8 * x.1 }
      else none)
  | l + 1, table, base =>
    (inTable tables part (l + 1) table).flatMap (fun x =>
      let va := base + x.1 * 2 ^ levelShift (l + 1)
      if !leafV x.2 then []
      else if leafLeaf x.2 then [{ va, size := 2 ^ levelShift (l + 1), entry := x.2, addr := table + 8 * x.1 }]
      else leavesIn tables part l (leafFrame x.2) va)
where
  /-- The entries a table lists, by index. -/
  inTable (tables : SMap Word) (part l table : Nat) : List (Nat × Word) :=
    tables.filterMap (fun x =>
      if tableKey part table ≤ x.1 ∧ x.1 < tableKey part table + 8 * tableEntries l then
        some ((x.1 - tableKey part table) / 8, x.2)
      else none)

/-- Every leaf of a context (R347). -/
def State.leavesOf (s : State) (ctx : Nat) : List Mapped :=
  match look s.ctxs ctx with
  | some c => leavesIn s.tables (partOfCtx ctx) 4 c.root 0
  | none => []

/-- The frame bytes a present page takes in each channel, or in host memory: the space, the first and the length. -/
def frameSpan (k : Nat) (e : Word) (size : Nat) : Option (Nat × Nat × Nat) :=
  match leafKind e with
  | 0 => if leafRes e then some (0, leafFrame e * (size / 2 ^ k), size / 2 ^ k) else none
  | 1 => some (1, leafFrame e * 2 ^ 16, size)
  | _ => none

/-- Whether two pages' spans meet. -/
def spansMeet (a b : Option (Nat × Nat × Nat)) : Bool :=
  match a, b with
  | some x, some y => x.1 == y.1 && overlaps x.2.1 x.2.2 y.2.1 y.2.2
  | _, _ => false

/-- Whether a leaf may stand beside the leaves that name its frame (R351): contexts of one partition, equal sizes, and
bases whose XOR folds to 0. Device frames of other partitions are never met (R372). -/
def State.aliasOk (s : State) (ctx va size : Nat) (e : Word) : Bool :=
  let part := partOfCtx ctx
  let k := (s.partAt part).chlog
  s.ctxs.all (fun c =>
    (partOfCtx c.1 != part && leafKind e != 1)
    || (s.leavesOf c.1).all (fun m =>
        (c.1 == ctx && m.va == va)
        || !spansMeet (frameSpan k e size) (frameSpan k m.entry m.size)
        || (partOfCtx c.1 == part && m.size == size && leafFrame m.entry == leafFrame e
            && sliceIndex k (Nat.xor va m.va) == 0)))

/-- Whether a host frame is one of those that stand for user ports (R367). -/
def isPortFrame (e : Word) : Bool := leafKind e == 1 && decide (2 ^ 48 - 1024 ≤ leafFrame e)

/-- A partition's table store without the words of some bytes. -/
def clearTables (tables : SMap Word) (part a n : Nat) : SMap Word :=
  tables.filter (fun x => !(decide (tableKey part a ≤ x.1) && decide (x.1 < tableKey part a + n)))

/-- A new table in a partition's table store (R347): 4,096 bytes, which map nothing. -/
def State.newTable (s : State) (part : Nat) : Nat × State :=
  let p := s.partAt part
  (p.tableNext, { s.setPart part { p with tableNext := p.tableNext + 4096 } with
    tables := clearTables s.tables part p.tableNext 4096 })

/-- The table of a level on the way to an address, by levels above it, with tables made where none stands; none where a
leaf maps the way. -/
def State.tableFor (part va level : Nat) : Nat → State → Nat → Option (Nat × State)
  | 0, s, table => some (table, s)
  | f + 1, s, table =>
    let a := entryAddr table (level + f + 1) va
    let e := (look s.tables (tableKey part a)).getD 0
    if leafV e then
      if leafLeaf e then none else State.tableFor part va level f s (leafFrame e)
    else
      let n := s.newTable part
      State.tableFor part va level f { n.2 with tables := put n.2.tables (tableKey part a) (word (2 ^ 63 + n.1)) } n.1

/-- Whether a page number lies in a page. -/
def inPage (va size vline : Nat) : Bool := decide (va ≤ vline * 128) && decide (vline * 128 < va + size)

/-- What a page's entry brought in leaves the L1s and the instruction caches, its entries the TLBs and the walkers' caches
(R350). An answer on its way to a core enters no L1. -/
def State.purgeCaches (s : State) (asid : BitVec 16) (va size : Nat) : State :=
  let kept (a : BitVec 16) (from' n : Nat) : Bool := !(a == asid && overlaps va size from' n)
  { s with
    tlbs := s.tlbs.map (fun t => (t.1, t.2.filter (fun e => kept e.asid e.page e.size)))
    walkers := s.walkers.map (fun w => (w.1, w.2.filter (fun e => kept e.asid e.base (2 ^ levelShift e.level))))
    cores := s.cores.map (fun c => (c.1, { c.2 with
      l1 := c.2.l1.filter (fun l => kept l.asid (l.vline * 128) 128)
      sicache := c.2.sicache.filter (fun l => kept l.asid (l.vline * 128) 128)
      licache := c.2.licache.filter (fun l => kept l.asid l.va l.bytes.length)
      responses := c.2.responses.map (fun m => if kept m.asid (m.vline * 128) 128 then m else { m with lease := none }) })) }

/-- The same, and its lines leave L2, written back (R350). -/
def State.purgePage (s : State) (asid : BitVec 16) (va size : Nat) : State :=
  { s.purgeCaches asid va size with
    l2 := s.l2.filter (fun l => !(l.2.asid == asid && overlaps va size (l.2.vline * 128) 128)) }

/-- The migration counts of a page reset (R354). -/
def State.resetCounts (s : State) (ctx va : Nat) : State :=
  { s with migCount := s.migCount.filter (fun x => x.1 / countKey 1 0 0 != s.pageKey ctx va) }

/-- Whether a grant covers a page (R350, R353). -/
def State.pinnedPage (s : State) (ctx va size : Nat) : Bool :=
  s.pins.any (fun p => decide (s.pageKey ctx va ≤ p.1) && decide (p.1 < s.pageKey ctx va + size) && p.2 != 0)

/-- Whether a page's frame holds a physical line. -/
def Mapped.holds (m : Mapped) (p : Partition) (pl : Nat) : Bool :=
  match frameSpan p.chlog m.entry m.size with
  | some (0, lo, n) =>
    decide (p.chbase ≤ pl * 128 / 2 ^ 48) && decide (pl * 128 / 2 ^ 48 < p.chbase + 2 ^ p.chlog)
      && decide (lo ≤ pl * 128 % 2 ^ 48) && decide (pl * 128 % 2 ^ 48 < lo + n)
  | some (_, lo, n) => decide (hostKey lo ≤ pl * 128) && decide (pl * 128 < hostKey lo + n)
  | none => false

/-- Whether an engine owns a line of a page (R350), filled in its slice or not. -/
def State.ownedPage (s : State) (ctx va size : Nat) : Bool :=
  let under := (s.leavesOf ctx).filter (fun m => decide (va ≤ m.va) && decide (m.va < va + size))
  s.ownedLines.any (fun pl => under.any (fun m => m.holds (s.partAt (partOfCtx ctx)) pl))

/-- Whether any leaf of a partition maps a frame. -/
def State.frameUsed (s : State) (part : Nat) (e : Word) (size : Nat) : Bool :=
  let k := (s.partAt part).chlog
  s.ctxs.any (fun c => partOfCtx c.1 == part
    && (s.leavesOf c.1).any (fun m => spansMeet (frameSpan k e size) (frameSpan k m.entry m.size)))

/-- A device frame no leaf names any more returns to the partition's allocator (log 14). -/
def State.freeFrame (s : State) (part : Nat) (e : Word) (size : Nat) : State :=
  if leafKind e = 0 ∧ leafRes e = true ∧ s.frameUsed part e size = false then
    let p := s.partAt part
    s.setPart part { p with freeFrames := p.freeFrames ++ [(leafFrame e, size)] }
  else s

/-- A device frame that a leaf names leaves the allocator. -/
def Partition.claimFrame (p : Partition) (e : Word) (size : Nat) : Partition :=
  if leafKind e = 0 ∧ leafRes e = true then
    let unit := size / 2 ^ p.chlog
    let lo := leafFrame e * unit
    { p with
      nextFrame := max p.nextFrame (lo + unit)
      freeFrames := p.freeFrames.filter (fun f =>
        !overlaps lo unit (f.1 * (f.2 / 2 ^ p.chlog)) (f.2 / 2 ^ p.chlog)) }
  else p

/-- The bits of a leaf whose change is a shootdown (R350): V, W, A, NC, REGION, KIND, FRAME. -/
def shootBits (e : Word) : Nat :=
  bits e.toNat 63 63 * 2 ^ 63 + bits e.toNat 60 58 * 2 ^ 58 + bits e.toNat 55 0

/-- What a change of the tables answers: the machine, a wait for grants and engines, or a refusal. -/
inductive LeafAns where
  | ok (s : State)
  | wait
  | refuse

/-- An entry of a level set (R350): every page under it is shot down once no engine owns a line of it. No entry of a page that
a grant covers changes, whatever bits of it do (R353). -/
def State.setEntry (s : State) (ctx va level table : Nat) (e : Word) : LeafAns :=
  let part := partOfCtx ctx
  let a := entryAddr table level va
  let old := (look s.tables (tableKey part a)).getD 0
  let size := 2 ^ levelShift level
  let asid := s.asidOf ctx
  if old = e then .ok s
  else if leafV old && (s.pinnedPage ctx va size
      || (s.ownedPage ctx va size && (!leafLeaf old || shootBits old != shootBits e))) then .wait
  else
    let under := (s.leavesOf ctx).filter (fun m => decide (va ≤ m.va) && decide (m.va < va + size))
    let s : State := { s with tables := put s.tables (tableKey part a) e }
    let s := under.foldl (fun s m => ((s.purgePage asid m.va m.size).resetCounts ctx m.va).freeFrame part m.entry m.size) s
    .ok (s.setPart part ((s.partAt part).claimFrame e size))

/-- A leaf written at a page (R350, R351): refused where the entry breaks R348, names a port's or another's frame, or a
larger page stands above. -/
def State.writeLeaf (s : State) (ctx va level : Nat) (e : Word) : LeafAns :=
  let part := partOfCtx ctx
  let size := 2 ^ levelShift level
  let k := (s.partAt part).chlog
  if 2 < level ∨ va % size ≠ 0 ∨ 2 ^ 57 ≤ va ∨ ¬ leafV e ∨ ¬ leafLeaf e then .refuse
  else if !leafOk k e size || (leafKind e == 1 && (leafFrame e * 2 ^ 16 % size != 0 || isPortFrame e)) then .refuse
  else if !s.aliasOk ctx va size e then .refuse
  else
    match look s.ctxs ctx with
    | none => .refuse
    | some c =>
      match State.tableFor part va level (4 - level) s c.root with
      | none => .refuse
      | some x => x.2.setEntry ctx va level x.1 e

/-- A leaf cleared (R350). -/
def State.clearLeaf (s : State) (ctx va level : Nat) : LeafAns :=
  let size := 2 ^ levelShift level
  if 2 < level ∨ va % size ≠ 0 ∨ 2 ^ 57 ≤ va then .refuse
  else
    match look s.ctxs ctx with
    | none => .refuse
    | some c =>
      match State.tableFor (partOfCtx ctx) va level (4 - level) s c.root with
      | none => .refuse
      | some x =>
        let s := match c.portPage with
          | some p => if va ≤ p ∧ p < va + size then x.2.setCtx ctx { c with portPage := none } else x.2
          | none => x.2
        s.setEntry ctx va level x.1 0

/-- Changes made in turn: all of them, or none (R360). -/
def leavesAll {α : Type} (f : State → α → LeafAns) : List α → State → LeafAns
  | [], s => .ok s
  | x :: t, s =>
    match f s x with
    | .ok s => leavesAll f t s
    | .wait => .wait
    | .refuse => .refuse

end Sys2Proof.Machine
end

