-- ==== Sys2Proof/Machine/OpTable.lean ====
section
/-! DEFINITION. Sys2Proof/Machine/OpTable.lean: the operator table (R61, R116, R117): legal pairs, fixed entries, and
the types an entry accepts. Pair codes: 0 mul, 1 add, 2 min, 3 max, 4 and, 5 or, 6 xor. Type 16 is b1. -/

namespace Sys2Proof.Machine

/-- The operand types of a combine and reduce pair (R116); none for a pair not in the table. -/
def pairTypes (combine reduce : Nat) : List Nat :=
  match combine, reduce with
  | 0, 1 => [2, 1, 0, 9, 10, 8, 12, 13, 15, 14]
  | 1, 2 => [1, 0, 9, 10, 8]
  | 1, 3 => [1, 0, 9, 10, 8]
  | 0, 3 => [9, 10, 8]
  | 2, 3 => [1, 0, 9, 10]
  | 3, 2 => [1, 0, 9, 10]
  | 4, 5 => [16]
  | 4, 6 => [16]
  | _, _ => []

/-- The fixed entries 0-7 (R117). -/
def fixedEntry (k : Nat) : OpEntry :=
  let e (combine reduce : Nat) : OpEntry := { combine, reduce, ty := none, flags := 0 }
  match k with
  | 0 => e 0 1
  | 1 => e 1 2
  | 2 => e 1 3
  | 3 => e 0 3
  | 4 => e 4 5
  | 5 => e 2 3
  | 6 => e 3 2
  | _ => e 4 6

/-- The entry an entry word describes (R61). -/
def entryOfWord (w : Word) : OpEntry :=
  { combine := bits w.toNat 11 9, reduce := bits w.toNat 14 12, ty := some (bits w.toNat 8 4), flags := bits w.toNat 23 16 }

/-- WRAP of an entry (R117). -/
def OpEntry.wrap (e : OpEntry) : Bool := e.flags.testBit 0
/-- NANQUIET of an entry (R117). -/
def OpEntry.nanQuiet (e : OpEntry) : Bool := e.flags.testBit 1
/-- Whether an entry is mul-add. -/
def OpEntry.mulAdd (e : OpEntry) : Bool := e.combine == 0 && e.reduce == 1

/-- Whether `conf.opset` accepts an entry word (R61, R117). -/
def opWordOk (w : Word) : Bool :=
  let e := entryOfWord w
  let ty := bits w.toNat 8 4
  decide (w.toNat < 2 ^ 24) && !w.getLsbD 15 && (pairTypes e.combine e.reduce).contains ty && decide (e.flags < 4)
    && (!e.wrap || (e.mulAdd && decide (ty ≤ 2)))
    && (!e.nanQuiet || ((e.reduce == 2 || e.reduce == 3) && decide (8 ≤ ty) && decide (ty ≤ 15)))

/-- The operator entry a context's threads use (R117): an entry 8-15 never written accepts nothing. -/
def entryIn (optab : SMap Word) (k : Nat) : Option OpEntry :=
  if k < 8 then some (fixedEntry k) else (look optab k).map entryOfWord

/-- The other type of a mix that mul-add entries accept (R117). -/
def mixOf (ty : Nat) : Nat :=
  match ty with
  | 12 => 13
  | 13 => 12
  | 14 => 15
  | 15 => 14
  | _ => ty

/-- Whether an entry accepts an operand type on one side (R117). -/
def OpEntry.accepts (e : OpEntry) (ty : Nat) : Bool :=
  match e.ty with
  | none => (pairTypes e.combine e.reduce).contains ty
  | some t => t == ty || (e.mulAdd && mixOf t == ty)

/-- Whether an entry accepts a pair of operand types (R117): equal ones, or one of the two mixes of mul-add. An
entry written with one type of a mix accepts the other on both sides at once too (DEDUCED, log 21). -/
def OpEntry.acceptsPair (e : OpEntry) (ta tb : Nat) : Bool :=
  e.accepts ta && e.accepts tb && (ta == tb || (e.mulAdd && mixOf ta == tb))

end Sys2Proof.Machine
end

