-- ==== Sys2Proof/Machine/Control.lean ====
section
/-! DEFINITION. Sys2Proof/Machine/Control.lean: special registers (R34, R35, R331), time (R332), configuration (R333),
lane blocks (R310, R311) and the register pools (R261, R312). -/

namespace Sys2Proof.Machine

/-- LBQ: lane blocks queued or running (R34, R257). -/
def Thread.lbq (t : Thread) : Nat := t.blocks.length

/-- PTS as a thread reads it: 48 bits (R34). -/
def State.ptsRead (s : State) (tid : Nat) : Word := word (s.pts (coreOf tid) % 2 ^ 48)

/-- The value of a special register (R34); none for a number the table does not list. -/
def State.srValue (s : State) (tid : Nat) (t : Thread) (n : Nat) : Option Word :=
  let core := coreOf tid
  let co := look s.cohorts t.cohort
  match n with
  | 0x000 => some (word (tid % 32))
  | 0x001 => some (word t.slices)
  | 0x002 => some (t.role.setWidth 64)
  | 0x003 => some (word (t.cohort % 32))
  | 0x004 => some (word t.csize)
  | 0x008 => some (word core)
  | 0x009 => some (word (quadOfCore core))
  | 0x00A => some (word (dieOfCore core))
  | 0x00B => some (s.pkg.setWidth 64)
  | 0x00C => some (word (partOfCtx t.ctx))
  | 0x00D => some (word (t.ctx % 64))
  | 0x00E => some ((s.asidOf t.ctx).setWidth 64)
  | 0x010 => some t.winid
  | 0x011 => some t.stream
  | 0x012 => some t.task
  | 0x020 => some (t.fpflags.setWidth 64)
  | 0x021 => some (t.fpctl.setWidth 64)
  | 0x028 => some t.rngkey
  | 0x029 => some t.rngctr
  | 0x030 => some (s.ptsRead tid)
  | 0x031 => some (word s.time)
  | 0x032 => some (word s.tick)
  | 0x033 => some (word s.ungated)
  | 0x040 => some (s.coreAt core).poolword
  | 0x041 => some (word t.vregs)
  | 0x042 => some (word t.tiles.length)
  | 0x043 => some (word (co.elim 0 (fun c => c.spbase)))
  | 0x044 => some (word (co.elim 0 (fun c => c.spsize)))
  | 0x050 => some (word t.prio)
  | 0x058 => some (word t.lbq)
  | 0x060 => some (((look s.ctxs t.ctx).elim 0 (fun c => c.evstep)).setWidth 64)
  | _ => none

/-- The 12-bit number the a and b fields carry (R34). -/
def srNumber (h l : BitVec 6) : Nat := h.toNat * 64 + l.toNat

/-- `sr.get` (R34, R35, R331). -/
def execSrGet (d h l : BitVec 6) (s : State) : Out :=
  onThread s (fun tid t =>
    match s.srValue tid t (srNumber h l) with
    | some v => aluDone s tid t d v
    | none => faultOut s tid (scalarF t 0x01 0 0))

/-- A thread with an RW special register written (R34, R35); none for any other number. -/
def Thread.srWrite (t : Thread) (n : Nat) (v : Word) : Option Thread :=
  match n with
  | 0x020 => some { t with fpflags := v.setWidth 6 }
  | 0x021 => some { t with fpctl := v.setWidth 5 }
  | 0x028 => some { t with rngkey := v }
  | 0x029 => some { t with rngctr := v }
  | _ => none

/-- `sr.set` (R34, R35, R331). -/
def execSrSet (d h l : BitVec 6) (s : State) : Out :=
  onThread s (fun tid t =>
    match t.srWrite (srNumber h l) (t.S d) with
    | some t => .next (s.setThread tid t.step4)
    | none => faultOut s tid (scalarF t 0x01 0 0))

/-- `time.rdtime` (R332). -/
def execTimeRdtime (d : BitVec 6) (s : State) : Out := onThread s (fun tid t => aluDone s tid t d (word s.time))
/-- `time.rdtick` (R332). -/
def execTimeRdtick (d : BitVec 6) (s : State) : Out := onThread s (fun tid t => aluDone s tid t d (word s.tick))
/-- `time.rdpts` (R332). -/
def execTimeRdpts (d : BitVec 6) (s : State) : Out := onThread s (fun tid t => aluDone s tid t d (s.ptsRead tid))

/-- Whether a context is privileged (R39). -/
def State.privileged (s : State) (ctx : Nat) : Bool := (look s.ctxs ctx).elim false (fun c => c.priv)

/-- Cores of a partition, bit n for core n (R372). -/
def Partition.coreMask (p : Partition) : BitVec 384 :=
  (upFrom 0 Config.cores).foldl (fun m c => if p.quads.getLsbD (c / 4) then m ||| (1#384 <<< c) else m) 0

/-- `conf.scset` (R179, R333). -/
def execConfScset (a b : BitVec 6) (s : State) : Out :=
  onThread s (fun tid t =>
    let e := (t.S a).toNat
    let va := t.S b
    if 31 < e then faultOut s tid (scalarF t 0x01 0 0)
    else if e < 7 ∧ ¬ s.privileged t.ctx then faultOut s tid (scalarF t 0x14 0 0)
    else
      match s.check t va 64 .read true with
      | some f => faultOut s tid (scalarF t f va 0)
      | none =>
        accOut s tid t .scalar va 64 (s.loadT tid t va.toNat 64) (fun r =>
          let s := r.2
          if leAt r.1 0x30 1 > 1 ∨ leAt r.1 0x31 15 ≠ 0 then faultOut s tid (scalarF t 0x0D 0 0)
          else
            let s := if e < 7 then s
              else
                match look s.ctxs t.ctx with
                | some c =>
                  let sc : Scope := { cores := BitVec.ofNat 384 (leAt r.1 0 48) &&& (s.partAt (partOfCtx t.ctx)).coreMask,
                                      host := leAt r.1 0x30 1 == 1 }
                  s.setCtx t.ctx { c with scopes := put c.scopes e sc }
                | none => s
            .next (s.onLive tid (fun t => t.dirty.step4))))

/-- `conf.opset` (R39, R61, R117, R333): entries 0-7 stay as they are. -/
def execConfOpset (a : BitVec 6) (s : State) : Out :=
  onThread s (fun tid t =>
    let w := t.S a
    let e := bits w.toNat 3 0
    if e < 8 ∧ ¬ s.privileged t.ctx then faultOut s tid (scalarF t 0x14 0 0)
    else if !opWordOk w then faultOut s tid (scalarF t 0x0E 0 0)
    else
      let s := if e < 8 then s
        else match look s.ctxs t.ctx with
          | some c => s.setCtx t.ctx { c with optab := put c.optab e w }
          | none => s
      .next (s.onLive tid (fun t => t.dirty.step4)))

/-- The eight block arguments of `lane.lrun`, S(b) to S(b+7) (R311). -/
def Thread.blockArgs (t : Thread) (b : BitVec 6) : List Word := (upFrom 0 8).map (fun i => t.SRun b i)

/-- `lane.lrun` (R257, R310, R311): a full queue holds the scalar sequencer. -/
def execLaneLrun (a b : BitVec 6) (s : State) : Out :=
  onThread s (fun tid t =>
    let e := t.S a
    if 56 < b.toNat then faultOut s tid (scalarF t 0x01 0 0)
    else if e.toNat % 4 ≠ 0 then faultOut s tid (scalarF t 0x04 e 0)
    else if (match s.laneSection t with | some x => decide (x.size ≤ e.toNat) | none => true) then
      faultOut s tid (scalarF t 0x05 e 0)
    else if 8 ≤ t.lbq then .next (s.hold tid .scalar .again)
    else .next (s.setThread tid { t.step4 with
      blocks := t.blocks ++ [{ entry := e.setWidth 32, args := t.blockArgs b }] }))

/-- The party that stands for the gangs of a thread's completed blocks, whose posted operations no `lane.lwait` has made the
thread's own yet (R195): a number no gang has. -/
def Party.past : Party := .gang 8

/-- A thread's posted reductions and accepted matrix operations of some parties, from now on another party's (R195). -/
def State.passOps (s : State) (tid uid : Nat) (old : Party → Bool) (new : Party) : State :=
  let hit (r : Red) : Bool := r.uid == uid && old r.party
  let f (r : Red) : Red := if hit r then { r with party := new } else r
  let own (o : MxOp) : Bool := o.uid == uid && old o.party
  let s := if s.dies.any (fun d => d.2.combiner.any hit) then
      { s with dies := s.dies.map (fun d => (d.1, { d.2 with combiner := d.2.combiner.map f })) }
    else s
  let s := if s.cores.any (fun c => c.2.mx.any own || c.2.posted.any hit) then
      { s with cores := s.cores.map (fun c => (c.1, { c.2 with
        mx := c.2.mx.map (fun o => if own o then { o with party := new } else o), posted := c.2.posted.map f })) }
    else s
  { s.onLive tid (fun t => { t with redBuf := t.redBuf.map f }) with
    flows := s.flows.map (fun x => (x.1, { x.2 with reds := x.2.reds.map f })) }

/-- `lane.lwait` (R195, R311): the posted operations of the completed blocks become the thread's own. -/
def execLaneLwait (n : BitVec 6) (s : State) : Out :=
  onThread s (fun tid t =>
    if 7 < n.toNat then faultOut s tid (scalarF t 0x01 0 0)
    else if t.lbq ≤ n.toNat then
      .next ((s.passOps tid t.uid (fun p => p == Party.past) .scalar).onLive tid Thread.step4)
    else .next (s.hold tid .scalar .again))

/-- `lane.lres` (R258, R311). -/
def execLaneLres (d k : BitVec 6) (s : State) : Out :=
  onThread s (fun tid t =>
    if 7 < k.toNat then faultOut s tid (scalarF t 0x01 0 0) else aluDone s tid t d (t.y.get64 k.toNat))

/-- A thread's vector registers from one number on, n of them, hold undefined values afterwards (R6, R261). -/
def Thread.undefine (t : Thread) (birth r n : Nat) : Thread :=
  let kept := t.v.writes.filter (fun w => !(decide (r ≤ w.1 % 256) && decide (w.1 % 256 < r + n)))
  let keys := (upFrom 0 (4 * t.slices)).flatMap (fun l => (upFrom r n).map (fun i => vKey l i))
  { t with v := { t.v with writes := keys.foldl (fun m k => put m k (Config.freeLane birth k)) kept } }

/-- `pool.give` (R261, R312). -/
def execPoolGive (d k : BitVec 6) (s : State) : Out :=
  onThread s (fun tid t =>
    let n := k.toNat
    if n = 0 then faultOut s tid (scalarF t 0x01 0 0)
    else if t.vregs < 8 * n + 8 then faultOut s tid (scalarF t 0x0F 0 0)
    else if t.lbq ≠ 0 then .next (s.hold tid .scalar .stall)
    else
      let t := { t with vregs := t.vregs - 8 * n, vpoison := t.vpoison.filter (fun x => decide (x % 124 * 2 < t.vregs - 8 * n)) }
      let s := s.setThread tid (t.setS d (word t.vregs)).step4
      match look s.cohorts t.cohort with
      | some c => .next (s.setCohort t.cohort { c with freeUnits := c.freeUnits + t.slices * n })
      | none => .next s)

/-- Whether a claim stands behind no earlier claim of its kind (R261). -/
def Cohort.claimFirst (c : Cohort) (tid : Nat) (tile : Bool) : Bool :=
  match c.claims.find? (fun x => x.2.1 == tile) with
  | some x => x.1 == tid
  | none => true

/-- A claim joins the waiter order once. -/
def Cohort.joinClaim (c : Cohort) (tid : Nat) (tile : Bool) (k : Nat) : Cohort :=
  if c.claims.any (fun x => x.1 == tid) then c else { c with claims := c.claims ++ [(tid, tile, k)] }

/-- A claim leaves the waiter order. -/
def Cohort.leaveClaim (c : Cohort) (tid : Nat) : Cohort := { c with claims := c.claims.filter (fun x => x.1 != tid) }

/-- `pool.claim` (R261, R312). -/
def execPoolClaim (d k : BitVec 6) (s : State) : Out :=
  onThread s (fun tid t =>
    let n := k.toNat
    if n = 0 then faultOut s tid (scalarF t 0x01 0 0)
    else if 248 < t.vregs + 8 * n then faultOut s tid (scalarF t 0x0F 0 0)
    else
      match look s.cohorts t.cohort with
      | none => .next (s.hold tid .scalar .again)
      | some c =>
        if c.claimFirst tid false ∧ t.slices * n ≤ c.freeUnits then
          let c := { c.leaveClaim tid with freeUnits := c.freeUnits - t.slices * n }
          let t := { t.undefine s.freeCount t.vregs (8 * n) with vregs := t.vregs + 8 * n }
          let s := (s.setThread tid (t.setS d (word t.vregs)).step4).setCohort t.cohort c
          .next { s with freeCount := s.freeCount + 1 }
        else .next ((s.setCohort t.cohort (c.joinClaim tid false n)).hold tid .scalar .again))

/-- Tiles an accepted matrix operation names (R113). -/
def MxKind.tiles : MxKind → List Nat
  | .mfill _ _ _ _ => []
  | .mma t _ _ _ _ _ => [t]
  | .mmag t _ _ _ _ _ _ => [t]
  | .mzero t _ => [t]
  | .mwr t _ _ _ => [t]
  | .mst t _ _ => [t]
  | .mstx t _ _ _ => [t]
  | .mrow t _ _ _ => [t]
  | .mnote t _ => [t]

/-- Whether an accepted operation of a thread names a tile and has not retired (R261, R315). -/
def State.tileBusy (s : State) (tid uid tile : Nat) : Bool :=
  (s.coreAt (coreOf tid)).mx.any (fun o => o.uid == uid && o.kind.tiles.contains tile)

/-- `pool.tgive` (R261, R312): tiles join the list in descending order, once no accepted operation names them. -/
def execPoolTgive (d k : BitVec 6) (s : State) : Out :=
  onThread s (fun tid t =>
    let n := k.toNat
    let m := t.tiles.length
    if n = 0 then faultOut s tid (scalarF t 0x01 0 0)
    else if m < n then faultOut s tid (scalarF t 0x0F 0 0)
    else if t.lbq ≠ 0 ∨ (upFrom (m - n) n).any (s.tileBusy tid t.uid) then .next (s.hold tid .scalar .stall)
    else
      let given := (t.tiles.drop (m - n)).reverse.map (fun x => { x with tag := t.slices })
      let t := { t with tiles := t.tiles.take (m - n) }
      let s := s.setThread tid (t.setS d (word (m - n))).step4
      match look s.cohorts t.cohort with
      | some c => .next (s.setCohort t.cohort { c with poolTiles := c.poolTiles ++ given })
      | none => .next s)

/-- The n oldest tiles of a list with a tag, and what is left. -/
def takeTiles (tag : Nat) : Nat → List Tile → List Tile × List Tile
  | 0, l => ([], l)
  | _, [] => ([], [])
  | n + 1, x :: l =>
    if x.tag = tag then
      let r := takeTiles tag n l
      (x :: r.1, r.2)
    else
      let r := takeTiles tag (n + 1) l
      (r.1, x :: r.2)

/-- `pool.tclaim` (R261, R312). -/
def execPoolTclaim (d k : BitVec 6) (s : State) : Out :=
  onThread s (fun tid t =>
    let n := k.toNat
    if n = 0 then faultOut s tid (scalarF t 0x01 0 0)
    else if 8 < t.tiles.length + n then faultOut s tid (scalarF t 0x0F 0 0)
    else
      match look s.cohorts t.cohort with
      | none => .next (s.hold tid .scalar .again)
      | some c =>
        let r := takeTiles t.slices n c.poolTiles
        if c.claimFirst tid true ∧ r.1.length = n then
          let c := { c.leaveClaim tid with poolTiles := r.2 }
          let t := { t with tiles := t.tiles ++ r.1 }
          .next ((s.setThread tid (t.setS d (word t.tiles.length)).step4).setCohort t.cohort c)
        else .next ((s.setCohort t.cohort (c.joinClaim tid true n)).hold tid .scalar .again))

end Sys2Proof.Machine
end

