-- ==== Sys2Proof/Machine/QueueOps.lean ====
section
/-! DEFINITION. Sys2Proof/Machine/QueueOps.lean: the QUEUE instructions (R211, R216-R221, R224). -/

namespace Sys2Proof.Machine

/-- The peer page a queue address leads to (R224, R369): its handle; none for a queue of this package. -/
def State.remoteHandle (s : State) (t : Thread) (a : Word) : Option Nat :=
  match spaceOf a with
  | some (.global va) =>
    if va % 64 = 0 ∧ inRanges t.ranges va 64 .atomic then
      match s.place t.ctx va with
      | .remote h => some h
      | _ => none
    else none
  | _ => none

/-- ESIZE of a remote queue: a legal size, and free (R214, R224). -/
def remoteEsize (h : Nat) (a : Word) : Nat := 8 * (1 + Config.freeEsize (h * 2 ^ 64 + a.toNat) % 32)

/-- An operation sent over the network (R224, R368): its party waits for the answer; TRANSLATE on a flow that is
down. -/
def sendRemote (s : State) (tid : Nat) (t : Thread) (p : Party) (h : Nat) (a : Word) (op : WaitOp) (msg : List Word) : Out :=
  let k := handleFlow (dieOfCore (coreOf tid)) h
  let fl := s.flowAt k
  if fl.down then faultOut s tid (partyF t p 0x06 a 0)
  else
    let w : NetWait := { uid := t.uid, party := p, op, addr := a, asked := false }
    let fl := { fl with waiting := fl.waiting ++ [w], sent := fl.sent ++ [word h :: a :: msg] }
    let s : State := { s with flows := put s.flows k fl }
    .next (s.onLive tid (fun t => t.block p (.remote k)))

/-- Bytes as words, for a message. -/
def bytesWords (bs : List Byte) : List Word := (upFrom 0 ((bs.length + 7) / 8)).map (fun i => wordAt bs (8 * i))

/-- The checks of a queue instruction that come before the home acts (R221): the address, the partition and the scope.
What follows is told the queue and the block's bytes as they stand, and whether the queue is bound or not; the faults of
the block (R214) come from the home. -/
def withQueue (s : State) (tid : Nat) (t : Thread) (p : Party) (a : Word) (k : QRef → List Byte → Out) : Out :=
  match s.queueRef t a 64 with
  | .inl f => faultOut s tid (partyF t p f a 0)
  | .inr r =>
    if s.queuePriv tid t r then faultOut s tid (partyF t p 0x14 a 0)
    else k r (s.qcbBytes r ((s.queueAt r).elim 64 (fun q => q.size)))

/-- What a home answered, used; a frozen queue and a ring that is not mapped fault (R214, R190). -/
def homeDone (h : HomeOut) (tid : Nat) (t : Thread) (p : Party) (a : Word) (k : State → QAns → Out) : Out :=
  let s := h.s.applyEnds h.ended
  match h.ans with
  | .corrupt m => faultOut s tid (partyF t p 0x08 a (word m))
  | .unmapped => faultOut s tid (partyF t p 0x06 a 0)
  | x => k s x

/-- An operation sent to its home behind what is held at its core's issue port (R160, R205), which waits there while the block's
line or that of a slot it moves cannot be accessed (R161, R178, R183, R215), with the element it has loaded, if any. -/
def atHome (s : State) (tid : Nat) (t : Thread) (p : Party) (r : QRef) (push : Bool) (n : Nat) (kept : Option (List Byte))
    (k : State → Out) : Out :=
  if s.portHeld (coreOf tid) then .next (s.hold tid p (kept.elim .stall .loaded))
  else if s.queueBusy r push n then
    match r, s.queueAt r with
    | .global _, some q =>
      let vas := s.ringWaits r q.ctx q.va.toNat 64
      match kept with
      | some bs => .next ((s.join tid t p q.ctx vas).hold tid p (.loaded bs))
      | none => .next (s.await tid t p q.ctx 0 [] vas)
    | _, _ => .next (s.hold tid p (kept.elim .stall .loaded))
  else k s

/-- The checks of R221 where the home's check of the block stands among them: before ESIZE and CAP are used (R223, log 25), and
before a WIN instruction acts on its stream (R320). What follows is told the queue and the block's bytes. -/
def withIntact (s : State) (tid : Nat) (t : Thread) (p : Party) (a : Word) (k : QRef → Queue → List Byte → Out) : Out :=
  withQueue s tid t p a (fun r bk =>
    atHome s tid t p r true 0 none (fun s =>
      match s.queueAt r with
      | none => faultOut s tid (partyF t p 0x08 a 0x100)
      | some q =>
        let m := s.causes r q
        if m ≠ 0 then
          let h := if q.frozen = none then s.freeze r q m else { s, ended := [], ans := .corrupt m }
          faultOut (h.s.applyEnds h.ended) tid (partyF t p 0x08 a (word m))
        else k r q bk))

/-- A QUEUE instruction done, the thread no longer clean (R229). -/
def queueDone (s : State) (tid : Nat) (d : BitVec 6) (v : Word) : Out :=
  .next (s.onLive tid (fun t => (t.setS d v).dirty.step4))

/-- A thread's operation joins a list of its queue and waits (R217). -/
def queueWait (s : State) (tid : Nat) (r : QRef) (push : Bool) (p : Party) (op : WaitOp) : Out :=
  let s := s.joinWait r push { who := .thread tid p, op }
  .next (s.onLive tid (fun t => t.dirty.block p (.queue r.key)))

/-- A push (R215, R216, R221): the element loaded, the release waited for with it, then the home. -/
def pushOp (s : State) (d a b : BitVec 6) (blocks : Bool) : Out :=
  onThread s (fun tid t =>
    let q := t.S a
    let e := t.S b
    let send (s : State) (bs : List Byte) (k : List Byte → State → Out) : Out :=
      let y := s.release t.uid
      if y.2 then k bs y.1 else .next (y.1.hold tid .scalar (.loaded bs))
    let load (n : Nat) (k : List Byte → State → Out) : Out :=
      match t.wait with
      | some (.loaded bs) => send s bs k
      | _ =>
        match s.bufferCheck t e n .read with
        | some f => faultOut s tid (scalarF t f e 0)
        | none => accOut s tid t .scalar e n (s.bufferLoad tid t e n) (fun x => send x.2 x.1 k)
    match s.remoteHandle t q with
    | some h =>
      load (remoteEsize h q) (fun bs s => sendRemote (if blocks then s.onLive tid Thread.dirty else s) tid t .scalar h q
        (if blocks then .push d bs else .attempt d) ((if blocks then 1 else 3) :: bytesWords bs))
    | none =>
      withQueue s tid t .scalar q (fun r bk =>
        load (qEsize bk) (fun bs s =>
          atHome s tid t .scalar r true 1 (some bs) (fun s =>
            homeDone (s.homePush r (.core (coreOf tid)) [bs]) tid t .scalar q (fun s ans =>
              match ans with
              | .many (p :: _) _ _ => queueDone s tid d (word p)
              | .closed =>
                if blocks then faultOut s tid (scalarF t 0x0A q 0) else .next (s.finish tid d wMinus1)
              | _ =>
                if blocks then queueWait s tid r true .scalar (.push d bs)
                else .next (s.finish tid d wMinus2))))))

/-- `queue.qpush` (R220, R221). -/
def execQueueQpush (d a b : BitVec 6) (s : State) : Out := pushOp s d a b true
/-- `queue.qtrypush` (R220, R221). -/
def execQueueQtrypush (d a b : BitVec 6) (s : State) : Out := pushOp s d a b false

/-- A popped element stored in the party's buffer (R221): POISON where its ring data was poisoned; held, with the
element kept, where the buffer cannot be written now. -/
def storePopped (s : State) (tid : Nat) (t : Thread) (d : BitVec 6) (e pos : Word) (bs : List Byte) (poison : Bool) : Out :=
  if poison then faultOut s tid (scalarF t 0x07 e 0)
  else
    match s.bufferStore tid t e bs with
    | .ok s => queueDone s tid d pos
    | .fault f => faultOut s tid (scalarF t f e 0)
    | .wait => .next (s.onLive tid (fun t => t.dirty.block .scalar (.deliver d e pos bs false)))

/-- Whether a queue is some context's task submission queue (R287). -/
def State.isSubmit (s : State) (r : QRef) : Bool :=
  s.ctxs.any (fun c => s.globalRef c.1 c.2.submitQ.toNat == some r)

/-- Whether a queue is popped by an engine alone: a stream with a bound spec by the Carder (R221), a submission queue by
the task engine (R287). -/
def State.engineOnly (s : State) (r : QRef) : Bool :=
  match s.queueAt r with
  | some q => (q.stream && decide (leAt (s.qcbBytes r 128) 0x50 8 ≠ 0)) || s.isSubmit r
  | none => false

/-- A pop (R215, R216, R221). -/
def popOp (s : State) (d a b : BitVec 6) (blocks : Bool) : Out :=
  onThread s (fun tid t =>
    let q := t.S a
    let e := t.S b
    match t.wait with
    | some (.deliver d' e' pos bs poison) => storePopped s tid t d' e' pos bs poison
    | _ =>
      withQueue s tid t .scalar q (fun r bk =>
        if s.engineOnly r then faultOut s tid (scalarF t 0x14 q 0)
        else
          match s.bufferCheck t e (qEsize bk) .write with
          | some f => faultOut s tid (scalarF t f e 0)
          | none =>
            accOut s tid t .scalar e (qEsize bk) (s.bufferFree t e (qEsize bk)) (fun _ =>
              atHome s tid t .scalar r false 1 none (fun s =>
                homeDone (s.homePop r (.core (coreOf tid)) 1) tid t .scalar q (fun s ans =>
                  match ans with
                  | .many (p :: _) (x :: _) poison => storePopped s tid t d e (word p) x poison
                  | .closed => if blocks then queueDone s tid d wMinus1 else .next (s.finish tid d wMinus1)
                  | _ =>
                    if blocks then queueWait s tid r false .scalar (.pop d e)
                    else .next (s.finish tid d wMinus2))))))

/-- `queue.qpop` (R220, R221). -/
def execQueueQpop (d a b : BitVec 6) (s : State) : Out := popOp s d a b true
/-- `queue.qtrypop` (R220, R221). -/
def execQueueQtrypop (d a b : BitVec 6) (s : State) : Out := popOp s d a b false

/-- `queue.qpeek` (R220, R221). -/
def execQueueQpeek (d a b : BitVec 6) (s : State) : Out :=
  onThread s (fun tid t =>
    let q := t.S a
    let e := t.S b
    withQueue s tid t .scalar q (fun r bk =>
      if s.engineOnly r then faultOut s tid (scalarF t 0x14 q 0)
      else
        match s.bufferCheck t e (qEsize bk) .write with
        | some f => faultOut s tid (scalarF t f e 0)
        | none =>
          accOut s tid t .scalar e (qEsize bk) (s.bufferFree t e (qEsize bk)) (fun _ =>
            atHome s tid t .scalar r false 1 none (fun s =>
              homeDone (s.homePeek r (.core (coreOf tid))) tid t .scalar q (fun s ans =>
                match ans with
                | .popped p x poison =>
                  if poison then faultOut s tid (scalarF t 0x07 e 0)
                  else accOut s tid t .scalar e x.length (s.bufferStore tid t e x) (fun s => queueDone s tid d (word p))
                | .closed => .next (s.finish tid d wMinus1)
                | _ => .next (s.finish tid d wMinus2))))))

/-- `queue.qinit` (R212, R220, R221). -/
def execQueueQinit (a k : BitVec 6) (s : State) : Out :=
  onThread s (fun tid t =>
    let q := t.S a
    let stream := k == 1
    let size := if stream then 128 else 64
    if 1 < k.toNat then faultOut s tid (scalarF t 0x01 0 0)
    else if stream ∧ q.toNat % 128 ≠ 0 then faultOut s tid (scalarF t 0x04 q 0)
    else
      match s.queueRef t q size with
      | .inl f => faultOut s tid (scalarF t f q 0)
      | .inr r =>
        let hit := match r with
          | .global pa => s.hitsQcb pa size
          | .scratch ck off => (look s.cohorts ck).elim false (fun c => c.hitsQcb off size)
        if hit then faultOut s tid (scalarF t 0x09 q 0)
        else
          let qu : Queue := { stream, va := q, ctx := t.ctx, core := coreOf tid, uid := t.uid, bind := 0, commit := [],
                              pushers := [], poppers := [], frozen := none }
          let vas := s.ringWaits r t.ctx (blockAddr r qu) size
          if s.portHeld (coreOf tid) then .next (s.hold tid .scalar .stall)
          else if !vas.isEmpty then
            .next (s.await tid t .scalar t.ctx 0 [] (match r with | .global _ => vas | .scratch _ _ => []))
          else
            let m := s.homeBind r qu (.core (coreOf tid))
            if m.1 ≠ 0 then faultOut s tid (scalarF t 0x08 q (word m.1))
            else .next (m.2.onLive tid (fun t => t.dirty.step4)))

/-- `queue.qres` (R218, R220, R221). -/
def execQueueQres (d a : BitVec 6) (s : State) : Out :=
  onThread s (fun tid t =>
    let q := t.S a
    withQueue s tid t .scalar q (fun r _ =>
      let bind := (s.queueAt r).elim 0 (fun q => q.bind)
      atHome s tid t .scalar r true 0 none (fun s =>
        homeDone (s.homeReserve r (.core (coreOf tid))) tid t .scalar q (fun s ans =>
          match ans with
          | .pos p =>
            .next (s.onLive tid (fun t =>
              { (t.setS d (word p)).dirty.step4 with reserved := t.reserved ++ [(r.key, bind, p)] }))
          | .closed => faultOut s tid (scalarF t 0x0A q 0)
          | _ => queueWait s tid r true .scalar (.reserve d)))))

/-- A thread that holds a position of a block no longer. -/
def Thread.unreserve (t : Thread) (key pos : Nat) : Thread :=
  { t with reserved := t.reserved.filter (fun r => !(r.1 == key && r.2.2 == pos)) }

/-- A position no longer reserved by any thread, once committed (R218): a saved one, or a window's between its steps, among
them. -/
def State.unreserve (s : State) (key pos : Nat) : State :=
  { s with
    threads := s.threads.map (fun p => (p.1, p.2.unreserve key pos))
    saved := s.saved.map (fun p => (p.1, { p.2 with threads := p.2.threads.map (fun t => t.unreserve key pos) }))
    windows := s.windows.map (fun p => (p.1, { p.2 with
      reserved := p.2.reserved.filter (fun r => !(r.1 == key && r.2.2 == pos)) })) }

/-- `queue.qcom` (R218, R220, R221). -/
def execQueueQcom (a b : BitVec 6) (s : State) : Out :=
  onThread s (fun tid t =>
    let q := t.S a
    let p := t.S b
    withQueue s tid t .scalar q (fun r _ =>
      let x := s.release t.uid
      if !x.2 then .next (x.1.hold tid .scalar .stall)
      else
        atHome x.1 tid t .scalar r true 0 none (fun s =>
          homeDone (s.homeCommit r (.core (coreOf tid)) p) tid t .scalar q (fun s ans =>
            match ans with
            | .badPos => faultOut s tid (scalarF t 0x0D 0 0)
            | _ => .next ((s.unreserve r.key p.toNat).onLive tid (fun t => t.dirty.step4))))))

/-- `queue.qlen` (R220, R221, R224). -/
def execQueueQlen (d a n : BitVec 6) (s : State) : Out :=
  onThread s (fun tid t =>
    let q := t.S a
    if 3 < n.toNat then faultOut s tid (scalarF t 0x01 0 0)
    else
      match s.remoteHandle t q with
      | some h => sendRemote s tid t .scalar h q (.value d) [7, n.setWidth 64]
      | none =>
        withQueue s tid t .scalar q (fun r _ =>
          atHome s tid t .scalar r true 0 none (fun s =>
            homeDone (s.homeLen r (.core (coreOf tid)) n.toNat) tid t .scalar q (fun s ans =>
              match ans with
              | .pos v => .next (s.finish tid d (word v))
              | _ => .next (s.finish tid d 0)))))

/-- `queue.qclose` (R219, R220, R221). -/
def execQueueQclose (a : BitVec 6) (s : State) : Out :=
  onThread s (fun tid t =>
    let q := t.S a
    withQueue s tid t .scalar q (fun r _ =>
      atHome s tid t .scalar r true 0 none (fun s =>
        homeDone (s.homeClose r (.core (coreOf tid)) false) tid t .scalar q (fun s _ =>
          .next (s.onLive tid (fun t => t.dirty.step4))))))

/-- The wait of a drain (R219). -/
def drainWait : QRef → Wait
  | .global pa => .drain pa none
  | .scratch ck off => .drain off (some ck)

/-- `queue.qdrain` (R219, R220, R221): it completes when the queue is empty, which may be at once. -/
def execQueueQdrain (a : BitVec 6) (s : State) : Out :=
  onThread s (fun tid t =>
    let q := t.S a
    withQueue s tid t .scalar q (fun r _ =>
      atHome s tid t .scalar r true 0 none (fun s =>
        homeDone (s.homeClose r (.core (coreOf tid)) true) tid t .scalar q (fun s _ =>
          .next ((s.onLive tid (fun t => t.dirty.block .scalar (drainWait r))).drainDone r)))))

/-- `queue.qcheck` (R214, R220, R221): a bound queue that fails its check freezes. -/
def execQueueQcheck (d a : BitVec 6) (s : State) : Out :=
  onThread s (fun tid t =>
    let q := t.S a
    match s.queueRef t q 64 with
    | .inl f => faultOut s tid (scalarF t f q 0)
    | .inr r =>
      match s.queueAt r with
      | none => queueDone s tid d 0x100
      | some qu =>
        atHome s tid t .scalar r true 0 none (fun s =>
          let m := s.causes r qu
          if m = 0 then .next (s.finish tid d 0)
          else
            let h := if qu.frozen = none then s.freeze r qu m else { s, ended := [], ans := .corrupt m }
            queueDone (h.s.applyEnds h.ended) tid d (word m)))

end Sys2Proof.Machine
end

