-- ==== Sys2Proof/Machine/WinOps.lean ====
section
/-! DEFINITION. Sys2Proof/Machine/WinOps.lean: the WIN instructions (R320-R326) and the commit of a step (R273). -/

namespace Sys2Proof.Machine

/-- One sample of a die's running average of an entry address (R400), in units of 1/256 clk: A + (s − A)/8, which is
(7A + s)/8, rounded toward zero. -/
def DieSt.sample (d : DieSt) (entry clk : Nat) : DieSt :=
  match look d.avgs entry with
  | none => { d with avgs := put d.avgs entry (256 * clk) }
  | some a => { d with avgs := put d.avgs entry ((7 * a + 256 * clk) / 8) }

/-- A sample of a cohort that ends, on the die it ran on. -/
def State.sampleCohort (s : State) (ck : Nat) : State :=
  match look s.cohorts ck with
  | some c =>
    let die := dieOfCore (ck / 32)
    s.setDie die ((s.dieAt die).sample c.entry.toNat c.elapsed)
  | none => s

/-- The committed registers s48-s63 of a step (R262, R273). -/
def Thread.carryOut (t : Thread) : List Word := (upFrom 48 16).map (fun i => t.S (BitVec.ofNat 6 i))

/-- The position a window kind records (R273): the ordinal for a count kind, else the timestamp. -/
def stepPos (spec : List Byte) (r : StepReq) : Nat := if wsKind spec = 0 then r.ord else r.record.ts

/-- The pane record a committed pane pushes (R275): the key, the last record's timestamp, s48-s55. -/
def paneRecord (w : Window) (ts : Nat) (carry : List Word) : StreamRec :=
  { pos := 0, seq := 0, addr := 0, bytes := leBytes 8 w.key.toNat ++ leBytes 8 ts ++ wordsBytes (carry.take 8) }

/-- A key's step that has parked taken from its order, its record's replays for the window kept with the RECORD step that
follows it (R274). -/
def State.keepReplays (s : State) (stream : Nat) (key : Word) (n : Nat) : State :=
  let s := s.setHead stream key []
  match s.headStep stream key with
  | some r => s.setHead stream key [{ r with replays := n }]
  | none => s

/-- The commit of a window step at its park (R273, R275, R276, R279, R280). -/
def State.commitStep (s : State) (t : Thread) (st : StepRef) : State :=
  match look s.windows st.win with
  | none => s
  | some w =>
    match look s.streams w.stream with
    | none => s
    | some ctl =>
      match ctl.steps.find? (fun r => r.key == w.key) with
      | none => s
      | some r =>
        let spec := ctl.spec
        let idle := wsIdle spec
        let exp := if idle = 0 then 0 else s.time + idle
        let carry := t.carryOut
        let w' : Window := { w with carry, state := t.S 63, expiry := exp, replays := 0, thread := none,
                                    phase := .parked, lastCommit := s.time }
        let arm (s : State) : State :=
          match look s.streams w.stream with
          | some c =>
            match look c.keys w.key.toNat with
            | some k => s.setStream w.stream { c with
                keys := put c.keys w.key.toNat { k with expiry := exp, lastCommit := s.time } }
            | none => s
          | none => s
        let pos := stepPos spec r
        let kept := min r.replays 255
        let s := match st.reason with
          | .openR => arm ((s.keepReplays w.stream w.key r.replays).setWindow st.win { w' with replays := kept })
          | .merge =>
            let s := s.keepReplays w.stream w.key r.replays
            match look s.windows r.partner with
            | some b =>
              (s.dropWindow r.partner).setWindow st.win
                { w' with replays := kept, start := min w.start b.start, last := max w.last b.last }
            | none => s.setWindow st.win { w' with replays := kept }
          | .record =>
            let s := (s.setHead w.stream w.key []).setWindow st.win
              { w' with count := w.count + 1, last := max w.last pos, lastTs := r.record.ts }
            (arm s).commitFor w.stream r.record.pos
          | .pane =>
            arm ((s.setHead w.stream w.key []).setWindow st.win
              { w' with count := w.count + 1, panes := w.panes + 1, last := max w.last pos, lastTs := r.record.ts })
          | .close =>
            let s := (s.dropWindow st.win)
            if w.paneWin then
              let raw : StepReq := { plainStep w.key 0 w.start false .pane s.time r.stamp with
                record := { paneRecord w w.lastTs carry with seq := ctl.paneSeq }, raw := true, ord := w.last }
              let s := s.setStream w.stream { ctl with paneSeq := ctl.paneSeq + 1 }
              s.setHead w.stream w.key [raw]
            else s.setHead w.stream w.key []
          | .expire => ((s.dropWindow st.win).setHead w.stream w.key []).dropKey w.stream w.key
        s.placeClose w.stream w.key

/-- A window changed, where it stands. -/
def State.onWindow (s : State) (wk : Nat) (f : Window → Window) : State :=
  match look s.windows wk with
  | some w => s.setWindow wk (f w)
  | none => s

/-- Whether s63 breaks the state word (R279). -/
def badStateWord (w : Word) : Bool := w.getLsbD 15 && (bits w.toNat 63 57 != 0 || bits w.toNat 14 8 != 0)

/-- `win.park` of a window step, by any instruction that performs it (R273, R321, R396). -/
def State.parkStep (s : State) (tid : Nat) (t : Thread) (st : StepRef) : State :=
  if t.lbq ≠ 0 then s.hold tid .scalar .again
  else
    let y := s.release t.uid
    if !y.2 then y.1.hold tid .scalar .again
    else
      let s := y.1
      if badStateWord (t.S 63) then s.fault tid (scalarF t 0x05 (t.S 63) 0)
      else
        let die := s.dieOfKey (partOfCtx t.ctx) ((look s.windows st.win).elim 0 (fun w => w.key))
        let s := s.commitStep t st
        let d := s.dieAt die
        let s := s.setDie die { d with emits := d.emits ++ t.emits.map (fun e => (t.uid, t.ctx, e.1, e.2)) }
        let s := s.sampleCohort t.cohort
        let s := s.onWindow st.win (fun w => { w with core := some (coreOf tid) })
        s.endThread tid false

/-- `win.park` (R321): OPERAND_RANGE in a task thread. -/
def execWinPark (s : State) : Out :=
  onThread s (fun tid t =>
    match t.step with
    | none => faultOut s tid (scalarF t 0x0D 0 0)
    | some st => .next (s.parkStep tid t st))

/-- The first checks of every WIN instruction on its stream (R211, R320): a bound stream of this partition that admits
the core. -/
def withStream (s : State) (tid : Nat) (t : Thread) (a : Word) (k : Nat → Queue → List Byte → Out) : Out :=
  match spaceOf a with
  | some (.scratch _) => faultOut s tid (scalarF t 0x05 a 0)
  | _ =>
    match s.queueRef t a 64 with
    | .inl f => faultOut s tid (scalarF t f a 0)
    | .inr r =>
      match s.queueAt r with
      | none => faultOut s tid (scalarF t 0x08 a 0x100)
      | some q =>
        if s.queuePriv tid t r then faultOut s tid (scalarF t 0x14 a 0)
        else if !q.stream then faultOut s tid (scalarF t 0x0D 0 0)
        else
          withIntact s tid t .scalar a (fun r q b =>
            match r with
            | .global pa => k pa q b
            | .scratch _ _ => faultOut s tid (scalarF t 0x05 a 0))

/-- An element pushed into a stream as `queue.qpush` would, after the release (R216, R323), which it waits for as it was
loaded. -/
def streamPush (s : State) (tid : Nat) (t : Thread) (d : BitVec 6) (a : Word) (pa : Nat) (e : List Byte) : Out :=
  let y := s.release t.uid
  if !y.2 then .next (y.1.hold tid .scalar (.loaded e))
  else
    atHome y.1 tid t .scalar (.global pa) true 1 (some e) (fun s =>
      homeDone (s.homePush (.global pa) (.core (coreOf tid)) [e]) tid t .scalar a (fun s ans =>
        match ans with
        | .many (p :: _) _ _ => queueDone s tid d (word p)
        | .closed => faultOut s tid (scalarF t 0x0A a 0)
        | _ => queueWait s tid (.global pa) true .scalar (.push d e)))

/-- `win.wmark` (R323). -/
def execWinWmark (d a b : BitVec 6) (s : State) : Out :=
  onThread s (fun tid t =>
    withStream s tid t (t.S a) (fun pa _ bk =>
      let m := (t.S b).toNat
      if 2 ^ 63 ≤ m then faultOut s tid (scalarF t 0x0D 0 0)
      else streamPush s tid t d (t.S a) pa (padBytes (leBytes 8 0 ++ leBytes 8 (2 ^ 63 + m)) (qEsize bk))))

/-- `win.wclose` (R324): the closes take the position TAIL + RESV in the key's order. -/
def execWinWclose (d a b : BitVec 6) (s : State) : Out :=
  onThread s (fun tid t =>
    withStream s tid t (t.S a) (fun pa _ _ =>
      let y := s.release t.uid
      if !y.2 then .next (y.1.hold tid .scalar .stall)
      else
        let s := y.1
        let bk := s.qcbBytes (.global pa) 128
        let key := t.S b
        match look s.streams pa with
        | none => queueDone s tid d 0
        | some ctl =>
          let n := (s.openWindows pa key true ++ s.openWindows pa key false).length
          let raw : StepReq := { plainStep key 0 0 false .close s.time (s.trigClock ctl) with
            raw := true, record := { StreamRec.none with pos := (qTail bk + qResv bk) % 2 ^ 32 } }
          queueDone (s.setStream pa { ctl with steps := ctl.steps ++ [raw] }) tid d (word n)))

/-- `win.wemit` (R322): held with a window step, pushed by a task thread. -/
def execWinWemit (d a b : BitVec 6) (s : State) : Out :=
  onThread s (fun tid t =>
    let q := t.S a
    let e := t.S b
    withStream s tid t q (fun pa _ bk =>
      let full := t.step.isSome && decide (8 ≤ t.emits.length)
      if full then faultOut s tid (scalarF t 0x0D 0 0)
      else
        match t.wait with
        | some (.loaded bs) => streamPush s tid t d q pa bs
        | _ =>
        match s.bufferCheck t e (qEsize bk) .read with
        | some f => faultOut s tid (scalarF t f e 0)
        | none =>
          accOut s tid t .scalar e (qEsize bk) (s.bufferLoad tid t e (qEsize bk)) (fun x =>
            if t.step.isNone then streamPush x.2 tid t d q pa x.1
            else if qClosed bk then faultOut x.2 tid (scalarF t 0x0A q 0)
            else .next (x.2.onLive tid (fun t =>
              { (t.setS d (word t.emits.length)).step4 with emits := t.emits ++ [(q, x.1)] })))))

/-- FLAGS of a window record (R277). -/
def Window.flags (w : Window) : Nat :=
  w.replays % 256 * 2 ^ 8 + (if w.paneWin then 16 else 0) + (if w.firing then 4 else 0) + w.tier % 4

/-- The 256 bytes of a window record (R277). -/
def Window.record (w : Window) (va : Word) : List Byte :=
  leBytes 8 w.key.toNat ++ leBytes 8 w.winid.toNat ++ leBytes 8 w.start ++ leBytes 8 w.last ++ leBytes 8 w.expiry
    ++ leBytes 8 w.state.toNat ++ leBytes 8 va.toNat ++ leBytes 4 w.count.toNat ++ leBytes 2 w.flags
    ++ leBytes 2 w.panes.toNat ++ padBytes (wordsBytes w.carry) 128 ++ List.replicate 64 0

/-- `win.wstate` (R325). -/
def execWinWstate (d a b : BitVec 6) (s : State) : Out :=
  onThread s (fun tid t =>
    let qb := t.S a
    let e := t.S b
    match (if qb.toNat % 8 ≠ 0 then some 0x04 else s.check t qb 32 .read false) with
    | some f => faultOut s tid (scalarF t f qb 0)
    | none =>
      accOut s tid t .scalar qb 32 (s.loadT tid t qb.toNat 32) (fun x =>
        let s := x.2
        let stream := wordAt x.1 0
        let key := wordAt x.1 8
        let mx := leAt x.1 16 4
        withStream s tid t stream (fun pa _ _ =>
          let ws := sortBy (fun a b => decide (a.2.start ≤ b.2.start))
            ((s.openWindows pa key true ++ s.openWindows pa key false).filter (fun w => w.2.phase != .opening))
          let n := min mx ws.length
          if 64 < mx ∨ leAt x.1 20 12 ≠ 0 then faultOut s tid (scalarF t 0x0D 0 0)
          else if e.toNat % 256 ≠ 0 then faultOut s tid (scalarF t 0x04 e 0)
          else if n = 0 then queueDone s tid d (word ws.length)
          else
            match s.check t e (256 * n) .write false with
            | some f => faultOut s tid (scalarF t f e 0)
            | none =>
              let va := (look s.streams pa).elim stream (fun c => c.va)
              accOut s tid t .scalar e (256 * n) (s.storeT tid t e.toNat ((ws.take n).flatMap (fun w => w.2.record va))) (fun s =>
                queueDone s tid d (word ws.length)))))

/-- Whether a word names a bound queue of a context with a given ESIZE. -/
def State.boundWith (s : State) (ctx : Nat) (a : Word) (esize : Nat) : Bool :=
  match spaceOf a with
  | some (.global va) =>
    match s.globalRef ctx va with
    | some r => (s.queueAt r).isSome && qEsize (s.qcbBytes r 64) == esize
    | none => false
  | _ => false

/-- `win.wbind` (R267, R326), its checks in the order of R42: those of the operands before the spec's address (log 25). -/
def execWinWbind (d a b : BitVec 6) (s : State) : Out :=
  onThread s (fun tid t =>
    let sp := t.S b
    let lq := t.S d
    withStream s tid t (t.S a) (fun pa q bk =>
      let r : QRef := .global pa
      let old := leAt bk 0x50 8
      let open_ := s.windows.any (fun w => w.2.stream == pa) || qHead bk != qTail bk
      if (old != 0 && sp != 0) || (sp == 0 && open_) then faultOut s tid (scalarF t 0x0D 0 0)
      else if sp.toNat % 128 ≠ 0 then faultOut s tid (scalarF t 0x04 sp 0)
      else
        match s.check t sp 128 .read false with
        | some f => faultOut s tid (scalarF t f sp 0)
        | none =>
          if sp = 0 then
            let s := (s.touchQcb r q (.core (coreOf tid))).store r q (setField bk 0x50 8 0)
            .next ({ s with streams := del s.streams pa }.onLive tid (fun t => t.dirty.step4))
          else
            accOut s tid t .scalar sp 128 (s.loadT tid t sp.toNat 128) (fun x =>
              let s := x.2
              if !wsOk x.1 then faultOut s tid (scalarF t 0x0D 0 0)
              else if lq ≠ 0 ∧ ¬ s.boundWith t.ctx lq (qEsize bk) then faultOut s tid (scalarF t 0x0D 0 0)
              else
                let bk := setField (setField bk 0x50 8 sp.toNat) 0x58 8 lq.toNat
                let bk := if wsLate x.1 = 0 then bk else setField bk 0x48 8 (wsLate x.1)
                let ctl : StreamCtl := { ctx := t.ctx, va := t.S a, spec := x.1, taken := qHead bk, live := [], retired := [],
                                         steps := [], keys := [], marks := [(leAt bk 0x40 8, s.time)], full := [], nrec := 0,
                                         paneSeq := 0 }
                let s := ((s.touchQcb r q (.core (coreOf tid))).store r q bk).setStream pa ctl
                .next (s.onLive tid (fun t => t.dirty.step4)))))

end Sys2Proof.Machine
end

