-- ==== Sys2Proof/Machine/TaskOps.lean ====
section
/-! DEFINITION. Sys2Proof/Machine/TaskOps.lean: task packets, slots and dependence counters (R285-R295), the TASK
instructions (R327-R330) and the SYS instructions (R392-R397). -/

namespace Sys2Proof.Machine

/-- Length of a packet in bytes (R288), from its first word; none where it is malformed. -/
def pkLen (w0 : Nat) : Option Nat :=
  let l := bits w0 4 0
  if l = 0 then some 256 else if l < 4 then none else some (8 * l)

/-- KIND of a packet: 0 plain, 1 range, 2 counter-only, 3 indirect (R288). -/
def pkKind (b : List Byte) : Nat := bits (leAt b 0 8) 7 5
/-- NSUCC. -/
def pkNsucc (b : List Byte) : Nat := bits (leAt b 0 8) 11 8
/-- PRIO. -/
def pkPrio (b : List Byte) : Nat := bits (leAt b 0 8) 13 12
/-- PRED. -/
def pkPred (b : List Byte) : Nat := bits (leAt b 0 8) 31 16
/-- Threads of a cohort. -/
def pkCohort (b : List Byte) : Nat := bits (leAt b 0 8) 35 32 + 1
/-- Slices of a thread. -/
def pkSlices (b : List Byte) : Nat := bits (leAt b 0 8) 38 36 + 1
/-- NRANGE. -/
def pkNrange (b : List Byte) : Nat := bits (leAt b 0 8) 42 39
/-- Entry address. -/
def pkEntry (b : List Byte) : Nat := bits (leAt b 8 8) 47 0
/-- Role-map index. -/
def pkRolemap (b : List Byte) : Nat := bits (leAt b 8 8) 63 48
/-- Offset of the payload. -/
def pkPayAt (b : List Byte) : Nat := 16 + 16 * pkNrange b
/-- Payload of a packet. -/
def pkPayload (b : List Byte) : List Byte := (b.drop (pkPayAt b)).take (b.length - pkPayAt b - 8 * pkNsucc b)
/-- Successor handles, which end the packet. -/
def pkSucc (b : List Byte) : List Word := (upFrom 0 (pkNsucc b)).map (fun i => wordAt b (b.length - 8 * pkNsucc b + 8 * i))
/-- Declared ranges. -/
def pkRanges (b : List Byte) : Option (List Range) := rangesOf (pkNrange b) (b.drop 16)

/-- LO, HI and GRAIN of a range packet (R289). -/
def pkLo (b : List Byte) : Int := (wordAt (pkPayload b) 0).toInt
/-- HI. -/
def pkHi (b : List Byte) : Int := (wordAt (pkPayload b) 8).toInt
/-- GRAIN. -/
def pkGrain (b : List Byte) : Int := (wordAt (pkPayload b) 16).toInt
/-- COUNTADDR of an indirect packet. -/
def pkCountAddr (b : List Byte) : Nat := leAt (pkPayload b) 0 8

/-- Whether a packet keeps R288 and R289; `b` is exactly its bytes. -/
def packetOk (b : List Byte) : Bool :=
  let w := leAt b 0 8
  let head := 16 + 16 * pkNrange b + 8 * pkNsucc b
  decide (w < 2 ^ 43) && bits w 15 14 == 0 && decide (pkKind b ≤ 3) && decide (pkNrange b ≤ 8) && decide (pkNsucc b ≤ 8)
    && pkLen w == some b.length && decide (head ≤ b.length)
    && (match pkRanges b with
        | none => false
        | some rs =>
          match pkKind b with
          | 1 => decide (24 ≤ (pkPayload b).length) && decide (pkLo b < pkHi b) && decide (1 ≤ pkGrain b)
          | 2 => pkEntry b == 0 && bits w 38 32 == 0 && pkNrange b == 0
          | 3 => decide (8 ≤ (pkPayload b).length) && decide (pkCountAddr b % 8 = 0) && inRanges rs (pkCountAddr b) 8 .read
          | _ => true)

/-- Whether a slot is free (R286): never taken, or its last task has ended and released it. -/
def TaskSlot.isFree (t : TaskSlot) : Bool := t.st == .free || ((t.st == .done || t.st == .failed) && t.released)

/-- The lowest free slot of a die's table (R286). -/
def State.freeSlot (s : State) (die : Nat) : Option Nat :=
  (upFrom 0 (min Config.taskSlots (s.tasks.length + 1))).find? (fun i => (s.taskAt (die * 65536 + i)).isFree)

/-- Free slots of a die's table. -/
def State.freeSlots (s : State) (die : Nat) : Nat :=
  Config.taskSlots - (s.tasks.filter (fun t => t.1 / 65536 == die && !t.2.isFree)).length

/-- GEN after a slot is taken (R285). -/
def nextGen (g : BitVec 16) : BitVec 16 := if g = 0xFFFF then 1 else g + 1

/-- The handle of a slot's current task. -/
def State.slotHandle (s : State) (k : Nat) : Word :=
  let t := s.taskAt k
  handleOf (partOfCtx t.ctx) t.gen.toNat (k % 65536) (k / 65536)

/-- The pages a range of bytes touches, each with its base, size and leaf (R353); none where one is not mapped. By fuel
over the pages. -/
def State.pagesAux (s : State) (ctx : Nat) : Nat → Nat → Nat → Option (List (Nat × Nat × Word))
  | 0, _, _ => some []
  | f + 1, va, e =>
    if e ≤ va then some []
    else
      match s.leafAt ctx va with
      | none => none
      | some (w, size) =>
        match s.pagesAux ctx f (pageBase va size + size) e with
        | some t => some ((pageBase va size, size, w) :: t)
        | none => none

/-- The pages of a declared range. -/
def State.pagesOf (s : State) (ctx : Nat) (r : Range) : Option (List (Nat × Nat × Word)) :=
  s.pagesAux ctx (r.len / 65536 + 2) r.base (r.base + r.len)

/-- The first page of a range that is not mapped (R353), by fuel over the pages. -/
def State.pageLost (s : State) (ctx : Nat) : Nat → Nat → Nat → Option Nat
  | 0, _, _ => none
  | f + 1, va, e =>
    if e ≤ va then none
    else
      match s.leafAt ctx va with
      | none => some va
      | some (_, size) => s.pageLost ctx f (pageBase va size + size) e

/-- The walk that a grant of a range is refused at, with its RAS record (R348, R353). -/
def State.grantRas (s : State) (ctx : Nat) (r : Range) : State :=
  s.walksRas ctx (s.pageLost ctx (r.len / 65536 + 2) r.base (r.base + r.len)).toList

/-- Whether a range can be granted (R353): every page mapped, and every access the range allows allowed by its leaf. -/
def State.grantable (s : State) (ctx : Nat) (r : Range) : Bool :=
  match s.pagesOf ctx r with
  | none => false
  | some ps => ps.all (fun p => (!r.write || leafW p.2.2) && (!r.atomic || leafA p.2.2))

/-- The end of a time-triggered slot's instance noted (R297). -/
def State.noteInstance (s : State) (k : Nat) : State :=
  let t := s.taskAt k
  let part := partOfCtx t.ctx
  match t.tt.bind (fun n => (look (s.partAt part).tts n).map (fun x => (n, x))) with
  | some (n, x) =>
    let p := s.partAt part
    if x.last = some (s.slotHandle k) then s.setPart part { p with tts := put p.tts n { x with freeAt := s.time } } else s
  | none => s

/-- A task that ends before any thread runs, or after its last (R291-R293): DONE or FAILED, the slot released; the events
its successors receive. -/
def State.finishTask (s : State) (k : Nat) (failed : Bool) : State × List (Word × Bool) :=
  let t := s.taskAt k
  ((s.noteInstance k).setTask k { t with st := if failed then .failed else .done, released := true, count := 0, pieces := [], threads := 0 },
    (pkSucc t.packet).map (fun h => (h, failed)))

/-- A fault record of the task engine for a task that fails before it runs (R294, R328, R353). -/
def State.taskRecord (s : State) (k code : Nat) (addr : Word) : State :=
  let t := s.taskAt k
  s.raise t.ctx (.unit (k / 65536)) 0 { engineRec code 6 0xFF 0 addr 0 with ends := 4, task := s.slotHandle k }

/-- A WAITING slot whose counter is 0 (R291, R294): READY with its pieces, or ended at once. It stays WAITING while the
count word of an indirect task waits at its home (R183), and is taken up again by TASK_LAUNCH. -/
def State.makeReady (s : State) (k : Nat) : State × List (Word × Bool) :=
  let t := s.taskAt k
  let b := t.packet
  let ready (ps : List Piece) (s : State) : State × List (Word × Bool) :=
    (s.setTask k { s.taskAt k with st := .ready, pieces := ps, released := false }, [])
  if pkKind b = 2 then s.finishTask k false
  else
    match ((pkRanges b).getD []).find? (fun r => !s.grantable t.ctx r) with
    | some r => ((s.grantRas t.ctx r).taskRecord k 0x05 (word r.base)).finishTask k true
    | none =>
      match pkKind b with
      | 1 => ready [{ lo := pkLo b, cur := pkLo b, hi := pkHi b, live := true }] s
      | 3 =>
        let s := s.resident t.ctx (pkCountAddr b) 8
        match s.readBytes (.unit (k / 65536)) t.ctx (pkCountAddr b) 8 with
        | .wait => (s, [])
        | .fault f => (s.taskRecord k f (word (pkCountAddr b))).finishTask k true
        | .ok (bs, s) =>
          let n := leNat bs
          if n = 0 then s.finishTask k false
          else if 65536 < n then (s.taskRecord k 0x0D 0).finishTask k true
          else ready ((upFrom 0 n).map (fun i => { lo := i, cur := 0, hi := n, live := true })) s
      | _ => ready [{ lo := 0, cur := 0, hi := 0, live := true }] s

/-- Events of slots performed one at a time, with those they set off (R290, R291, R293), by fuel. -/
def State.decrAll : Nat → State → List (Word × Bool) → State
  | 0, s, _ => s
  | _ + 1, s, [] => s
  | f + 1, s, (h, failed) :: es =>
    let k := hKey h
    let t := s.taskAt k
    if hGen h = 0 ∨ t.gen.toNat ≠ hGen h ∨ t.st ≠ .waiting ∨ (t.count = 0 ∧ ¬ failed) ∨ partOfCtx t.ctx ≠ hPart h then
      State.decrAll f s es
    else if failed then
      let x := s.finishTask k true
      State.decrAll f x.1 (es ++ x.2)
    else
      let s := s.setTask k { t with count := t.count - 1 }
      if t.count ≤ 1 then
        let x := s.makeReady k
        State.decrAll f x.1 (es ++ x.2)
      else State.decrAll f s es

/-- Fuel for a chain of events: every slot ends once, with at most eight successors. -/
def eventFuel : Nat := 4 * 65536 * 9 + 64

/-- A packet takes a slot (R286, R291): its handle, and the machine with a PRED of 0 already acted on. -/
def State.acceptPacket (s : State) (die slot ctx : Nat) (b : List Byte) (paddr : Word) (prio : Nat) (tt : Option Nat) :
    Word × State :=
  let k := die * 65536 + slot
  let old := s.taskAt k
  let t : TaskSlot := { gen := nextGen old.gen, count := pkPred b, st := .waiting, ctx, packet := b, paddr, prio,
                        pieces := [], threads := 0, bad := false, uids := [], gone := [], tt, released := false, poison := [] }
  let s := s.setTask k t
  let h := s.slotHandle k
  if pkPred b = 0 then
    let x := s.makeReady k
    (h, State.decrAll eventFuel x.1 x.2)
  else (h, s)

/-- A spawn whose packet has been copied (R328): its release, then a free slot of its die, waited for without a fault. -/
def spawnCopied (s : State) (tid : Nat) (t : Thread) (d : BitVec 6) (p : Word) (b : List Byte) : Out :=
  let z := s.release t.uid
  let die := dieOfCore (coreOf tid)
  if !z.2 then .next (z.1.hold tid .scalar (.spawn b false))
  else
    match z.1.freeSlot die with
    | none => .next (z.1.hold tid .scalar (.spawn b true))
    | some slot =>
      let r := z.1.acceptPacket die slot t.ctx b p (pkPrio b) none
      .next (r.2.onLive tid (fun t => (t.setS d r.1).dirty.step4))

/-- `task.spawn` (R286, R288, R289, R328): a spawn that waits keeps the packet it copied at issue. -/
def execTaskSpawn (d a : BitVec 6) (s : State) : Out :=
  onThread s (fun tid t =>
    match t.wait with
    | some (.spawn b _) => spawnCopied s tid t d (t.S a) b
    | _ =>
      let p := t.S a
      match (if p.toNat % 8 ≠ 0 then some 0x04 else s.check t p 8 .read false) with
      | some f => faultOut s tid (scalarF t f p 0)
      | none =>
        accOut s tid t .scalar p 8 (s.loadT tid t p.toNat 8) (fun x =>
          match pkLen (leNat x.1) with
          | none => faultOut x.2 tid (scalarF t 0x0D 0 0)
          | some n =>
            match x.2.check t p n .read false with
            | some f => faultOut x.2 tid (scalarF t f p 0)
            | none =>
              accOut x.2 tid t .scalar p n (x.2.loadT tid t p.toNat n) (fun y =>
                if !packetOk y.1 then faultOut y.2 tid (scalarF t 0x0D 0 0) else spawnCopied y.2 tid t d p y.1)))

/-- What a thread has posted and not seen performed, marked as owed to the task it detaches from (R329). -/
def State.oweOps (s : State) (tid uid : Nat) : State :=
  let f (r : Red) : Red := if r.uid = uid then { r with owed := true } else r
  let hit (r : Red) : Bool := r.uid == uid
  let s := if s.dies.any (fun d => d.2.combiner.any hit) then
      { s with dies := s.dies.map (fun d => (d.1, { d.2 with combiner := d.2.combiner.map f })) }
    else s
  let s := if s.cores.any (fun c => c.2.mx.any (fun o => o.uid == uid) || c.2.posted.any hit) then
      { s with cores := s.cores.map (fun c => (c.1, { c.2 with
        mx := c.2.mx.map (fun o => if o.uid = uid then { o with owed := true } else o), posted := c.2.posted.map f })) }
    else s
  { s.onLive tid (fun t => { t with redBuf := t.redBuf.map f }) with
    flows := s.flows.map (fun x => (x.1, { x.2 with reds := x.2.reds.map f }))
    chans := s.chans.map (fun x => (x.1, { x.2 with chains := x.2.chains.map (fun h =>
      if h.uid = uid then { h with owed := true } else h) })) }

/-- `task.done` (R329): the thread no longer counts; its task still waits for what it has posted before (R292). -/
def execTaskDone (s : State) : Out :=
  onThread s (fun tid t =>
    if t.step.isSome ∨ t.detached then faultOut s tid (scalarF t 0x0D 0 0)
    else
      let k := hKey t.task
      let ts := s.taskAt k
      let s := (s.oweOps tid t.uid).setTask k { ts with uids := ts.uids.erase t.uid, gone := t.uid :: ts.gone }
      .next ((s.taskThreadEnds t false).onLive tid (fun t => { t.step4 with detached := true })))

/-- `task.note` (R290, R330). -/
def execTaskNote (a : BitVec 6) (s : State) : Out :=
  onThread s (fun tid t =>
    let h := t.S a
    if hPart h ≠ partOfCtx t.ctx then faultOut s tid (scalarF t 0x14 h 0)
    else if 2 ^ 38 ≤ h.toNat then faultOut s tid (scalarF t 0x0D h 0)
    else
      let y := s.release t.uid
      if !y.2 then .next (y.1.hold tid .scalar .stall)
      else .next ((y.1.sendDecrement h false).onLive tid (fun t => t.dirty.step4)))

/-- `task.rnext` (R295, R330). A detached thread whose task's slot has been taken again has no grain left (log 23). -/
def execTaskRnext (d : BitVec 6) (s : State) : Out :=
  onThread s (fun tid t =>
    let k := hKey t.task
    let ts := s.taskAt k
    if ¬ t.ranged then faultOut s tid (scalarF t 0x0D 0 0)
    else
      match (if ts.gen.toNat = hGen t.task then ts.pieces[t.piece]? else none) with
      | some p =>
        if p.hi ≤ p.cur then .next (s.onLive tid (fun t => (t.setS d wMinus1).dirty.step4))
        else
          let p' := { p with cur := p.cur + pkGrain ts.packet }
          .next ((s.setTask k { ts with pieces := setNth ts.pieces t.piece p' }).onLive tid (fun t =>
            (t.setS d (wordI p.cur)).dirty.step4))
      | none => .next (s.onLive tid (fun t => (t.setS d wMinus1).dirty.step4)))

/-- Code of a slot's state (R330). -/
def TaskState.code : TaskState → Nat
  | .free => 0
  | .waiting => 1
  | .ready => 2
  | .running => 3
  | .done => 4
  | .failed => 5

/-- The state word of a handle (R330). -/
def State.taskWord (s : State) (h : Word) : Nat :=
  let t := s.taskAt (hKey h)
  if t.gen.toNat ≠ hGen h then 8
  else t.st.code + (if t.st = .waiting then t.count * 2 ^ 16 else 0)

/-- `task.tquery` (R330). -/
def execTaskTquery (d a : BitVec 6) (s : State) : Out :=
  onThread s (fun tid t =>
    let h := t.S a
    if hPart h ≠ partOfCtx t.ctx then faultOut s tid (scalarF t 0x14 h 0)
    else if 2 ^ 38 ≤ h.toNat then faultOut s tid (scalarF t 0x0D h 0)
    else aluDone s tid t d (word (s.taskWord h)))

/-- The Milliner that serves a core's requests (R364). -/
def milliOf (core : Nat) : Nat := 16 * (core / 96) + core % 16

/-- A request of slice i of a thread, with the mask it holds (R393). -/
def sysRequest (t : Thread) (tid i : Nat) (svc : BitVec 16) (block : Word) (d : BitVec 6) : SysReq :=
  let mask := match t.sl[i]? with
    | some x => if x.st = .idle then 0xF#4 else x.mask
    | none => 0
  { milli := milliOf (coreOf tid), tid, uid := t.uid, slice := i, svc, mask, block, d, pc := t.pc }

/-- `sys.sys` (R364, R392, R393). -/
def execSysSys (d a b : BitVec 6) (s : State) : Out :=
  onThread s (fun tid t =>
    let w := t.S a
    let blk := t.S b
    let m := bits w.toNat 23 16
    let svc : BitVec 16 := w.setWidth 16
    if 2 ^ 24 ≤ w.toNat ∨ 2 ^ t.slices ≤ m then faultOut s tid (scalarF t 0x0D 0 0)
    else
      match (s.check t blk 128 .read true).or (s.check t blk 128 .write true) with
      | some f => faultOut s tid (scalarF t f blk 0)
      | none =>
        let y := s.release t.uid
        if !y.2 then .next (y.1.hold tid .scalar .stall)
        else if m = 0 then
          let r : SysReq := { milli := milliOf (coreOf tid), tid, uid := t.uid, slice := 8, svc, mask := 0, block := blk, d, pc := t.pc }
          let s : State := { y.1 with sysReqs := y.1.sysReqs ++ [r] }
          .next (s.onLive tid (fun t => t.dirty.block .scalar .sys))
        else
          let is := (upFrom 0 t.slices).filter (fun i => m.testBit i)
          let s : State := { y.1 with sysReqs := y.1.sysReqs ++ is.map (fun i => sysRequest t tid i svc blk d) }
          .next (s.onLive tid (fun t =>
            { (t.setS d 0).dirty.step4 with
              sl := t.sl.zipIdx.map (fun x => if m.testBit x.2 then { x.1 with held := true } else x.1) })))

/-- `sys.trap` (R394). -/
def execSysTrap (a : BitVec 6) (s : State) : Out :=
  onThread s (fun tid t => faultOut s tid (scalarF t 0x11 0 (t.S a)))

/-- V of a user-interrupt entry (R365). -/
def UintEntry.valid (e : UintEntry) : Bool := e.flags.getLsbD 0

/-- `sys.uint` (R366, R395). -/
def execSysUint (a b : BitVec 6) (s : State) : Out :=
  onThread s (fun tid t =>
    let e := (t.S a).toNat
    match (look s.ctxs t.ctx).bind (fun c => (look c.uints e).map (fun u => (c, u))) with
    | some (c, u) =>
      if 63 < e ∨ ¬ u.valid then faultOut s tid (scalarF t 0x0D 0 0)
      else
        let s := s.setCtx t.ctx { c with uints := put c.uints e { u with sent := u.sent + 1 } }
        let s : State := { s with uints := s.uints ++ [{ ctx := t.ctx, entry := e, data := t.S b, seq := u.sent }] }
        .next (s.onLive tid (fun t => t.dirty.step4))
    | none => faultOut s tid (scalarF t 0x0D 0 0))

/-- The last live thread of a cohort that ends gives its entry's sample (R400). -/
def State.sampleLast (s : State) (tid : Nat) (ck : Nat) : State :=
  match look s.cohorts ck with
  | some c => if c.members.all (fun m => m == tid || !s.alive m) then s.sampleCohort ck else s
  | none => s

/-- `sys.end` (R396): a window step parks; a task thread ends. -/
def execSysEnd (s : State) : Out :=
  onThread s (fun tid t =>
    match t.step with
    | some st => .next (s.parkStep tid t st)
    | none =>
      .next ((s.sampleLast tid t.cohort).endThread tid false))

/-- `sys.halt` (R39, R397): the context is frozen; its cohorts are saved by COHORT_SAVE. -/
def execSysHalt (s : State) : Out :=
  onThread s (fun tid t =>
    if !s.privileged t.ctx then faultOut s tid (scalarF t 0x14 0 0)
    else
      let s := s.onLive tid Thread.step4
      match look s.ctxs t.ctx with
      | some c => .next (s.setCtx t.ctx { c with halted := true })
      | none => .next s)

end Sys2Proof.Machine
end

