-- ==== Sys2Proof/Machine/Area.lean ====
section
/-! DEFINITION. Sys2Proof/Machine/Area.lean: the pages of a window's state area, which follow its record into the host tier
and back (R279). -/

namespace Sys2Proof.Machine

/-- The state area of a window as its ninth declared range (R279). -/
def stateArea (w : Word) : List Range :=
  if w.getLsbD 15 then
    [{ base := bits w.toNat 56 16 * 65536, len := (bits w.toNat 7 0 + 1) * 65536, read := true, write := true, atomic := false }]
  else []

/-- What names a queue by its block's byte, named anew (R212): queues, streams and their windows, reservations and waits. -/
def State.rekeyQueues (s : State) (f : Nat → Nat) : State :=
  let wait (w : Option Wait) : Option Wait := match w with
    | some (.queue q) => some (.queue (if q < 2 ^ 90 then f q else q))
    | some (.drain q none) => some (.drain (f q) none)
    | w => w
  let held (r : Nat × Nat × Nat) : Nat × Nat × Nat := if r.1 < 2 ^ 90 then (f r.1, r.2) else r
  let thread (t : Thread) : Thread :=
    { t with
      wait := wait t.wait
      sl := t.sl.map (fun x => { x with wait := wait x.wait })
      reserved := t.reserved.map held }
  let chore (c : Chore) : Chore := match c with
    | .commit k b p => .commit (if k < 2 ^ 90 then f k else k) b p
    | .settle k b => .settle (if k < 2 ^ 90 then f k else k) b
    | .retire k p => .retire (f k) p
    | c => c
  { s with
    chores := s.chores.map chore
    queues := s.queues.foldl (fun m q => put m (f q.1) q.2) []
    streams := s.streams.foldl (fun m c => put m (f c.1) c.2) []
    windows := s.windows.map (fun w => (w.1, { w.2 with stream := f w.2.stream, reserved := w.2.reserved.map held }))
    threads := s.threads.map (fun t => (t.1, thread t.2))
    saved := s.saved.map (fun x => (x.1, { x.2 with threads := x.2.threads.map thread })) }

/-- A page's bytes copied from where one leaf puts them to where another does, their poison with them; a queue bound there is
named anew. -/
def State.copyPage (s : State) (ctx base size : Nat) (old new : Word) : State :=
  let p := s.partAt (partOfCtx ctx)
  let at_ (e : Word) (off : Nat) : Nat :=
    match placeOf p.chbase p.chlog (base + off) e size with
    | .byte pa => pa
    | _ => 0
  let lines := upFrom 0 (size / 128)
  let mem := lines.foldl (fun m i => Mem.writeBytes m (at_ new (128 * i)) (Mem.readBytes s.mem (at_ old (128 * i)) 128)) s.mem
  let poison := (upFrom 0 (size / 32)).foldl (fun xs i =>
    let d := at_ new (32 * i) / 32
    if s.poison.contains (at_ old (32 * i) / 32) then addNat xs d else xs.filter (fun x => x != d)) s.poison
  let was (q : Nat) : Option Nat := lines.find? (fun i => at_ old (128 * i) / 128 == q / 128)
  let moved (q : Nat) : Nat :=
    match was q with
    | some i => at_ new (128 * i) + q % 128
    | none => q
  if s.queues.any (fun q => (was q.1).isSome) then State.rekeyQueues { s with mem, poison } moved else { s with mem, poison }

/-- A device leaf in place of a host leaf, the other fields kept (R354). -/
def leafMoved (e : Word) (f : Nat) : Word :=
  BitVec.ofNat 64 (bits e.toNat 63 62 * 2 ^ 62 + 2 ^ 61 + bits e.toNat 60 50 * 2 ^ 50 + f % 2 ^ 48)

/-- A host leaf in place of a device leaf, the other fields kept (R279). -/
def leafAway (e : Word) (f : Nat) : Word := leafMoved e f ||| 2 ^ 48

/-- The host frame that takes a page of a state area (R279): the spec names none, so it is a free value, aligned to the page
size (log 19). -/
def State.areaFrame (s : State) (ctx base size : Nat) : Nat :=
  (Config.areaFrame (s.pageKey ctx base)).toNat / (size / 65536) * (size / 65536)

/-- How many leaves of every context put a page on a frame. -/
def State.frameNames (s : State) (ctx : Nat) (e : Word) (size : Nat) : Nat :=
  let k := (s.partAt (partOfCtx ctx)).chlog
  ((s.ctxs.filter (fun c => leafKind e == 1 || partOfCtx c.1 == partOfCtx ctx)).flatMap (fun c =>
    (s.leavesOf c.1).filter (fun m => spansMeet (frameSpan k e size) (frameSpan k m.entry m.size)))).length

/-- The level whose leaves map pages of a size (R347). -/
def levelOfSize (size : Nat) : Nat := if size = 2 ^ levelShift 0 then 0 else if size = 2 ^ levelShift 1 then 1 else 2

/-- A page of a state area moved to its host frame and remapped (R279), none while a grant covers it or an engine owns a line of
it (R350). It stays where another leaf names its frame, or its host frame is in use (log 19). -/
def State.hostPage (s : State) (ctx base size : Nat) (e : Word) : Option State :=
  let new := leafAway e (s.areaFrame ctx base size)
  if leafKind e = 0 ∧ leafRes e ∧ s.frameNames ctx e size = 1 ∧ s.frameNames ctx new size = 0 then
    match (s.copyPage ctx base size e new).writeLeaf ctx base (levelOfSize size) new with
    | .ok u => some u
    | .wait => none
    | .refuse => some s
  else some s

/-- A page of a state area moved back to a frame of its set (R279); none while no frame is free, or its entry cannot change
yet. A page that is not in its host frame stands. -/
def State.ownPage (s : State) (ctx base size : Nat) (e : Word) : Option State :=
  if leafKind e = 1 ∧ leafFrame e = s.areaFrame ctx base size then
    match (s.partAt (partOfCtx ctx)).takeFrame size with
    | none => none
    | some (f, p) =>
      let new := leafMoved e f
      match (((s.setPart (partOfCtx ctx) p).zeroFrame p size f).copyPage ctx base size e new).writeLeaf ctx base
          (levelOfSize size) new with
      | .ok u => some u
      | _ => none
  else some s

/-- The pages of a state area. -/
def State.areaPages (s : State) (ctx : Nat) (w : Word) : List (Nat × Nat × Word) :=
  (stateArea w).flatMap (fun r => (s.pagesOf ctx r).getD [])

/-- The pages of a state area moved to the host tier, all of them or none (R279). -/
def State.areaOut (s : State) (ctx : Nat) (w : Word) : Option State :=
  (s.areaPages ctx w).foldl (fun z p => z.bind (fun s => s.hostPage ctx p.1 p.2.1 p.2.2)) (some s)

/-- The pages of a state area brought back before a step (R279). -/
def State.areaBack (s : State) (ctx : Nat) (w : Word) : Option State :=
  (s.areaPages ctx w).foldl (fun z p => z.bind (fun s => s.ownPage ctx p.1 p.2.1 p.2.2)) (some s)

end Sys2Proof.Machine
end

