-- ==== Sys2Proof/Machine/Carder.lean ====
section
/-! DEFINITION. Sys2Proof/Machine/Carder.lean: the Carder's own steps (R268-R283, R322, R418): taking records, the steps it
delivers, the triggers, the timing wheel, the tiers of the Hatbox and held emissions. -/

namespace Sys2Proof.Machine

/-- A record of a Carder that ends nothing (R387, R389). -/
def State.carderRecord (s : State) (die ctx code : Nat) (addr info : Word) : State :=
  s.raise ctx (.unit die) 0 (engineRec code 5 0xFF 0 addr info)

/-- A stream's block with a field of its extension written by the Carder (R225). -/
def State.setExt (s : State) (stream off v : Nat) : State :=
  let r : QRef := .global stream
  match s.queueAt r with
  | some q => (s.touchQcb r q (s.homeUnit r q)).store r q (setField (s.qcbBytes r 128) off 8 v)
  | none => s

/-- A late record (R269): counted, pushed to LATEQ when that admits the Carder (R208) and takes it at once, and retired. -/
def State.lateRecord (s : State) (stream die ctx : Nat) (sr : StreamRec) : State :=
  let b := s.qcbBytes (.global stream) 128
  let s := s.setExt stream 0x70 (leAt b 0x70 8 + 1)
  let lq := wordAt b 0x58
  let s := match spaceOf lq with
    | some (.global va) =>
      if lq = 0 then s
      else
        match s.globalRef ctx va with
        | some r =>
          let lb := s.qcbBytes r 64
          if (s.queueAt r).isSome && !qClosed lb && engineScope lb && !s.queueBusy r true 1 then
            let h := s.homePush r (.unit die) [sr.bytes]
            h.s.applyEnds h.ended
          else s
        | none => s
    | _ => s
  s.retire stream sr.pos

/-- A record held in the tiers of the Hatbox (R277, R278): a window, or the entry of a count key of a stream. -/
inductive HatRec where
  | window (wk : Nat)
  | entry (stream key : Nat)
  deriving DecidableEq, Repr

/-- The records of a tier, of a die's window cache or of a partition's tables, each with its partition, its last commit and
whether it can move down: not while its window has a step (R278). -/
def State.tierOf (s : State) (part die tier : Nat) : List (HatRec × Nat × Nat × Bool) :=
  let here (p : Nat) (key : Word) : Bool := if tier = 0 then s.dieOfKey p key == die else p == part
  s.windows.filterMap (fun w =>
      let p := partOfCtx w.2.ctx
      if w.2.tier = tier ∧ here p w.2.key then some (.window w.1, p, w.2.lastCommit, w.2.phase == .parked) else none)
    ++ s.streams.flatMap (fun c =>
      let p := partOfCtx c.2.ctx
      c.2.keys.filterMap (fun k =>
        if k.2.tier = tier ∧ here p (word k.1) then some (.entry c.1 k.1, p, k.2.lastCommit, true) else none))

/-- The record of a list that can move and whose last commit is oldest, with its partition (R278). -/
def oldestRec : List (HatRec × Nat × Nat × Bool) → Option (HatRec × Nat × Nat)
  | [] => none
  | (h, p, c, moves) :: t =>
    match oldestRec t with
    | none => if moves then some (h, p, c) else none
    | some x => if moves ∧ c ≤ x.2.2 then some (h, p, c) else some x

/-- Capacity of a tier (R278). -/
def tierSize (tier : Nat) : Nat :=
  match tier with
  | 0 => Config.windowCache
  | 1 => Config.hbmTable
  | _ => Config.hostTable

/-- A record placed in a tier; a window's state area goes to the host with it (R279), none while one of its pages cannot (R350).
In the window cache a record takes its lines of L2 (R168); below it, its thread is no longer resident (R277). -/
def State.setTier (s : State) (h : HatRec) (tier : Nat) : Option State :=
  let placed : Option State := match h with
    | .window wk =>
      match look s.windows wk with
      | some w =>
        (if tier = 2 then s.areaOut w.ctx w.state else some s).map (fun s =>
          s.setWindow wk { w with tier, core := if tier = 0 then w.core else none })
      | none => some s
    | .entry stream key =>
      match look s.streams stream with
      | some ctl =>
        match look ctl.keys key with
        | some k => some (s.setStream stream { ctl with keys := put ctl.keys key { k with tier } })
        | none => some s
      | none => some s
  if tier = 0 then placed.map State.yieldWays else placed

/-- Whether a tier is full. -/
def State.tierFull (s : State) (part die tier : Nat) : Bool := decide (tierSize tier ≤ (s.tierOf part die tier).length)

/-- Room for one more record in a tier (R278): a full one sends its oldest down, by levels left; none where it cannot. -/
def State.roomIn (s : State) (part die : Nat) : Nat → Nat → Option State
  | 0, tier => if s.tierFull part die tier then none else some s
  | f + 1, tier =>
    if !s.tierFull part die tier then some s
    else
      match oldestRec (s.tierOf part die tier) with
      | none => none
      | some (h, p, _) => (s.roomIn p die f (tier + 1)).bind (fun s => s.setTier h (tier + 1))

/-- A record promoted to the window cache of its key's die (R278). -/
def State.promote (s : State) (h : HatRec) (part tier : Nat) (key : Word) : State :=
  if tier = 0 then s
  else
    let s := (s.roomIn part (s.dieOfKey part key) 2 0).getD s
    (s.setTier h 0).getD s

/-- A data record of a count key routed (R270): its ordinal; the key's entry counts it and comes to the window cache. -/
def State.countRecord (s : State) (stream : Nat) (ctl : StreamCtl) (key : Word) : Nat × State :=
  let part := partOfCtx ctl.ctx
  let e := (look ctl.keys key.toNat).getD { firing := false, poison := [], next := 0, expiry := 0, tier := 3, lastCommit := s.time }
  let s := s.setStream stream { ctl with keys := put ctl.keys key.toNat { e with next := e.next + 1 } }
  (e.next, s.promote (.entry stream key.toNat) part e.tier key)

/-- A record taken is sorted into its class (R269): a watermark, a late record, or data placed in its key's order. -/
def State.classify (s : State) (stream die : Nat) (ctl : StreamCtl) (sr : StreamRec) : State :=
  let b := s.qcbBytes (.global stream) 128
  let wmark := leAt b 0x40 8
  if sr.mark then
    let ctl := if wmark < sr.ts then { ctl with marks := ctl.marks ++ [(sr.ts, s.time)] } else ctl
    (((s.setStream stream ctl).setExt stream 0x40 (max wmark sr.ts)).retire stream sr.pos).placeCloses stream
  else if sr.ts + leAt b 0x48 8 < wmark then s.lateRecord stream die ctl.ctx sr
  else
    let x := if wsKind ctl.spec = 0 then s.countRecord stream ctl sr.key else (0, s)
    let step : StepReq :=
      { plainStep sr.key 0 0 false .record s.time (s.trigClock ctl) with record := sr, raw := true, ord := x.1 }
    match look x.2.streams stream with
    | some c => x.2.setStream stream { c with steps := insertRecord step c.steps }
    | none => x.2

/-- Whether a stream holds a record that the Carder has not taken (R268) and does not hold back (R379, R397, R412): its SCOPE
admits the Carder (R208), its home is intact, the ring slot readable and no engine's. -/
def State.takeReady (s : State) (stream : Nat) : Bool :=
  let r : QRef := .global stream
  match look s.streams stream, s.queueAt r with
  | some ctl, some q =>
    let b := s.qcbBytes r 128
    s.ctxRuns ctl.ctx && q.frozen == none && engineScope b && ctl.taken != qTail b && !s.slotsOwned r q b ctl.taken 1
      && (s.slotReady r q b ctl.taken).2
  | _, _ => false

/-- The event CARDER_TAKE_RECORD (R268, R269): the Carder takes the next record of stream `obj`. -/
def execCarderTakeRecord (s : State) : Out :=
  let stream := s.arg.obj
  let r : QRef := .global stream
  match look s.streams stream, s.queueAt r with
  | some ctl, some q =>
    if !s.takeReady stream then .next s
    else
      let m := s.causes r q
      if m ≠ 0 then
        let h := s.freeze r q m
        .next ((h.s.applyEnds h.ended).carderRecord (s.homeOf q.ctx q.va.toNat / 128) q.ctx 0x08 q.va (word m))
      else
        let b := s.qcbBytes r 128
        let x := (s.slotReady r q b ctl.taken).1.readSlot r q b ctl.taken
        let seq := leAt b 0x60 8 - posSub (qTail b) ctl.taken
        let sr : StreamRec := { pos := ctl.taken, seq, addr := slotAddr b ctl.taken, bytes := x.1 }
        let ctl := { ctl with taken := (ctl.taken + 1) % 2 ^ 32 }
        let s := x.2.2.setStream stream ctl
        let die := s.dieOfKey (partOfCtx ctl.ctx) sr.key
        if x.2.1 then .next ((s.carderRecord die ctl.ctx 0x07 q.va 0).retire stream sr.pos)
        else .next (s.classify stream die ctl sr)
  | _, _ => .next s

/-- A key's first step with what it resolves into standing in its place, by fuel (R270, R272, R324), behind the CLOSE steps
that come before it: a record that reaches no window is retired at once (R268); nothing is resolved while the key has no
step that can be delivered yet. -/
def State.resolve : Nat → State → Nat → Word → State
  | 0, s, _, _ => s
  | f + 1, s, stream, key =>
    let s := s.placeClose stream key
    match look s.streams stream, s.headStep stream key with
    | some ctl, some r =>
      if !r.raw || r.ahead ctl.taken then s
      else
        let new := s.expand stream ctl r
        let n := commitCount new
        let s := s.setHead stream key new
        let s := if r.reason = .record then
            (if n = 0 then s.retire stream r.record.pos
             else match look s.streams stream with
               | some c => s.setStream stream { c with live := c.live ++ [(r.record, n)] }
               | none => s)
          else if r.reason = .expire ∧ new.isEmpty then s.dropKey stream key
          else s
        if new.isEmpty then State.resolve f s stream key else s
    | _, _ => s

/-- A key's order with its first step resolved, where the Carder acts on the stream. -/
def State.resolved (s : State) (stream : Nat) (key : Word) : State :=
  if s.streamRuns stream then State.resolve ((look s.streams stream).elim 0 (fun c => c.steps.length + 1)) s stream key else s

/-- The message of PLACEMENT_STALL or HATBOX_FULL on a die's mailbox ring (R418). -/
def stallMessage (event ctx die : Nat) (subject need : Word) (time : Nat) : List Word :=
  [word (event + partOfCtx ctx * 2 ^ 16 + ctx % 64 * 2 ^ 24 + die * 2 ^ 32), subject, need, word time]

/-- The message sent and the RAS record written (R418). -/
def State.sendStall (s : State) (event ctx die : Nat) (subject need : Word) : State :=
  let m := stallMessage event ctx die subject need s.time
  let s : State := { s with events := s.events ++ [m] }
  s.addRas (10 + event) 0 die (partOfCtx ctx) 0 m

/-- The placement request of a window's step (R266, R298). -/
def State.stepRequest (s : State) (ctl : StreamCtl) (wk : Nat) (r : StepReq) : Request :=
  let b := ctl.spec
  let l := leAt b 0x70 8
  { id := s.nextAge, ctx := ctl.ctx, prio := bits (wsShape b) 5 4, age := s.time, kind := .window wk,
    entry := word (wsEntry b r.reason r.pane), csize := 1, slices := bits (wsShape b) 3 1 + 1, vregs := bits l 7 0,
    tiles := bits l 15 8, spad := bits l 63 32, stalled := none }

/-- A step handed to the dispatcher of its key's die (R268, R298). -/
def State.postStep (s : State) (stream : Nat) (ctl : StreamCtl) (wk : Nat) (r : StepReq) : State :=
  let die := s.dieOfKey (partOfCtx ctl.ctx) r.key
  let q := s.stepRequest ctl wk r
  let d := s.dieAt die
  let s := s.setDie die { d with reqs := d.reqs ++ [q] }
  let s := s.setHead stream r.key [{ r with sent := true, win := wk }]
  { s with nextAge := s.nextAge + 1 }

/-- A window as it is born (R272, R277): its identifier from the partition's counter, its carry zero. -/
def newWindow (ctl : StreamCtl) (stream : Nat) (r : StepReq) (winid time : Nat) : Window :=
  { ctx := ctl.ctx, stream, key := r.key, winid := word winid, start := r.start, last := r.start, expiry := 0, state := 0,
    count := 0, panes := 0, carry := List.replicate 16 0, paneWin := r.pane,
    firing := (look ctl.keys r.key.toNat).any (fun k => k.firing), tier := 0, lastCommit := time,
    phase := .opening, replays := min r.replays 255, thread := none, partner := none, closeReq := false, lastTs := 0,
    core := none, poison := [], reserved := [] }

/-- The step a key can be given now: its first one, resolved, not yet delivered, nor held back (R379, R397, R412). -/
def State.stepReady (s : State) (stream : Nat) (key : Word) : Option StepReq :=
  match (s.resolved stream key).headStep stream key with
  | some r => if r.raw || r.sent || !s.streamRuns stream then none else some r
  | none => none

/-- A step whose window no longer stands: its record counts as committed for it (R274), and the last expiry of a count
key takes the key's entry with it (R280). -/
def State.skipStep (s : State) (stream : Nat) (r : StepReq) : State :=
  let s := s.setHead stream r.key []
  let s := if r.reason = .record then s.commitFor stream r.record.pos else s
  if r.reason = .expire then s.dropKey stream r.key else s

/-- A step of the reasons given delivered to its window, in the phase it takes. A key with no step to deliver drops those
that reach no window. -/
def deliver (s : State) (stream : Nat) (key : Word) (reasons : List Reason) (phase : WinPhase) : Out :=
  match s.stepReady stream key with
  | none => .next (s.resolved stream key)
  | some r =>
    if !reasons.contains r.reason then .next s
    else
      let s := s.resolved stream key
      match look s.streams stream, s.windowOf stream r with
      | some ctl, some (wk, w) =>
        let s := s.promote (.window wk) (partOfCtx w.ctx) w.tier w.key
        let w := { w with tier := 0, phase, replays := min r.replays 255 }
        .next ((s.setWindow wk w).postStep stream ctl wk r)
      | _, _ => .next (s.skipStep stream r)

/-- The event WINDOW_STEP_OPEN (R272, R278): a window of key `word` of stream `obj` is born; a full host table stops the
key. -/
def execWindowStepOpen (s : State) : Out :=
  let stream := s.arg.obj
  let key := s.arg.word
  match s.stepReady stream key with
  | none => .next s
  | some r =>
    if r.reason ≠ .openR then .next s
    else
      let s := s.resolved stream key
      match look s.streams stream with
      | none => .next s
      | some ctl =>
        let part := partOfCtx ctl.ctx
        let die := s.dieOfKey part key
        if s.tierFull part die 2 then
          if ctl.full.any (fun x => x.1 == key) then .next s
          else
            .next ((s.setStream stream { ctl with full := ctl.full ++ [(key, s.time)] }).sendStall 2 ctl.ctx die key ctl.va)
        else
        match s.roomIn part die 2 0 with
        | none => .next s
        | some s =>
          let p := s.partAt part
          let wk := part * 2 ^ 64 + p.winNext
          let s := s.setPart part { p with winNext := p.winNext + 1 }
          let ctl := { ctl with full := ctl.full.filter (fun x => x.1 != key) }
          let s := ((s.setStream stream ctl).setWindow wk (newWindow ctl stream r p.winNext s.time)).yieldWays
          .next (s.postStep stream ctl wk r)

/-- The event WINDOW_STEP_RECORD (R272, R275): key `word` of stream `obj` is resumed with a record or a pane record. -/
def execWindowStepRecord (s : State) : Out := deliver s s.arg.obj s.arg.word [.record, .pane] .step
/-- The event WINDOW_STEP_MERGE (R276). -/
def execWindowStepMerge (s : State) : Out := deliver s s.arg.obj s.arg.word [.merge] .merging
/-- The event WINDOW_STEP_CLOSE (R271). -/
def execWindowStepClose (s : State) : Out := deliver s s.arg.obj s.arg.word [.close] .closing

/-- The event WINDOW_STEP_EXPIRE (R280): with no EXPIRE entry the window is deleted with no step. -/
def execWindowStepExpire (s : State) : Out :=
  let stream := s.arg.obj
  let key := s.arg.word
  match s.stepReady stream key, look s.streams stream with
  | some r, some ctl =>
    if r.reason = .expire ∧ !r.pane ∧ wsEntry ctl.spec .expire false = 0 then
      let s := s.resolved stream key
      match s.windowOf stream r with
      | some (wk, _) =>
        let s := (s.dropWindow wk).setHead stream key []
        .next (s.dropKey stream key)
      | none => .next (s.skipStep stream r)
    else deliver s stream key [.expire] .expiring
  | _, _ => .next (s.resolved stream key)

/-- The event WINDOW_TIME_TRIGGER (R271): the windows of stream `obj` whose trigger holds receive their CLOSE steps. -/
def execWindowTimeTrigger (s : State) : Out :=
  .next (if s.streamRuns s.arg.obj then s.placeCloses s.arg.obj else s)

/-- Whether the wheel's slot for an expiry has come (R280): the first 1 µs boundary at or after it. -/
def slotDue (expiry time : Nat) : Bool := expiry != 0 && decide ((expiry + 999) / 1000 * 1000 ≤ time)

/-- Whether the wheel fires for a window now (R280): parked, with no EXPIRE or CLOSE step placed. -/
def Window.fires (w : Window) (time : Nat) : Bool :=
  w.phase == .parked && !w.firing && !w.closeReq && slotDue w.expiry time

/-- The windows that expire when the wheel fires for one (R280), where they do not expire with their key: the due panes of its
key first. -/
def State.firingSet (s : State) (stream : Nat) (key : Word) (wk : Nat) : List (Nat × Window) :=
  (s.openWindows stream key true).filter (fun p => p.1 == wk || p.2.fires s.time)
    ++ (s.openWindows stream key false).filter (fun w => w.1 == wk)

/-- A step that the wheel sets off (R272, R280): it stands behind the records the Carder has taken and before the others. -/
def State.expireStep (s : State) (ctl : StreamCtl) (key : Word) (wk start : Nat) (pane : Bool) : StepReq :=
  { plainStep key wk start pane .expire s.time (s.trigClock ctl) with record := { StreamRec.none with pos := ctl.taken } }

/-- A count key expires as a whole (R280): one step for all the windows it has when its turn comes. -/
def State.expireKey (s : State) (stream : Nat) (ctl : StreamCtl) (key : Word) : State :=
  let steps := insertRecord { s.expireStep ctl key 0 0 false with raw := true } ctl.steps
  let keys := match look ctl.keys key.toNat with
    | some k => put ctl.keys key.toNat { k with firing := true }
    | none => ctl.keys
  (s.openWindows stream key true ++ s.openWindows stream key false).foldl
    (fun s w => s.setWindow w.1 { w.2 with firing := true }) (s.setStream stream { ctl with steps, keys })

/-- The event WHEEL_FIRE (R280): the wheel fires for window `obj2` of key `word` of stream `obj`; `obj2` 0 names the entry
of a count key that has no window left. -/
def execWheelFire (s : State) : Out :=
  let stream := s.arg.obj
  let key := s.arg.word
  let wk := s.arg.obj2
  match look s.streams stream with
  | none => .next s
  | some ctl =>
    let ent := look ctl.keys key.toNat
    let begun := ent.any (fun k => k.firing)
    if !s.ctxRuns ctl.ctx || begun then .next s
    else if wk = 0 then
      if ent.any (fun k => slotDue k.expiry s.time) && !s.windows.any (fun w => w.2.stream == stream && w.2.key == key) then
        .next (s.expireKey stream ctl key)
      else .next s
    else
      match look s.windows wk with
      | some w =>
        if w.stream == stream && w.key == key && w.fires s.time then
          if wsKind ctl.spec = 0 then .next (s.expireKey stream ctl key)
          else
            let ws := s.firingSet stream key wk
            let steps := ws.foldl (fun l w => insertRecord (s.expireStep ctl key w.1 w.2.start w.2.paneWin) l) ctl.steps
            let s := s.setStream stream { ctl with steps }
            .next (ws.foldl (fun s w => s.setWindow w.1 { w.2 with firing := true }) s)
        else .next s
      | none => .next s

/-- Whether a record's idle time, since its last commit, sends it down a tier (R278). -/
def Partition.idleOver (p : Partition) (tier lastCommit time : Nat) : Bool :=
  (tier == 0 && decide (lastCommit + p.tIdle1 < time)) || (tier == 1 && decide (lastCommit + p.tIdle2 < time))

/-- Whether a parked window is to move down a tier. -/
def State.demoteDue (s : State) (w : Window) : Bool :=
  s.ctxRuns w.ctx && w.phase == .parked && (s.partAt (partOfCtx w.ctx)).idleOver w.tier w.lastCommit s.time

/-- A record of the Hatbox moved down one tier, where there is room (R278). -/
def State.demote (s : State) (h : HatRec) (part : Nat) (key : Word) (tier : Nat) : State :=
  ((s.roomIn part (s.dieOfKey part key) (1 - tier) (tier + 1)).bind (fun s => s.setTier h (tier + 1))).getD s

/-- The event HATBOX_DEMOTE (R278): window `obj`, idle too long for its tier, moves down one; `obj` 0 names the entry of
count key `word` of stream `obj2`. -/
def execHatboxDemote (s : State) : Out :=
  let wk := s.arg.obj
  if wk = 0 then
    let key := s.arg.word
    match look s.streams s.arg.obj2 with
    | some ctl =>
      let part := partOfCtx ctl.ctx
      match look ctl.keys key.toNat with
      | some k =>
        .next (if s.ctxRuns ctl.ctx && (s.partAt part).idleOver k.tier k.lastCommit s.time then
          s.demote (.entry s.arg.obj2 key.toNat) part key k.tier else s)
      | none => .next s
    | none => .next s
  else
    match look s.windows wk with
    | some w => .next (if s.demoteDue w then s.demote (.window wk) (partOfCtx w.ctx) w.key w.tier else s)
    | none => .next s

/-- Whether a held emission of a step waits in a stream's list (R322). -/
def State.emitWaits (s : State) (uid : Nat) : Bool :=
  s.queues.any (fun q => q.2.pushers.any (fun w => match w.op with | .emit u _ _ => u == uid | _ => false))

/-- The first emission of a die that can be pushed: none of its step's earlier ones waits, and its records are
not held back (R379, R397, R412). -/
def State.nextEmit (s : State) (die : Nat) : Option (Nat × Nat × Word × List Byte) :=
  (s.dieAt die).emits.find? (fun e => s.ctxRuns e.2.1 && !s.emitWaits e.1)

/-- The event CARDER_EMIT_PUSH (R322): the Carder of die `obj` pushes a held emission, or waits in the stream's list; a
stream whose SCOPE does not admit it takes none (R208). -/
def execCarderEmitPush (s : State) : Out :=
  let die := s.arg.obj
  match s.nextEmit die with
  | none => .next s
  | some e =>
    let ctx := e.2.1
    let a := e.2.2.1
    let d := s.dieAt die
    let gone := s.setDie die { d with emits := d.emits.erase e }
    match spaceOf a with
    | some (.global va) =>
      match s.globalRef ctx va with
      | some r =>
        if s.queueBusy r true 1 then .next s
        else if (s.queueAt r).isSome && !engineScope (s.qcbBytes r 64) then .next (gone.carderRecord die ctx 0x14 a 0)
        else
          let h := gone.homePush r (.unit die) [e.2.2.2]
          let s := h.s.applyEnds h.ended
          match h.ans with
          | .closed => .next (s.carderRecord die ctx 0x0A a 0)
          | .corrupt m => .next (s.carderRecord die ctx 0x08 a (word m))
          | .unmapped => .next (s.carderRecord die ctx 0x06 a 0)
          | .blocked => .next (s.joinWait r true { who := .carder die, op := .emit e.1 ctx e.2.2.2 })
          | _ => .next s
      | none => .next (gone.carderRecord die ctx 0x06 a 0)
    | _ => .next (gone.carderRecord die ctx 0x05 a 0)

/-- Whether HATBOX_FULL is due again for a key (R418). -/
def State.fullDue (s : State) (ctl : StreamCtl) (key : Word) : Bool :=
  s.ctxRuns ctl.ctx && ctl.full.any (fun x => x.1 == key && decide (x.2 + (s.partAt (partOfCtx ctl.ctx)).tEvict ≤ s.time))

/-- The event HATBOX_FULL_REPEAT (R418): HATBOX_FULL is sent again for key `word` of stream `obj`, which still waits. -/
def execHatboxFullRepeat (s : State) : Out :=
  let stream := s.arg.obj
  let key := s.arg.word
  match look s.streams stream with
  | some ctl =>
    if s.fullDue ctl key then
      let full := ctl.full.map (fun x => if x.1 = key then (x.1, s.time) else x)
      let die := s.dieOfKey (partOfCtx ctl.ctx) key
      .next ((s.setStream stream { ctl with full }).sendStall 2 ctl.ctx die key ctl.va)
    else .next s
  | none => .next s

end Sys2Proof.Machine
end

