-- ==== Sys2Proof/Machine/Barriers.lean ====
section
/-! DEFINITION. Sys2Proof/Machine/Barriers.lean: barrier registers and memory barrier objects at their homes (R317,
R318). -/

namespace Sys2Proof.Machine

/-- A barrier at phase 0 (R341). -/
def Barrier.fresh : Barrier := { phase := 0, count := 0, arrived := 0 }

/-- An arrival at a barrier's home (R318): one that carries a count latches it in a phase that has none; the phase ends
when the arrivals reach the latched count. -/
def Barrier.arrive (b : Barrier) (n : Option (BitVec 16)) : Barrier :=
  let c := if b.count = 0 then n.getD 0 else b.count
  let k := b.arrived + 1
  if c ≠ 0 ∧ c.toNat ≤ k.toNat then { phase := b.phase + 1, count := 0, arrived := 0 }
  else { b with count := c, arrived := k }

/-- A cohort barrier register (R317). -/
def Cohort.barAt (c : Cohort) (k : Nat) : Barrier := (look c.bars k).getD Barrier.fresh

/-- The barrier an object's 16 bytes hold (R317). -/
def barrierOf (b : List Byte) : Barrier :=
  { phase := BitVec.ofNat 16 (leAt b 0 2), count := BitVec.ofNat 16 (leAt b 2 2), arrived := BitVec.ofNat 16 (leAt b 4 2) }

/-- SCOPE of an object (R317). -/
def barrierScope (b : List Byte) : Nat := leAt b 6 1 % 32

/-- The first six bytes of an object that holds a barrier. -/
def Barrier.bytes (b : Barrier) : List Byte :=
  leBytes 2 b.phase.toNat ++ leBytes 2 b.count.toNat ++ leBytes 2 b.arrived.toNat

/-- sext(PHASE − v, 16) ≥ 0 (R315). -/
def phaseReached (phase v : BitVec 16) : Bool := !(phase - v).msb

/-- An arrival at a memory barrier object at its home (R240, R318): the machine and the barrier before it; none where the
object cannot be reached now. -/
def State.arriveMem (s : State) (a : Asker) (ctx va : Nat) (n : Option (BitVec 16)) : Acc (Barrier × State) :=
  match s.homeBytes a ctx va 16 with
  | .ok (bs, s) =>
    let b := barrierOf bs
    match s.writeBytes a ctx va (b.arrive n).bytes with
    | .ok s => .ok (b, s)
    | .fault f => .fault f
    | .wait => .wait
  | .fault f => .fault f
  | .wait => .wait

end Sys2Proof.Machine
end

