-- ==== Sys2Proof/Machine/Transfer.lean ====
section
/-! DEFINITION. Sys2Proof/Machine/Transfer.lean: what a transfer record says (R233-R239): its fields and their checks, the
moves each kind makes, the extents it reads and writes, and where those lie. -/

namespace Sys2Proof.Machine

/-- NEXT of a record (R233). -/
def crNext (b : List Byte) : Nat := leAt b 0 8
/-- CTRL (R234). -/
def crCtrl (b : List Byte) : Nat := leAt b 8 4
/-- LEN. -/
def crLen (b : List Byte) : Nat := leAt b 12 4
/-- SRC. -/
def crSrc (b : List Byte) : Word := wordAt b 0x10
/-- DST. -/
def crDst (b : List Byte) : Word := wordAt b 0x18
/-- TARGET. -/
def crTarget (b : List Byte) : Word := wordAt b 0x20
/-- EXT. -/
def crExt (b : List Byte) : Nat := leAt b 0x28 8
/-- FIXLIST. -/
def crFixlist (b : List Byte) : Nat := leAt b 0x38 8
/-- OWN. -/
def crOwn (b : List Byte) : Bool := (crCtrl b).testBit 31
/-- ACTION. -/
def crAction (b : List Byte) : Nat := bits (crCtrl b) 27 24
/-- DIMS. -/
def crDims (b : List Byte) : Nat := bits (crCtrl b) 23 20
/-- KIND: 0 linear, 1 tensor, 2 gather, 3 sparse-expand, 4 sparse-pack, 5 im2col, 6 fill, 7 remote. -/
def crKind (b : List Byte) : Nat := bits (crCtrl b) 19 16

/-- EXTENT[d] of an extension (R236). -/
def exExtent (x : List Byte) (d : Nat) : Nat := leAt x (4 * d) 4
/-- SSTRIDE[d]. -/
def exSstride (x : List Byte) (d : Nat) : Int := (wordAt x (0x28 + 8 * d)).toInt
/-- DSTRIDE[d]. -/
def exDstride (x : List Byte) (d : Nat) : Int := (wordAt x (0x70 + 8 * d)).toInt
/-- AUX. -/
def exAux (x : List Byte) : Nat := leAt x 0xB8 8

/-- A SRC or DST word (R235); none where it is malformed. -/
def cAddr (w : Word) (dst : Bool) : Option CAddr :=
  match bits w.toNat 63 62 with
  | 0 => if bits w.toNat 61 57 = 0 then some (.global (bits w.toNat 56 0)) else none
  | 1 => if bits w.toNat 61 32 = 0 then some (.scratch (bits w.toNat 31 0)) else none
  | 2 => if dst ∧ bits w.toNat 61 36 = 0 then some (.operand (bits w.toNat 35 32) (bits w.toNat 31 0)) else none
  | _ => none

/-- A place moved by an offset. -/
def CAddr.plus (a : CAddr) (o : Int) : CAddr :=
  match a with
  | .global x => .global (x + o)
  | .scratch x => .scratch (x + o)
  | .operand r x => .operand r (x + o)

/-- The offsets (s(i), t(i)) of the iterations of a record's dimensions, dimension 0 fastest (R237). -/
def iterOffsets : List (Nat × Int × Int) → List (Int × Int)
  | [] => [(0, 0)]
  | (e, ss, ds) :: t =>
    (iterOffsets t).flatMap (fun o => (upFrom 0 e).map (fun i => (o.1 + (i : Int) * ss, o.2 + (i : Int) * ds)))

/-- The dimensions of an extension. -/
def exDims (x : List Byte) (dims : Nat) : List (Nat × Int × Int) :=
  (upFrom 0 dims).map (fun d => (exExtent x d, exSstride x d, exDstride x d))

/-- The iteration indices of im2col with their destination offsets, kx fastest. -/
def im2colIter (x : List Byte) : List (Nat × Nat × Nat × Nat × Int) :=
  (upFrom 0 (exExtent x 3)).flatMap (fun oy => (upFrom 0 (exExtent x 2)).flatMap (fun ox =>
    (upFrom 0 (exExtent x 1)).flatMap (fun ky => (upFrom 0 (exExtent x 0)).map (fun kx =>
      (kx, ky, ox, oy, (kx : Int) * exDstride x 0 + (ky : Int) * exDstride x 1 + (ox : Int) * exDstride x 2
        + (oy : Int) * exDstride x 3)))))

/-- The moves of an im2col record (R239). -/
def im2colMoves (src dst : CAddr) (len : Nat) (x : List Byte) : List CMove :=
  let aux := exAux x
  let pl : Int := bits aux 63 56
  let sy := bits aux 55 52
  let sx := bits aux 51 48
  let lo := (BitVec.ofNat 16 (bits aux 47 32)).toInt
  let hi := (BitVec.ofNat 16 (bits aux 31 16)).toInt
  let w := bits aux 15 0
  (im2colIter x).map (fun i =>
    let r : Int := i.2.2.2.1 * sy + i.2.1
    let c : Int := (i.2.2.1 * sx + i.1 : Nat) - pl
    let dest := dst.plus i.2.2.2.2
    if lo ≤ r ∧ r < hi ∧ 0 ≤ c ∧ c < w then
      { src := .row (src.plus (r * exSstride x 0)) (exSstride x 0) w (c.toNat * len), dst := dest, n := len }
    else { src := .bytes (List.replicate len (0, false)), dst := dest, n := len })

/-- The dimensions a kind takes (R237). -/
def dimsOk (kind dims : Nat) : Bool :=
  match kind with
  | 1 => decide (1 ≤ dims) && decide (dims ≤ 9)
  | 2 => dims == 1
  | 5 => dims == 4
  | 6 => decide (dims ≤ 9)
  | _ => dims == 0

/-- Whether a kind needs an extension (R236). -/
def needsExt (b : List Byte) : Bool :=
  decide (0 < crDims b) || crKind b == 2 || crKind b == 4 || crKind b == 5 || crKind b == 6

/-- Bytes of an element of a sparse type (R170): none for a type it does not allow. -/
def sparseSize (ty : Nat) : Option Nat :=
  if ty = 0 ∨ ty = 8 then some 4 else if ty = 1 ∨ ty = 9 ∨ ty = 10 then some 2 else none

/-- The field checks of R238 on a record's own 64 bytes. -/
def recordOk (b : List Byte) : Bool :=
  let c := crCtrl b
  let k := crKind b
  let act := crAction b
  let tgt := (crTarget b).toNat
  c % 2 ^ 16 == 0 && !c.testBit 28 && decide (k ≤ 7) && decide (act ≤ 4) && dimsOk k (crDims b)
    && decide (crLen b ≠ 0) && decide (crNext b % 64 = 0) && decide (crExt b % 64 = 0) && (!needsExt b || crExt b != 0)
    && (if k = 6 then crSrc b == 0 else (cAddr (crSrc b) false).isSome)
    && (if act = 4 then crDst b == 0 && k == 0 else (cAddr (crDst b) true).isSome)
    && (act != 0 || tgt == 0)
    && (act != 1 || (bits tgt 15 4 == 0 && bits tgt 63 32 == 0))
    && (act != 2 || (tgt % 16 == 0 && bits tgt 63 57 == 0))
    && (act != 3 || decide (tgt < 2 ^ 38))
    && (k != 7 || (match cAddr (crSrc b) false, cAddr (crDst b) true with
          | some (.global _), some (.global _) => true
          | _, _ => false))

/-- The field checks of R238 on a record's extension. -/
def extensionOk (b x : List Byte) : Bool :=
  let k := crKind b
  (!needsExt b || (leAt x 0x24 4 == 0 && (upFrom 0 (crDims b)).all (fun d => decide (1 ≤ exExtent x d))))
    && (k != 4 || ((sparseSize (bits (exAux x) 7 0)).elim false (fun es => crLen b % es == 0)
          && decide (bits (exAux x) 9 8 ≤ 2) && bits (exAux x) 31 10 == 0))
    && (k != 5 || (bits (exAux x) 55 52 != 0 && bits (exAux x) 51 48 != 0 && bits (exAux x) 15 0 != 0))

/-- The cohort with a uid, wherever it stands (R405). -/
def State.cohortBy (s : State) (uid : Nat) : Option (Nat × Cohort) := s.cohorts.find? (fun c => c.2.uid == uid)

/-- A cohort by its uid where it stands: on its core, or saved (R403). -/
def State.cohortImage (s : State) (uid : Nat) : Option Cohort :=
  match s.cohortBy uid with
  | some x => some x.2
  | none => (s.saved.find? (fun x => x.2.cohort.uid == uid)).map (fun x => x.2.cohort)

/-- A cohort changed where it stands. -/
def State.onCohort (s : State) (uid : Nat) (f : Cohort → Cohort) : State :=
  match s.cohortBy uid with
  | some (k, c) => s.setCohort k (f c)
  | none => { s with saved := s.saved.map (fun x =>
      if x.2.cohort.uid = uid then (x.1, { x.2 with cohort := f x.2.cohort }) else x) }

/-- Whether a cohort is saved. -/
def State.isSaved (s : State) (uid : Nat) : Bool := s.saved.any (fun x => x.2.cohort.uid == uid)

/-- The party a record moves bytes for: the context, the starting cohort's uid, the captured ranges. -/
structure CFor where
  ctx    : Nat
  cuid   : Nat
  ranges : List Range
  deriving DecidableEq, Repr

/-- The party of a chain. -/
def Chain.party (h : Chain) : CFor := { ctx := h.ctx, cuid := h.cohort, ranges := h.ranges }

/-- Whether a live reservation record of a cohort is in operand space, with its first word. -/
def Cohort.recWord (c : Cohort) (r : Nat) : Option Word :=
  match look c.recs r with
  | some v => if v.live then some v.w0 else none
  | none => none

/-- Whether n bytes at a place lie where the record may reach (R238, R243). -/
def State.cInRange (s : State) (f : CFor) (a : CAddr) (n : Nat) (k : Kind) : Bool :=
  match a with
  | .global x => decide (0 ≤ x) && inRanges f.ranges x.toNat n k
  | .scratch x =>
    match s.cohortImage f.cuid with
    | some c => decide (0 ≤ x) && decide (x.toNat + n ≤ c.spsize)
    | none => true
  | .operand r x =>
    match s.cohortImage f.cuid with
    | some c =>
      match c.recWord r with
      | some w => !w.getLsbD 42 && decide (0 ≤ x) && decide (x.toNat + n ≤ 128 * bits w.toNat 27 14)
      | none => false
    | none => true

/-- Bytes as they stand with their poison: of memory, of a cohort's scratchpad, or of operand space. -/
def State.cPeek (s : State) (f : CFor) (a : CAddr) (n : Nat) : List (Byte × Bool) :=
  match a with
  | .global x =>
    (chunks x.toNat n).flatMap (fun c =>
      match s.place f.ctx c.va with
      | .byte pa =>
        let gone := s.keyGone pa
        (Mem.readBytes s.mem pa c.n).zipIdx.map (fun b => (b.1, gone || s.poison.contains ((pa + b.2) / 32)))
      | _ => List.replicate c.n (0, false))
  | .scratch x =>
    match s.cohortImage f.cuid with
    | some c => (c.scratch.readBytes x.toNat n).zipIdx.map (fun b => (b.1, c.spoison.contains ((x.toNat + b.2) / 32)))
    | none => (upFrom x.toNat n).map (fun o => (Config.freeByte s.freeCount o, false))
  | .operand r x =>
    match s.cohortImage f.cuid with
    | some c =>
      let o := 128 * bits ((c.recWord r).getD 0).toNat 13 0 + x.toNat
      (c.operand.readBytes o n).zipIdx.map (fun b => (b.1, c.opoison.contains ((o + b.2) / 32)))
    | none => List.replicate n (0, false)

/-- A number in bytes read so. -/
def peekNat (bs : List (Byte × Bool)) : Nat := leNat (bs.map Prod.fst)

/-- The encoding of a background code in a sparse type (R170). -/
def backgroundOf (ty bg : Nat) : Nat :=
  match bg with
  | 0 => 0
  | 1 => if isIntTy ty then 2 ^ (widthOf ty - 1) - 1 else (Fmt.ofTy ty).infCode false
  | _ => if isIntTy ty then 2 ^ (widthOf ty - 1) else (Fmt.ofTy ty).infCode true

/-- The header of a sparse-packed region (R170), and whether it was poisoned. -/
structure Sparse where
  elems : Nat
  size  : Nat
  back  : List (Byte × Bool)
  table : Nat
  data  : Nat
  bad   : Bool

/-- Whether a region's page has the background a header gives as its attribute (R170, R348); scratchpad has no pages. -/
def State.spkIs (s : State) (f : CFor) (a : CAddr) (bg : Nat) : Bool :=
  match a with
  | .global v => match s.leafAt f.ctx v.toNat with | some (e, _) => leafSpk e == bg + 1 | none => true
  | _ => true

/-- A region's header (R170): none where it breaks R170. -/
def State.sparseHeader (s : State) (f : CFor) (a : CAddr) : Option Sparse :=
  let h := s.cPeek f a 32
  let field (o n : Nat) : Nat := peekNat ((h.drop o).take n)
  let n := field 0 8
  let ty := field 8 1
  let bg := field 9 1
  if h.any Prod.snd then some { elems := 0, size := 0, back := [], table := 0, data := 0, bad := true }
  else
    match sparseSize ty with
    | none => none
    | some es =>
      if n = 0 ∨ 2 < bg ∨ field 10 6 ≠ 0 ∨ 2 ^ 32 ≤ n * es ∨ s.spkIs f a bg = false then none
      else some { elems := n, size := es, back := (leBytes es (backgroundOf ty bg)).map (fun b => (b, false)),
                  table := field 0x10 8, data := field 0x18 8, bad := false }

/-- The 64-element blocks of a region. -/
def Sparse.blocks (h : Sparse) : Nat := (h.elems + 63) / 64

/-- A block's entry of the index table, and its bitmap: each none where it was poisoned. -/
def State.sparseBlock (s : State) (f : CFor) (a : CAddr) (h : Sparse) (i : Nat) : Option Nat × Option Nat :=
  let known (bs : List (Byte × Bool)) : Option Nat := if bs.any Prod.snd then none else some (peekNat bs)
  match known (s.cPeek f (a.plus (h.table + 8 * i : Nat)) 8) with
  | none => (none, none)
  | some off => (some off, known (s.cPeek f (a.plus (h.data + off : Nat)) 8))

/-- Elements of a block: 64, but in the last block of a region. -/
def Sparse.inBlock (h : Sparse) (i : Nat) : Nat := min 64 (h.elems - 64 * i)

/-- Whether a block obeys R170: an 8-aligned offset, and no mark beyond the elements. -/
def State.blockOk (s : State) (f : CFor) (a : CAddr) (h : Sparse) (i : Nat) : Bool :=
  match s.sparseBlock f a h i with
  | (some off, some bm) => off % 8 == 0 && decide (bm < 2 ^ h.inBlock i)
  | (some off, none) => off % 8 == 0
  | (none, _) => true

/-- The dense elements of a block (R170, R237); poisoned whole where its entry or its bitmap was (R242). -/
def State.denseBlock (s : State) (f : CFor) (a : CAddr) (h : Sparse) (i : Nat) : List (Byte × Bool) :=
  match s.sparseBlock f a h i with
  | (some off, some bm) =>
    (upFrom 0 (h.inBlock i)).flatMap (fun j =>
      if bm.testBit j then s.cPeek f (a.plus (h.data + off + 8 + h.size * popc 64 (bm % 2 ^ j) : Nat)) h.size else h.back)
  | _ => List.replicate (h.inBlock i * h.size) (0, true)

/-- The dense elements of a sparse-packed region (R170, R237): none where it breaks R170. A poisoned header feeds the `len`
bytes the record may write (R242). -/
def State.expandRegion (s : State) (f : CFor) (a : CAddr) (len : Nat) : Option (List (Byte × Bool)) :=
  match s.sparseHeader f a with
  | none => none
  | some h =>
    if h.bad then some (List.replicate len (0, true))
    else if (upFrom 0 h.blocks).all (s.blockOk f a h) then some ((upFrom 0 h.blocks).flatMap (s.denseBlock f a h))
    else none

/-- Elements of a byte list. -/
def elementsOf (es : Nat) : Nat → List (Byte × Bool) → List (List (Byte × Bool))
  | 0, _ => []
  | n + 1, l => l.take es :: elementsOf es n (l.drop es)

/-- A 64-element block of a packed region (R170): bitmap, stored elements, padding to 8 bytes; poisoned whole where an
element is. -/
def packBlock (back : Nat) (els : List (List (Byte × Bool))) : List (Byte × Bool) :=
  let bad := els.any (fun e => e.any Prod.snd)
  let kept := els.zipIdx.filter (fun e => peekNat e.1 ≠ back)
  let bm := kept.foldl (fun m e => m + 2 ^ e.2) 0
  let body := kept.flatMap Prod.fst
  let body := body ++ List.replicate ((8 - body.length % 8) % 8) (0, false)
  ((leBytes 8 bm).map (fun b => (b, false)) ++ body).map (fun b => (b.1, b.2 || bad))

/-- Blocks of a list of elements. -/
def packBlocks (back : Nat) : Nat → List (List (Byte × Bool)) → List (List (Byte × Bool))
  | 0, _ => []
  | n + 1, els => packBlock back (els.take 64) :: packBlocks back n (els.drop 64)

/-- The region of a sparse-pack record (R170, R237). -/
def packRegion (ty bg : Nat) (es : Nat) (dense : List (Byte × Bool)) : List (Byte × Bool) :=
  let n := dense.length / es
  let nb := (n + 63) / 64
  let blocks := packBlocks (backgroundOf ty bg) nb (elementsOf es n dense)
  let offs := (blocks.foldl (fun x b => (x.1 ++ [x.2], x.2 + b.length)) (([] : List Nat), 0)).1
  let clean (l : List Byte) : List (Byte × Bool) := l.map (fun b => (b, false))
  clean (leBytes 8 n ++ leBytes 1 ty ++ leBytes 1 bg ++ leBytes 6 0 ++ leBytes 8 0x20 ++ leBytes 8 (0x20 + 8 * nb))
    ++ clean (offs.flatMap (fun o => leBytes 8 o)) ++ blocks.flatten

/-- The moves of a record whose fields are good (R237), as its tables stand; none where a sparse region is malformed. A
poisoned index feeds the bytes its iteration writes (R242). -/
def State.copyMoves (s : State) (f : CFor) (b x : List Byte) (dst : CAddr) : Option (List CMove) :=
  let len := crLen b
  let src := (cAddr (crSrc b) false).getD (.global 0)
  match crKind b with
  | 1 => some ((iterOffsets (exDims x (crDims b))).map (fun o => { src := .mem (src.plus o.1), dst := dst.plus o.2, n := len }))
  | 2 =>
    let idx := s.cPeek f (.global (exAux x)) (4 * exExtent x 0)
    some ((upFrom 0 (exExtent x 0)).filterMap (fun i =>
      let e := (idx.drop (4 * i)).take 4
      let k := peekNat e
      let out := dst.plus ((i : Int) * exDstride x 0)
      if e.any Prod.snd then some { src := .bytes (List.replicate len (0, true)), dst := out, n := len }
      else if k = 0xFFFFFFFF then none
      else some { src := .mem (src.plus ((k : Int) * exSstride x 0)), dst := out, n := len }))
  | 3 =>
    match s.expandRegion f src len with
    | some d => if len < d.length then none else some [{ src := .bytes d, dst, n := d.length }]
    | none => none
  | 4 =>
    let ty := bits (exAux x) 7 0
    let r := packRegion ty (bits (exAux x) 9 8) ((sparseSize ty).getD 4) (s.cPeek f src len)
    some [{ src := .bytes r, dst, n := r.length }]
  | 5 => some (im2colMoves src dst len x)
  | 6 =>
    let word := leBytes 8 (exAux x)
    let run : List (Byte × Bool) := (upFrom 0 len).map (fun i => (nth word (i % 8) 0, false))
    some ((iterOffsets (exDims x (crDims b))).map (fun o => { src := .bytes run, dst := dst.plus o.2, n := len }))
  | _ => some [{ src := .mem src, dst, n := len }]

/-- The extents a record reads to know its moves, those that name others first (R237): an index table; a region's header
and its table, its bitmaps, its blocks; the dense bytes to be packed. -/
def State.tableExtents (s : State) (f : CFor) (b x : List Byte) : List (List (CAddr × Nat)) :=
  let src := (cAddr (crSrc b) false).getD (.global 0)
  match crKind b with
  | 2 => [[(.global (exAux x), 4 * exExtent x 0)]]
  | 3 =>
    match s.sparseHeader f src with
    | none => [[(src, 32)]]
    | some h =>
      let blocks := (upFrom 0 h.blocks).map (s.sparseBlock f src h)
      let place (o : Nat) : CAddr := src.plus (h.data + o : Nat)
      [[(src, 32)], [(src.plus h.table, 8 * h.blocks)],
        blocks.filterMap (fun e => e.1.map (fun o => (place o, 8))),
        blocks.filterMap (fun e => match e with
          | (some o, some bm) => some (place o, 8 + (h.size * popc 64 bm + 7) / 8 * 8)
          | _ => none)]
  | 4 => [[(src, crLen b)]]
  | _ => []

/-- The extents that moves read (R238). -/
def moveReads (ms : List CMove) : List (CAddr × Nat) :=
  ms.filterMap (fun m => match m.src with
    | .mem a => some (a, m.n)
    | .row a _ _ off => some (a.plus off, m.n)
    | .bytes _ => none)

/-- Every extent a record writes (R238): a sparse-pack record may fill its capacity. -/
def writeExtents (b x : List Byte) (dst : CAddr) (ms : List CMove) : List (CAddr × Nat) :=
  if crKind b = 4 then [(dst, bits (exAux x) 63 32)] else ms.map (fun m => (m.dst, m.n))

/-- The pages of the context that an extent touches. -/
def extentPages (e : CAddr × Nat) : List Nat :=
  match e.1 with
  | .global v => chunksOf64K v.toNat e.2
  | _ => []

/-- Whether a page lies on another package (R369). -/
def State.isRemote (s : State) (ctx va : Nat) : Bool := match s.place ctx va with | .remote _ => true | _ => false

/-- Whether a page's translation is missing (R241). -/
def State.isMissing (s : State) (ctx va : Nat) : Bool :=
  match s.place ctx va with
  | .byte _ => false
  | .remote _ => false
  | _ => true

/-- The first byte of an extent, for a fault record. -/
def extentAt (e : CAddr × Nat) : Nat := match e.1 with | .global v => v.toNat | .scratch v => v.toNat | .operand _ v => v.toNat

/-- Whether an extent covers a bound control block (R213). -/
def State.extentQcb (s : State) (f : CFor) (e : CAddr × Nat) : Bool :=
  match e.1 with
  | .global v => s.overlapsQcb f.ctx v.toNat e.2
  | .scratch v => (s.cohortImage f.cuid).elim false (fun c => c.hitsQcb v.toNat e.2)
  | .operand _ _ => false

/-- The fix-up list of a record as an extent (R241): none where the record has none. -/
def State.fixlistExtent (s : State) (f : CFor) (b : List Byte) : List (CAddr × Nat) :=
  if crFixlist b = 0 then [] else [(.global (crFixlist b), 8 + 16 * leNat (s.peekBytes f.ctx (crFixlist b) 4))]

/-- The memory barrier object a record arrives on (R240), which is in its ranges like what it moves (R349, log 13). -/
def targetExtent (b : List Byte) : List (CAddr × Nat) := if crAction b = 2 then [(.global (crTarget b).toNat, 16)] else []

/-- What is wrong with a record whose fields are good (R238), and where: RANGE, then QCB; 0x04 for a malformed region. -/
def State.extentFault (s : State) (f : CFor) (b x : List Byte) : Option (Nat × Nat) :=
  let out (k : Kind) (e : CAddr × Nat) : Bool := !s.cInRange f e.1 e.2 k
  let tables := s.tableExtents f b x
  let dst := (cAddr (crDst b) true).getD (.global 0)
  match ((tables.take 2).flatten ++ s.fixlistExtent f b).find? (out .read) with
  | some e => some (0x03, extentAt e)
  | none =>
    match s.copyMoves f b x dst with
    | none => some (0x04, 0)
    | some ms =>
      let rs := (tables.drop 2).flatten ++ moveReads ms
      let ws := if crAction b = 4 then [] else writeExtents b x dst ms
      let fix := s.fixlistExtent f b
      match ((rs.find? (out .read)).or ((ws ++ fix).find? (out .write))).or ((targetExtent b).find? (out .atomic)) with
      | some e => some (0x03, extentAt e)
      | none =>
        match (rs.find? (fun e => (extentPages e).any (s.isRemote f.ctx))).or
            (ws.find? (fun e => (extentPages e).any (fun a => s.isRemote f.ctx a != (crKind b == 7)))) with
        | some e => some (0x03, extentAt e)
        | none => ((ws ++ fix).find? (s.extentQcb f)).map (fun e => (0x05, extentAt e))

/-- The lines an extent lies in (R183, R243): memory lines by physical number, scratchpad lines of the cohort. -/
def State.extentLines (s : State) (f : CFor) (e : CAddr × Nat) : List Nat :=
  match e.1 with
  | .global v => (chunks v.toNat e.2).filterMap (fun c =>
      match s.place f.ctx c.va with | .byte pa => some (pa / 128) | _ => none)
  | .scratch v => (upFrom (v.toNat / 128) ((v.toNat + e.2 + 127) / 128 - v.toNat / 128)).map (fun l => scratchLine f.cuid (l * 128))
  | .operand _ _ => []

/-- The extents a record writes on this package, as its tables stand. -/
def State.destExtents (s : State) (f : CFor) (b x : List Byte) : List (CAddr × Nat) :=
  match cAddr (crDst b) true with
  | none => []
  | some dst => if crAction b = 4 ∨ crKind b = 7 then [] else writeExtents b x dst ((s.copyMoves f b x dst).getD [])

/-- The destination lines of a record (R243). -/
def State.destLines (s : State) (f : CFor) (b x : List Byte) : List Nat :=
  ((s.destExtents f b x).flatMap (s.extentLines f)).eraseDups

/-- Whether an engine that asked earlier owns a line (R183, R243): homes give a line to those that ask in their order. -/
def State.claimedBefore (s : State) (claim id : Nat) : Bool :=
  s.cores.any (fun c => c.2.mx.any (fun o => decide (o.age < claim) && o.owned.contains id))
  || s.chans.any (fun c => c.2.chains.any (fun h => decide (h.claim < claim) && s.chainOwns h id))

/-- Whether a line stands in the way of a chain's access: an engine that asked before it owns the line, or one that the
chain itself does not own is another's (R183). -/
def State.lineBlocks (s : State) (h : Chain) (id : Nat) : Bool :=
  if s.chainOwns h id then s.claimedBefore h.claim id else s.ownsLine id

/-- The lines of memory an extent touches on this package: the physical line, the address and the byte it leads to. -/
def State.extentVas (s : State) (ctx : Nat) (e : CAddr × Nat) : List (Nat × Nat × Nat) :=
  match e.1 with
  | .global v => (chunks v.toNat e.2).filterMap (fun c =>
      match s.place ctx c.va with
      | .byte pa => some (pa / 128, c.va, pa)
      | _ => none)
  | _ => []

/-- Whether an access of a chain to an extent must wait: another engine owns a line of it (R183), or its turn at a home has not
come (R161, R178, R251). -/
def State.extentWaits (s : State) (h : Chain) (e : CAddr × Nat) : Bool :=
  (s.extentLines h.party e).any (s.lineBlocks h) || (s.extentVas h.ctx e).any (fun x => s.homeWaits h.ctx x.2.1 x.2.2)

/-- Ownership of some lines taken, each as a write at its home (R183): the issuing core's PTS rises with it. -/
def State.takeLines (s : State) (core ctx : Nat) (ids : List Nat) (es : List (CAddr × Nat)) : State :=
  let ps := es.flatMap (s.extentVas ctx)
  ids.foldl (fun s id =>
    match ps.find? (fun p => p.1 == id) with
    | some p => s.writeTouch (.core core) ctx p.2.1 p.2.2 none
    | none => s) s

/-- The 192 bytes of a record's extension, as they stand. -/
def State.extBytes (s : State) (ctx : Nat) (b : List Byte) : List Byte :=
  if needsExt b then s.peekBytes ctx (crExt b) 192 else []

/-- Where an operation is performed, as scopes cover it (R180). -/
inductive HomeAt where
  | pad (core : Nat)
  | slice (ch : Nat)
  | host
  | remote
  deriving DecidableEq, Repr

/-- Where an owned line stands: a scratchpad line of a core, a slice, or the host for a line of the host tier (DEDUCED, log 12).
-/
def lineHome (core id : Nat) : HomeAt :=
  if 2 ^ 80 ≤ id then .pad core else if 2 ^ 57 ≤ id then .host else .slice (id / 2 ^ 41)

/-- Where the writes of a chain's record are performed (R180, R194): a peer's home for a remote record, the queue's for a
QPUT; the pad of the core the starting cohort stands on. -/
def State.recordHomes (s : State) (h : Chain) (raw : List Byte) : List HomeAt :=
  let core := (s.cohortBy h.cohort).elim h.core (fun c => c.1 / 32)
  let line (va : Nat) : List HomeAt := match s.place h.ctx va with | .byte pa => [lineHome core (pa / 128)] | _ => []
  if crAction raw = 4 then line (crTarget raw).toNat
  else if crKind raw = 7 then [.remote]
  else (s.destExtents h.party raw (s.extBytes h.ctx raw)).flatMap (fun e =>
    match e.1 with
    | .operand _ _ => [.pad core]
    | _ => (s.extentLines h.party e).map (lineHome core))

end Sys2Proof.Machine
end

