-- ==== Sys2Proof/Machine/Copy.lean ====
section
/-! DEFINITION. Sys2Proof/Machine/Copy.lean: the copy engine (R231-R249): taking a record, moving its bytes, completing
it, and the COPY instructions and events. -/

namespace Sys2Proof.Machine

/-- A channel's engine as it asks at homes: a unit of its quad's die. -/
def copyUnit (ck : Nat) : Asker := .unit (ck / 16 / 24)

/-- The engine's fault record of a copy record (R238). -/
def State.copyRecord (s : State) (ck ctx code : Nat) (rec addr info : Word) (ends : Nat) (task : Word) : State :=
  s.raise ctx (copyUnit ck) 0 { engineRec code 4 (ck % 16) rec addr info with ends, task }

/-- The first chain of a channel changed. -/
def State.setChain (s : State) (ck : Nat) (h : Chain) : State :=
  match (s.chanAt ck).chains with
  | _ :: t => s.setChan ck { s.chanAt ck with chains := h :: t }
  | [] => s

/-- The head chain of a channel. -/
def State.headChain (s : State) (ck : Nat) : Option Chain := (s.chanAt ck).chains.head?

/-- The first chain of a channel ends (R239, R243): the next head may run, and the line buffer is cleared. -/
def State.endChain (s : State) (ck : Nat) : State :=
  match (s.chanAt ck).chains with
  | _ :: t => s.setChan ck { s.chanAt ck with chains := t, linebuf := [] }
  | [] => s

/-- Codes after which the chain stops (R238, R241). -/
def stopsChain (code : Nat) : Bool := [0x03, 0x04, 0x05, 0x08, 0x0A].contains code

/-- The fault code of a STATUS code (R238, R241, R242). -/
def statusFault (code : Nat) : Option Nat :=
  match code with
  | 0x03 => some 0x05
  | 0x04 => some 0x0D
  | 0x05 => some 0x09
  | 0x06 => some 0x07
  | 0x08 => some 0x0D
  | 0x0A => some 0x13
  | _ => none

/-- An arrival sent to a peer's barrier object (R369): carried over the flow, with no party that waits. -/
def State.sendArrival (s : State) (die ctx hd : Nat) (tgt : Word) : State :=
  let k := handleFlow die hd
  let fl := s.flowAt k
  if fl.down then s
  else { s with flows := put s.flows k { fl with sent := fl.sent ++ [[word hd, tgt, word ctx]] } }

/-- The completion action of a record (R240): none while its target cannot be accessed. -/
def State.copyAction (s : State) (ck : Nat) (h : Chain) (r : CopyRec) (code : Nat) : Option State :=
  let tgt := crTarget r.raw
  match crAction r.raw with
  | 1 =>
    let k := bits tgt.toNat 3 0
    let n := BitVec.ofNat 16 (bits tgt.toNat 31 16)
    some (s.onCohort h.cohort (fun c => { c with bars := put c.bars k ((c.barAt k).arrive (some n)) }))
  | 2 =>
    if s.overlapsQcb h.ctx tgt.toNat 16 then some s
    else
      match s.place h.ctx tgt.toNat with
      | .remote hd => some (s.sendArrival (ck / 16 / 24) h.ctx hd tgt)
      | _ =>
        match s.arriveMem (copyUnit ck) h.ctx tgt.toNat none with
        | .ok x => some x.2
        | .wait => none
        | .fault _ => some s
  | 3 => some (if hPart tgt = partOfCtx h.ctx then s.sendDecrement tgt (decide (3 ≤ code)) else s)
  | 4 =>
    match r.qpos, s.globalRef h.ctx tgt.toNat with
    | some p, some q =>
      if (s.queueAt q).all (fun x => x.bind != r.qbind) then some s
      else if s.queueBusy q true 0 then none
      else
        let o := s.homeCommit q (copyUnit ck) (word p)
        some (o.s.applyEnds o.ended)
    | _, _ => some s
  | _ => some s

/-- STATUS written and OWN cleared (R238, R240): none while the record's line cannot be accessed. A control block that has been
bound over the record since it was taken is guarded from both (R213). -/
def State.tellStatus (s : State) (ck ctx : Nat) (r : CopyRec) (code : Nat) : Option State :=
  if s.overlapsQcb ctx r.addr.toNat 64 then some s
  else
    match s.writeBytes (copyUnit ck) ctx (r.addr.toNat + 0x30) (leBytes 8 (r.fixed * 2 ^ 32 + code)) with
    | .ok s =>
      match s.writeBytes (copyUnit ck) ctx (r.addr.toNat + 8) (leBytes 4 (crCtrl r.raw % 2 ^ 31)) with
      | .ok s => some s
      | _ => none
    | _ => none

/-- The page a record that is ending waits at (R240, R241): its own until it is told, then that of its barrier object. -/
def State.endingGap (s : State) (h : Chain) (r : CopyRec) (e : CopyEnd) : Option Nat :=
  let es : List (CAddr × Nat) := if e.told then targetExtent r.raw else [(.global r.addr.toNat, 64)]
  (es.flatMap extentPages).find? (s.isMissing h.ctx)

/-- The fault record of a record that ends in an error (R238, R241, R242). -/
def State.tellFault (s : State) (ck : Nat) (h : Chain) (r : CopyRec) (e : CopyEnd) : State :=
  let fails := crAction r.raw == 3 && decide (3 ≤ e.code) && e.code != 0x04 && e.code != 0x07
  match (if e.code = 0x03 ∧ e.info ≠ 0 then some 0x08 else statusFault e.code) with
  | some fc => s.copyRecord ck h.ctx fc r.addr e.addr e.info (if fails then 4 else 0) (if fails then crTarget r.raw else 0)
  | none => s

/-- A record whose action is done: the chain goes on, or stops (R238, R240, R247). -/
def State.leaveRecord (s : State) (ck : Nat) (h : Chain) (r : CopyRec) (e : CopyEnd) : State :=
  if stopsChain e.code || h.st == .stopping then s.endChain ck
  else s.setChain ck { h with taken := none, pre := [], stamped := [], st := .running, at_ := word (crNext r.raw) }

/-- A chain that is not being stopped in another state. -/
def Chain.inState (h : Chain) (st : ChainState) : Chain := if h.st = .stopping then h else { h with st }

/-- The steps that end a record, as far as they can go now (R240): STATUS, OWN, the fault record, then the action. The channel
waits at a page that is missing (R241). -/
def State.finishRecord (s : State) (ck : Nat) (h : Chain) (r : CopyRec) (e : CopyEnd) : State :=
  let act (s : State) (h : Chain) (e : CopyEnd) : State :=
    if e.code = 0x04 ∨ (e.code = 0x07 ∧ crAction r.raw ≠ 4) then s.leaveRecord ck h r e
    else if (s.endingGap h r e).isSome then (s.walksRas h.ctx (s.endingGap h r e).toList).setChain ck (h.inState .waitPage)
    else
      match s.copyAction ck h r e.code with
      | some s => s.leaveRecord ck h r e
      | none => s
  if e.told then act s h e
  else if (s.endingGap h r e).isSome then (s.walksRas h.ctx (s.endingGap h r e).toList).setChain ck (h.inState .waitPage)
  else
    match s.tellStatus ck h.ctx r e.code with
    | none => s
    | some s =>
      let e' := { e with told := true }
      let h' := { h with taken := some { r with ending := some e' } }
      act ((s.setChain ck h').tellFault ck h r e) h' e'

/-- A record ends (R238, R240): ownership is released, then the steps that follow. -/
def State.endRecord (s : State) (ck : Nat) (h : Chain) (r : CopyRec) (code : Nat) (addr info : Word) : State :=
  let e : CopyEnd := { code, addr, info, told := false }
  let r := { r with lines := [], left := [], ending := some e }
  let h := { h with taken := some r, pre := [] }
  (s.setChain ck h).finishRecord ck h r e

/-- Whether the destination of a record lies in the starting cohort (R249). -/
def cohortDest (b : List Byte) : Bool :=
  match cAddr (crDst b) true with
  | some (.scratch _) => crAction b != 4
  | some (.operand _ _) => crAction b != 4
  | _ => false

/-- A QPUT target at the taking of a record (R240): a position, a wait, or the code and cause that end it. -/
inductive QputAt where
  | pos (p bind : Nat) (s : State)
  | wait (s : State)
  | bad (code cause : Nat) (s : State)

/-- The reservation of a QPUT (R218, R240). -/
def State.qputReserve (s : State) (ck : Nat) (h : Chain) (b : List Byte) : QputAt :=
  let tgt := (crTarget b).toNat
  if tgt % 64 ≠ 0 ∨ 2 ^ 57 ≤ tgt ∨ !inRanges h.ranges tgt 64 .atomic then .bad 0x03 0 s
  else
    match s.globalRef h.ctx tgt with
    | none => .bad 0x03 0 s
    | some q =>
      match s.queueAt q with
      | none => .bad 0x03 0x100 s
      | some qu =>
        let m := s.causes q qu
        if m ≠ 0 then
          let o := if qu.frozen = none then s.freeze q qu m else { s, ended := [], ans := .corrupt m }
          .bad 0x03 m (o.s.applyEnds o.ended)
        else
          let bk := s.qcbBytes q 64
          if !engineScope bk || partOfCtx qu.ctx != partOfCtx h.ctx then .bad 0x03 0 s
          else if qEsize bk < crLen b then .bad 0x04 0 s
          else if s.queueBusy q true 1 then .wait s
          else
            let o := s.homeReserve q (copyUnit ck)
            let s := o.s.applyEnds o.ended
            match o.ans with
            | .pos p => .pos p qu.bind s
            | .closed => .bad 0x09 0 s
            | _ => .wait s

/-- The rest of a source past its first k bytes. -/
def CSrc.skip (k : Nat) : CSrc → CSrc
  | .mem a => .mem (a.plus k)
  | .row a pitch w off => .row a pitch w (off + k)
  | .bytes bs => .bytes (bs.drop k)

/-- A move cut after its first k bytes: those, and the rest where any is left. -/
def CMove.cut (m : CMove) (k : Nat) : CMove × Option CMove :=
  let first : CMove := { m with n := min k m.n, src := match m.src with | .bytes bs => .bytes (bs.take k) | x => x }
  (first, if m.n ≤ k then none else some { src := m.src.skip k, dst := m.dst.plus k, n := m.n - k })

/-- The first byte a move reads, and its extent; none for given bytes. -/
def CMove.reads (m : CMove) : Option (CAddr × Nat) := (moveReads [m]).head?

/-- Bytes of a move up to the next multiple of g of a place. -/
def CAddr.upTo (g : Nat) : CAddr → Nat
  | .global v => g - (v % g).toNat
  | .scratch v => g - (v % g).toNat
  | .operand b v => g - ((b + v) % g).toNat

/-- Moves cut at the 128-byte lines of their destinations, as far as the first n pieces (R247, R248). -/
def firstPieces : Nat → List CMove → List CMove × List CMove
  | 0, ms => ([], ms)
  | _ + 1, [] => ([], [])
  | n + 1, m :: t =>
    let x := m.cut (m.dst.upTo 128)
    let y := firstPieces n (x.2.toList ++ t)
    (x.1 :: y.1, y.2)

/-- A move cut into the parts that lie in one page on either side (R241), 64 KiB at most, by fuel. -/
def pageParts (src dst : Bool) : Nat → CMove → List CMove
  | 0, m => [m]
  | f + 1, m =>
    let room (on : Bool) (a : CAddr) : Nat := match a with | .global _ => if on then a.upTo 65536 else m.n | _ => m.n
    let x := m.cut (min (m.reads.elim m.n (fun e => room src e.1)) (room dst m.dst))
    match x.2 with
    | some r => x.1 :: pageParts src dst f r
    | none => [x.1]

/-- The page of an extent's first byte where its translation is missing (R241): its base and its size. -/
def State.gapOf (s : State) (ctx : Nat) (a : CAddr) : Option (Nat × Nat) :=
  match a with
  | .global v =>
    if s.isMissing ctx v.toNat then
      let size := match s.leafAt ctx v.toNat with | some (_, z) => z | none => 65536
      some (pageBase v.toNat size, size)
    else none
  | _ => none

/-- A segment with more of its page (R241): it covers both. -/
def CSeg.grow (l g : CSeg) : CSeg :=
  let lo := min l.va g.va
  { l with va := lo, len := max (l.va + l.len) (g.va + g.len) - lo, moves := l.moves ++ g.moves }

/-- A segment added to a fix-up list (R241): one entry for all that lies in one page on one side (log 13). -/
def addSeg (page size : Nat) (g : CSeg) : List CSeg → List CSeg
  | [] => [g]
  | l :: t =>
    if l.dest = g.dest ∧ page ≤ l.va ∧ l.va < page + size then l.grow g :: t else l :: addSeg page size g t

/-- A move's segments in missing pages (R241): the source's carries the move, the destination's too where only it is
missing. -/
def State.segsOf (s : State) (ctx : Nat) (m : CMove) (fixes : List CSeg) : List CSeg :=
  let src := m.reads.bind (fun e => (s.gapOf ctx e.1).map (fun g => (extentAt e, g)))
  let dst := (s.gapOf ctx m.dst).map (fun g => (extentAt (m.dst, m.n), g))
  let fixes := match src with
    | some (va, g) => addSeg g.1 g.2 { va, len := m.n, dest := false, moves := [m] } fixes
    | none => fixes
  match dst with
  | some (va, g) => addSeg g.1 g.2 { va, len := m.n, dest := true, moves := if src.isNone then [m] else [] } fixes
  | none => fixes

/-- A record's moves sorted (R241): those to be made, and the segments skipped, as many as the list holds; a move that it
has no room for stays, and the channel waits at its page. -/
def State.sortMoves (s : State) (ctx cap : Nat) : List CMove → List CSeg → List CMove × List CSeg
  | [], fixes => ([], fixes)
  | m :: t, fixes =>
    let next := s.segsOf ctx m fixes
    if next == fixes || decide (cap < next.length) then
      let y := State.sortMoves s ctx cap t fixes
      (m :: y.1, y.2)
    else State.sortMoves s ctx cap t next

/-- Moves whose extents touch missing pages cut at their pages. -/
def State.cutMoves (s : State) (ctx : Nat) (ms : List CMove) : List CMove :=
  ms.flatMap (fun m =>
    let gap (e : CAddr × Nat) : Bool := (extentPages e).any (s.isMissing ctx)
    if m.reads.elim false gap || gap (m.dst, m.n) then pageParts true true (m.n / 32768 + 4) m else [m])

/-- The fix-up list's header and entries written (R241): COUNT is 0 where nothing is skipped. -/
def State.writeFixlist (s : State) (ck ctx list : Nat) (fixes : List CSeg) : Acc State :=
  s.writeBytes (copyUnit ck) ctx (list + 4) (leBytes 4 fixes.length
    ++ fixes.flatMap (fun m => leBytes 8 m.va ++ leBytes 4 m.len ++ leBytes 4 (if m.dest then 1 else 0)))

/-- Operand destinations named by their first byte of operand space from the taking on (R235). -/
def State.operandBase (s : State) (h : Chain) (m : CMove) : CMove :=
  match m.dst with
  | .operand r a =>
    let w := ((s.cohortImage h.cohort).bind (fun c => c.recWord r)).getD 0
    { m with dst := .operand (128 * bits w.toNat 13 0) a }
  | _ => m

/-- Lines added to those a record owns (R241, R243): an access at the home of each that the chain has not stamped (R183). -/
def State.ownMore (s : State) (h : Chain) (r : CopyRec) (es : List (CAddr × Nat)) : State × CopyRec :=
  let ids := ((es.flatMap (s.extentLines h.party)).filter (fun l => !r.lines.contains l)).eraseDups
  let s := s.takeLines h.core h.ctx (ids.filter (fun l => !h.stamped.contains l)) es
  (s, { r with lines := r.lines ++ ids })

/-- A record taken with everything it needs (R232, R241, R243): ownership, and its segments in missing pages listed, of a QPUT
those of its source. -/
def State.holdRecord (s : State) (ck : Nat) (h : Chain) (r : CopyRec) : State :=
  let f := h.party
  let dst := (cAddr (crDst r.raw) true).getD (.global 0)
  let ms := if crAction r.raw = 4 then
      [{ src := .mem ((cAddr (crSrc r.raw) false).getD (.global 0)), dst := .operand 0 0, n := crLen r.raw }]
    else ((s.copyMoves f r.raw r.ext dst).getD []).map (s.operandBase h)
  let list := crFixlist r.raw
  let cap := if list = 0 then 0 else leNat (s.peekBytes h.ctx list 4)
  let y := s.sortMoves h.ctx cap (s.cutMoves h.ctx ms) []
  match (if list = 0 then Acc.ok s else s.writeFixlist ck h.ctx list y.2) with
  | .ok s =>
    let left := if crAction r.raw = 4 then [] else y.1
    let x := (s.walksRas h.ctx (y.2.map (fun g => g.va))).ownMore h { r with left, fixes := y.2 } (s.destExtents f r.raw r.ext)
    x.1.setChain ck { h with taken := some x.2, pre := [], st := .running }
  | _ => s

/-- A record the engine has read and not yet taken. -/
def freshRec (addr : Word) (raw ext : List Byte) : CopyRec :=
  { addr, raw, ext, lines := [], qpos := none, qbind := 0, left := [], fixes := [], fixed := 0, acks := 0, bad := false, ending := none }

/-- A place in the order in which engines ask for lines, taken for a chain's record (R183, R243); for a record that completes
into a reservation, its place among the operations that read operand space, as it is taken (R124). -/
def State.claimLines (s : State) (ck : Nat) (h : Chain) (operand : Bool) (ls : List Nat) : State × Chain :=
  if (h.pre.isEmpty && !ls.isEmpty) || operand then
    let h := { h with claim := s.nextAge, pre := ls }
    ({ s with nextAge := s.nextAge + 1 }.setChain ck h, h)
  else (s, h)

/-- Whether every extent of a list can be read now: its pages are there, and its homes serve the chain. -/
def State.tablesReady (s : State) (h : Chain) (es : List (CAddr × Nat)) : Bool :=
  es.all (fun e => (extentPages e).all (fun a => !s.isMissing h.ctx a) && !s.extentWaits h e)

/-- Whether a record completes into an operand reservation (R124). -/
def operandDest (b : List Byte) : Bool :=
  match cAddr (crDst b) true with
  | some (.operand _ _) => crAction b != 4
  | _ => false

/-- A record whose fields and extents are good is taken (R240, R243): a QPUT with its position, any other once every earlier
owner of its destination lines has released them and their homes serve it. -/
def State.takeRecord (s : State) (ck : Nat) (h : Chain) (r : CopyRec) : State :=
  let list := s.fixlistExtent h.party r.raw
  if list.any (fun e => match s.reachAll h.ctx (chunks (extentAt e) e.2) with | .ok _ => false | _ => true) then s
  else if crAction r.raw = 4 then
    match s.qputReserve ck h r.raw with
    | .bad code cause s => s.endRecord ck h r code (crTarget r.raw) (word cause)
    | .wait s => s.setChain ck { h with taken := some r, pre := [], st := .waitSlot }
    | .pos p bind s => s.holdRecord ck h { r with qpos := some p, qbind := bind }
  else
    let ls := s.destLines h.party r.raw r.ext
    let x := s.claimLines ck h (operandDest r.raw) ls
    if ls.any (x.1.claimedBefore x.2.claim)
        || ((s.destExtents h.party r.raw r.ext).flatMap (s.extentVas h.ctx)).any (fun y =>
              !h.stamped.contains y.1 && s.homeWaits h.ctx y.2.1 y.2.2) then x.1
    else x.1.holdRecord ck x.2 r

/-- The first page that the engine must read to take a chain's record and whose translation is missing (R241): the
record's own, its extension's, its list's, its tables'. -/
def State.recordGap (s : State) (h : Chain) : Option Nat :=
  let rec_ : CAddr × Nat := (.global h.at_.toNat, 64)
  let raw := s.peekBytes h.ctx h.at_.toNat 64
  let ext := s.extBytes h.ctx raw
  let es := [rec_] ++ (if needsExt raw then [(CAddr.global (crExt raw), 192)] else [])
    ++ (if crFixlist raw = 0 then [] else s.fixlistExtent h.party raw)
    ++ (s.tableExtents h.party raw ext).flatten
  (es.flatMap extentPages).find? (s.isMissing h.ctx)

/-- A global source read through its home (R175). -/
def State.copyTouch (s : State) (ck ctx : Nat) (a : CAddr) (n : Nat) : State :=
  match a with
  | .global v => (chunks v.toNat n).foldl (fun s c =>
      match s.place ctx c.va with
      | .byte pa => s.readTouch (copyUnit ck) ctx c.va (sectorMask c.va c.n) pa
      | _ => s) s
  | _ => s

/-- A channel reaches a record (R232, R238, R240): it takes it where OWN is set, and ends the chain where not. -/
def State.reachRecord (s : State) (ck : Nat) (h : Chain) : State :=
  if h.at_ = 0 then s.endChain ck
  else
    let away := (s.walksRas h.ctx (s.recordGap h).toList).setChain ck { h with st := .waitPage }
    let place : CAddr × Nat := (.global h.at_.toNat, 64)
    let lost (code : Nat) : State := (s.copyRecord ck h.ctx code h.at_ h.at_ 0 0 0).endChain ck
    let read := s.cPeek h.party place.1 64
    if !inRanges h.ranges h.at_.toNat 64 .write then lost 0x05
    else if s.isMissing h.ctx h.at_.toNat then away
    else if s.isRemote h.ctx h.at_.toNat then lost 0x05
    else if s.overlapsQcb h.ctx h.at_.toNat 64 then lost 0x09
    else if s.extentWaits h place then s
    else if read.any Prod.snd then lost 0x07
    else
      let raw := read.map Prod.fst
      let s := s.copyTouch ck h.ctx place.1 64
      let ext := s.extBytes h.ctx raw
      let r := freshRec h.at_ raw ext
      let f := h.party
      let ends (code : Nat) (a : Word) : State := s.endRecord ck h r code a 0
      let extAt : CAddr × Nat := (.global (crExt raw), if needsExt raw then 192 else 0)
      if !crOwn raw then s.endChain ck
      else if !recordOk raw then ends 0x04 0
      else if needsExt raw && !inRanges h.ranges (crExt raw) 192 .read then ends 0x03 (word (crExt raw))
      else if (extentPages extAt).any (s.isMissing h.ctx) then away
      else if s.extentWaits h extAt then s
      else if (s.cPeek f extAt.1 extAt.2).any Prod.snd then ends 0x06 (word (crExt raw))
      else if !extensionOk raw ext then ends 0x04 0
      else if cohortDest raw && s.isSaved h.cohort then s
      else if cohortDest raw && (s.cohortBy h.cohort).isNone then ends 0x07 0
      else
        let tables := (s.tableExtents f raw ext).flatten ++ s.fixlistExtent f raw
        match tables.find? (fun e => !s.cInRange f e.1 e.2 .read) with
        | some e => ends 0x03 (word (extentAt e))
        | none =>
          if (s.recordGap h).isSome then away
          else if !s.tablesReady h tables then s
          else
            match s.extentFault f raw ext with
            | some (code, a) => ends code (word a)
            | none =>
              let size := ((s.copyMoves f raw ext (.global 0)).getD []).foldl (fun n m => n + m.n) 0
              if crKind raw = 4 ∧ bits (exAux ext) 63 32 < size then ends 0x08 0 else s.takeRecord ck h r

/-- COPY_TAKE_RECORD (R232, R243) on channel `obj`. -/
def execCopyTakeRecord (s : State) : Out :=
  match s.headChain s.arg.obj with
  | some h => .next (if h.taken.isNone && s.partRuns (partOfCtx h.ctx) then s.reachRecord s.arg.obj h else s)
  | none => .next s

/-- QPUT_RETRY (R240) on channel `obj`. -/
def execQputRetry (s : State) : Out :=
  let ck := s.arg.obj
  match s.headChain ck with
  | some h =>
    match h.taken, h.st with
    | some r, .waitSlot => .next (if s.partRuns (partOfCtx h.ctx) then s.takeRecord ck h r else s)
    | _, _ => .next s
  | none => .next s

/-- The page of an address made resident (R241), and whether its translation is there now. -/
def State.fixPage (s : State) (ctx va : Nat) : State × Bool :=
  let s := s.resident ctx va 1
  (s, !s.isMissing ctx va)

/-- Whether a chain goes on: its partition runs, or a record it has taken is to reach its end before a census is done (R412). -/
def State.chainGoes (s : State) (h : Chain) : Bool :=
  s.canRun h.ctx && (h.taken.isSome || (s.partAt (partOfCtx h.ctx)).census == 0)

/-- The page a chain waits at (R241): one of the record it is to take, of the end of its record, or of its next move. -/
def State.waitsAt (s : State) (h : Chain) : Option Nat :=
  match h.taken with
  | none => s.recordGap h
  | some r =>
    match r.ending with
    | some e => s.endingGap h r e
    | none =>
      let src : CAddr × Nat := ((cAddr (crSrc r.raw) false).getD (.global 0), crLen r.raw)
      let es := if crAction r.raw = 4 then [src] else (r.left.take 1).flatMap (fun m => m.reads.toList ++ [(m.dst, m.n)])
      (es.flatMap extentPages).find? (s.isMissing h.ctx)

/-- Whether the lines of moves that a chain has not stamped can be taken now (R183). -/
def State.canOwn (s : State) (h : Chain) (r : CopyRec) (ms : List CMove) : Bool :=
  (ms.flatMap (fun m => s.extentVas h.ctx (m.dst, m.n))).all (fun x =>
    r.lines.contains x.1 || h.stamped.contains x.1 || !s.homeWaits h.ctx x.2.1 x.2.2)

/-- A chain's record after one of its pages has become resident: it owns the lines there too (R241, R243), once their homes
serve it. -/
def State.pageBack (s : State) (ck : Nat) (h : Chain) : State :=
  match h.taken with
  | none => s.setChain ck (h.inState .running)
  | some r =>
    if r.ending.isSome then s.setChain ck (h.inState .running)
    else if !s.canOwn h r r.left then s
    else
      let x := s.ownMore h r (r.left.map (fun m => (m.dst, m.n)))
      x.1.setChain ck { h with taken := some x.2, st := .running }

/-- COPY_PAGE_RESIDENT (R241): the page a channel waits at is made resident, and it goes on. -/
def execCopyPageResident (s : State) : Out :=
  let ck := s.arg.obj
  match s.headChain ck with
  | some h =>
    if (h.st = .waitPage ∨ (h.st = .stopping ∧ (s.waitsAt h).isSome)) ∧ s.chainGoes h then
      match s.waitsAt h with
      | some va =>
        let x := s.fixPage h.ctx va
        .next (if x.2 then x.1.pageBack ck h else x.1)
      | none => .next (s.pageBack ck h)
    else .next s
  | none => .next s

/-- Bytes written by a record at a place, sector by sector: a sector fed by poison is poisoned, not written (R242). By
fuel over the sectors. -/
def State.copyWrite (ck ctx cuid : Nat) : Nat → State → CAddr → List (Byte × Bool) → State
  | 0, s, _, _ => s
  | fuel + 1, s, a, bs =>
    match bs with
    | [] => s
    | _ =>
      let m := a.upTo 32
      let now := bs.take m
      let bad := now.any Prod.snd
      let plain := now.map Prod.fst
      let s := match a with
        | .global v =>
          match s.place ctx v.toNat with
          | .byte pa => if bad then s.addPoison [pa / 32] else s.writeChunk (copyUnit ck) ctx v.toNat pa none plain
          | _ => s
        | .scratch v =>
          match s.cohortBy cuid with
          | some (key, c) =>
            s.setCohort key (if bad then { c with spoison := addNat c.spoison (v.toNat / 32) } else c.writeScratch v.toNat plain)
          | none => s
        | .operand b v =>
          match s.cohortBy cuid with
          | some (key, c) =>
            let o := b + v.toNat
            s.setCohort key (if bad then { c with opoison := addNat c.opoison (o / 32) }
              else { c with operand := c.operand.writeBytes o plain,
                            opoison := c.opoison.filter (fun x => !(decide (o ≤ 32 * x) && decide (32 * x + 32 ≤ o + plain.length))) })
          | none => s
      State.copyWrite ck ctx cuid fuel s (a.plus m) (bs.drop m)

/-- The tag's address of a row (R239). -/
def rowTag (a : CAddr) : Nat := match a with | .global v => v.toNat | .scratch v => 2 ^ 62 + v.toNat | .operand _ v => v.toNat

/-- The buffered row with a tag (R239). -/
def State.rowHeld (s : State) (ck : Nat) (a : CAddr) (pitch : Int) (len w : Nat) : Option LineBuf :=
  (s.chanAt ck).linebuf.find? (fun l => l.row == rowTag a && l.pitch == pitch && l.len == len && l.w == w)

/-- Whether a row is fetched whole, to be kept (R239): it fits, all of it is there, and the record may read it. -/
def State.rowKept (s : State) (f : CFor) (a : CAddr) (len w : Nat) : Bool :=
  decide (w * len ≤ 4096) && !(extentPages (a, w * len)).any (s.isMissing f.ctx) && s.cInRange f a (w * len) .read

/-- The extent a move reads at its home now: of a row of an im2col record nothing where the line buffer holds it, the whole row
where it is to be kept. -/
def State.moveReads (s : State) (ck : Nat) (f : CFor) (len : Nat) (m : CMove) : List (CAddr × Nat) :=
  match m.src with
  | .row a pitch w off =>
    if (s.rowHeld ck a pitch len w).isSome then []
    else if s.rowKept f a len w then [(a, w * len)]
    else [(a.plus off, m.n)]
  | _ => m.reads.toList

/-- The bytes of a move, read at its home, with their poison; a row that is kept enters the line buffer (R239). -/
def State.moveBytes (s : State) (ck : Nat) (f : CFor) (len : Nat) (m : CMove) : List (Byte × Bool) × State :=
  match m.src with
  | .mem a => (s.cPeek f a m.n, s.copyTouch ck f.ctx a m.n)
  | .row a pitch w off =>
    match s.rowHeld ck a pitch len w with
    | some l => ((l.bytes.drop off).take m.n, s)
    | none =>
      if s.rowKept f a len w then
        let bytes := s.cPeek f a (w * len)
        let s := s.copyTouch ck f.ctx a (w * len)
        let c := s.chanAt ck
        let kept := if 8 ≤ c.linebuf.length then c.linebuf.tail else c.linebuf
        ((bytes.drop off).take m.n,
          s.setChan ck { c with linebuf := kept ++ [{ row := rowTag a, pitch, len, w, bytes }] })
      else (s.cPeek f (a.plus off) m.n, s.copyTouch ck f.ctx (a.plus off) m.n)
  | .bytes bs => (bs, s)

/-- Whether an operation accepted before a record was taken still reads operand bytes of a cohort, or has still to write them
(R124). -/
def State.operandRead (s : State) (h : Chain) (o n : Nat) : Bool :=
  let reads (r : Resv) : Bool :=
    !r.w0.getLsbD 42 && overlaps o n (128 * bits r.w0.toNat 13 0) (128 * bits r.w0.toNat 27 14)
  match s.cohortBy h.cohort with
  | none => false
  | some (key, _) =>
    (s.coreAt (key / 32)).mx.any (fun x => x.cohort == key && decide (x.age < h.claim) && (match x.kind with
      | .mma _ ra rb _ _ _ => reads ra || reads rb
      | .mmag _ ra rb _ _ _ _ => reads ra || reads rb
      | .mfill _ _ m dst => overlaps o n dst m
      | _ => false))

/-- What holds a move up (R124, R183, R241, R249): nothing, a missing page, or an engine, a save or a rebase of the
clocks. -/
inductive MoveHold where
  | free
  | page
  | waits
  deriving DecidableEq, Repr

/-- Whether a place lies in the starting cohort. -/
def CAddr.inCohort : CAddr → Bool
  | .global _ => false
  | _ => true

/-- What holds a record's next move up. A save holds one that writes into the saved cohort (R249). -/
def State.moveHold (s : State) (ck : Nat) (h : Chain) (len : Nat) (m : CMove) : MoveHold :=
  let es := s.moveReads ck h.party len m ++ [(m.dst, m.n)]
  if (es.flatMap extentPages).any (s.isMissing h.ctx) then .page
  else if es.any (s.extentWaits h) || (m.dst.inCohort && s.isSaved h.cohort)
      || (match m.dst with | .operand b v => s.operandRead h (b + v.toNat) m.n | _ => false) then .waits
  else .free

/-- A remote record's bytes for one page sent to its peer (R237, R369): the bytes, and the offsets of those that poison
feeds (R242). None where the flow is down. -/
def State.sendPiece (s : State) (ck : Nat) (h : Chain) (dst : CAddr) (bs : List (Byte × Bool)) : Option State :=
  let va := extentAt (dst, 0)
  match s.place h.ctx va with
  | .remote hd =>
    let k := handleFlow (ck / 16 / 24) hd
    let fl := s.flowAt k
    if fl.down then none
    else
      let data := (upFrom 0 ((bs.length + 7) / 8)).map (fun i => wordAt (bs.map Prod.fst) (8 * i))
      let bad := bs.zipIdx.filterMap (fun b => if b.1.2 then some (word b.2) else none)
      let msg := word hd :: word va :: word bs.length :: (data ++ bad)
      some { s with flows := put s.flows k { fl with copies := fl.copies ++ [(ck, h.ticket)], sent := fl.sent ++ [msg] } }
  | _ => none

/-- What moving a record's bytes came to: the moves not made, whether a source was poisoned, the messages sent, and whether
the record goes on, waits, or has failed at its peer. -/
structure Moved where
  s    : State
  left : List CMove
  bad  : Bool
  acks : Nat
  hold : MoveHold
  down : Bool

/-- Moves made in order, as far as nothing holds them up (R237, R241). -/
def State.doMoves (ck : Nat) (h : Chain) (remote : Bool) (len : Nat) : List CMove → State → Moved
  | [], s => { s, left := [], bad := false, acks := 0, hold := .free, down := false }
  | m :: t, s =>
    let stop (hold : MoveHold) (down : Bool) : Moved := { s, left := m :: t, bad := false, acks := 0, hold, down }
    match s.moveHold ck h len m with
    | .free =>
      let x := s.moveBytes ck h.party len m
      let bad := x.1.any Prod.snd
      if remote then
        match x.2.sendPiece ck h m.dst x.1 with
        | none => stop .free true
        | some s =>
          let y := State.doMoves ck h remote len t s
          { y with bad := bad || y.bad, acks := y.acks + 1 }
      else
        let y := State.doMoves ck h remote len t (State.copyWrite ck h.ctx h.cohort (m.n / 32 + 2) x.2 m.dst x.1)
        { y with bad := bad || y.bad }
    | w => stop w false

/-- A QPUT's element written in its slot, zeros past LEN (R240), and whether its source was poisoned; none while its source
or its slot cannot be accessed. Nothing is written once the queue has been unbound. -/
def State.qputWrite (s : State) (ck : Nat) (h : Chain) (r : CopyRec) (p : Nat) : Option (State × Bool) :=
  match s.globalRef h.ctx (crTarget r.raw).toNat with
  | some q =>
    match s.queueAt q with
    | some qu =>
      let bk := s.qcbBytes q 64
      let src := (cAddr (crSrc r.raw) false).getD (.global 0)
      let m : CMove := { src := .mem src, dst := .operand 0 0, n := crLen r.raw }
      if qu.bind ≠ r.qbind then some (s, false)
      else if (extentPages (src, m.n)).any (s.isMissing h.ctx) || s.extentWaits h (src, m.n) || s.slotsOwned q qu bk p 1 then none
      else
        let x := s.moveBytes ck h.party (crLen r.raw) m
        let pad : List (Byte × Bool) := List.replicate (qEsize bk - crLen r.raw) (0, false)
        let s := (x.2.slotReady q qu bk p).1
        some (State.copyWrite ck qu.ctx h.cohort (qEsize bk / 32 + 2) s (.global (slotAddr bk p)) (x.1 ++ pad), x.1.any Prod.snd)
    | none => some (s, false)
  | none => some (s, false)

/-- The code of a record whose bytes are all moved (R238, R241, R242). -/
def CopyRec.doneCode (r : CopyRec) : Nat := if r.bad then 0x06 else if r.fixed = 0 then 0x01 else 0x02

/-- A record with every byte moved and every segment replayed: it ends, or waits for its peer's acknowledgments. -/
def State.movesDone (s : State) (ck : Nat) (h : Chain) (r : CopyRec) : State :=
  if 0 < r.acks then s.setChain ck { h with taken := some r, st := .waitAck } else s.endRecord ck h r r.doneCode 0 0

/-- What moving bytes of a record left, kept with the record. -/
def afterMoves (ck : Nat) (h : Chain) (r : CopyRec) (y : Moved) (rest : List CMove) : State :=
  let r := { r with left := y.left ++ rest, bad := r.bad || y.bad, acks := r.acks + y.acks }
  if y.down then y.s.endRecord ck h r 0x03 0 0
  else if y.hold = .page then
    let h := { h with taken := some r, st := .waitPage }
    (y.s.walksRas h.ctx (y.s.waitsAt h).toList).setChain ck h
  else if r.left.isEmpty && r.fixes.length == r.fixed && y.hold == .free then y.s.movesDone ck h r
  else y.s.setChain ck { h with taken := some r }

/-- A channel moves bytes of the record it has taken (R237-R242): n line pieces, or with n = 0 all that is left. -/
def State.performRecord (s : State) (ck : Nat) (h : Chain) (r : CopyRec) (n : Nat) : State :=
  let c := s.chanAt ck
  let s := if crKind r.raw = 5 ∨ c.linebuf = [] then s else s.setChan ck { c with linebuf := [] }
  if crAction r.raw = 4 then
    match r.qpos with
    | some p =>
      if r.fixes.length ≠ r.fixed then s
      else
      match s.qputWrite ck h r p with
      | some x => x.1.movesDone ck h { r with bad := x.2 }
      | none =>
        let src : CAddr × Nat := ((cAddr (crSrc r.raw) false).getD (.global 0), crLen r.raw)
        let gone := (extentPages src).filter (s.isMissing h.ctx)
        if gone.isEmpty then s else (s.walksRas h.ctx (gone.take 1)).setChain ck { h with st := .waitPage }
    | none => s.endRecord ck h r 0x03 0 0
  else
    let remote := crKind r.raw == 7
    let left := if remote then r.left.flatMap (fun m => pageParts false true (m.n / 65536 + 4) m) else r.left
    let x := if n = 0 then (left, []) else firstPieces n left
    afterMoves ck h r (State.doMoves ck h remote (crLen r.raw) x.1 s) x.2

/-- COPY_RECORD_COMPLETE (R240, R247, R248) on channel `obj`: the record's bytes are moved, `obj2` line pieces of them where
that is not 0, and one that has none left ends. A record whose cohort has ended ends ABORTED, and one whose cohort is saved
is held where it has come to (R249). -/
def execCopyRecordComplete (s : State) : Out :=
  let ck := s.arg.obj
  match s.headChain ck with
  | some h =>
    match h.taken with
    | none => .next s
    | some r =>
      match r.ending with
      | some e => .next (s.finishRecord ck h r e)
      | none =>
        if cohortDest r.raw && (s.cohortBy h.cohort).isNone then
          if s.isSaved h.cohort then .next s else .next (s.endRecord ck h r 0x07 0 0)
        else if h.st ≠ .running ∨ (r.left.isEmpty && r.fixes.length != r.fixed) then .next s
        else .next (s.performRecord ck h r s.arg.obj2)
  | none => .next s

/-- Whether every page that a segment's moves touch is there, those that are missing made resident. -/
def State.fixSeg (s : State) (ctx : Nat) (g : CSeg) : State × Bool :=
  let pages := ((CAddr.global g.va, g.len) :: g.moves.flatMap (fun m => m.reads.toList ++ [(m.dst, m.n)])).flatMap extentPages
  pages.foldl (fun x a => let y := x.1.fixPage ctx a; (y.1, x.2 && y.2)) (s, true)

/-- COPY_FIXUP_REPLAY (R241) on channel `obj`: the next listed segment's pages are made resident and its bytes are moved;
FIXFAIL where a page cannot be. The last segment completes the record; a QPUT moves its element after it. -/
def execCopyFixupReplay (s : State) : Out :=
  let ck := s.arg.obj
  match s.headChain ck with
  | some h =>
    match h.taken, h.st with
    | some r, .running =>
      match r.fixes[r.fixed]? with
      | none => .next s
      | some g =>
        if !r.left.isEmpty || r.ending.isSome then .next s
        else if cohortDest r.raw && (s.cohortBy h.cohort).isNone then .next s
        else
          let x := s.fixSeg h.ctx g
          if !x.2 then .next (x.1.endRecord ck h r 0x0A 0 0)
          else if crAction r.raw = 4 then .next (x.1.setChain ck { h with taken := some { r with fixed := r.fixed + 1 } })
          else if !x.1.canOwn h r g.moves then .next x.1
          else
            let z := if crKind r.raw = 7 then (x.1, r) else x.1.ownMore h r (g.moves.map (fun m => (m.dst, m.n)))
            let h := { h with taken := some z.2 }
            let y := State.doMoves ck h (crKind r.raw == 7) (crLen r.raw) g.moves z.1
            let r : CopyRec := { z.2 with bad := r.bad || y.bad, acks := r.acks + y.acks }
            if y.down then .next (y.s.endRecord ck h r 0x03 0 0)
            else if y.left.isEmpty then
              let r : CopyRec := { r with fixed := r.fixed + 1 }
              .next (if r.fixes.length = r.fixed then y.s.movesDone ck h r else y.s.setChain ck { h with taken := some r })
            else .next (y.s.setChain ck { h with taken := some { r with
              fixes := setNth r.fixes r.fixed { g with moves := y.left } } })
    | _, _ => .next s
  | none => .next s

/-- Key of a channel of the issuing thread's quad (R231). -/
def chanKey (tid c : Nat) : Nat := quadOfCore (coreOf tid) * 16 + c

/-- The extents that `copy.cstart` reads to check its head record (R245): its extension, then its tables. -/
def State.headReads (s : State) (f : CFor) (raw : List Byte) : List (CAddr × Nat) :=
  (if needsExt raw then [(CAddr.global (crExt raw), 192)] else [])
    ++ (s.tableExtents f raw (s.extBytes f.ctx raw)).flatten ++ s.fixlistExtent f raw

/-- Whether bytes that `copy.cstart` would judge its head record by are poisoned. -/
def State.headPoisoned (s : State) (f : CFor) (raw : List Byte) : Bool :=
  (s.headReads f raw).any (fun e => (s.cPeek f e.1 e.2).any Prod.snd)

/-- Whether a `copy.cstart` must wait at a home before it can check its head record, or take its lines (R183, R245). -/
def State.headWaits (s : State) (f : CFor) (raw : List Byte) : Bool :=
  crOwn raw && recordOk raw
    && ((s.headReads f raw).any (fun e => (s.extentLines f e).any s.ownsLine
          || (s.extentVas f.ctx e).any (fun x => s.homeWaits f.ctx x.2.1 x.2.2))
      || ((s.destExtents f raw (s.extBytes f.ctx raw)).flatMap (s.extentVas f.ctx)).any (fun x =>
          !s.ownsLine x.1 && s.homeWaits f.ctx x.2.1 x.2.2))

/-- What stops a `copy.cstart` at its head record (R245), with the address: the record's fields, its extents, in the order
of R245. A record whose extension or tables are missing or poisoned is checked when it is taken (log 13). -/
def State.headFault (s : State) (f : CFor) (raw : List Byte) : Option (Nat × Word) :=
  let ext := s.extBytes f.ctx raw
  if !crOwn raw then none
  else if !recordOk raw then some (0x0D, 0)
  else if needsExt raw && !inRanges f.ranges (crExt raw) 192 .read then some (0x05, word (crExt raw))
  else if needsExt raw && (chunksOf64K (crExt raw) 192).any (s.isMissing f.ctx) || s.headPoisoned f raw then none
  else if !extensionOk raw ext then some (0x0D, 0)
  else
    match s.extentFault f raw ext with
    | some (0x03, v) => some (0x05, word v)
    | some (0x04, _) => some (0x0D, 0)
    | _ => none

/-- The chain of a `copy.cstart` (R245): it asks for its head record's destination lines, and owns at once those that no engine
has asked for before (R183). -/
def State.startChain (s : State) (tid : Nat) (t : Thread) (ck : Nat) (f : CFor) (at_ : Word) (raw : List Byte) : State :=
  let ch := s.chanAt ck
  let ext := s.extBytes t.ctx raw
  if !crOwn raw then s.setChan ck { ch with ticket := ch.ticket + 1, linebuf := [] }
  else
    let es := s.destExtents f raw ext
    let pre := s.destLines f raw ext
    let own := pre.filter (fun l => !s.ownsLine l)
    let c : Chain := { claim := s.nextAge, ticket := ch.ticket, ctx := t.ctx, uid := t.uid, core := coreOf tid,
                       cohort := f.cuid, ranges := t.ranges, at_, taken := none, st := .queued, pre, stamped := own, owed := false }
    let s := s.takeLines (coreOf tid) t.ctx own es
    { s with nextAge := s.nextAge + 1 }.setChan ck { ch with ticket := ch.ticket + 1, chains := ch.chains ++ [c] }

/-- `copy.cstart` (R244, R245). -/
def execCopyCstart (d a b : BitVec 6) (s : State) : Out :=
  onThread s (fun tid t =>
    let ck := chanKey tid (t.S a).toNat
    let h := t.S b
    if 15 < (t.S a).toNat then faultOut s tid (scalarF t 0x0D 0 0)
    else
      match s.check t h 64 .write true with
      | some f => faultOut s tid (scalarF t f h 0)
      | none =>
        accOut s tid t .scalar h 64 (s.loadT tid t h.toNat 64) (fun x =>
          let s := x.2
          let f : CFor := { ctx := t.ctx, cuid := (look s.cohorts t.cohort).elim 0 (fun c => c.uid), ranges := t.ranges }
          if s.headWaits f x.1 then .next (s.hold tid .scalar .stall)
          else
          match s.headFault f x.1 with
          | some (code, v) => faultOut s tid (scalarF t code v 0)
          | none =>
            let ch := s.chanAt ck
            if 5 ≤ ch.chains.length then .next (s.hold tid .scalar .again)
            else
              .next ((s.startChain tid t ck f h x.1).onLive tid (fun t => (t.setS d (word ch.ticket)).dirty.step4))))

/-- The state word of a channel (R246). -/
def State.chanWord (s : State) (ck ctx : Nat) : Nat :=
  match (s.chanAt ck).chains with
  | [] => 0
  | h :: t =>
    let mine := h.ctx == ctx
    let waits := h.st == .waitPage || h.st == .waitSlot
      || (match h.taken with | some r => r.fixes.length != r.fixed | none => false)
    (if mine then bits h.at_.toNat 56 6 * 2 ^ 13 else 0) + t.length * 2 ^ 8
      + (if !mine then 1 else if h.st = .stopping then 3 else if waits then 2 else 1)

/-- `copy.cstat` (R246). -/
def execCopyCstat (d a : BitVec 6) (s : State) : Out :=
  onThread s (fun tid t =>
    if 15 < (t.S a).toNat then faultOut s tid (scalarF t 0x0D 0 0)
    else aluDone s tid t d (word (s.chanWord (chanKey tid (t.S a).toNat) t.ctx)))

/-- The running chain of a channel stopped (R247): its record keeps the bytes written so far, releases its lines and ends
ABORTED; with no record taken the chain just ends. A record that is ending already ends as it was. -/
def State.abortHead (s : State) (ck : Nat) : State :=
  match s.headChain ck with
  | some h =>
    match h.taken with
    | some r =>
      let h := { h with st := .stopping }
      match r.ending with
      | some e => (s.setChain ck h).finishRecord ck h r e
      | none => s.endRecord ck h r 0x07 0 0
    | none => s.endChain ck
  | none => s

/-- Chains of a channel stopped (R247): queued ones removed, the running one aborted; the line buffer is cleared (R239). -/
def State.abortChains (s : State) (ck : Nat) (sel : Chain → Bool) : State :=
  let c := s.chanAt ck
  match c.chains with
  | [] => s
  | h :: t =>
    let s := s.setChan ck { c with chains := h :: t.filter (fun x => !sel x), linebuf := [] }
    if sel h then s.abortHead ck else s

/-- `copy.cabort` (R247): every chosen record has released its lines when it completes. -/
def execCopyCabort (a b : BitVec 6) (s : State) : Out :=
  onThread s (fun tid t =>
    let ck := chanKey tid (t.S a).toNat
    let k := t.S b
    if 15 < (t.S a).toNat then faultOut s tid (scalarF t 0x0D 0 0)
    else if k ≠ wMinus1 ∧ (s.chanAt ck).chains.any (fun h => word h.ticket == k && h.ctx != t.ctx) then
      faultOut s tid (scalarF t 0x14 0 0)
    else
      let s := s.abortChains ck (fun h => h.ctx == t.ctx && (k == wMinus1 || word h.ticket == k))
      .next (s.onLive tid Thread.step4))

end Sys2Proof.Machine
end

