-- ==== Sys2Proof/Machine/Lane.lean ====
section
/-! DEFINITION. Sys2Proof/Machine/Lane.lean: the frame of the lane groups (R32, R33, R94): the issuing gang and its active
lanes, the check of the registers an instruction names, and how an instruction completes. -/

namespace Sys2Proof.Machine

/-- What a lane instruction of opcode and function does: the thread, the gang and its active lanes. What `first` answers
comes before everything else (PRIV, R42; no active lane, R141, R223); then a register or tile the thread does not hold
faults with POOL before any lane takes effect (R32). -/
def onGangFirst (s : State) (op fn : BitVec 8) (o : LaneOps) (first : Nat → Thread → Nat → List Nat → Option Out)
    (k : Nat → Thread → Nat → List Nat → Out) : Out :=
  match issuer s, s.cur.party with
  | some t, .gang g =>
    if (t.gangSlices g).isEmpty then .fault .noIssuer
    else
      match first s.cur.tid t g (t.activeLanes g o) with
      | some out => out
      | none =>
        if namesBeyond op fn o t then faultOut s s.cur.tid (gangF t g 0x0F ((t.activeLanes g o).headD 0xFF) 0 0)
        else k s.cur.tid t g (t.activeLanes g o)
  | _, _ => .fault .noIssuer

/-- A lane instruction that nothing comes before. -/
def onGang (s : State) (op fn : BitVec 8) (o : LaneOps) (k : Nat → Thread → Nat → List Nat → Out) : Out :=
  onGangFirst s op fn o (fun _ _ _ _ => none) k

/-- Whether a thread holds the registers of a field (R32): a handle in one it does not hold is not read, so its own checks
do not come before POOL (R42). -/
def Thread.holds (t : Thread) (k : FieldKind) (c : BitVec 8) : Bool := decide (fieldTop k c ≤ t.vregs)

/-- The flags that any lane raised, ORed. -/
def orAll (fls : List (Nat × FFlags)) : FFlags := fls.foldl (fun x p => x ||| p.2) 0

/-- The lowest lane that raised an enabled flag (R79), 0xFF for none. -/
def trapLane (t : Thread) (fls : List (Nat × FFlags)) : Nat :=
  match fls.find? (fun p => p.2 &&& t.fpctl.setWidth 6 != 0) with
  | some p => p.1
  | none => 0xFF

/-- A lane instruction completes: the thread with its results moves past the stored bytes, the flags are ORed once, and
an enabled one traps (R79, R94). `t0` is the thread as the instruction found it. -/
def laneDone (s : State) (tid : Nat) (t0 t : Thread) (g : Nat) (fls : List (Nat × FFlags)) : Out :=
  .next ((s.setThread tid (t.advance g s.cur.len)).trapAfter tid (orAll fls) (gangF t0 g 0x15 (trapLane t0 fls) 0 0))

/-- A lane instruction completes on the machine its accesses left: the thread as it stands there takes the results. -/
def laneDoneOn (s : State) (tid : Nat) (t0 : Thread) (g : Nat) (fls : List (Nat × FFlags)) (f : Thread → Thread) : Out :=
  .next ((s.onLive tid (fun t => (f t).advance g s.cur.len)).trapAfter tid (orAll fls)
    (gangF t0 g 0x15 (trapLane t0 fls) 0 0))

/-- A gang's instruction waits for memory (R390). -/
def laneHold (s : State) (tid g : Nat) : Out := .next (s.hold tid (.gang g) .stall)

/-- A vector operand of a lane as the low w bits of its type (R95). -/
def Thread.operand (t : Thread) (l : Nat) (code : BitVec 8) (ty : BitVec 4) : Nat :=
  t.laneRead l code (tyWidth ty) % 2 ^ tyWidth ty

/-- A run of registers from a code written in every lane, register j of each lane from a list (R100). -/
def Thread.writeRun (t : Thread) (w : Nat) (code : BitVec 8) (res : List (Nat × List Nat)) : Thread :=
  { t with v := res.foldl (fun v p =>
      p.2.zipIdx.foldl (fun v x => writeLane v p.1 (code.toNat + x.2) w x.1) v) t.v }

/-- A vector result of every active lane, written at type TY. -/
def laneVector (s : State) (op fn : BitVec 8) (o : LaneOps) (f : Thread → Nat → Nat → Nat) : Out :=
  onGang s op fn o (fun tid t g ls => laneDone s tid t (t.writeTy o.ty o.d (ls.map (fun l => (l, f t g l)))) g [])

/-- A predicate result of every active lane. -/
def lanePred (s : State) (op fn : BitVec 8) (o : LaneOps) (f : Thread → Nat → Bool) : Out :=
  onGang s op fn o (fun tid t g ls => laneDone s tid t (t.writePred o.d (ls.map (fun l => (l, f t l)))) g [])

/-- A result of every active lane at type TY with the flags it raises. -/
def laneFlags (s : State) (op fn : BitVec 8) (o : LaneOps) (f : Thread → Nat → Nat × FFlags) : Out :=
  onGang s op fn o (fun tid t g ls =>
    let r := ls.map (fun l => (l, f t l))
    laneDone s tid t (t.writeTy o.ty o.d (r.map (fun p => (p.1, p.2.1)))) g (r.map (fun p => (p.1, p.2.2))))

end Sys2Proof.Machine
end

