-- ==== Sys2Proof/Machine/Matrix.lean ====
section
/-! DEFINITION. Sys2Proof/Machine/Matrix.lean: the arithmetic of the matrix engine: reservation words (R122), elements,
scales and backgrounds of operand rows and columns (R72-R75, R115, R120, R123), and one cell under an operator entry
(R81, R116-R118). -/

namespace Sys2Proof.Machine

/-- BG (R122). -/
def Resv.bg (r : Resv) : Nat := bits r.w0.toNat 57 56
/-- PKD. -/
def Resv.pkd (r : Resv) : Bool := r.w0.getLsbD 55
/-- PITCH in bytes. -/
def Resv.pitch (r : Resv) : Nat := 32 * bits r.w0.toNat 54 43
/-- LOC: the record names scratchpad. -/
def Resv.loc (r : Resv) : Bool := r.w0.getLsbD 42
/-- SPN. -/
def Resv.spn (r : Resv) : Nat := bits r.w0.toNat 41 40
/-- Elements a group of 8 stores. -/
def Resv.stored (r : Resv) : Nat := match r.spn with | 1 => 1 | 2 => 2 | 3 => 4 | _ => 8
/-- BLK. -/
def Resv.blk (r : Resv) : Nat := bits r.w0.toNat 39 38
/-- OPS. -/
def Resv.ops (r : Resv) : Nat := bits r.w0.toNat 37 34
/-- SIDE: a B operand. -/
def Resv.side (r : Resv) : Bool := r.w0.getLsbD 33
/-- TY. -/
def Resv.ty (r : Resv) : Nat := bits r.w0.toNat 32 28
/-- Length in bytes. -/
def Resv.len (r : Resv) : Nat := 128 * bits r.w0.toNat 27 14
/-- Offset in bytes. -/
def Resv.off (r : Resv) : Nat := 128 * bits r.w0.toNat 13 0
/-- SCOFF. -/
def Resv.scoff (r : Resv) : Nat := bits r.w1.toNat 31 0
/-- SPOFF. -/
def Resv.spoff (r : Resv) : Nat := bits r.w1.toNat 63 32

/-- Width of an element type, b1 included. -/
def elemWidth (ty : Nat) : Nat := if ty = 16 then 1 else widthOf ty
/-- Width of a record's elements. -/
def Resv.width (r : Resv) : Nat := elemWidth r.ty

/-- n / m rounded up. -/
def ceilDiv (n m : Nat) : Nat := (n + m - 1) / m

/-- Elements one row or column can hold, KCAP (R123). -/
def Resv.kcap (r : Resv) : Nat := r.pitch * 8 / r.width

/-- The largest K the pitch allows (R123, R126): packed, sparse or dense. -/
def Resv.kmax (r : Resv) : Nat :=
  if r.pkd then 64 * (r.pitch / (8 + 8 * r.width))
  else if r.spn ≠ 0 then 8 * (r.pitch * 8 / (r.width * r.stored))
  else r.kcap

/-- Bytes of scales from one row or column to the next (R123). -/
def Resv.scaleStride (r : Resv) : Nat :=
  match r.blk with
  | 1 => ceilDiv r.kcap 32
  | 2 => 8 * ceilDiv r.kcap 256
  | _ => 0

/-- Bytes of scales that K elements of one row need (R123). -/
def Resv.scaleBytes (r : Resv) (k : Nat) : Nat :=
  match r.blk with
  | 1 => ceilDiv k 32
  | 2 => 8 * ceilDiv k 256
  | _ => 0

/-- Bytes that K elements of one row or column take (R123). -/
def Resv.rowBytes (r : Resv) (k : Nat) : Nat :=
  if r.pkd then ceilDiv k 64 * (8 + 8 * r.width)
  else if r.spn ≠ 0 then ceilDiv (ceilDiv k 8 * r.stored * r.width) 8
  else ceilDiv (k * r.width) 8

/-- Whether row or column i of K elements lies in the record's range (R123). -/
def Resv.rowFits (r : Resv) (i k : Nat) : Bool :=
  decide (r.rowBytes k ≤ r.pitch) && decide (i * r.pitch + r.rowBytes k ≤ r.len)

/-- Whether the scales of row or column i and the metadata K needs lie in the allocation (R123, R129). -/
def Resv.extraFits (r : Resv) (i k spsize : Nat) : Bool :=
  (r.blk == 0 || decide (r.scoff + i * r.scaleStride + r.scaleBytes k ≤ spsize))
    && (r.spn == 0 || decide (r.spoff + 128 * ceilDiv k 8 ≤ spsize))

/-- Element k of a dense run of w-bit elements (R72). -/
def elemAt (m : RegFile 8) (a w k : Nat) : Nat :=
  if w = 1 then (m.get8 (a + k / 8)).toNat / 2 ^ (k % 8) % 2
  else if w = 4 then (m.get8 (a + k / 2)).toNat / 16 ^ (k % 2) % 16
  else m.readN (a + k * (w / 8)) (w / 8)

/-- What stands at a position of an operand: a stored code, or the background (R115, R123). -/
inductive Elem where
  | code (x : Nat)
  | bg
  deriving DecidableEq, Repr

/-- The address of block b of a packed column (R123). -/
def packedBlock (m : RegFile 8) (w a : Nat) : Nat → Nat
  | 0 => a
  | b + 1 =>
    let p := packedBlock m w a b
    p + 8 + 8 * ceilDiv (popc 64 (m.readN p 8) * w) 64

/-- Position k of row or column i of a record, on its data and its scratchpad; none where nothing is stored (R120,
R123). -/
def Resv.at (r : Resv) (data scratch : RegFile 8) (i k : Nat) : Option Elem :=
  let a := r.off + i * r.pitch
  let w := r.width
  if r.pkd then
    let p := packedBlock data w a (k / 64)
    let m := data.readN p 8
    if m.testBit (k % 64) then some (.code (elemAt data (p + 8) w (popc (k % 64) m))) else some .bg
  else if r.spn ≠ 0 then
    let m := (scratch.get8 (r.spoff + 128 * (k / 8) + i)).toNat
    let rank := popc (k % 8) m
    if m.testBit (k % 8) ∧ rank < r.stored then some (.code (elemAt data a w (k / 8 * r.stored + rank))) else none
  else some (.code (elemAt data a w k))

/-- Whether an identity, and annihilator, is 0, +∞ or −∞ (R116): BG's codes. -/
def OpEntry.kind (e : OpEntry) : Nat :=
  match e.combine, e.reduce with
  | 1, 2 => 1
  | 1, 3 => 2
  | 2, 3 => 2
  | 3, 2 => 1
  | _, _ => 0

/-- Cell classes (R114). -/
inductive CellClass where
  | f32 | i32 | b1
  deriving DecidableEq, Repr

/-- The class an operand type computes in (R114). -/
def classOf (ty : Nat) : CellClass := if ty = 16 then .b1 else if ty ≤ 7 then .i32 else .f32

/-- Identity(e) in a class (R116, R130). -/
def OpEntry.identity (e : OpEntry) (c : CellClass) : Nat :=
  match c, e.kind with
  | .f32, 1 => 0x7F800000
  | .f32, 2 => 0xFF800000
  | .i32, 1 => 0x7FFFFFFF
  | .i32, 2 => 0x80000000
  | _, _ => 0

/-- Sat(x, i32) (R44). -/
def sat32 (x : Int) : Int := clampInt x (-(2 ^ 31 : Nat)) ((2 ^ 31 : Nat) - 1)

/-- An integer input widened to i32 (R118): an i16 limit is an infinity under the four pairs that have them. -/
def widenInt (e : OpEntry) (w x : Nat) : Int :=
  let v := sext x w
  if e.combine = 0 ∨ 32 ≤ w then v
  else if v = (2 ^ (w - 1) : Nat) - 1 then (2 ^ 31 : Nat) - 1
  else if v = -(2 ^ (w - 1) : Nat) then -(2 ^ 31 : Nat)
  else v

/-- The integer value at a position, none where it is implicit (R115). -/
def Resv.intAt (r : Resv) (e : OpEntry) (data scratch : RegFile 8) (i k : Nat) : Option Int :=
  match r.at data scratch i k with
  | none => none
  | some (.code x) => some (widenInt e r.width x)
  | some .bg =>
    if r.bg = e.kind then none
    else some (match r.bg with
      | 1 => widenInt e r.width (2 ^ (r.width - 1) - 1)
      | 2 => widenInt e r.width (2 ^ (r.width - 1))
      | _ => 0)

/-- The qn4 superblock group of a row at position k: F and the block's scale code (R75). -/
def Resv.qnGroup (r : Resv) (scratch : RegFile 8) (i k : Nat) : Nat × Nat :=
  let a := r.scoff + i * r.scaleStride + 8 * (k / 256)
  (scratch.readN a 4, (scratch.get8 (a + 4 + k / 64 % 4)).toNat)

/-- The float value at a position before its block scale, none where it is implicit (R74, R75, R115). -/
def Resv.floatAt (r : Resv) (e : OpEntry) (data scratch : RegFile 8) (i k : Nat) : Option FVal :=
  match r.at data scratch i k with
  | none => none
  | some (.code x) =>
    if r.ty = 14 then some (if (r.qnGroup scratch i k).2 = 0 then .fin false 0 0 else qnLevel x)
    else some ((Fmt.ofTy r.ty).value x)
  | some .bg =>
    if r.bg = e.kind then none
    else some (match r.bg with
      | 1 => .inf false
      | 2 => .inf true
      | _ => .fin false 0 0)

/-- The block scale of a row at position k (R73, R75); a record without scales, and an all-zero qn4 block, has 1. -/
def Resv.scaleAt (r : Resv) (scratch : RegFile 8) (i k : Nat) : FVal :=
  match r.blk with
  | 1 =>
    let x := (scratch.get8 (r.scoff + i * r.scaleStride + k / 32)).toNat
    if x = 0xFF then .nan else .fin false 1 ((x : Int) - 127)
  | 2 =>
    let g := r.qnGroup scratch i k
    if g.2 = 0 then .fin false 1 0 else Fmt.f32.value (qnScale g.1 g.2)
  | _ => .fin false 1 0

/-- Kc of one operand (R81, R118). -/
def Resv.chunk (r : Resv) : Nat :=
  let n := match r.width with
    | 1 => 128
    | 4 => 64
    | 8 => 32
    | 16 => 16
    | _ => 4
  match r.blk with
  | 1 => min n 32
  | 2 => min n 64
  | _ => n

/-- What a chunk's products have shown so far (R81). -/
structure ChunkAcc where
  hit : Bool
  nan : Bool
  bad : Bool
  pos : Bool
  neg : Bool
  sum : Option FVal
  deriving DecidableEq, Repr

/-- One product of a chunk (R81). -/
def ChunkAcc.step (c : ChunkAcc) (a b : Option FVal) : ChunkAcc :=
  match a, b with
  | some x, some y =>
    let c := { c with hit := true }
    if x = .nan ∨ y = .nan then { c with nan := true }
    else
      match x.mul y with
      | (.nan, _) => { c with bad := true }
      | (.inf false, _) => { c with pos := true }
      | (.inf true, _) => { c with neg := true }
      | (v, _) => { c with sum := some (match c.sum with | some t => (t.add .rne v).1 | none => v) }
  | _, _ => c

/-- The exact sum p of a chunk with its flag (R81); none where every product is implicit (R115). A chunk that makes a NaN of
its own raises INVALID even where another product is a NaN from an input (log 21). -/
def ChunkAcc.result (c : ChunkAcc) : Option (FVal × FFlags) :=
  if !c.hit then none
  else if c.bad || (c.pos && c.neg) then some (.nan, fInvalid)
  else if c.nan then some (.nan, 0)
  else if c.pos then some (.inf false, 0)
  else if c.neg then some (.inf true, 0)
  else some (c.sum.getD (.fin false 0 0), 0)

/-- The flags a matrix rounding raises (R80, R118). -/
def mxFlags (f : FFlags) : FFlags := f &&& (fOverflow ||| fInvalid)

/-- One chunk of a float multiply-add added to a cell (R81). Its products are of elements before their scale, and the sum takes
the scales: under an infinite scale the sign of the sum decides, and a chunk that makes a NaN of its own raises INVALID under a
NaN scale too (R73, R75; DEDUCED, log 21). -/
def maddFloat (acc : Nat) (c : ChunkAcc) (sa sb : FVal) : Nat × FFlags :=
  match c.result with
  | none => (acc, 0)
  | some (p, f) =>
    let sc := sa.mul sb
    let x := p.mul sc.1
    let part := roundF .f32 .rne x.1
    let t := (Fmt.f32.value acc).add .rne (Fmt.f32.value part.1)
    let r := roundF .f32 .rne t.1
    (r.1, f ||| mxFlags (sc.2 ||| x.2 ||| part.2 ||| t.2 ||| r.2))

/-- The chunks of K positions. -/
def chunkList (kc k : Nat) : List (List Nat) :=
  (upFrom 0 (ceilDiv k kc)).map (fun i => upFrom (i * kc) (min kc (k - i * kc)))

/-- A cell under float multiply-add (R81): value functions and scale functions of A and B by position. -/
def cellMadd (acc : Nat) (kc k : Nat) (a b : Nat → Option FVal) (sa sb : Nat → FVal) : Nat × FFlags :=
  (chunkList kc k).foldl (fun r ks =>
    let c := ks.foldl (fun c i => c.step (a i) (b i)) { hit := false, nan := false, bad := false, pos := false, neg := false, sum := none }
    let y := maddFloat r.1 c (sa (ks.headD 0)) (sb (ks.headD 0))
    (y.1, r.2 ||| y.2)) (acc, 0)

/-- A cell under integer multiply-add (R81, R118). -/
def cellMaddInt (wrapping : Bool) (acc : Nat) (kc k : Nat) (a b : Nat → Option Int) : Nat :=
  (chunkList kc k).foldl (fun acc ks =>
    let p := ks.foldl (fun (p : Int) i => match a i, b i with | some x, some y => p + x * y | _, _ => p) 0
    let t := sext acc 32 + p
    wrap (if wrapping then t else sat32 t) 32) acc

/-- Combine in the f32 class (R118). -/
def combineFloat (e : OpEntry) (x y : FVal) : Nat × FFlags :=
  if x = .nan ∨ y = .nan then (canonNaN .f32, 0)
  else
    match e.combine with
    | 0 =>
      match x.mul y with
      | (.nan, _) => if e.reduce = 1 then (canonNaN .f32, fInvalid) else (e.identity .f32, 0)
      | (v, _) =>
        let r := roundF .f32 .rne v
        (r.1, r.2 &&& fOverflow)
    | 1 =>
      match x.add .rne y with
      | (.nan, _) => (e.identity .f32, 0)
      | (v, _) =>
        let r := roundF .f32 .rne v
        (r.1, r.2 &&& fOverflow)
    | 2 => (encodeF .f32 (x.pick false y), 0)
    | _ => (encodeF .f32 (x.pick true y), 0)

/-- Combine in the i32 class (R117, R118). -/
def combineInt (e : OpEntry) (x y : Int) : Int :=
  let top : Int := (2 ^ 31 : Nat) - 1
  let low : Int := -(2 ^ 31 : Nat)
  match e.combine with
  | 0 => if e.wrap then sext (wrap (x * y) 32) 32 else sat32 (x * y)
  | 1 =>
    if e.reduce = 2 ∧ (x = top ∨ y = top) then top
    else if e.reduce = 3 ∧ (x = low ∨ y = low) then low
    else sat32 (x + y)
  | 2 => min x y
  | _ => max x y

/-- Reduce by min or max of f32 codes (R118), NANQUIET as R99. -/
def reduceFloat (e : OpEntry) (acc x : Nat) : Nat :=
  let a := Fmt.f32.value acc
  let b := Fmt.f32.value x
  if (a = .nan ∨ b = .nan) ∧ (!e.nanQuiet ∨ (a = .nan ∧ b = .nan)) then canonNaN .f32
  else encodeF .f32 (a.pick (e.reduce == 3) b)

/-- A cell under a float pair that is not multiply-add (R118). -/
def cellFloat (e : OpEntry) (acc k : Nat) (a b : Nat → Option FVal) : Nat × FFlags :=
  (upFrom 0 k).foldl (fun r i =>
    match a i, b i with
    | some x, some y =>
      let c := combineFloat e x y
      (reduceFloat e r.1 c.1, r.2 ||| c.2)
    | _, _ => r) (acc, 0)

/-- A cell under an integer pair that is not multiply-add (R118). -/
def cellInt (e : OpEntry) (acc k : Nat) (a b : Nat → Option Int) : Nat :=
  (upFrom 0 k).foldl (fun acc i =>
    match a i, b i with
    | some x, some y =>
      let c := combineInt e x y
      wrap (if e.reduce = 2 then min (sext acc 32) c else max (sext acc 32) c) 32
    | _, _ => acc) acc

/-- A cell under and-or or and-xor (R114, R118). -/
def cellBit (e : OpEntry) (acc k : Nat) (a b : Nat → Option Elem) : Nat :=
  (upFrom 0 k).foldl (fun acc i =>
    match a i, b i with
    | some (.code x), some (.code y) =>
      if e.reduce = 5 then Nat.lor acc (Nat.land x y) else Nat.xor acc (Nat.land x y)
    | _, _ => acc) (acc % 2)

/-- The two operands of an accepted multiplication: the records with the bytes they name, and the allocation. -/
structure MxSides where
  a       : Resv
  b       : Resv
  dataA   : RegFile 8
  dataB   : RegFile 8
  scratch : RegFile 8

/-- One cell (R118): A row i (none: every position implicit), B column j. -/
def MxSides.cell (m : MxSides) (e : OpEntry) (z : Bool) (k old : Nat) (i : Option Nat) (j : Nat) : Nat × FFlags :=
  let c := classOf m.a.ty
  let acc := if z then e.identity c else old
  match i with
  | none => (acc, 0)
  | some i =>
    let kc := min m.a.chunk m.b.chunk
    match c with
    | .b1 => (cellBit e acc k (m.a.at m.dataA m.scratch i) (m.b.at m.dataB m.scratch j), 0)
    | .i32 =>
      let a := m.a.intAt e m.dataA m.scratch i
      let b := m.b.intAt e m.dataB m.scratch j
      (if e.mulAdd then cellMaddInt e.wrap acc kc k a b else cellInt e acc k a b, 0)
    | .f32 =>
      let a := m.a.floatAt e m.dataA m.scratch i
      let b := m.b.floatAt e m.dataB m.scratch j
      if e.mulAdd then cellMadd acc kc k a b (m.a.scaleAt m.scratch i) (m.b.scaleAt m.scratch j)
      else cellFloat e acc k a b

/-- Combine of a factor and a cell by `mx.mrow` (R132). -/
def combineCell (e : OpEntry) (c : CellClass) (g x : Nat) : Nat × FFlags :=
  match c with
  | .b1 => (Nat.land g x % 2, 0)
  | .i32 => (wrap (combineInt e (sext g 32) (sext x 32)) 32, 0)
  | .f32 => combineFloat e (Fmt.f32.value g) (Fmt.f32.value x)

/-- The class TY chooses for an entry (R125, R130): 8 the f32 class, 0 the i32 class, or b1 for an entry on b1. -/
def entryClass (e : OpEntry) (ty : Nat) : CellClass := if ty = 8 then .f32 else if e.combine = 4 then .b1 else .i32

/-- Whether an entry accepts a type of a class (R130). -/
def OpEntry.hasClass (e : OpEntry) (c : CellClass) : Bool :=
  (pairTypes e.combine e.reduce).any (fun t => e.accepts t && classOf t == c)

end Sys2Proof.Machine
end

