-- ==== Sys2Proof/Machine/MxOps.lean ====
section
/-! DEFINITION. Sys2Proof/Machine/MxOps.lean: the MX instructions (R113, R121-R139): what is checked at acceptance, and
what an accepted operation does when it retires. Operations of a core retire by their times, those that name one tile or one
reservation in the order they were accepted (R135, R136, log 10). -/

namespace Sys2Proof.Machine

/-- Operations of a thread accepted and not retired (R135). -/
def State.mxPending (s : State) (tid : Nat) (uid : Nat) : List MxOp :=
  (s.coreAt (coreOf tid)).mx.filter (fun o => o.uid == uid)

/-- The frame of an MX instruction (R125, R135) that `first` comes before: no effect without an active lane, faults of
classes 1 to 3 of R42 excepted; a ninth operation of the thread waits. -/
def mxOpFirst (s : State) (fn : BitVec 8) (o : LaneOps) (first : Nat → Thread → Nat → List Nat → Option Out)
    (k : Nat → Thread → Nat → List Nat → Cohort → Out) : Out :=
  onGangFirst s 0x80 fn o first (fun tid t g ls =>
    if ls.isEmpty then laneDone s tid t t g []
    else if 8 ≤ (s.mxPending tid t.uid).length then laneHold s tid g
    else
      match look s.cohorts t.cohort with
      | some c => k tid t g ls c
      | none => laneHold s tid g)

/-- An MX instruction that nothing comes before. -/
def mxOp (s : State) (fn : BitVec 8) (o : LaneOps) (k : Nat → Thread → Nat → List Nat → Cohort → Out) : Out :=
  mxOpFirst s fn o (fun _ _ _ _ => none) k

/-- A fault of an MX instruction, which names its lowest active lane (R42). -/
def mxFault (s : State) (tid : Nat) (t : Thread) (g : Nat) (ls : List Nat) (code : Nat) (addr : Word) : Out :=
  faultOut s tid (gangF t g code (ls.headD 0xFF) addr 0)

/-- Clk a multiplication holds its row groups (R119, R136): ceil(Keff / kr). -/
def mulClk (a b : Resv) (e : OpEntry) (k : Nat) : Nat :=
  let n := if b.spn ≠ 0 then ceilDiv k 2 else k
  match a.width with
  | 1 => if e.reduce = 5 then ceilDiv n 8 else n
  | 4 => ceilDiv n 2
  | 8 => n
  | 16 => 4 * n
  | _ => 16 * n

/-- Clk the gather unit reads for an mmag (R136). -/
def gatherClk (slices : Nat) (a : Resv) (k : Nat) : Nat :=
  ceilDiv (16 * slices * (ceilDiv (k * a.width) 8 + a.scaleBytes k)) 128

/-- The row groups of a core (R113, R135). -/
abbrev rowGroups : Nat := 8

/-- The earliest clk from `base` on at which `n` row groups are free; `held` names when groups are free again, and how many
(R135). -/
def rowsFree (held : List (Nat × Nat)) (base n : Nat) : Nat :=
  let busy (t : Nat) : Nat := held.foldl (fun m h => if t < h.1 then m + h.2 else m) 0
  (base :: held.map Prod.fst).foldl (fun best t =>
    if base ≤ t ∧ busy t + n ≤ rowGroups ∧ (t < best ∨ rowGroups < busy best + n) then t else best) base

/-- Whether an operation fills a record. -/
def MxKind.fills : MxKind → Nat → Bool
  | .mfill d _ _ _, r => d == r
  | _, _ => false

/-- d_h between a core and a channel's slice (R161, R301): same die, adjacent, diagonal. -/
def State.hopTo (s : State) (core ctx ch : Nat) : Nat :=
  let p := s.partAt (partOfCtx ctx)
  let x := (dieOfCore core) ^^^ (ch / 128)
  (p.hops[if x = 0 then 1 else if x = 3 then 3 else 2]?).getD 0

/-- The times of an operation accepted now (R135, R136), from those accepted before it, by their times alone: that operations
share the scratchpad's port, and requests the core's, is left out (log 4). `lines` are the slices of the lines it stores. -/
def State.mxTime (s : State) (core ctx slices : Nat) (recs : List Nat) (kind : MxKind) (lines : List Nat) : MxTime :=
  let now := s.ungated
  let ops := (s.coreAt core).mx
  let latest (f : MxTime → Nat) (l : List MxOp) : Nat := l.foldl (fun m o => max m (f o.time)) now
  let tile := ops.filter (fun o => kind.tiles.any (fun x => o.kind.tiles.contains x))
  let rec' := ops.filter (fun o => recs.any (fun r => o.recs.contains r))
  let fills := ops.filter (fun o => recs.any (fun r => o.kind.fills r))
  let muls := ops.filter (fun o => decide (o.time.start < o.time.free))
  let mul (gather : Nat) (a b : Resv) (e : OpEntry) (k : Nat) : MxTime :=
    let base := max gather (max (latest MxTime.start muls) (latest MxTime.ends fills))
    let start := rowsFree (muls.map (fun o => (o.time.free, o.slices))) base slices
    let free := start + mulClk a b e k
    { start, free, gather, ends := max (free + 24) (latest MxTime.ends tile) }
  let plain (from' n : Nat) : MxTime := { start := now, free := now, gather := now, ends := from' + n }
  match kind with
  | .mma _ a b e _ k => mul now a b e k
  | .mmag _ a b e _ k _ => mul (latest MxTime.gather ops + gatherClk slices a k) a b e k
  | .mfill _ _ n _ => plain (latest MxTime.ends rec') (ceilDiv n 128 + 8)
  | .mst _ ty _ => plain (latest MxTime.ends tile) (ceilDiv (16 * slices * (if ty = 0 then 512 else 256)) 128 + 8)
  | .mstx _ _ _ _ =>
    plain (latest MxTime.ends tile) (lines.length + 40 + 2 * lines.foldl (fun m ch => max m (s.hopTo core ctx ch)) 0)
  | .mzero _ _ => plain (latest MxTime.ends tile) (2 * slices + 4)
  | .mrow _ _ _ _ => plain (latest MxTime.ends tile) (2 * slices + 4)
  | .mwr _ _ n _ => plain (latest MxTime.ends tile) n
  | .mnote _ _ => plain (latest MxTime.ends tile) 2

/-- The matrix operations of a core when some have been cancelled (R137), in the order of acceptance: a multiply whose rows have
not started takes those that are free now (R135, R136). -/
def State.mxRetimed (s : State) (core : Nat) : List MxOp → List MxOp → List MxOp
  | kept, [] => kept
  | kept, x :: t =>
    let y := if x.time.start ≤ s.ungated then x.time
      else (s.setCore core { s.coreAt core with mx := kept }).mxTime core x.ctx x.slices x.recs x.kind []
    s.mxRetimed core (kept ++ [if y.ends < x.time.ends then { x with time := y } else x]) t

/-- An operation accepted behind those of its core (R135); `lines` are the slices of the lines it stores. -/
def mxAcceptTo (s : State) (tid : Nat) (t : Thread) (g : Nat) (ls recs owned lines : List Nat) (kind : MxKind)
    (effect : Bool) : Out :=
  let n := coreOf tid
  let c := s.coreAt n
  let op : MxOp :=
    { age := s.nextAge, party := .gang g, time := s.mxTime n t.ctx t.slices recs kind lines, uid := t.uid, tid,
      cohort := t.cohort, ctx := t.ctx, slices := t.slices, lanes := ls, ranges := t.ranges, recs, owned, kind, owed := false }
  let s : State := { s.setCore n { c with mx := c.mx ++ [op] } with nextAge := s.nextAge + 1 }
  laneDoneOn s tid t g [] (fun t => if effect then t.dirty else t)

/-- An operation that stores to no line of global memory, accepted. -/
def mxAccept (s : State) (tid : Nat) (t : Thread) (g : Nat) (ls recs owned : List Nat) (kind : MxKind) (effect : Bool) : Out :=
  mxAcceptTo s tid t g ls recs owned [] kind effect

/-- The live record of a cohort under a number (R121). -/
def Cohort.liveRec (c : Cohort) (d : Nat) : Option Resv :=
  match look c.recs d with
  | some r => if r.live then some r else none
  | none => none

/-- The entry a thread's context holds under a number (R117). -/
def State.entryOf (s : State) (ctx k : Nat) : Option OpEntry := (look s.ctxs ctx).bind (fun c => entryIn c.optab k)

/-- The first check of `mx.mres` that fails (R126): the fault code. BG without PKD is OPERAND_RANGE and BLK 3 is OPSEL; an
SCOFF or SPOFF that is no multiple of 8 or 128 (R122) is accepted and read as it stands (log 21). The rows whose scales must
lie below SPSIZE are those of the issuing thread for an A record of LOC 0, and those LEN and PITCH give for one of LOC 1; R126
names none (DEDUCED, log 21). -/
def resvCheck (s : State) (t : Thread) (c : Cohort) (d : Nat) (r : Resv) : Option Nat :=
  let bad := (c.liveRec d).isSome
    || decide (2 ^ 58 ≤ r.w0.toNat) || decide (16 < r.ty) || r.len == 0 || r.pitch == 0
    || (!r.pkd && r.bg != 0) || (r.blk == 0 && r.scoff != 0) || (r.spn == 0 && r.spoff != 0)
    || (!r.loc && decide (262144 < r.off + r.len)) || (r.loc && decide (c.spsize < r.off + r.len))
    || (r.pkd && (!r.side || r.loc || r.spn != 0 || r.bg == 3))
    || (r.spn != 0 && (!r.side || r.loc))
    || (!r.loc && c.recs.any (fun x => x.2.live && !x.2.loc && decide (x.2.off < r.off + r.len) && decide (r.off < x.2.off + x.2.len)))
  let rows := if r.side then 128 else if r.loc then r.len / r.pitch else 16 * t.slices
  let extra := (r.blk != 0 && rows != 0 && decide (c.spsize < r.scoff + (rows - 1) * r.scaleStride + r.scaleBytes r.kmax))
    || (r.spn != 0 && decide (c.spsize < r.spoff + 128 * (r.kmax / 8)))
  if bad then some 0x0D
  else
    match s.entryOf t.ctx r.ops with
    | none => some 0x0E
    | some e =>
      if !e.accepts r.ty || r.blk == 3 || (r.blk == 0 && r.ty == 14) || (r.blk == 1 && r.ty != 12 && r.ty != 15)
          || (r.blk == 2 && r.ty != 14) || (r.blk != 0 && !e.mulAdd) || (r.spn != 0 && r.ty == 16)
          || (r.pkd && !([0, 1, 8, 9, 10].contains r.ty)) then some 0x0E
      else if extra then some 0x0D
      else none

/-- Records a core's cohorts hold, and the bytes of their operand space (R121). -/
def State.recsHeld (s : State) (core : Nat) : Nat × Nat :=
  (s.cohorts.filter (fun c => c.1 / 32 == core)).foldl (fun n c =>
    c.2.recs.foldl (fun n r => (n.1 + 1, n.2 + (if r.2.loc then 0 else r.2.len))) n) (0, 0)

/-- `mx.mres` (R126). -/
def execMxMres (o : LaneOps) (s : State) : Out :=
  mxOp s 0x00 o (fun tid t g ls c =>
    let r : Resv := { w0 := word (t.uniform ls o.a 64), w1 := word (t.uniform ls o.b 64), live := true }
    match resvCheck s t c o.d.toNat r with
    | some f => mxFault s tid t g ls f 0
    | none =>
      let n := s.recsHeld (coreOf tid)
      if 16 ≤ n.1 ∨ Config.operandBytes < n.2 + (if r.loc then 0 else r.len) then .next (s.hold tid (.gang g) .again)
      else laneDoneOn (s.setCohort t.cohort { c with recs := put c.recs o.d.toNat r }) tid t g [] id)

/-- A number above the sixteen, under which a record that has ended but is still in use keeps its room. -/
def Cohort.spareKey (c : Cohort) : Nat := c.recs.foldl (fun n r => max n (r.1 + 1)) 16

/-- `mx.mfree` (R127): the record's room is kept while accepted operations use it. -/
def execMxMfree (o : LaneOps) (s : State) : Out :=
  mxOp s 0x01 o (fun tid t g ls c =>
    let d := o.d.toNat
    match c.liveRec d with
    | none => mxFault s tid t g ls 0x0D 0
    | some r =>
      let n := coreOf tid
      let core := s.coreAt n
      let uses (x : MxOp) : Bool := x.cohort == t.cohort && x.recs.contains d
      if core.mx.any uses then
        let z := c.spareKey
        let mx := core.mx.map (fun x => if uses x then { x with recs := x.recs.map (fun i => if i = d then z else i) } else x)
        let c := { c with recs := put (del c.recs d) z { r with live := false } }
        laneDoneOn ((s.setCore n { core with mx }).setCohort t.cohort c) tid t g [] id
      else laneDoneOn (s.setCohort t.cohort { c with recs := del c.recs d }) tid t g [] id)

/-- `mx.mfill` (R128). -/
def execMxMfill (o : LaneOps) (s : State) : Out :=
  mxOp s 0x02 o (fun tid t g ls c =>
    let src := t.uniform ls o.a 32
    let n := t.uniform ls o.b 32
    let im := o.im.toNat
    match c.liveRec o.d.toNat with
    | none => mxFault s tid t g ls 0x0D 0
    | some r =>
      if r.loc ∨ n = 0 ∨ c.spsize < src + n ∨ r.len < im + n then mxFault s tid t g ls 0x0D 0
      else if src % 32 ≠ 0 ∨ n % 32 ≠ 0 ∨ im % 32 ≠ 0 then mxFault s tid t g ls 0x04 0
      else mxAccept s tid t g ls [o.d.toNat] [] (.mfill o.d.toNat src n (r.off + im)) false)

/-- OPSEL of an MX instruction. -/
def mxSel (o : LaneOps) : Nat := o.md.toNat % 16
/-- Z of an MX instruction. -/
def mxZ (o : LaneOps) : Bool := o.md.getLsbD 4
/-- K of an MX instruction. -/
def mxK (o : LaneOps) : Nat := o.im.toNat % 2 ^ 20

/-- The checks of R129 that come before those of rows and columns: the records, the entry and K. -/
def mmaHead (s : State) (t : Thread) (o : LaneOps) (ra rb : Option Resv) (gather : Bool) :
    Sum Nat (Resv × Resv × OpEntry) :=
  match ra, rb with
  | some ra, some rb =>
    if ra.side || ra.loc != gather || !rb.side || rb.loc then .inl 0x0D
    else
      match s.entryOf t.ctx (mxSel o) with
      | none => .inl 0x0E
      | some e =>
        if ra.ops ≠ mxSel o ∨ rb.ops ≠ mxSel o ∨ ¬ e.acceptsPair ra.ty rb.ty then .inl 0x0E
        else if mxK o = 0 then .inl 0x0D
        else .inr (ra, rb, e)
  | _, _ => .inl 0x0D

/-- The checks of R129 that mma and mmag share on their records, in their order; `fits` is the check of A's rows. -/
def mmaCheck (s : State) (t : Thread) (c : Cohort) (o : LaneOps) (ra rb : Option Resv) (gather : Bool)
    (fits : Resv → Bool) : Sum Nat (Resv × Resv × OpEntry) :=
  match mmaHead s t o ra rb gather with
  | .inl f => .inl f
  | .inr (ra, rb, e) =>
    if ¬ fits ra ∨ ¬ rb.rowFits 127 (mxK o) ∨ ¬ rb.extraFits 127 (mxK o) c.spsize then .inl 0x0D else .inr (ra, rb, e)

/-- `mx.mma` (R129). -/
def execMxMma (o : LaneOps) (s : State) : Out :=
  mxOp s 0x03 o (fun tid t g ls c =>
    let k := mxK o
    let last := 16 * t.slices - 1
    match mmaCheck s t c o (c.liveRec o.a.toNat) (c.liveRec o.b.toNat) false
        (fun r => r.rowFits last k && r.extraFits last k c.spsize) with
    | .inl f => mxFault s tid t g ls f 0
    | .inr (ra, rb, e) =>
      mxAccept s tid t g ls [o.a.toNat, o.b.toNat] [] (.mma o.d.toNat ra rb e (mxZ o) k) false)

/-- The index run of an active lane: the words of four registers (R129, R133). -/
def runWords (t : Thread) (l : Nat) (code : BitVec 8) : List (BitVec 32) :=
  (upFrom 0 4).map (fun i => BitVec.ofNat 32 (t.run4 l code i))

/-- `mx.mmag` (R129): the lanes' rows gathered from the scratchpad. The rows of the indices are checked before B's columns,
the scales of those rows after them; a failing index names its lane (R42). -/
def execMxMmag (o : LaneOps) (s : State) : Out :=
  mxOp s 0x04 o (fun tid t g ls c =>
    let k := mxK o
    let a := c.liveRec o.c.toNat
    let b := c.liveRec o.b.toNat
    let fails (fits : Nat → Bool) : Option Nat :=
      ls.find? (fun l => (runWords t l o.a).any (fun x => x != 0xFFFFFFFF#32 && !fits x.toNat))
    match mmaHead s t o a b true with
    | .inl f => mxFault s tid t g ls f 0
    | .inr (ra, _, _) =>
      match fails (fun x => ra.rowFits x k) with
      | some l => faultOut s tid (gangF t g 0x0D l 0 0)
      | none =>
        match mmaCheck s t c o a b true (fun _ => true) with
        | .inl f => mxFault s tid t g ls f 0
        | .inr (ra, rb, e) =>
          match fails (fun x => ra.extraFits x k c.spsize) with
          | some l => faultOut s tid (gangF t g 0x0D l 0 0)
          | none =>
            mxAccept s tid t g ls [o.c.toNat, o.b.toNat] []
              (.mmag o.d.toNat ra rb e (mxZ o) k (ls.flatMap (fun l => runWords t l o.a))) false)

/-- `mx.mzero` (R130). -/
def execMxMzero (o : LaneOps) (s : State) : Out :=
  mxOp s 0x05 o (fun tid t g ls _ =>
    match s.entryOf t.ctx (mxSel o) with
    | none => mxFault s tid t g ls 0x0E 0
    | some e =>
      let cl := entryClass e o.ty.toNat
      if !e.hasClass cl then mxFault s tid t g ls 0x0E 0
      else mxAccept s tid t g ls [] [] (.mzero o.d.toNat (BitVec.ofNat 32 (e.identity cl))) false)

/-- Whether an accepted operation writes a tile (R131). -/
def MxKind.writesTile : MxKind → Nat → Bool
  | .mma t _ _ _ _ _, x => t == x
  | .mmag t _ _ _ _ _ _, x => t == x
  | .mzero t _, x => t == x
  | .mwr t _ _ _, x => t == x
  | .mrow t _ _ _, x => t == x
  | _, _ => false

/-- Key of a tile cell. -/
def cellKey (row col : Nat) : Nat := row * 128 + col

/-- A tile of a thread. -/
def Thread.tileAt (t : Thread) (n : Nat) : Tile := (t.tiles[n]?).getD { tag := t.slices, cells := RegFile.zero, poison := [] }

/-- `mx.mrd` (R131): it waits until every earlier writer of the tile has retired. -/
def execMxMrd (o : LaneOps) (s : State) : Out :=
  mxOp s 0x06 o (fun tid t g ls _ =>
    let c := o.im.toNat % 128
    let n := 2 ^ (o.md.toNat % 4)
    if 128 < c + n then mxFault s tid t g ls 0x0D 0
    else if (s.mxPending tid t.uid).any (fun x => x.kind.writesTile o.a.toNat) then laneHold s tid g
    else
      let tile := t.tileAt o.a.toNat
      laneDone s tid t (t.writeRun 32 o.d (ls.map (fun l =>
        (l, (upFrom 0 (4 * n)).map (fun x => (tile.cells.get32 (cellKey (4 * l + x % 4) (c + x / 4))).toNat))))) g [])

/-- `mx.mwr` (R131): the registers are read at issue. -/
def execMxMwr (o : LaneOps) (s : State) : Out :=
  mxOp s 0x07 o (fun tid t g ls _ =>
    let c := o.im.toNat % 128
    let n := 2 ^ (o.md.toNat % 4)
    if 128 < c + n then mxFault s tid t g ls 0x0D 0
    else
      let vals := ls.flatMap (fun l => (upFrom 0 (4 * n)).map (fun x => BitVec.ofNat 32 (t.run4 l o.a x)))
      mxAccept s tid t g ls [] [] (.mwr o.d.toNat c n vals) false)

/-- Bytes of a stored row (R133). -/
def rowBytesOf (ty : Nat) : Nat := if ty = 0 then 512 else 256

/-- The rows of active lanes, ascending (R113). -/
def lanesRows (ls : List Nat) : List Nat := ls.flatMap (fun l => [4 * l, 4 * l + 1, 4 * l + 2, 4 * l + 3])

/-- `mx.mst` (R133): the destination rows are owned from acceptance (R183). -/
def execMxMst (o : LaneOps) (s : State) : Out :=
  mxOp s 0x08 o (fun tid t g ls c =>
    let off := t.uniform ls o.b 32
    let rb := rowBytesOf o.ty.toNat
    let n := 16 * t.slices * rb
    if c.spsize < off + n then mxFault s tid t g ls 0x0D (word off)
    else if off % 128 ≠ 0 then mxFault s tid t g ls 0x04 (word off)
    else if c.hitsQcb off n then mxFault s tid t g ls 0x09 (word off)
    else
      let rows := lanesRows ls
      if rows.any (fun x => s.scratchOwned c (off + x * rb) rb) then laneHold s tid g
      else
        let owned := rows.flatMap (fun x => (upFrom 0 (rb / 128)).map (fun i => scratchLine c.uid (off + x * rb + 128 * i)))
        mxAccept s tid t g ls [] owned (.mst o.a.toNat o.ty.toNat off) true)

/-- The rows `mx.mstx` writes: row of the tile, lane and address, which is not reduced; 0xFFFF_FFFF writes nothing (R133). -/
def mstxRows (ls : List Nat) (idx : List (BitVec 32)) (base : Word) (rb : Nat) : List (Nat × Nat × Nat) :=
  ((ls.flatMap (fun l => [(4 * l, l), (4 * l + 1, l), (4 * l + 2, l), (4 * l + 3, l)])).zip idx).filterMap (fun p =>
    if p.2 = 0xFFFFFFFF#32 then none else some (p.1.1, p.1.2, base.toNat + p.2.toNat * rb))

/-- The lines of a stored row, as addresses. -/
def rowLines (va rb : Nat) : List Nat := (upFrom 0 (rb / 128)).map (fun i => va + 128 * i)

/-- Check(va, RB, write) of a stored row (R45, R133, R155): RANGE at an address beyond 57 bits. -/
def State.rowCheck (s : State) (t : Thread) (va rb : Nat) : Option Nat :=
  if 2 ^ 57 ≤ va then some 0x05 else s.check t (word va) rb .write false

/-- `mx.mstx` (R133): each destination line is owned from issue, with stamp t_own (R183). -/
def execMxMstx (o : LaneOps) (s : State) : Out :=
  mxOp s 0x09 o (fun tid t g ls _ =>
    let base := word (t.uniform ls o.c 64)
    let rb := rowBytesOf o.ty.toNat
    if base.toNat % 128 ≠ 0 then mxFault s tid t g ls 0x04 base
    else
      let idx := ls.flatMap (fun l => runWords t l o.b)
      let rows := mstxRows ls idx base rb
      match rows.findSome? (fun r => (s.rowCheck t r.2.2 rb).map (fun f => (r.2.1, f, r.2.2))) with
      | some (l, f, va) => faultOut s tid (gangF t g f l (word va) 0)
      | none =>
        let lines := rows.flatMap (fun r => (rowLines r.2.2 rb).map (fun va => (r.2.1, va)))
        match lines.findSome? (fun x => match s.reach t.ctx x.2 with | .fault f => some (x.1, f, x.2) | _ => none) with
        | some (l, f, va) => faultOut s tid (gangF t g f l (word va) 0)
        | none =>
          if lines.any (fun x => match s.reach t.ctx x.2 with | .wait => true | _ => false) then laneHold s tid g
          else
            let at' := lines.filterMap (fun x => match s.reach t.ctx x.2 with | .ok pa => some (x.2, pa) | _ => none)
            let s := at'.foldl (fun s x => s.writeTouch (.core (coreOf tid)) t.ctx x.1 x.2 none) s
            mxAcceptTo s tid t g ls [] (at'.map (fun x => x.2 / 128)).eraseDups (at'.map (fun x => s.homeOf t.ctx x.1))
              (.mstx o.a.toNat o.ty.toNat base idx) true)

/-- `mx.mrow` (R132). -/
def execMxMrow (o : LaneOps) (s : State) : Out :=
  mxOp s 0x0A o (fun tid t g ls _ =>
    match s.entryOf t.ctx (mxSel o) with
    | none => mxFault s tid t g ls 0x0E 0
    | some e =>
      if !e.hasClass (entryClass e o.ty.toNat) then mxFault s tid t g ls 0x0E 0
      else mxAccept s tid t g ls [] [] (.mrow o.d.toNat e (o.ty == 8) (ls.flatMap (fun l => runWords t l o.a))) false)

/-- `mx.mnote` (R134): delivered at acceptance when no accepted operation of the thread names the tile. A handle of another
partition is PRIV before a tile not held is POOL, by the order of R42, whatever the order R134 names them in (log 21). -/
def execMxMnote (o : LaneOps) (s : State) : Out :=
  let foreign (t : Thread) (ls : List Nat) : Bool :=
    !ls.isEmpty && t.holds (fieldKinds 0x80 0x0B o).2.2.1 o.b && hPart (word (t.uniform ls o.b 64)) != partOfCtx t.ctx
  mxOpFirst s 0x0B o (fun tid t g ls =>
    if foreign t ls then some (mxFault s tid t g ls 0x14 (word (t.uniform ls o.b 64))) else none) (fun tid t g ls _ =>
    let h := word (t.uniform ls o.b 64)
    if (s.mxPending tid t.uid).any (fun x => x.kind.tiles.contains o.a.toNat) then
      mxAccept s tid t g ls [] [] (.mnote o.a.toNat h) true
    else laneDoneOn (s.sendDecrement h false) tid t g [] Thread.dirty)

/-- The rows an operation computes, each with the values of its 128 cells, and the flags raised. -/
abbrev MxRows := List (Nat × List Nat) × FFlags

/-- A tile with some of its 32-byte sectors written whole, which clears their poison (R415). -/
def Tile.cleared (t : Tile) (xs : List Nat) : Tile := { t with poison := t.poison.filter (fun x => !xs.contains x) }

/-- The sectors of tile rows. -/
def rowSectors (rows : List Nat) : List Nat := rows.flatMap (fun r => upFrom (16 * r) 16)

/-- Cells of the tile rows replaced. -/
def Tile.withRows (t : Tile) (rows : List (Nat × List Nat)) : Tile :=
  { t.cleared (rowSectors (rows.map Prod.fst)) with cells := rows.foldl (fun f r =>
      r.2.zipIdx.foldl (fun f x => f.set (cellKey r.1 x.2) (BitVec.ofNat 32 x.1)) f) t.cells }

/-- The rows of a multiplication: tile rows with their A rows (R118, R129). -/
def mulRows (m : MxSides) (e : OpEntry) (z : Bool) (k : Nat) (tile : Tile) (rows : List (Nat × Option Nat)) : MxRows :=
  let rs := rows.map (fun r =>
    (r.1, (upFrom 0 128).map (fun j => m.cell e z k (tile.cells.get32 (cellKey r.1 j)).toNat r.2 j)))
  (rs.map (fun r => (r.1, r.2.map Prod.fst)), rs.foldl (fun f r => r.2.foldl (fun f x => f ||| x.2) f) 0)

/-- The A row each active row takes in an mmag: none for an absent one (R129). -/
def gatherRows (ls : List Nat) (idx : List (BitVec 32)) : List (Nat × Option Nat) :=
  (lanesRows ls).zip (idx.map (fun x => if x = 0xFFFFFFFF#32 then none else some x.toNat))

/-- Whether bytes of a space are poisoned. -/
def anyPoison (ps : List Nat) (off n : Nat) : Bool := (sectorsOf off n).any (fun x => ps.contains x)

/-- Whether a multiplication reads a word that cannot be corrected (R138): its rows, columns, scales or metadata. Of a packed
column every byte of its capacity counts as read (log 21). -/
def Cohort.mulPoisoned (c : Cohort) (ra rb : Resv) (k : Nat) (rows : List Nat) : Bool :=
  let side (r : Resv) (i : Nat) : Bool :=
    anyPoison (if r.loc then c.spoison else c.opoison) (r.off + i * r.pitch) (r.rowBytes k)
      || (r.blk != 0 && anyPoison c.spoison (r.scoff + i * r.scaleStride) (r.scaleBytes k))
  rows.any (side ra) || (upFrom 0 128).any (side rb)
    || (rb.spn != 0 && anyPoison c.spoison rb.spoff (128 * ceilDiv k 8))

/-- A cell stored at TY (R133): its bytes, and the flags of the conversion. -/
def storeCell (ty x : Nat) : List Byte × FFlags :=
  if ty = 0 then (leBytes 4 x, 0)
  else
    let r := roundF (Fmt.ofTy ty) .rne (Fmt.f32.value x)
    (leBytes 2 r.1, r.2)

/-- A tile row as stored (R133). -/
def storeRow (tile : Tile) (ty row : Nat) : List Byte × FFlags :=
  (upFrom 0 128).foldl (fun p j =>
    let x := storeCell ty (tile.cells.get32 (cellKey row j)).toNat
    (p.1 ++ x.1, p.2 ||| x.2)) ([], 0)

/-- The operation's flags ORed into its thread, unless it has ended (R80). -/
def State.mxFlag (s : State) (op : MxOp) (fl : FFlags) : State :=
  s.onLive op.tid (fun t => if t.uid = op.uid then t.orFlags fl else t)

/-- A tile of the operation's thread replaced. -/
def State.setTile (s : State) (op : MxOp) (n : Nat) (tile : Tile) : State :=
  match look s.threads op.tid with
  | some t => if t.uid = op.uid then s.setThread op.tid { t with tiles := setNth t.tiles n tile } else s
  | none => s

/-- A tile of the operation's thread. -/
def State.mxTile (s : State) (op : MxOp) (n : Nat) : Tile :=
  match look s.threads op.tid with
  | some t => t.tileAt n
  | none => { tag := op.slices, cells := RegFile.zero, poison := [] }

/-- A record of the matrix engine (R138): POISON or a lost translation, which ends a thread that still runs. -/
def State.mxRecord (s : State) (op : MxOp) (code : Nat) (addr : Word) : State :=
  match look s.threads op.tid with
  | some t => s.fault op.tid { scalarF t code addr 0 with source := 2 }
  | none => s

/-- The cells of rows left undefined (R138), and the record. -/
def State.mxPoison (s : State) (op : MxOp) (tile : Nat) : State :=
  let t := s.mxTile op tile
  let keys := (lanesRows op.lanes).flatMap (fun r => (upFrom 0 128).map (cellKey r))
  let cells := keys.foldl (fun f k => f.set k (Config.freeLane s.freeCount k)) t.cells
  let s := s.setTile op tile { t.cleared (rowSectors (lanesRows op.lanes)) with cells }
  { s with freeCount := s.freeCount + 1 }.mxRecord op 0x07 0

/-- Rows of a multiplication performed, or left undefined where an operand word is poisoned. -/
def State.mxMultiply (s : State) (op : MxOp) (tile : Nat) (ra rb : Resv) (e : OpEntry) (z : Bool) (k : Nat)
    (rows : List (Nat × Option Nat)) : State :=
  match look s.cohorts op.cohort with
  | none => s
  | some c =>
    if c.mulPoisoned ra rb k (rows.filterMap Prod.snd) then s.mxPoison op tile
    else
      let m : MxSides := { a := ra, b := rb, dataA := if ra.loc then c.scratch else c.operand, dataB := c.operand,
                           scratch := c.scratch }
      let t := s.mxTile op tile
      let r := mulRows m e z k t rows
      (s.setTile op tile (t.withRows r.1)).mxFlag op r.2

/-- What an operation does when it retires (R128-R134); none while a store cannot reach its home. The operation has
left the queue. A fill that reads an uncorrectable word leaves all the bytes it writes undefined, and not poisoned (log
21). -/
def State.mxPerform (s : State) (op : MxOp) : Option State :=
  let rows := lanesRows op.lanes
  match op.kind with
  | .mfill _ src n dst =>
    match look s.cohorts op.cohort with
    | none => some s
    | some c =>
      if anyPoison c.spoison src n then
        let bs := (upFrom dst n).map (fun a => Config.freeByte s.freeCount a)
        let s := s.setCohort op.cohort { c with operand := c.operand.writeBytes dst bs }
        some ({ s with freeCount := s.freeCount + 1 }.mxRecord op 0x07 0)
      else some (s.setCohort op.cohort { c with
        operand := c.operand.writeBytes dst (c.scratch.readBytes src n)
        opoison := c.opoison.filter (fun x => !(decide (dst ≤ 32 * x) && decide (32 * x + 32 ≤ dst + n))) })
  | .mma tile ra rb e z k => some (s.mxMultiply op tile ra rb e z k (rows.map (fun r => (r, some r))))
  | .mmag tile ra rb e z k idx => some (s.mxMultiply op tile ra rb e z k (gatherRows op.lanes idx))
  | .mzero tile v =>
    some (s.setTile op tile ((s.mxTile op tile).withRows (rows.map (fun r => (r, List.replicate 128 v.toNat)))))
  | .mwr tile col n vals =>
    let t := s.mxTile op tile
    let cells := (op.lanes.flatMap (fun l => (upFrom 0 (4 * n)).map (fun x => cellKey (4 * l + x % 4) (col + x / 4)))).zip vals
    let whole := if n = 8 ∧ col % 8 = 0 then (lanesRows op.lanes).map (fun r => 16 * r + col / 8) else []
    some (s.setTile op tile { t.cleared whole with cells := cells.foldl (fun f x => f.set x.1 x.2) t.cells })
  | .mrow tile e f32 factors =>
    let t := s.mxTile op tile
    let cl := entryClass e (if f32 then 8 else 0)
    let rs := (rows.zip factors).map (fun r =>
      (r.1, (upFrom 0 128).map (fun j => combineCell e cl r.2.toNat (t.cells.get32 (cellKey r.1 j)).toNat)))
    some ((s.setTile op tile (t.withRows (rs.map (fun r => (r.1, r.2.map Prod.fst))))).mxFlag op
      (mxFlags (rs.foldl (fun f r => r.2.foldl (fun f x => f ||| x.2) f) 0)))
  | .mst tile ty off =>
    match look s.cohorts op.cohort with
    | none => some s
    | some c =>
      let t := s.mxTile op tile
      let r := rows.foldl (fun (p : Cohort × FFlags) x =>
        let d := storeRow t ty x
        (p.1.writeScratch (off + x * rowBytesOf ty) d.1, p.2 ||| d.2)) (c, 0)
      some ((s.setCohort op.cohort r.1).mxFlag op r.2)
  | .mstx tile ty base idx =>
    let t := s.mxTile op tile
    let step (p : Option (State × FFlags)) (x : Nat × Nat × Nat) : Option (State × FFlags) :=
      match p with
      | none => none
      | some (s, f) =>
        let d := storeRow t ty x.1
        match s.writeBytes (.unit (dieOfCore (coreOf op.tid))) op.ctx x.2.2 d.1 with
        | .ok s => some (s, f ||| d.2)
        | .fault c => some (s.mxRecord op c (word x.2.2), f)
        | .wait => none
    match (mstxRows op.lanes idx base (rowBytesOf ty)).foldl step (some (s, 0)) with
    | some (s, f) => some (s.mxFlag op f)
    | none => none
  | .mnote _ h => some (s.sendDecrement h false)

/-- Notes whose tile no earlier operation of their thread names any more, delivered (R134). -/
def dueNotes : List MxOp → List MxOp → List MxOp × List Word
  | _, [] => ([], [])
  | before, op :: r =>
    match op.kind with
    | .mnote tile h =>
      if before.any (fun x => x.uid == op.uid && x.kind.tiles.contains tile) then
        let y := dueNotes (before ++ [op]) r
        (op :: y.1, y.2)
      else
        let y := dueNotes before r
        (y.1, h :: y.2)
    | _ =>
      let y := dueNotes (before ++ [op]) r
      (op :: y.1, y.2)

/-- Records that have ended and that no accepted operation uses any more give up their room (R127). -/
def State.freeRecs (s : State) (core ck : Nat) : State :=
  match look s.cohorts ck with
  | none => s
  | some c =>
    let mx := (s.coreAt core).mx
    s.setCohort ck { c with recs := c.recs.filter (fun r =>
      r.2.live || mx.any (fun o => o.cohort == ck && o.recs.contains r.1)) }

/-- The scratchpad bytes an operation reads: offset and length. -/
def MxKind.scratchReads : MxKind → List (Nat × Nat)
  | .mfill _ src n _ => [(src, n)]
  | .mmag _ ra _ _ _ _ _ => [(ra.off, ra.len)]
  | _ => []

/-- Whether an operation must follow one accepted before it (R124, R135): they name one tile or one reservation, or the earlier
one stores to scratchpad that the later one reads. -/
def MxOp.follows (op : MxOp) (uid : Nat) (a : MxOp) : Bool :=
  (a.uid == op.uid && a.kind.tiles.any (fun x => op.kind.tiles.contains x))
  || (a.cohort == op.cohort && a.recs.any (fun x => op.recs.contains x))
  || op.kind.scratchReads.any (fun r =>
      (upFrom (r.1 / 128) ((r.1 + r.2 + 127) / 128 - r.1 / 128)).any (fun l => a.owned.contains (scratchLine uid (l * 128))))

/-- The operations of a core that nothing accepted before them holds back, in the order of their times (R136), the older first
among equals. -/
def State.mxFree (s : State) (n : Nat) : List MxOp :=
  let mx := (s.coreAt n).mx
  sortBy (fun a b => decide (a.time.ends ≤ b.time.ends)) (mx.filter (fun o =>
    (mx.takeWhile (fun a => a.age != o.age)).all (fun a =>
      !o.follows ((look s.cohorts o.cohort).elim 0 (fun c => c.uid)) a)))

/-- An operation leaves its core and does what it does; none while its store cannot reach its home. -/
def State.mxLeave (s : State) (n : Nat) (op : MxOp) : Option State :=
  let c := s.coreAt n
  (s.setCore n { c with mx := c.mx.filter (fun o => o.age != op.age) }).mxPerform op

/-- The event MX_RETIRE (R135-R138): an operation of core `obj` retires, the first by its time that can, or where `obj2` is not 0
the one of that age (log 10); the notes it lets go are delivered. -/
def execMxRetire (s : State) : Out :=
  let n := s.arg.obj
  let ops := (s.mxFree n).filter (fun o => s.arg.obj2 == 0 || o.age + 1 == s.arg.obj2)
  match ops.findSome? (fun op => (s.mxLeave n op).map (fun s => (op, s))) with
  | none => .next s
  | some (op, s) =>
    let c := s.coreAt n
    let d := dueNotes [] c.mx
    let s := s.setCore n { c with mx := d.1 }
    .next ((d.2.foldl (fun s h => s.sendDecrement h false) s).freeRecs n op.cohort)

end Sys2Proof.Machine
end

