-- ==== Sys2Proof/Machine/Placement.lean ====
section
/-! DEFINITION. Sys2Proof/Machine/Placement.lean: the dispatcher (R157, R298, R299, R418), residency grants (R352, R353), and
the birth of threads with their entry registers (R260-R263). -/

namespace Sys2Proof.Machine

/-- Room on a core, used or asked for (R157, R298): thread slots, slices, vector-register units, tile units, scratchpad
units, reservation records and bytes of operand buffer. -/
structure Room where
  slots  : Nat
  slices : Nat
  regs   : Nat
  tiles  : Nat
  spad   : Nat
  recs   : Nat
  obytes : Nat
  deriving DecidableEq, Repr

/-- No room. -/
def Room.none : Room := { slots := 0, slices := 0, regs := 0, tiles := 0, spad := 0, recs := 0, obytes := 0 }

/-- The sum of two rooms. -/
def Room.plus (a b : Room) : Room :=
  { slots := a.slots + b.slots, slices := a.slices + b.slices, regs := a.regs + b.regs, tiles := a.tiles + b.tiles,
    spad := a.spad + b.spad, recs := a.recs + b.recs, obytes := a.obytes + b.obytes }

/-- Whether a room fits in another. -/
def Room.within (a b : Room) : Bool :=
  decide (a.slots ≤ b.slots) && decide (a.slices ≤ b.slices) && decide (a.regs ≤ b.regs) && decide (a.tiles ≤ b.tiles)
    && decide (a.spad ≤ b.spad) && decide (a.recs ≤ b.recs) && decide (a.obytes ≤ b.obytes)

/-- What a core holds in all under its partition word (R11, R156, R157). -/
def CoreSt.capacity (c : CoreSt) : Room :=
  { slots := Config.slots, slices := Config.coreSlices, regs := 256 * bits c.poolword.toNat 5 0,
    tiles := 4 * bits c.poolword.toNat 13 8, spad := 256 * bits c.poolword.toNat 21 16, recs := 16,
    obytes := Config.operandBytes }

/-- What a thread occupies: one that has ended keeps its slot until its cohort is freed (R260), and its tiles while matrix
operations of it are unretired (R137), which `busy` says. -/
def Thread.room (t : Thread) (busy : Bool) : Room :=
  if t.ended then { Room.none with slots := 1, tiles := if busy then t.slices * t.tiles.length else 0 }
  else { Room.none with slots := 1, slices := t.slices, regs := t.slices * t.vregs / 8, tiles := t.slices * t.tiles.length }

/-- Bytes of a record in operand space (R121). -/
def Resv.bytes (r : Resv) : Nat := if r.loc then 0 else r.len

/-- What a cohort occupies beside its threads (R157, R261). -/
def Cohort.room (c : Cohort) : Room :=
  { Room.none with
    regs := c.freeUnits
    tiles := c.poolTiles.foldl (fun n t => n + t.tag) 0
    spad := c.spsize / 128
    recs := c.recs.length
    obytes := c.recs.foldl (fun n r => n + r.2.bytes) 0 }

/-- What a core's cohorts occupy, without the ones excluded. -/
def State.coreUse (s : State) (core : Nat) (without : List Nat) : Room :=
  let cs := s.cohorts.filter (fun c => c.1 / 32 == core && !without.contains c.1)
  let ts := s.threads.filter (fun t => t.1 / 32 == core && !without.contains t.2.cohort)
  let busy (t : Thread) : Bool := (s.coreAt core).mx.any (fun o => o.uid == t.uid)
  ts.foldl (fun r t => r.plus (t.2.room (busy t.2))) (cs.foldl (fun r c => r.plus c.2.room) Room.none)

/-- What a saved cohort asks for (R405). -/
def Saved.room (x : Saved) : Room := x.threads.foldl (fun r t => r.plus (t.room false)) x.cohort.room

/-- What a request asks for (R157). -/
def Request.room (r : Request) (saved : SMap Saved) : Room :=
  match r.kind with
  | .restore k => (look saved k).elim Room.none Saved.room
  | _ =>
    { Room.none with slots := r.csize, slices := r.csize * r.slices, regs := r.csize * (r.slices * r.vregs / 8),
                     tiles := r.csize * (r.slices * r.tiles), spad := r.spad / 128 }

/-- Whether a copy record of a chain holds into a cohort's scratchpad or operand space (R249, R405). -/
def State.quadBound (s : State) (uid : Nat) : Option Nat :=
  (s.chans.find? (fun c => c.2.chains.any (fun h => h.cohort == uid
    && (match h.taken with | some r => cohortDest r.raw | none => false)))).map (fun c => c.1 / 16)

/-- The cores of a request's partition on a die, ascending (R298). -/
def State.coresFor (s : State) (die : Nat) (r : Request) : List Nat :=
  let p := s.partAt (partOfCtx r.ctx)
  let all := (upFrom (96 * die) 96).filter (fun c => p.quads.getLsbD (c / 4))
  match r.kind with
  | .restore k =>
    match (look s.saved k).bind (fun x => s.quadBound x.cohort.uid) with
    | some q => all.filter (fun c => c / 4 == q)
    | none => all
  | _ => all

/-- Whether a core takes a request: its partition is not swapped out on the die (R407), and it is not closing but to this
request (R299). -/
def State.coreOpen (s : State) (core : Nat) (r : Request) : Bool :=
  let c := s.coreAt core
  !c.swapped && (look s.swaps (partOfCtx r.ctx * 4 + dieOfCore core)).isNone && (c.closing == none || c.closing == some r.id)

/-- Whether a request fits a core beside what stands there (R157). -/
def State.fitsBeside (s : State) (core : Nat) (r : Request) (without : List Nat) : Bool :=
  ((r.room s.saved).plus (s.coreUse core without)).within (s.coreAt core).capacity

/-- The keys of R298 for a core after placement: free slices, scratchpad units, register units, then the number. -/
def State.fitKeys (s : State) (core : Nat) (r : Request) (without : List Nat) : Nat × Nat × Nat × Nat :=
  let u := (r.room s.saved).plus (s.coreUse core without)
  let c := (s.coreAt core).capacity
  (c.slices - u.slices, c.spad - u.spad, c.regs - u.regs, core)

/-- Whether one list of keys comes before another. -/
def keysBefore (a b : Nat × Nat × Nat × Nat) : Bool :=
  if a.1 ≠ b.1 then decide (a.1 < b.1)
  else if a.2.1 ≠ b.2.1 then decide (a.2.1 < b.2.1)
  else if a.2.2.1 ≠ b.2.2.1 then decide (a.2.2.1 < b.2.2.1)
  else decide (a.2.2.2 < b.2.2.2)

/-- The first of a list by R298's keys. -/
def bestOf (l : List (Nat × Nat × Nat × Nat)) : Option Nat :=
  match l with
  | [] => none
  | x :: t => some (t.foldl (fun m y => if keysBefore y m then y else m) x).2.2.2

/-- The core on which the thread of a parked window stays resident, where that core still has room for its step (R277). -/
def State.homeCore (s : State) (die : Nat) (r : Request) : Option Nat :=
  match r.kind with
  | .window wk =>
    match (look s.windows wk).bind (fun w => w.core) with
    | some c => if (s.coresFor die r).contains c && s.coreOpen c r && s.fitsBeside c r [] then some c else none
    | none => none
  | _ => none

/-- The core a request is placed on (R298): a resident window's own, else the first by the keys. -/
def State.bestCore (s : State) (die : Nat) (r : Request) : Option Nat :=
  (s.homeCore die r).or
    (bestOf (((s.coresFor die r).filter (fun c => s.coreOpen c r && s.fitsBeside c r [])).map (fun c => s.fitKeys c r [])))

/-- Whether no core of the die can ever hold a request (R58). -/
def State.unlaunchable (s : State) (die : Nat) (r : Request) : Bool :=
  !(s.coresFor die r).any (fun c => (r.room s.saved).within (s.coreAt c).capacity)

/-- A cohort's allocation among those of a core, lowest offset first; past them all where no gap is wide enough. -/
def State.spBase (s : State) (core size : Nat) : Nat :=
  let as_ := (s.cohorts.filter (fun c => c.1 / 32 == core && c.2.spsize != 0)).map (fun c => (c.2.spbase, c.2.spsize))
  let starts := 0 :: as_.map (fun a => a.1 + a.2)
  let free (x : Nat) : Bool := as_.all (fun a => decide (x + size ≤ a.1) || decide (a.1 + a.2 ≤ x))
  ((sortBy (fun a b => decide (a ≤ b)) starts).find? free).getD 0

/-- The n lowest free thread slots of a core, as thread names. -/
def State.freeTids (s : State) (core n : Nat) : List Nat :=
  ((upFrom (32 * core) 32).filter (fun t => (look s.threads t).isNone)).take n

/-- The lowest free cohort slot of a core, as its key. -/
def State.freeCohort (s : State) (core : Nat) : Nat :=
  ((upFrom (32 * core) 32).find? (fun k => (look s.cohorts k).isNone)).getD (32 * core)

/-- What a grant finds (R353): the machine with its pages resident and pinned and their keys, a refusal of a range, a
wait for a frame, or a wait for a pin count, or for an entry that cannot change yet. -/
inductive Granted where
  | given (s : State) (pages : List Nat)
  | refused (r : Range)
  | noFrame
  | waits

/-- Entries of a TLB that are held for grants beside a page's own (R353). -/
def heldBeside (l : List TlbEntry) (t : TlbEntry) : Nat :=
  (l.filter (fun e => e.held && !(e.asid == t.asid && e.page == t.page))).length

/-- The leaf of a page held in the TLB of every channel of the set (R353), where it holds fewer than 512 others. -/
def State.holdLeaf (s : State) (ctx base size : Nat) (e : Word) : State :=
  let p := s.partAt (partOfCtx ctx)
  let entry : TlbEntry := { asid := s.asidOf ctx, page := base, size, leaf := e, held := true }
  (upFrom p.chbase (2 ^ p.chlog)).foldl (fun s ch =>
    if heldBeside ((look s.tlbs ch).getD []) entry < 512 then s.tlbFill ch entry else s) s

/-- One page granted. -/
def State.grantPage (s : State) (ctx base size : Nat) : Granted :=
  let key := s.pageKey ctx base
  let n := (look s.pins key).getD 0
  if 65535 ≤ n then .waits
  else
    match s.makeResident ctx base with
    | none => .noFrame
    | some s =>
      let s : State := { s with pins := put s.pins key (n + 1) }
      match s.leafAt ctx base with
      | some (e, _) => .given (s.holdLeaf ctx base size e) [key]
      | none => .given s [key]

/-- Pages granted in turn. -/
def State.grantPages (s : State) (ctx : Nat) : List (Nat × Nat × Word) → Granted
  | [] => .given s []
  | p :: t =>
    match s.grantPage ctx p.1 p.2.1 with
    | .given s1 k =>
      match s1.grantPages ctx t with
      | .given s2 ks => .given s2 (k ++ ks)
      | g => g
    | g => g

/-- The residency grant of ranges and of every loaded code section (R352, R353). -/
def State.grant (s : State) (ctx : Nat) (rs : List Range) : Granted :=
  let code := ((look s.ctxs ctx).elim [] (fun c => c.sections)).filterMap (fun x =>
    if x.size = 0 then none else some ({ base := x.base, len := x.size, read := true, write := false, atomic := false } : Range))
  let all := rs ++ code
  match all.find? (fun r => !s.grantable ctx r) with
  | some r => .refused r
  | none => s.grantPages ctx (all.flatMap (fun r => (s.pagesOf ctx r).getD []))

/-- The residency grant of a step (R279, R353): its state area's pages come back from the host first. -/
def State.grantStep (s : State) (ctx : Nat) (area : Word) (rs : List Range) : Granted :=
  match s.areaBack ctx area with
  | none => if (s.areaPages ctx area).any (fun p => ((s.partAt (partOfCtx ctx)).takeFrame p.2.1).isNone) then .noFrame else .waits
  | some s => s.grant ctx rs

/-- The grants of a cohort's n threads, each of which holds every page (R352): the keys are those of one of them. -/
def State.grantAll (s : State) (ctx : Nat) (rs : List Range) : Nat → Granted
  | 0 => .given s []
  | n + 1 =>
    match s.grant ctx rs with
    | .given s keys => if n = 0 then .given s keys else s.grantAll ctx rs n
    | g => g

/-- ROLE of a cohort index (R57, R260). -/
def State.roleOf (s : State) (ctx map i : Nat) : BitVec 16 :=
  match (look s.ctxs ctx).bind (fun c => look c.rolemaps map) with
  | some l => nth l i (BitVec.ofNat 16 i)
  | none => BitVec.ofNat 16 i

/-- A thread at birth (R259, R262, R263): its registers undefined but for those written, nothing queued, clean. ROLE is 0
where no launch names a role map: a window's thread has none (R57, R260, log 23). -/
def Thread.newborn (fc uid ctx cohort : Nat) (r : Request) (regs : SMap Word) (rs : List Range) (grant : List Nat)
    (port : Word) (clk : Nat) : Thread :=
  { uid, ctx, cohort, index := 0, csize := r.csize, slices := r.slices, prio := r.prio, role := 0, vregs := r.vregs,
    tiles := (upFrom 0 r.tiles).map (fun i => { tag := r.slices, cells := RegFile.born (fc + 4 + i) [], poison := [] }),
    s := RegFile.born fc regs, v := RegFile.born (fc + 1) [], vpoison := [], p := RegFile.born (fc + 2) [], y := RegFile.born (fc + 3) [],
    pc := r.entry, fpflags := 0, fpctl := 0, rngkey := 0, rngctr := 0, task := 0, winid := 0, stream := 0,
    sl := (upFrom 0 r.slices).map (fun i =>
      { lpc := 0, skip := 0, mask := 0xF, gang := i, st := .idle, stack := [], held := false, wait := none, since := clk, last := 0 }),
    blocks := [], running := false, ranges := rs, grant, clean := true, wdog := 0, portCopy := port, wait := none,
    redBuf := [], reserved := [], emits := [], detached := false, ended := false, faulted := false, step := none,
    piece := 0, ranged := false, since := clk }

/-- Free-value names a birth takes: four register files and the tiles. -/
def birthNames (r : Request) : Nat := 4 + r.tiles

/-- A cohort on a core as it is launched (R260): its scratchpad undefined, its barrier registers 0 (R341), its pool
empty. -/
def State.newCohort (s : State) (core : Nat) (r : Request) (members : List Nat) (window : Bool) : Cohort :=
  { uid := s.nextUid, ctx := r.ctx, entry := r.entry, members, csize := r.csize, prio := r.prio, window,
    spbase := s.spBase core r.spad, spsize := r.spad, scratch := RegFile.born s.freeCount [], spoison := [],
    operand := RegFile.born (s.freeCount + 1) [], opoison := [], recs := [], bars := [], freeUnits := 0, poolTiles := [],
    claims := [], queues := [], elapsed := 0, pend := [], drain := none, saving := none, missed := false, age := r.age }

/-- Threads born one after another into the given slots (R260); `mk` makes each from a free-value name, its uid and its
cohort index. -/
def State.bearAll (s : State) (mk : Nat → Nat → Nat → Thread) (step : Nat) : List (Nat × Nat) → State
  | [] => s
  | (tid, i) :: t =>
    let s' := s.setThread tid (mk s.freeCount s.nextUid i)
    State.bearAll { s' with nextUid := s.nextUid + 1, freeCount := s.freeCount + step } mk step t

/-- A cohort launched on a core: its threads stand in the lowest free slots, in ascending cohort index (R260). -/
def State.launch (s : State) (core : Nat) (r : Request) (regs : SMap Word) (rs : List Range) (grant : List Nat)
    (window : Bool) (fill : Nat → Thread → Thread) : State × Nat :=
  let tids := s.freeTids core r.csize
  let ck := s.freeCohort core
  let c := s.newCohort core r tids window
  let port := s.portCount r.ctx
  let s := s.setCohort ck c
  let s : State := { s with nextUid := s.nextUid + 1, freeCount := s.freeCount + 2 }
  (s.bearAll (fun fc uid i => fill i (Thread.newborn fc uid r.ctx ck r regs rs grant port s.clk)) (birthNames r)
    tids.zipIdx, ck)

/-- Words s8 to s15 from bytes (R262). -/
def payloadRegs (b : List Byte) : SMap Word := (upFrom 0 8).map (fun i => (8 + i, wordAt (padBytes b 64) (8 * i)))

/-- RNGSEED of a context (R263, R360). -/
def State.seedOf (s : State) (ctx : Nat) : Word := (look s.ctxs ctx).elim 0 (fun c => c.rngseed)

/-- The entry registers of a task's piece (R262). -/
def taskRegs (h : Word) (t : TaskSlot) (p : Piece) (i : Nat) : SMap Word :=
  let kind := pkKind t.packet
  let ranged : SMap Word :=
    if kind = 1 then [(5, wordI p.cur), (6, wordI p.hi)]
    else if kind = 3 then [(5, word i), (6, wordI p.hi)]
    else []
  (1, h) :: ranged ++ (7, t.paddr) :: payloadRegs (pkPayload t.packet)

/-- The request has been placed: it leaves its die's list, and the core that closed for it opens (R299). -/
def State.placed (s : State) (die : Nat) (r : Request) : State :=
  let d := s.dieAt die
  let s := s.setDie die { d with reqs := d.reqs.filter (fun x => x.id != r.id) }
  { s with cores := s.cores.map (fun c => if c.2.closing = some r.id then (c.1, { c.2 with closing := none }) else c) }

/-- A cohort of a task born on a core (R291, R294, R295): none while its grant waits. -/
def State.placeTask (s : State) (die core : Nat) (r : Request) (k i : Nat) : Option State :=
  let t := s.taskAt k
  let h := s.slotHandle k
  let rs := (pkRanges t.packet).getD []
  match s.grantAll r.ctx rs r.csize with
  | .waits => none
  | .noFrame => none
  | .refused x =>
    let s := ((s.grantRas r.ctx x).taskRecord k 0x05 (word x.base)).placed die r
    let t := s.taskAt k
    some (s.setTask k { t with st := .running, bad := true, pieces := setNth t.pieces i { nth t.pieces i ⟨0, 0, 0, false⟩ with live := false } })
  | .given s keys =>
    let p := nth t.pieces i ⟨0, 0, 0, false⟩
    let seed := s.seedOf r.ctx
    let first := s.nextUid + 1
    let map := pkRolemap t.packet
    let fill (j : Nat) (x : Thread) : Thread :=
      { x with index := j, role := s.roleOf r.ctx map j, rngkey := seed, rngctr := word (2 ^ 32 * j), task := h, piece := i,
               ranged := pkKind t.packet == 1, grant := keys }
    let y := (s.placed die r).launch core r (taskRegs h t p i) rs [] false fill
    let t := y.1.taskAt k
    some (y.1.setTask k { t with st := .running, threads := t.threads + r.csize, uids := t.uids ++ upFrom first r.csize })

/-- s6 of a step (R270): the window's end, or the end of a session. -/
def windowEnd (spec : List Byte) (w : Window) : Nat :=
  if w.paneWin then w.start + wsPaneLen spec
  else if wsKind spec = 2 then w.last + wsGap spec
  else w.start + wsLen spec

/-- s1 of a step (R262, R271): the reason, and bit 8 where its commit fires early. -/
def stepReason (spec : List Byte) (w : Window) (r : StepReq) : Nat :=
  let early := wsEarly spec != 0 && !w.paneWin && (r.reason == .record || r.reason == .pane)
    && decide ((w.count.toNat + 1) % wsEarly spec = 0)
  r.reason.code + (if early then 2 ^ 8 else 0)

/-- The entry registers of a window step (R262, R272, R276). -/
def stepRegs (spec : List Byte) (esize : Nat) (w : Window) (partner : Option Window) (r : StepReq) : SMap Word :=
  let quiet := r.reason == .close || r.reason == .expire
  let body := if quiet then [] else if r.reason = .pane then r.record.bytes.drop 16 else r.record.bytes
  let head : SMap Word :=
    [(1, word (stepReason spec w r)), (2, word (if quiet then r.time else r.record.ts)),
     (3, word (if quiet then 0 else r.record.seq)), (4, w.key), (5, word w.start), (6, word (windowEnd spec w)),
     (7, if quiet || r.reason == .pane || decide (esize ≤ 64) then 0 else word r.record.addr)]
  let merge : SMap Word := match partner with
    | some b => b.carry.zipIdx.map (fun c => (16 + c.2, c.1))
    | none => []
  head ++ payloadRegs body ++ merge ++ w.carry.zipIdx.map (fun c => (48 + c.2, c.1))

/-- RNGKEY and RNGCTR of a step (R263). -/
def stepSeed (seed : Word) (w : Window) (r : StepReq) : Word × Word :=
  let x := w.start % 2 ^ 64
  let swapped := x % 2 ^ 32 * 2 ^ 32 + x / 2 ^ 32
  (seed ^^^ w.key ^^^ word swapped, word (2 ^ 32 * w.count.toNat + 2 ^ 24 * r.reason.code))

/-- The declared ranges of a step (R266, R279): the spec's, and the state area; none where the spec's break R56. -/
def State.stepRanges (s : State) (ctl : StreamCtl) (w : Window) : Option (List Range) :=
  let n := wsNrange ctl.spec
  (rangesOf n (s.peekBytes ctl.ctx (wsRanges ctl.spec) (16 * n))).map (fun rs => rs ++ stateArea w.state)

/-- Whether the spec's range table cannot be read now (R161, R183). -/
def State.rangesWait (s : State) (ctl : StreamCtl) : Bool :=
  (chunks (wsRanges ctl.spec) (16 * wsNrange ctl.spec)).any (fun c =>
    match s.place ctl.ctx c.va with
    | .byte pa => s.mustWait ctl.ctx c.va pa
    | _ => false)

/-- A step whose grant is refused counts as a faulted step (R353). -/
def State.refuseStep (s : State) (die : Nat) (r : Request) (wk : Nat) (w : Window) (va : Nat) : State :=
  let y := (s.placed die r).stepFailed w.stream wk true
  y.1.raise r.ctx (.unit die) 0 { engineRec 0x05 5 0xFF r.entry (word va) 0 with
    ends := y.2.1, replays := y.2.2, winid := w.winid }

/-- A window's thread born on a core for its step (R262, R272): none while its grant waits. -/
def State.placeWindow (s : State) (die core : Nat) (r : Request) (wk : Nat) : Option State :=
  match look s.windows wk with
  | none => some (s.placed die r)
  | some w =>
    match look s.streams w.stream, s.headStep w.stream w.key with
    | some ctl, some sr =>
      if s.rangesWait ctl then none
      else match s.stepRanges ctl w with
      | none => some (s.refuseStep die r wk w (wsRanges ctl.spec))
      | some rs =>
        match s.grantStep r.ctx w.state rs with
        | .waits => none
        | .noFrame => none
        | .refused x => some ((s.grantRas r.ctx x).refuseStep die r wk w x.base)
        | .given s keys =>
          let esize := qEsize (s.qcbBytes (.global w.stream) 64)
          let partner := if sr.reason = .merge then look s.windows sr.partner else none
          let regs := stepRegs ctl.spec esize w partner sr
          let seed := stepSeed (s.seedOf r.ctx) w sr
          let fill (_ : Nat) (x : Thread) : Thread :=
            { x with rngkey := seed.1, rngctr := seed.2, winid := w.winid, stream := ctl.va,
                     step := some { win := wk, reason := sr.reason }, grant := keys, reserved := w.reserved }
          let y := (s.placed die r).launch core r regs rs [] true fill
          some (y.1.setWindow wk { w with thread := (y.1.cohorts.find? (fun c => c.1 == y.2)).bind (fun c => c.2.members.head?) })
    | _, _ => some (s.placed die r)

/-- A saved thread on its new core (R405): under its new cohort key, its withdrawn instruction to be issued again; what it
has reserved of its cohort's queues is kept under that key (R218). -/
def Thread.moved (t : Thread) (ck : Nat) : Thread :=
  { t with
    cohort := ck
    reserved := t.reserved.map (fun r =>
      if 2 ^ 90 + t.cohort * 2 ^ 32 ≤ r.1 ∧ r.1 < 2 ^ 90 + (t.cohort + 1) * 2 ^ 32 then
        ((QRef.scratch ck ((r.1 - 2 ^ 90) % 2 ^ 32)).key, r.2)
      else r) }

/-- The queues of a cohort's scratchpad at home on a core (R208, R229): SCOPE 1 admits that core. -/
def Cohort.rehomed (c : Cohort) (core : Nat) : Cohort :=
  { c with queues := c.queues.map (fun q => (q.1, { q.2 with core })) }

/-- A saved cohort placed again (R405); the chains that write into it find it on its new core (R206, R249). -/
def State.placeSaved (s : State) (die core : Nat) (r : Request) (k : Nat) : Option State :=
  match look s.saved k with
  | none => some (s.placed die r)
  | some x =>
    let tids := s.freeTids core x.threads.length
    let ck := s.freeCohort core
    let c := { x.cohort.rehomed core with members := tids, spbase := s.spBase core x.cohort.spsize }
    let s := s.placed die r
    let c0 := s.coreAt core
    let s := s.setCore core { c0 with pts := max c0.pts (x.pts - s.ptsClk core) }
    let s := s.setCohort ck c
    let s : State := { s with
      saved := del s.saved k
      chans := s.chans.map (fun y => (y.1, { y.2 with chains := y.2.chains.map (fun h =>
        if h.cohort = x.cohort.uid then { h with core } else h) })) }
    let s := (tids.zip x.threads).foldl (fun s p =>
      let s := s.setThread p.1 (p.2.moved ck)
      { s with
        sysReqs := s.sysReqs.map (fun q => if q.uid = p.2.uid then { q with tid := p.1 } else q)
        windows := s.windows.map (fun w =>
          if (p.2.step.map (fun z => z.win)) = some w.1 then (w.1, { w.2 with thread := some p.1 }) else w) }) s
    some s

/-- A request placed on the core R298 chooses: none where no core fits, or its grant waits. -/
def State.tryPlace (s : State) (die : Nat) (r : Request) : Option State :=
  match s.bestCore die r with
  | none => none
  | some core =>
    match r.kind with
    | .task k i => s.placeTask die core r k i
    | .window wk => s.placeWindow die core r wk
    | .restore k => s.placeSaved die core r k

/-- Whether the dispatcher serves a request now: its partition is neither quarantined nor held, its context not halted
(R379, R397, R412). -/
def State.served (s : State) (r : Request) : Bool :=
  let p := s.partAt (partOfCtx r.ctx)
  s.run == .running && p.level == 0 && p.census == 0
    && (match look s.ctxs r.ctx with | some c => !c.halted | none => true)

/-- A die's requests in the order they are served (R298): by class, then by age. -/
def State.queueOf (s : State) (die : Nat) : List Request :=
  sortBy (fun a b =>
      decide (a.prio < b.prio) || (a.prio == b.prio && (decide (a.age < b.age) || (a.age == b.age && decide (a.id ≤ b.id)))))
    ((s.dieAt die).reqs.filter s.served)

/-- The first request of a list that can be placed, with the machine that has placed it. -/
def State.firstPlaced (s : State) (die : Nat) : List Request → Option (Request × State)
  | [] => none
  | r :: t =>
    match s.tryPlace die r with
    | some s => some (r, s)
    | none => s.firstPlaced die t

/-- The request a die's dispatcher places next, with the machine that has placed it. -/
def State.nextPlaced (s : State) (die : Nat) : Option (Request × State) := s.firstPlaced die (s.queueOf die)

/-- Whether a request restores a saved cohort. -/
def Request.restores (r : Request) : Bool := match r.kind with | .restore _ => true | _ => false

/-- NEED of PLACEMENT_STALL (R418). -/
def Request.need (r : Request) (s : State) : Word :=
  let m := r.room s.saved
  word (r.slices % 16 + r.csize % 32 * 2 ^ 4 + m.regs % 2 ^ 16 * 2 ^ 16 + m.tiles % 2 ^ 16 * 2 ^ 32 + m.spad % 2 ^ 16 * 2 ^ 48)

/-- PLACEMENT_STALL sent for a request, and when (R418). -/
def State.stall (s : State) (die : Nat) (r : Request) : State :=
  let d := s.dieAt die
  let s := s.setDie die { d with reqs := d.reqs.map (fun x => if x.id = r.id then { x with stalled := some s.time } else x) }
  s.sendStall 1 r.ctx die r.entry (r.need s)

/-- Whether a birth waits for a frame to become free (R353, R418), and not for a pin count. -/
def State.lacksFrame (s : State) (r : Request) : Bool :=
  let none? (g : Granted) : Bool := match g with | .noFrame => true | _ => false
  match r.kind with
  | .task k _ => none? (s.grantAll r.ctx ((pkRanges (s.taskAt k).packet).getD []) r.csize)
  | .window wk =>
    match look s.windows wk with
    | some w =>
      match look s.streams w.stream with
      | some ctl => (s.stepRanges ctl w).any (fun rs => none? (s.grantStep r.ctx w.state rs))
      | none => false
    | none => false
  | .restore _ => false

/-- Whether a request meets a condition of PLACEMENT_STALL for the first time (R418): a shape no core can hold, or a birth
that waits for a free frame. -/
def State.stallsNow (s : State) (die : Nat) (r : Request) : Bool :=
  r.stalled == none && (s.unlaunchable die r || ((s.bestCore die r).isSome && s.lacksFrame r))

/-- The event PLACEMENT (R298): die `obj`'s dispatcher places the first waiting request that fits; where none does, a
request that cannot be launched, or waits for a frame, raises PLACEMENT_STALL. -/
def execPlacement (s : State) : Out :=
  let die := s.arg.obj
  match s.nextPlaced die with
  | some (r, s') => .next (if r.restores then s else s')
  | none =>
    match (s.queueOf die).find? (s.stallsNow die) with
    | some r => .next (s.stall die r)
    | none => .next s

/-- The event COHORT_RESTORE (R405): die `obj`'s dispatcher places a saved cohort again. -/
def execCohortRestore (s : State) : Out :=
  match s.nextPlaced s.arg.obj with
  | some (r, s') => .next (if r.restores then s' else s)
  | none => .next s

/-- A request of a die that its dispatcher serves, by its number. -/
def State.reqBy (s : State) (die id : Nat) : Option Request := (s.dieAt die).reqs.find? (fun r => r.id == id && s.served r)

/-- Whether PLACEMENT_STALL is due again (R418). -/
def State.stallDue (s : State) (r : Request) : Bool :=
  match r.stalled with
  | some t => decide (t + (s.partAt (partOfCtx r.ctx)).tEvict ≤ s.time)
  | none => false

/-- The event PLACEMENT_STALL_REPEAT (R418): request `obj2` of die `obj` still waits. -/
def execPlacementStallRepeat (s : State) : Out :=
  match s.reqBy s.arg.obj s.arg.obj2 with
  | some r => .next (if s.stallDue r then s.stall s.arg.obj r else s)
  | none => .next s

/-- Whether a core closes for a request. -/
def State.closesFor (s : State) (r : Request) : Bool := s.cores.any (fun c => c.2.closing == some r.id)

/-- Whether a request's T_STARVE has passed and no core closes for it yet (R299). -/
def State.starveDue (s : State) (die : Nat) (r : Request) : Bool :=
  decide (r.age + (s.partAt (partOfCtx r.ctx)).tStarve ≤ s.time) && !s.closesFor r && !s.unlaunchable die r

/-- The core that would fit a request best once emptied (R299). -/
def State.starveCore (s : State) (die : Nat) (r : Request) : Option Nat :=
  let all (c : Nat) : List Nat := (s.cohorts.filter (fun x => x.1 / 32 == c)).map Prod.fst
  bestOf (((s.coresFor die r).filter (fun c => s.coreOpen c r && s.fitsBeside c r (all c))).map (fun c => s.fitKeys c r (all c)))

/-- The event STARVE_TIMEOUT (R299): the best core for request `obj2` of die `obj` closes to every other. -/
def execStarveTimeout (s : State) : Out :=
  let die := s.arg.obj
  match s.reqBy die s.arg.obj2 with
  | some r =>
    if s.starveDue die r && (s.bestCore die r).isNone then
      match s.starveCore die r with
      | some n => .next (s.setCore n { s.coreAt n with closing := some r.id })
      | none => .next s
    else .next s
  | none => .next s

/-- The bound of a request's pre-emptions (R297, R398): T_PRE, or BOUND of a time-triggered slot; the second part says
that it does not wait for T_EVICT. -/
def State.boundOf (s : State) (r : Request) : Nat × Bool :=
  let p := s.partAt (partOfCtx r.ctx)
  match r.kind with
  | .task k _ =>
    match ((s.taskAt k).tt).bind (fun n => look p.tts n) with
    | some t => (t.bound, true)
    | none => (p.tPre, false)
  | _ => (p.tPre, false)

/-- The requester of a pre-emption as BOUND_MISSED names it (R402): the number of a time-triggered slot, with bit 63 set, or
the entry address of the request that waits (log 24). -/
def State.requester (s : State) (r : Request) : Word :=
  match r.kind with
  | .task k _ =>
    match (s.taskAt k).tt with
    | some n => word (2 ^ 63 + n)
    | none => r.entry
  | _ => r.entry

/-- Whether a pre-emption for a request is under way. -/
def State.evicting (s : State) (r : Request) : Bool :=
  let mine (x : Option PreReq) : Bool := match x with | some q => q.req == r.id | none => false
  s.cohorts.any (fun c => mine c.2.drain || mine c.2.saving || c.2.pend.any (fun q => q.req == r.id))

/-- Whether a request has waited until its pre-emption (R297, R299). -/
def State.evictDue (s : State) (r : Request) : Bool :=
  (decide (r.age + (s.partAt (partOfCtx r.ctx)).tEvict ≤ s.time) || (s.boundOf r).2) && !s.evicting r

/-- The sublists of n elements. -/
def choose {α : Type} : Nat → List α → List (List α)
  | 0, _ => [[]]
  | _ + 1, [] => []
  | n + 1, x :: t => (choose n t).map (fun l => x :: l) ++ choose (n + 1) t

/-- Bytes a save of a cohort moves (R400). -/
def State.saveBytes (s : State) (ck : Nat) : Nat :=
  let ts := s.threads.filter (fun t => t.2.cohort == ck && !t.2.ended)
  let regs := ts.foldl (fun n t => n + 16 * t.2.slices * t.2.vregs + 8192 * t.2.slices * t.2.tiles.length + 1024) 0
  match look s.cohorts ck with
  | some c => regs + c.spsize + c.recs.foldl (fun n r => n + (if r.2.live then r.2.bytes else 0)) 0
  | none => regs

/-- The sets of n cohorts of a core, of equal or lower priority, whose departure makes room (R299), with the bytes they
save. -/
def State.evictSets (s : State) (core : Nat) (r : Request) (n : Nat) : List (List Nat × Nat) :=
  let cs := (s.cohorts.filter (fun c => c.1 / 32 == core && decide (r.prio ≤ c.2.prio))).map Prod.fst
  ((choose n cs).filter (fun l => s.fitsBeside core r l)).map (fun l => (l, l.foldl (fun b k => b + s.saveBytes k) 0))

/-- The set with the fewest saved bytes, the earlier on a tie. -/
def leastBytes : List (List Nat × Nat) → Option (List Nat × Nat)
  | [] => none
  | x :: t =>
    match leastBytes t with
    | none => some x
    | some y => if x.2 ≤ y.2 then some x else some y

/-- The smallest set of R299, looking at sets of n, n + 1, … cohorts, by fuel. -/
def State.evictSet (s : State) (die : Nat) (r : Request) : Nat → Nat → Option (List Nat)
  | 0, _ => none
  | f + 1, n =>
    let cores := (s.coresFor die r).filter (fun c => s.coreOpen c r)
    match leastBytes (cores.flatMap (fun c => s.evictSets c r n)) with
    | some x => some x.1
    | none => s.evictSet die r f (n + 1)

/-- A pre-emption request made of a cohort (R398). -/
def State.askPreempt (s : State) (ck : Nat) (q : PreReq) : State :=
  match look s.cohorts ck with
  | some c => s.setCohort ck { c with pend := c.pend ++ [q] }
  | none => s

/-- The event EVICT_TIMEOUT (R299, R398): the cohorts of the smallest set are pre-empted for request `obj2` of die `obj`;
with no such set PLACEMENT_STALL is raised. -/
def execEvictTimeout (s : State) : Out :=
  let die := s.arg.obj
  match s.reqBy die s.arg.obj2 with
  | some r =>
    if s.evictDue r && (s.bestCore die r).isNone then
      match s.evictSet die r 32 1 with
      | some l =>
        let q : PreReq := { bound := some (s.boundOf r).1, req := r.id, since := s.ungated, who := s.requester r }
        let s := l.foldl (fun s ck => s.askPreempt ck q) s
        match l with
        | ck :: _ => .next (s.setCore (ck / 32) { s.coreAt (ck / 32) with closing := some r.id })
        | [] => .next s
      | none => .next (if r.stalled = none then s.stall die r else s)
    else .next s
  | none => .next s

end Sys2Proof.Machine
end

