-- ==== Sys2Proof/Machine/Select.lean ====
section
/-! DEFINITION. Sys2Proof/Machine/Select.lean: the SL instructions (R140-R153): what is checked at acceptance, and what an
accepted instruction does when it retires. The selection unit of a core serves them in the order it accepted them; the
issuing gang is held until then (R142). -/

namespace Sys2Proof.Machine

/-- PAIRS of an SL instruction (R140). -/
def slPairs (o : LaneOps) : Bool := o.md.getLsbD 1
/-- NUC of an SL instruction (R140). -/
def slNuc (o : LaneOps) : Bool := o.md.getLsbD 0
/-- Bytes of a source element (R141). -/
def slElem (o : LaneOps) : Nat := if slPairs o then 8 else tyWidth o.ty / 8
/-- k of `sl.topk`. -/
def slK (o : LaneOps) : Nat := o.im.toNat % 2 ^ 11

/-- Bytes an SL instruction writes (R141), for n source elements: none for samp and rng. -/
def slDstBytes (fn : Nat) (o : LaneOps) (n : Nat) : Nat :=
  match fn with
  | 0 => 8 * min (slK o) n
  | 1 => n * (if slPairs o then 8 else 4)
  | _ => 0

/-- The checks of R141 in the order of R42, their OPERAND_RANGE before MISALIGN and QCB_STORE (DEDUCED, log 20): the fault code
and the address. -/
def slCheck (c : Cohort) (fn : Nat) (o : LaneOps) (src n dst : Nat) : Option (Nat × Nat) :=
  let len := slDstBytes fn o n
  if n = 0 ∨ 2 ^ 18 < n then some (0x0D, 0)
  else if c.spsize < src + n * slElem o then some (0x0D, src)
  else if fn < 2 ∧ c.spsize < dst + len then some (0x0D, dst)
  else if src % slElem o ≠ 0 then some (0x04, src)
  else if fn < 2 ∧ dst % (if fn = 0 then 8 else 4) ≠ 0 then some (0x04, dst)
  else if fn < 2 ∧ c.hitsQcb dst len then some (0x09, dst)
  else none

/-- Clk from the service of a selection to its retirement, the port uncontended (R152). -/
def slClk (fn : Nat) (o : LaneOps) (n : Nat) : Nat :=
  let read := ceilDiv (n * slElem o) 128
  match fn with
  | 0 => read + ceilDiv (slK o) 16 + ceilDiv (8 * min (slK o) n) 128 + 16
  | 1 => ceilDiv (n * (2 * slElem o + 4 + 2 * (if slPairs o then 8 else 4))) 128 + 40
  | 2 => (if slNuc o then 2 * read else read) + 20
  | _ => 20

/-- When a selection accepted now on a core retires (R142, R152): it waits for the end of the one before it. That the unit
shares the scratchpad's port is left out (log 4). -/
def State.slEnds (s : State) (core fn : Nat) (o : LaneOps) (n : Nat) : Nat :=
  (s.coreAt core).slq.foldl (fun m x => max m x.ends) s.ungated + slClk fn o n

/-- The selections of a core when some have been cancelled (R143), each kept one with its new time to retire: one that has begun
keeps its own, the others follow one another from now. -/
def slRetimed (now : Nat) : Nat → List SlOp → List SlOp
  | _, [] => []
  | m, x :: t =>
    let n := slClk x.fn x.o x.n
    let ends := if x.ends ≤ now + n then x.ends else m + n
    { x with ends } :: slRetimed now ends t

/-- An SL instruction accepted (R141, R142): the gang is held until it retires. topk and smax end the clean state
(R143). -/
def slAccept (s : State) (tid : Nat) (t : Thread) (op : SlOp) : Out :=
  let n := coreOf tid
  let c := s.coreAt n
  let s := s.setCore n { c with slq := c.slq ++ [op] }
  .next (s.onLive tid (fun _ => (if op.fn < 2 then t.dirty else t).gangWait op.gang (some .select)))

/-- A thread operation of the selection unit (R141): no effect without an active lane, which comes before POOL. -/
def slOp (s : State) (fn : Nat) (o : LaneOps) : Out :=
  let none' (tid : Nat) (t : Thread) (g : Nat) (ls : List Nat) : Option Out :=
    if ls.isEmpty then some (laneDone s tid t t g []) else none
  onGangFirst s 0x90 (BitVec.ofNat 8 fn) o none' (fun tid t g ls =>
      match look s.cohorts t.cohort with
      | none => laneHold s tid g
      | some c =>
        let src := t.uniform ls o.a 32
        let nb := t.uniform ls o.b 64
        let n := nb % 2 ^ 32
        let dst := if fn < 2 then t.uniform ls o.c 32 else 0
        match slCheck c fn o src n dst with
        | some (f, a) => faultOut s tid (gangF t g f (ls.headD 0xFF) (word a) 0)
        | none =>
          slAccept s tid t { ends := s.slEnds (coreOf tid) fn o n, seen := [], done := [], uid := t.uid, tid,
                             cohort := t.cohort, gang := g, lanes := ls, fn, o, len := s.cur.len, blocks := [], src, n,
                             base := nb / 2 ^ 32, dst })

/-- `sl.topk` (R140-R145). -/
def execSlTopk (o : LaneOps) (s : State) : Out := slOp s 0 o
/-- `sl.smax` (R140-R143, R146). -/
def execSlSmax (o : LaneOps) (s : State) : Out := slOp s 1 o
/-- `sl.samp` (R140-R143, R148, R149). -/
def execSlSamp (o : LaneOps) (s : State) : Out := slOp s 2 o

/-- `sl.rng` (R140, R142, R151): the block word 0xFFFF_FFFF is turned away before any lane takes effect. -/
def execSlRng (o : LaneOps) (s : State) : Out :=
  onGang s 0x90 3 o (fun tid t g ls =>
    let bs := ls.map (fun l => (l, t.laneRead l o.a 32))
    match bs.find? (fun b => b.2 == 0xFFFFFFFF) with
    | some b => faultOut s tid (gangF t g 0x0D b.1 0 0)
    | none =>
      slAccept s tid t { ends := s.slEnds (coreOf tid) 3 o 0, seen := [], done := [], uid := t.uid, tid,
                         cohort := t.cohort, gang := g, lanes := ls, fn := 3, o, len := s.cur.len, blocks := bs, src := 0,
                         n := 0, base := 0, dst := 0 })

/-- A source element: its value as an f32 code and its index (R140, R141). -/
abbrev SlItem := Nat × Nat

/-- A source byte: as the unit has read its word, else as it stands (R142). -/
def slByte (c : Cohort) (op : SlOp) (a : Nat) : Byte :=
  match look op.seen (a / 4) with
  | some (w, _) => BitVec.ofNat 8 (w / 2 ^ (8 * (a % 4)))
  | none => c.scratch.get8 a

/-- The 4-byte words of scratchpad that bytes touch. -/
def wordsOf (off n : Nat) : List Nat := upFrom (off / 4) ((off + n + 3) / 4 - off / 4)

/-- The source words of a selection (R141). -/
def slWords (op : SlOp) : List Nat := if op.fn = 3 then [] else wordsOf op.src (op.n * slElem op.o)

/-- Whether a source word is poisoned, as the unit has read it, else as it stands (R143). -/
def slPoisoned (c : Cohort) (op : SlOp) : Bool :=
  (slWords op).any (fun w => (look op.seen w).elim (c.poisoned (4 * w) 4) Prod.snd)

/-- A source word read (R142): one access. -/
def slSee (c : Cohort) (op : SlOp) (w : Nat) : SlOp :=
  if (look op.seen w).isSome then op
  else { op with seen := put op.seen w (leNat (c.scratch.readBytes (4 * w) 4), c.poisoned (4 * w) 4) }

/-- Bytes written by the unit, but none of a control block: one bound since the acceptance is written by its home alone (R213). -/
def Cohort.writeUnguarded (c : Cohort) (off : Nat) (bs : List Byte) : Cohort :=
  if c.hitsQcb off bs.length then
    bs.zipIdx.foldl (fun c b => if c.hitsQcb (off + b.2) 1 then c else c.writeScratch (off + b.2) [b.1]) c
  else c.writeScratch off bs

/-- The destination bytes written, each word the unit has not written before (R142). -/
def slWrite (c : Cohort) (op : SlOp) (bs : List Byte) : Cohort :=
  if op.done.isEmpty then c.writeUnguarded op.dst bs
  else (wordsOf op.dst bs.length).foldl (fun c w =>
    if op.done.contains w then c else c.writeUnguarded (4 * w) ((bs.drop (4 * w - op.dst)).take 4)) c

/-- The source vector as f32 codes with their indices. -/
def slItems (c : Cohort) (op : SlOp) : List SlItem :=
  let bs := (upFrom op.src (op.n * slElem op.o)).map (slByte c op)
  (upFrom 0 op.n).map (fun i =>
    if slPairs op.o then (leAt bs (8 * i) 4, leAt bs (8 * i + 4) 4)
    else if op.o.ty = 10 then (leAt bs (2 * i) 2 * 2 ^ 16, (op.base + i) % 2 ^ 32)
    else (leAt bs (4 * i) 4, (op.base + i) % 2 ^ 32))

/-- Whether an element ranks at or above another (R144). -/
def ranksAbove (x y : SlItem) : Bool :=
  let vx := Fmt.f32.value x.1
  let vy := Fmt.f32.value y.1
  if vx = .nan ∧ vy = .nan then decide (x.2 ≤ y.2)
  else if vy = .nan then true
  else if vx = .nan then false
  else if vy.lt vx then true
  else if vx.lt vy then false
  else decide (x.2 ≤ y.2)

/-- What `sl.topk` leaves (R144): the pairs from the highest rank down. Two stored pairs of equal value and equal index, which
R144 does not rank, keep their order in the source (DESIGN CHOICE, log 10). -/
def topkPairs (k : Nat) (xs : List SlItem) : List SlItem :=
  ((sortBy ranksAbove xs).take k).map (fun x => (if Fmt.f32.value x.1 = .nan then canonNaN .f32 else x.1, x.2))

/-- floor of a value that is no infinity. -/
def FVal.floor : FVal → Int
  | .fin neg m e =>
    let v : Int := if neg then -(m : Int) else m
    if 0 ≤ e then v * (2 ^ e.toNat : Nat) else v.fdiv (2 ^ (-e).toNat : Nat)
  | _ => 0

/-- A value with an integer taken away, exactly. -/
def FVal.minus (x : FVal) (i : Int) : FVal := (x.add .rne (.fin (decide (0 < i)) i.natAbs 0)).1

/-- T(h): the f32 nearest to 2^(h/64) (R147). -/
def expTable (h : Nat) : Nat := (roundF .f32 .rne (FVal.exp2 (.fin false h (-6))).1).1

/-- EXP2T of an f32 code of value at most 0 (R147). -/
def exp2T (t : Nat) : Nat :=
  match Fmt.f32.value t with
  | .inf _ => 0
  | .nan => canonNaN .f32
  | x =>
    if x.isZero then 0x3F800000
    else
      let i := x.floor
      let f := x.minus i
      let h : Nat := (match f with
        | .fin _ m e => if 0 ≤ e + 6 then m * 2 ^ (e + 6).toNat else m / 2 ^ (-(e + 6)).toNat
        | _ => 0)
      let g := (roundF .f32 .rne (f.add .rne (.fin true h (-6))).1).1
      let add (a b : Nat) := (addF .f32 a b).1
      let mul (a b : Nat) := (mulF .f32 a b).1
      let q := add 0x3E75FDF0 (mul g 0x3D635866)
      let q := add 0x3F317218 (mul g q)
      let p := add 0x3F800000 (mul g q)
      let y := mul (expTable h) p
      (roundF .f32 .rne ((Fmt.f32.value y).mul (.fin false 1 i)).1).1

/-- One level of pairwise sums (R146). -/
def pairSums : List Nat → List Nat
  | a :: b :: r => (addF .f32 a b).1 :: pairSums r
  | l => l

/-- The sum of a chunk of 32, padded with +0, in five levels (R146). -/
def chunkSum (l : List Nat) : Nat :=
  let l := l ++ List.replicate (32 - l.length) 0
  (pairSums (pairSums (pairSums (pairSums (pairSums l))))).headD 0

/-- The chunks of 32 elements, by fuel. -/
def chunks32 : Nat → List Nat → List (List Nat)
  | 0, _ => []
  | _ + 1, [] => []
  | f + 1, l => l.take 32 :: chunks32 f (l.drop 32)

/-- Sequential f32 sum in list order, every partial one (R148). -/
def runningSums : Nat → List Nat → List Nat
  | _, [] => []
  | acc, x :: r =>
    let y := (addF .f32 acc x).1
    y :: runningSums y r

/-- S_0 is the first element itself (R146, R148). -/
def sumsOf : List Nat → List Nat
  | [] => []
  | x :: r => x :: runningSums x r

/-- The probabilities, the sum for D, and whether INVALID is raised (R146). -/
def smaxOf (beta : Nat) (xs : List Nat) : List Nat × Nat × Bool :=
  let vb := Fmt.f32.value beta
  let badBeta := (match vb with | .fin neg m _ => neg || m == 0 | _ => true)
  let m := xs.foldl (fun m x => if (Fmt.f32.value m).lt (Fmt.f32.value x) then x else m) (xs.headD 0)
  let infMax := (match Fmt.f32.value m with | .inf _ => true | _ => false)
  if badBeta || infMax || xs.any (fun x => Fmt.f32.value x == .nan) then
    (xs.map (fun _ => canonNaN .f32), canonNaN .f32, true)
  else
    let es := xs.map (fun x =>
      let d := (roundF .f32 .rne ((Fmt.f32.value x).add .rne (Fmt.f32.value m).negate).1).1
      exp2T (mulF .f32 d beta).1)
    let sum := ((sumsOf ((chunks32 es.length es).map chunkSum)).getLast?).getD 0
    (es.map (fun e => (divF .f32 e sum).1), sum, false)

/-- Whether an f32 code is a NaN or below 0 (R148). -/
def badWeight (x : Nat) : Bool :=
  Fmt.f32.value x == .nan || (Fmt.f32.value x).lt (.fin false 0 0)

/-- The element `sl.samp` draws (R148, R149), u as a 24-bit fraction: its position; none where INVALID is raised. -/
def sampOf (nuc : Bool) (im u : Nat) (ws : List Nat) : Option Nat :=
  let vp := Fmt.f32.value im
  let one : FVal := .fin false 1 0
  let zero : FVal := .fin false 0 0
  let sums := sumsOf ws
  let total := (sums.getLast?).getD 0
  if nuc && !(zero.lt vp && !one.lt vp) then none
  else if ws.any badWeight || (Fmt.f32.value total).isZero then none
  else
    let last := sums.length - 1
    let th := Fmt.f32.value (mulF .f32 im total).1
    let c := if nuc then
        (((upFrom 0 sums.length).find? (fun j =>
          let v := Fmt.f32.value (nth sums j 0)
          !v.lt th && zero.lt v)).getD last)
      else last
    let r := Fmt.f32.value (roundF .f32 .rne ((FVal.fin false u (-24)).mul (Fmt.f32.value (nth sums c 0))).1).1
    match (upFrom 0 (c + 1)).find? (fun i => r.lt (Fmt.f32.value (nth sums i 0))) with
    | some j => some j
    | none => ((upFrom 0 (c + 1)).filter (fun i => zero.lt (Fmt.f32.value (nth ws i 0)))).getLast?

/-- Pairs as bytes (R144). -/
def pairBytes (ps : List SlItem) : List Byte := ps.flatMap (fun p => leBytes 4 p.1 ++ leBytes 4 p.2)

/-- What a computed selection does: the bytes at its destination, the value of D in each lane, INVALID, whether the
counter rises. -/
structure SlDone where
  bytes : List Byte
  value : Nat
  bad   : Bool
  draw  : Bool
  deriving DecidableEq, Repr

/-- The computation of topk, smax or samp on its source (R144, R146, R148). -/
def slCompute (op : SlOp) (t : Option Thread) (xs : List SlItem) : SlDone :=
  match op.fn with
  | 0 =>
    let r := topkPairs (slK op.o) xs
    { bytes := pairBytes r, value := r.length, bad := false, draw := false }
  | 1 =>
    let r := smaxOf op.o.im.toNat (xs.map Prod.fst)
    { bytes := if slPairs op.o then pairBytes (r.1.zip (xs.map Prod.snd)) else r.1.flatMap (leBytes 4),
      value := r.2.1, bad := r.2.2, draw := false }
  | _ =>
    let w0 := (match t with
      | some t => (philox t.rngkey t.rngctr.toNat (t.rngctr.toNat / 2 ^ 32) 0xFFFFFFFF 0).headD 0
      | none => 0)
    match sampOf (slNuc op.o) op.o.im.toNat (w0 / 2 ^ 8) (xs.map Prod.fst) with
    | some j => { bytes := [], value := (nth xs j (0, 0)).2, bad := false, draw := true }
    | none => { bytes := [], value := 0xFFFFFFFF, bad := true, draw := true }

/-- The gang released with its result (R141, R142), its flags ORed and an enabled trap taken (R143). The trap's record names
the lowest active lane and source 1, the gang, for the one computation of `sl.smax` or `sl.samp` (log 10). -/
def State.slDeliver (s : State) (op : SlOp) (fl : FFlags) (f : Thread → Thread) : State :=
  match look s.threads op.tid with
  | some t =>
    if t.ended || t.uid != op.uid then s
    else
      (s.setThread op.tid ((f t).advance op.gang op.len)).trapAfter op.tid fl
        (gangF t op.gang 0x15 (op.lanes.headD 0xFF) 0 0)
  | none => s

/-- The four words of each lane of `sl.rng` (R151). -/
def rngWords (t : Thread) (bs : List (Nat × Nat)) : List (Nat × List Nat) :=
  bs.map (fun b => (b.1, philox t.rngkey t.rngctr.toNat (t.rngctr.toNat / 2 ^ 32) b.1 b.2))

/-- Whether the words of a selection can be accessed now: none of its lines is owned by an engine (R183). -/
def State.slFree (s : State) (op : SlOp) : Bool :=
  match look s.cohorts op.cohort with
  | none => true
  | some c => op.fn == 3 || (!s.scratchOwned c op.src (op.n * slElem op.o)
      && !(decide (op.fn < 2) && s.scratchOwned c op.dst (slDstBytes op.fn op.o op.n)))

/-- What an accepted selection does when it retires: the operation has left the queue. A poisoned source word ends the
thread and leaves the destination undefined (R143); its record names the lowest active lane and the start of the source, where
the spec names neither (DESIGN CHOICE, log 10). -/
def State.slPerform (s : State) (op : SlOp) : State :=
  if op.fn = 3 then s.slDeliver op 0 (fun t => t.writeRun 32 op.o.d (rngWords t op.blocks))
  else
    match look s.cohorts op.cohort with
    | none => s
    | some c =>
      if slPoisoned c op then
        let len := slDstBytes op.fn op.o op.n
        let bs := (upFrom op.dst len).map (fun a => Config.freeByte s.freeCount a)
        let s := s.setCohort op.cohort (c.writeUnguarded op.dst bs)
        let s : State := { s with freeCount := s.freeCount + 1 }
        match look s.threads op.tid with
        | some t =>
          if t.uid = op.uid then
            s.fault op.tid { gangF t op.gang 0x07 (op.lanes.headD 0xFF) (word op.src) 0 with source := 3 }
          else s
        | none => s
      else
        let t := (look s.threads op.tid).bind (fun t => if t.uid = op.uid then some t else none)
        let r := slCompute op t (slItems c op)
        let s := s.setCohort op.cohort (slWrite c op r.bytes)
        s.slDeliver op (if r.bad then fInvalid else 0) (fun t =>
          (if r.draw then { t with rngctr := t.rngctr + 1 } else t).writeN32 op.o.d (op.lanes.map (fun l => (l, r.value))))

/-- One access of the unit ahead of the retirement (R142): a source word not yet read is read; a destination word not yet
written is written, after every source word has been read (R141). Poisoned sources leave that word to the retirement. -/
def State.slTouch (s : State) (n : Nat) (op : SlOp) (rest : List SlOp) (w : Nat) : State :=
  let core := s.coreAt n
  match look s.cohorts op.cohort with
  | none => s
  | some c =>
    if (slWords op).contains w && (look op.seen w).isNone then
      if s.scratchOwned c (4 * w) 4 then s else s.setCore n { core with slq := slSee c op w :: rest }
    else if decide (op.fn < 2) && (wordsOf op.dst (slDstBytes op.fn op.o op.n)).contains w && !op.done.contains w
        && s.slFree op then
      let op := (slWords op).foldl (slSee c) op
      let s := s.setCore n { core with slq := { op with done := w :: op.done } :: rest }
      if slPoisoned c op then s
      else
        let bs := (slCompute op none (slItems c op)).bytes
        s.setCohort op.cohort (c.writeUnguarded (4 * w) ((bs.drop (4 * w - op.dst)).take 4))
    else s

/-- The event SL_RETIRE (R142): the oldest accepted selection of core `obj` retires; one whose words an engine owns
stays. Where `bound` names a word of scratchpad, the selection only reads or writes that word ahead of its retirement: the
accesses it makes at that moment. -/
def execSlRetire (s : State) : Out :=
  let n := s.arg.obj
  let c := s.coreAt n
  match c.slq with
  | [] => .next s
  | op :: r =>
    match s.arg.bound with
    | some w => .next (s.slTouch n op r w)
    | none => if s.slFree op then .next ((s.setCore n { c with slq := r }).slPerform op) else .next s

end Sys2Proof.Machine
end

