-- ==== Sys2Proof/Machine/TaskEngine.lean ====
section
/-! DEFINITION. Sys2Proof/Machine/TaskEngine.lean: the task engine's own steps (R286-R297): taking packets, decrements,
launching and completing tasks, splitting range pieces, time-triggered releases. -/

namespace Sys2Proof.Machine

/-- The die of a partition with the most free task slots, the lowest on a tie; none while every table is full (R286). -/
def State.spawnDie (s : State) (part : Nat) : Option Nat :=
  let ds := ((s.partAt part).dies.map (fun d => (s.freeSlots d, d))).filter (fun x => x.1 != 0)
  match ds with
  | [] => none
  | x :: t => some (t.foldl (fun m y => if m.1 < y.1 then y else m) x).2

/-- A packet that breaks R288 or R289 dropped with its record (R289). -/
def State.dropPacket (s : State) (die ctx code : Nat) (addr info : Word) : State :=
  s.raise ctx (.unit die) 0 (engineRec code 6 0xFF 0 addr info)

/-- The bytes of a packet at the start of an element (R287, R288); none where it breaks R288 or R289. -/
def packetIn (e : List Byte) : Option (List Byte) :=
  match pkLen (leAt e 0 8) with
  | some n => if packetOk (e.take n) then some (e.take n) else none
  | none => none

/-- The bound submission queue of a context (R287), where the task engine may act on it: a frozen one, or one whose SCOPE does
not admit engines (R208, log 23), it leaves alone. -/
def State.submitRef (s : State) (ctx : Nat) : Option QRef :=
  match look s.ctxs ctx with
  | some c =>
    match s.globalRef ctx c.submitQ.toNat with
    | some r => if (s.queueAt r).any (fun q => q.frozen.isNone) && engineScope (s.qcbBytes r 64) then some r else none
    | none => none
  | none => none

/-- The event TASK_ENGINE_POP (R286, R287, R289): a packet of context `obj`'s submission queue takes a slot. The task engine
of the queue's home die pops it; a block that fails its check freezes the queue, with its record (R214). -/
def execTaskEnginePop (s : State) : Out :=
  let ctx := s.arg.obj
  match s.submitRef ctx, s.spawnDie (partOfCtx ctx), look s.ctxs ctx with
  | some r, some die, some c =>
    let home := s.homeOf ctx c.submitQ.toNat / 128
    if !s.ctxRuns ctx || s.queueBusy r false 1 then .next s
    else
      let h := s.homePop r (.unit home) 1
      let s := h.s.applyEnds h.ended
      match h.ans with
      | .many (p :: _) (e :: _) poison =>
        if poison then .next (s.dropPacket home ctx 0x07 c.submitQ (word p))
        else
          match packetIn e with
          | none => .next (s.dropPacket home ctx 0x0D c.submitQ (word p))
          | some b =>
            match s.freeSlot die with
            | some slot => .next (s.acceptPacket die slot ctx b 0 (pkPrio b) none).2
            | none => .next s
      | .corrupt m => .next (s.dropPacket home ctx 0x08 c.submitQ (word m))
      | _ => .next s
  | _, _, _ => .next s

/-- Whether operations sent to a partition's task slots are performed (R379, R412): those sent before a census are, before it is
done. -/
def State.partServes (s : State) (part : Nat) : Bool :=
  s.run == .running && (s.partAt part).level == 0 && (s.partAt part).census != 2

/-- The oldest event of a die's task engine that is not held (R290): the engine holds those of a partition under quarantine or
after a census, and stops with the device (R379, R412). -/
def State.nextDecrement (s : State) (die : Nat) : Option (Word × Bool) :=
  (s.dieAt die).decs.find? (fun e => s.partServes (hPart e.1))

/-- The event TASK_DECREMENT (R290, R291, R293): the oldest event of die `obj`'s task engine is performed. -/
def execTaskDecrement (s : State) : Out :=
  let die := s.arg.obj
  let d := s.dieAt die
  match s.nextDecrement die with
  | none => .next s
  | some e => .next (State.decrAll eventFuel (s.setDie die { d with decs := d.decs.erase e }) [e])

/-- The launch record of an entry address (R58, R425): VREGS in bits 7:0, TILES in bits 15:8, SPAD in bits 63:32. -/
def State.launchOf (s : State) (ctx : Nat) (entry : Nat) : BitVec 64 :=
  ((look s.ctxs ctx).bind (fun c => look c.launches entry)).getD 8

/-- The placement request of a task's piece (R288, R298). -/
def State.taskRequest (s : State) (k i : Nat) : Request :=
  let t := s.taskAt k
  let l := (s.launchOf t.ctx (pkEntry t.packet)).toNat
  { id := s.nextAge, ctx := t.ctx, prio := t.prio, age := s.time, kind := .task k i, entry := word (pkEntry t.packet),
    csize := pkCohort t.packet, slices := pkSlices t.packet, vregs := bits l 7 0, tiles := bits l 15 8,
    spad := bits l 63 32, stalled := none }

/-- A piece's request posted on a die. -/
def State.postTask (s : State) (die k i : Nat) : State :=
  let r := s.taskRequest k i
  let d := s.dieAt die
  { s.setDie die { d with reqs := d.reqs ++ [r] } with nextAge := s.nextAge + 1 }

/-- Whether a request of a list is for a task slot. -/
def asksFor (k : Nat) (r : Request) : Bool := match r.kind with | .task j _ => j == k | _ => false

/-- Whether a request for a task slot waits on some die. -/
def State.requested (s : State) (k : Nat) : Bool := s.dies.any (fun d => d.2.reqs.any (asksFor k))

/-- Whether a task is ready and its cohorts are not asked for yet. -/
def State.launchReady (s : State) (k : Nat) : Bool :=
  s.ctxRuns (s.taskAt k).ctx && (s.taskAt k).st == .ready && !s.requested k

/-- Whether a slot still WAITS with its counter at 0: the count word of its task is still to be read (R294). -/
def State.countUnread (s : State) (k : Nat) : Bool :=
  s.ctxRuns (s.taskAt k).ctx && (s.taskAt k).st == .waiting && (s.taskAt k).count == 0

/-- The event TASK_LAUNCH (R291, R294, R298): the cohorts of ready task slot `obj` are asked for on its die; the count word
that waited at its home is read. -/
def execTaskLaunch (s : State) : Out :=
  let k := s.arg.obj
  if s.launchReady k then
    .next ((upFrom 0 (s.taskAt k).pieces.length).foldl (fun s i => s.postTask (k / 65536) k i) s)
  else if s.countUnread k then
    let x := s.makeReady k
    .next (State.decrAll eventFuel x.1 x.2)
  else .next s

/-- Whether every effect of a thread is performed (R292): its reductions, here and on other packages, and its attached
engine operations (R182). With `owed`, those from before its `task.done` alone (R329). -/
def State.effectsDone (s : State) (owed : Bool) (uid : Nat) : Bool :=
  let red (r : Red) : Bool := r.uid != uid || (owed && !r.owed)
  s.threads.all (fun t => t.2.redBuf.all red)
    && s.saved.all (fun x => x.2.threads.all (fun t => t.redBuf.all red))
    && s.dies.all (fun d => d.2.combiner.all red)
    && s.cores.all (fun c => c.2.posted.all red)
    && s.flows.all (fun f => f.2.reds.all red)
    && s.chans.all (fun c => c.2.chains.all (fun h =>
        h.uid != uid || (owed && !h.owed) || (s.attachedOf h).isEmpty))
    && s.cores.all (fun c => c.2.mx.all (fun o =>
        o.uid != uid || (owed && !o.owed) || (match o.kind with
          | .mst _ _ _ => false
          | .mstx _ _ _ _ => false
          | _ => true)))

/-- Whether a saved cohort belongs to a task. -/
def State.savedOf (s : State) (h : Word) : Bool := s.saved.any (fun x => x.2.threads.any (fun t => t.task == h && !t.ended && !t.detached))

/-- Whether a running task can complete (R291-R293): its last thread has ended, and, where none has faulted, every effect
of its threads is performed. -/
def State.completeReady (s : State) (k : Nat) : Bool :=
  let t := s.taskAt k
  s.ctxRuns t.ctx && t.st == .running && t.threads == 0 && !s.requested k && !s.savedOf (s.slotHandle k)
    && (t.bad || (t.uids.all (s.effectsDone false) && t.gone.all (s.effectsDone true)))

/-- The event TASK_COMPLETE (R291-R293): task slot `obj` is DONE or FAILED, and its successors receive their events. -/
def execTaskComplete (s : State) : Out :=
  let k := s.arg.obj
  if s.completeReady k then
    let x := s.finishTask k (s.taskAt k).bad
    .next (State.decrAll eventFuel x.1 x.2)
  else .next s

/-- The pieces of a partition's running range tasks that can be split (R295): slot, piece number, cursor, end, grain. -/
def State.splittable (s : State) (part : Nat) : List (Nat × Nat × Piece × Int) :=
  s.tasks.flatMap (fun t =>
    if t.2.st = .running ∧ pkKind t.2.packet = 1 ∧ partOfCtx t.2.ctx = part ∧ s.ctxRuns t.2.ctx then
      let g := pkGrain t.2.packet
      t.2.pieces.zipIdx.filterMap (fun p =>
        if p.1.live ∧ 2 * g ≤ p.1.hi - p.1.cur ∧ !(s.dies.any (fun d => d.2.reqs.any (fun r => r.kind == .task t.1 p.2))) then
          some (t.1, p.2, p.1, g)
        else none)
    else [])

/-- The piece with the most left, the lower handle and then the lower piece on a tie (R295). -/
def State.splitChoice (s : State) (part : Nat) : Option (Nat × Nat × Piece × Int) :=
  let before (a b : Nat × Nat × Piece × Int) : Bool :=
    let x := a.2.2.1.hi - a.2.2.1.cur
    let y := b.2.2.1.hi - b.2.2.1.cur
    if x ≠ y then decide (y < x)
    else if s.slotHandle a.1 ≠ s.slotHandle b.1 then decide ((s.slotHandle a.1).toNat < (s.slotHandle b.1).toNat)
    else decide (a.2.1 < b.2.1)
  match s.splittable part with
  | [] => none
  | x :: t => some (t.foldl (fun m y => if before y m then y else m) x)

/-- Whether no task of a partition is READY (R295). -/
def State.noneReady (s : State) (part : Nat) : Bool :=
  s.tasks.all (fun t => partOfCtx t.2.ctx != part || t.2.st != .ready)

/-- The partition a core serves (R372). -/
def State.partServing (s : State) (core : Nat) : Option Nat :=
  (s.parts.find? (fun p => p.2.quads.getLsbD (core / 4))).map Prod.fst

/-- The event RANGE_SPLIT (R295): core `obj` asks for work; the largest running piece is split and its clone asked for on
the core's die. -/
def execRangeSplit (s : State) : Out :=
  let core := s.arg.obj
  match s.partServing core with
  | none => .next s
  | some part =>
    if !s.noneReady part then .next s
    else
      match s.splitChoice part with
      | none => .next s
      | some (k, i, p, g) =>
        let mid := p.cur + (p.hi - p.cur) / 2 / g * g
        let t := s.taskAt k
        let pieces := setNth t.pieces i { p with hi := mid } ++ [{ lo := mid, cur := mid, hi := p.hi, live := true }]
        .next ((s.setTask k { t with pieces }).postTask (dieOfCore core) k t.pieces.length)

/-- Whether a time-triggered slot's previous instance has ended (R297). -/
def State.ttFree (s : State) (t : TTSlot) : Bool :=
  match t.last with
  | none => true
  | some h =>
    let x := s.taskAt (hKey h)
    x.gen.toNat != hGen h || x.st == .done || x.st == .failed

/-- A time-triggered slot of a partition. -/
def State.ttAt (s : State) (part n : Nat) : Option TTSlot := look (s.partAt part).tts n

/-- A time-triggered slot replaced. -/
def State.setTT (s : State) (part n : Nat) (t : TTSlot) : State :=
  let p := s.partAt part
  s.setPart part { p with tts := put p.tts n t }

/-- Whether the previous instance of a slot had ended by the release and its SLACK (R297). -/
def State.ttInTime (s : State) (t : TTSlot) : Bool :=
  s.ttFree t && (t.last.isNone || decide (t.freeAt ≤ t.nextRel + t.slack))

/-- Whether a release can be made now (R297): its time has come, and the previous instance ended no later than its SLACK. -/
def State.releaseDue (s : State) (part n : Nat) : Bool :=
  match s.ttAt part n with
  | some t => s.ctxRuns t.ctx && t.period != 0 && decide (t.nextRel ≤ s.time) && s.ttInTime t && (s.spawnDie part).isSome
  | none => false

/-- The event TT_RELEASE (R296, R297): the packet of slot `obj2` of partition `obj` is spawned with the slot's priority. -/
def execTtRelease (s : State) : Out :=
  let part := s.arg.obj
  let n := s.arg.obj2
  match s.ttAt part n with
  | none => .next s
  | some t =>
    if !s.releaseDue part n then .next s
    else
      let s := s.resident t.ctx t.templ.toNat 256
      let info := word (2 ^ 63 + n)
      let next : TTSlot := { t with nextRel := t.nextRel + t.period }
      let die := s.homeOf t.ctx t.templ.toNat / 128
      match s.readBytes (.unit die) t.ctx t.templ.toNat 8 with
      | .wait => .next s
      | .fault f => .next ((s.setTT part n next).dropPacket die t.ctx f t.templ info)
      | .ok (w0, s) =>
        match pkLen (leNat w0) with
        | none => .next ((s.setTT part n next).dropPacket die t.ctx 0x0D t.templ info)
        | some len =>
          match s.readBytes (.unit die) t.ctx t.templ.toNat len with
          | .wait => .next s
          | .fault f => .next ((s.setTT part n next).dropPacket die t.ctx f t.templ info)
          | .ok (b, s) =>
            if !packetOk b then .next ((s.setTT part n next).dropPacket die t.ctx 0x0D t.templ info)
            else
              match s.spawnDie part with
              | none => .next s
              | some die =>
                match s.freeSlot die with
                | none => .next s
                | some slot =>
                  let y := (s.setTT part n next).acceptPacket die slot t.ctx b t.templ t.prio (some n)
                  .next (y.2.setTT part n { next with last := some y.1 })

/-- Whether a release is skipped now (R297): its slack has passed and the previous instance is unfinished. -/
def State.skipDue (s : State) (part n : Nat) : Bool :=
  match s.ttAt part n with
  | some t => s.ctxRuns t.ctx && t.period != 0 && decide (t.nextRel + t.slack ≤ s.time) && !s.ttInTime t
  | none => false

/-- The event TT_RELEASE_SKIP (R297): a release of slot `obj2` of partition `obj` is skipped, OVERRUN rises and STICKY is
set. -/
def execTtReleaseSkip (s : State) : Out :=
  let part := s.arg.obj
  let n := s.arg.obj2
  match s.ttAt part n with
  | some t =>
    if s.skipDue part n then
      let runs := if t.overrun = BitVec.allOnes 32 then t.overrun else t.overrun + 1
      .next (s.setTT part n { t with nextRel := t.nextRel + t.period, overrun := runs, sticky := true })
    else .next s
  | none => .next s

end Sys2Proof.Machine
end

