-- ==== Sys2Proof/Machine/Preempt.lean ====
section
/-! DEFINITION. Sys2Proof/Machine/Preempt.lean: pre-emption (R398-R407): the choice of drain, save or flush, saving a cohort,
partition swaps, freeing a cohort (R137, R260), the watchdog (R390), and the responses to `sys.sys` (R393). -/

namespace Sys2Proof.Machine

/-- The accepted matrix and selection operations of a cohort. -/
def State.engineOps (s : State) (ck : Nat) : Bool :=
  let c := s.coreAt (ck / 32)
  c.mx.any (fun o => o.cohort == ck) || c.slq.any (fun o => o.cohort == ck)

/-- Live threads of a cohort with their names. -/
def State.membersOf (s : State) (ck : Nat) : List (Nat × Thread) :=
  s.threads.filter (fun t => t.2.cohort == ck)

/-- Whether a cohort is clean (R399). -/
def State.cohortClean (s : State) (ck : Nat) : Bool := (s.membersOf ck).all (fun t => t.2.clean)

/-- The clk until the last of a cohort's accepted operations retires, by R136 and R152 (R139, R143). -/
def State.engineClk (s : State) (ck : Nat) : Nat :=
  let c := s.coreAt (ck / 32)
  let last := (c.mx.filter (fun o => o.cohort == ck)).foldl (fun m o => max m o.time.ends) s.ungated
  (c.slq.filter (fun o => o.cohort == ck)).foldl (fun m o => max m o.ends) last - s.ungated

/-- csave of R400. -/
def State.saveCost (s : State) (ck : Nat) : Nat := 64 + (s.saveBytes ck + 511) / 512 + s.engineClk ck

/-- BOUND_MISSED written (R402): the requester, the bound and the clk taken. -/
def State.boundMissed (s : State) (c : Cohort) (die : Nat) (q : PreReq) : State :=
  s.addRas 4 0 die (partOfCtx c.ctx) c.entry.toNat [q.who, word (q.bound.getD 0), word (s.ungated - q.since), 0]

/-- Operations of a thread that a flush cancels (R137, R143, R404); those behind them come forward. -/
def State.cancelOps (s : State) (core uid : Nat) : State :=
  let c := s.coreAt core
  let mx := c.mx.filter (fun o => o.uid != uid)
  let slq := c.slq.filter (fun o => o.uid != uid)
  if mx = c.mx ∧ slq = c.slq then s
  else
    s.setCore core { c with
      mx := if mx = c.mx then mx else s.mxRetimed core [] mx
      slq := if slq = c.slq then slq else slRetimed s.ungated s.ungated slq }

/-- A window cohort flushed (R404): its step is delivered again without a replay; its thread ends without a record. A
step that has parked leaves nothing to flush (R339, R406). -/
def State.flush (s : State) (ck : Nat) : State :=
  ((s.membersOf ck).filter (fun m => !m.2.ended)).foldl (fun s m =>
    let t := m.2
    match t.step with
    | some st =>
      let s := s.cancelOps (coreOf m.1) t.uid
      let stream := (look s.windows st.win).elim 0 (fun w => w.stream)
      ((s.endThread m.1 false).stepFailed stream st.win false).1
    | none => s) s

/-- What R400 chooses. -/
inductive PreChoice where
  | drain | save | flush | late
  deriving DecidableEq, Repr

/-- The first option of R400 that applies: A(entry) is held in units of 1/256 clk. -/
def State.preChoice (s : State) (ck : Nat) (c : Cohort) (q : PreReq) : PreChoice :=
  match q.bound with
  | none => .save
  | some b =>
    let a := (look (s.dieAt (dieOfCore (ck / 32))).avgs c.entry.toNat).getD 0
    if a ≤ 256 * (b + c.elapsed) then .drain
    else if s.saveCost ck ≤ b then .save
    else if c.window && s.cohortClean ck && (s.membersOf ck).all (fun t => t.2.reserved.isEmpty) then .flush
    else .late

/-- The event PREEMPT_REQUEST (R398, R400, R404): a choice is made for cohort `obj`'s oldest request; a cohort already
under one keeps it. -/
def execPreemptRequest (s : State) : Out :=
  let ck := s.arg.obj
  match look s.cohorts ck with
  | none => .next s
  | some c =>
    match c.pend with
    | [] => .next s
    | q :: rest =>
      if c.drain.isSome || c.saving.isSome || !s.coreRuns (ck / 32) c.ctx then .next s
      else
        match s.preChoice ck c q with
        | .drain => .next (s.setCohort ck { c with pend := rest, drain := some q })
        | .save => .next (s.setCohort ck { c with pend := rest, saving := some q })
        | .flush => .next ((s.setCohort ck { c with pend := rest }).flush ck)
        | .late => .next (s.setCohort ck { c with pend := rest, saving := some q, missed := true })

/-- Whether a draining cohort's bound has elapsed (R401). -/
def State.drainOver (s : State) (c : Cohort) : Bool :=
  match c.drain with
  | some q => (match q.bound with | some b => decide (q.since + b ≤ s.ungated) | none => true)
  | none => false

/-- The event DRAIN_BOUND_EXPIRE (R401): cohort `obj` has not finished within its bound, and is saved. -/
def execDrainBoundExpire (s : State) : Out :=
  let ck := s.arg.obj
  match look s.cohorts ck with
  | some c =>
    .next (if s.drainOver c && s.coreRuns (ck / 32) c.ctx then
        s.setCohort ck { c with drain := none, saving := c.drain, missed := true }
      else s)
  | none => .next s

/-- Whether a party's wait holds up a save (R403): an operation at a peer or line requests in flight, or a selection to
retire. -/
def holdsSave : Option Wait → Bool
  | some (.remote _) => true
  | some .select => true
  | w => inFlight w

/-- What is left of a wait at a save or a census (R229, R312, R316, R318, R334): a `sync.wait` is issued again with its
deadline, an arrival stands, an element the home has given is kept; every other blocked instruction is withdrawn. An accepted
selection, an operation at a peer, and line requests in flight are no instructions to be withdrawn: what waits there ends with
them. -/
def keptWait : Option Wait → Option Wait
  | some (.sync _ _ _ n) => some (.resync n)
  | some (.resync n) => some (.resync n)
  | some (.phase w p) => some (.phase w p)
  | some (.deliver d b p e x) => some (.deliver d b p e x)
  | some .select => some .select
  | some (.remote k) => some (.remote k)
  | some (.port n got) => some (.port n got)
  | some (.home n got) => some (.home n got)
  | _ => none

/-- A thread with its blocked instructions withdrawn. -/
def Thread.withdrawn (t : Thread) : Thread :=
  { t with wait := keptWait t.wait, sl := t.sl.map (fun x => { x with wait := keptWait x.wait }) }

/-- The blocked instructions of a cohort's threads withdrawn (R334, R393). -/
def State.withdrawAll (s : State) (ck : Nat) : State :=
  (s.membersOf ck).foldl (fun s m =>
    let s := s.withdraw m.1
    let s : State := { s with sysReqs := s.sysReqs.filter (fun r => r.uid != m.2.uid || r.slice != 8) }
    match look s.threads m.1 with
    | some t => if t.ended then s else s.setThread m.1 t.withdrawn
    | none => s) s

/-- Whether blocked instructions of a cohort's threads are still to be withdrawn. -/
def State.withdrawDue (s : State) (ck : Nat) : Bool :=
  (s.membersOf ck).any (fun t => !t.2.ended && t.2.withdrawn != t.2)

/-- Whether a thread has nothing in flight that a save waits for (R403). -/
def Thread.quiet (t : Thread) : Bool := !holdsSave t.wait && t.sl.all (fun x => !holdsSave x.wait)

/-- Whether a cohort's save can be taken (R403): its accepted operations retired, nothing of its threads in flight that a
save waits for; posted reductions go on by themselves. -/
def State.saveReady (s : State) (ck : Nat) : Bool := !s.engineOps ck && (s.membersOf ck).all (fun t => t.2.quiet)

/-- Bytes of a die's Batt in use. -/
def State.battUse (s : State) (die : Nat) : Nat :=
  s.saved.foldl (fun n x => if x.2.die = die ∧ x.2.batt then n + x.2.bytes else n) 0
    + s.swaps.foldl (fun n x => if x.1 % 4 = die then n + x.2 else n) 0

/-- Bytes of a die's Batt (R168). -/
abbrev battBytes : Nat := 192 * 2 ^ 20

/-- A key for a saved image. -/
def State.savedKey (s : State) : Nat := s.saved.foldl (fun n x => max n (x.1 + 1)) 0

/-- The request that a saved cohort waits with (R299, R405). -/
def Saved.request (x : Saved) (id k : Nat) : Request :=
  let c := x.cohort
  { id, ctx := c.ctx, prio := c.prio, age := c.age, kind := .restore k, entry := c.entry, csize := c.csize,
    slices := x.threads.foldl (fun n t => max n t.slices) 0, vregs := 0, tiles := 0, spad := c.spsize, stalled := none }

/-- A saved cohort takes its place in its die's queue at its original age (R299). -/
def State.rejoin (s : State) (k : Nat) : State :=
  match look s.saved k with
  | some x =>
    let d := s.dieAt x.die
    { s.setDie x.die { d with reqs := d.reqs ++ [x.request s.nextAge k] } with nextAge := s.nextAge + 1 }
  | none => s

/-- A key of the partition swaps (R407): a partition on a die. -/
def swapKey (part die : Nat) : Nat := part * 4 + die

/-- A cohort moved to its save area (R403): its core's room is freed, its posted reductions go on; unless its context is halted
(R397), or its partition is swapped out on the die (R407), it rejoins the queue. -/
def State.saveCohort (s : State) (ck : Nat) (c : Cohort) : State :=
  let core := ck / 32
  let die := dieOfCore core
  let s := s.withdrawAll ck
  let c := (look s.cohorts ck).getD c
  let ms := s.membersOf ck
  let bytes := s.saveBytes ck
  let s := match c.saving with
    | some q => if c.missed then s.boundMissed c die q else s
    | none => s
  let part := partOfCtx c.ctx
  let out := (look s.swaps (swapKey part die)).isSome
  let batt := (s.partAt part).batt && !out && decide (s.battUse die + bytes ≤ battBytes)
  let c' : Cohort := { c with saving := none, drain := none, missed := false, pend := [], claims := [] }
  let x : Saved := { cohort := c', threads := (ms.filter (fun m => !m.2.ended)).map (fun m => { m.2 with redBuf := [] }), die, core,
                     pts := s.pts core, batt, bytes, out }
  let k := s.savedKey
  let cs := s.coreAt core
  let s := s.setCore core { cs with posted := cs.posted ++ ms.flatMap (fun m => m.2.redBuf) }
  let s : State := { s with
    saved := put s.saved k x
    cohorts := del s.cohorts ck
    threads := s.threads.filter (fun t => t.2.cohort != ck) }
  if out || (look s.ctxs c.ctx).elim false (fun y => y.halted) then s else s.rejoin k

/-- Whether a cohort is to be saved: chosen (R400), or its context is halted (R397). -/
def State.saveAsked (s : State) (c : Cohort) : Bool :=
  c.saving.isSome || (look s.ctxs c.ctx).elim false (fun y => y.halted)

/-- Whether a thread of a cohort waits at a peer that has not been asked to give its operation up (R229). -/
def State.unasked (s : State) (ck : Nat) : Bool :=
  (s.membersOf ck).any (fun m => s.flows.any (fun f => f.2.waiting.any (fun w => w.uid == m.2.uid && w.op.waits && !w.asked)))

/-- The peers of a cohort's threads asked to give their operations up (R229). -/
def State.askAll (s : State) (ck : Nat) : State := (s.membersOf ck).foldl (fun s m => s.askBack m.2.uid) s

/-- The event COHORT_SAVE (R397, R403): the threads of cohort `obj` have stopped; first their blocked instructions are
withdrawn, a push that waits at a peer there too (R229), and once their waits are over the state is moved. -/
def execCohortSave (s : State) : Out :=
  let ck := s.arg.obj
  match look s.cohorts ck with
  | some c =>
    .next (if !s.saveAsked c || !s.coreRuns (ck / 32) c.ctx then s
      else if s.withdrawDue ck then s.withdrawAll ck
      else if s.saveReady ck then s.saveCohort ck c
      else if s.unasked ck then s.askAll ck else s)
  | none => .next s

/-- Whether a copy record writes, or is about to write, into a cohort (R249). -/
def State.copiesInto (s : State) (uid : Nat) : Bool :=
  s.chans.any (fun c => c.2.chains.any (fun h => h.cohort == uid
    && (match h.taken with | some r => cohortDest r.raw && r.lines.any (fun l => decide (2 ^ 80 ≤ l)) | none => false)))

/-- Whether a cohort's room can be freed (R137, R249, R260): every thread has ended, its accepted operations have retired,
no record writes into it. -/
def State.freeReady (s : State) (ck : Nat) (c : Cohort) : Bool :=
  let ms := s.membersOf ck
  s.coreRuns (ck / 32) c.ctx && ms.all (fun t => t.2.ended && t.2.redBuf.isEmpty) && !s.engineOps ck && !s.copiesInto c.uid

/-- The event COHORT_FREE (R137, R260): the shared resources of cohort `obj` are freed. -/
def execCohortFree (s : State) : Out :=
  let ck := s.arg.obj
  match look s.cohorts ck with
  | some c =>
    if s.freeReady ck c then
      .next { s with cohorts := del s.cohorts ck, threads := s.threads.filter (fun t => t.2.cohort != ck) }
    else .next s
  | none => .next s

/-- The cores of a partition on a die. -/
def State.coresOn (s : State) (part die : Nat) : List Nat :=
  (upFrom (96 * die) 96).filter (fun c => (s.partAt part).quads.getLsbD (c / 4))

/-- The cohorts that stand on a partition's cores of a die. -/
def State.cohortsOn (s : State) (part die : Nat) : List (Nat × Cohort) :=
  s.cohorts.filter (fun c => partOfCtx c.2.ctx == part && dieOfCore (c.1 / 32) == die)

/-- Bytes a partition swap moves on a die (R407). -/
def State.swapBytes (s : State) (part die : Nat) : Nat := (s.coresOn part die).length * (1792 * 1024 + 16384)

/-- Cores that stop, or resume, for a partition swap (R407). -/
def State.stopCores (s : State) (part die : Nat) (on : Bool) : State :=
  (s.coresOn part die).foldl (fun s n => s.setCore n { s.coreAt n with swapped := on }) s

/-- The event PARTITION_SWAP_OUT (R407): partition `obj`'s cores on die `obj2` stop, and are moved whole to the Batt once what
their threads wait for is over (R403); until then the event is taken up again. Without the BATT flag, or the room, its cohorts
are saved to HBM, where they stay until the swap in. -/
def execPartitionSwapOut (s : State) : Out :=
  let part := s.arg.obj
  let die := s.arg.obj2
  let cs := s.cohortsOn part die
  if (look s.swaps (swapKey part die)).isSome then .next s
  else if (s.partAt part).batt ∧ s.battUse die = 0 then
    let s := cs.foldl (fun s c => s.withdrawAll c.1) s
    if cs.all (fun c => s.saveReady c.1) then
      let s := s.stopCores part die true
      .next { s with swaps := put s.swaps (swapKey part die) (s.swapBytes part die) }
    else
      let s := (cs.foldl (fun s c => if s.unasked c.1 then s.askAll c.1 else s) s).stopCores part die true
      .next { s with later := s.later ++ [.event .partitionSwapOut s.arg] }
  else
    let s := cs.foldl (fun s c => s.askPreempt c.1 { bound := none, req := 0, since := s.ungated }) s
    .next { s with swaps := put s.swaps (swapKey part die) 0 }

/-- The event PARTITION_SWAP_IN (R407): partition `obj`'s images return to their cores on die `obj2`, which resume; cohorts saved
for the swap rejoin the queue. -/
def execPartitionSwapIn (s : State) : Out :=
  let part := s.arg.obj
  let die := s.arg.obj2
  if (look s.swaps (swapKey part die)).isSome then
    let s := s.stopCores part die false
    let s : State := { s with swaps := del s.swaps (swapKey part die) }
    .next (s.saved.foldl (fun s x =>
      if x.2.out ∧ partOfCtx x.2.cohort.ctx = part ∧ x.2.die = die then
        ({ s with saved := put s.saved x.1 { x.2 with out := false } }).rejoin x.1
      else s) s)
  else .next s

/-- Whether a thread's watchdog count has reached its context's limit (R390). -/
def State.wdogOver (s : State) (t : Thread) : Bool :=
  match look s.ctxs t.ctx with
  | some c => !t.ended && c.wdog != 0 && decide (c.wdog * 65536 ≤ t.wdog)
  | none => false

/-- The event WATCHDOG (R390): thread `obj` faults. -/
def execWatchdog (s : State) : Out :=
  let tid := s.arg.obj
  match look s.threads tid with
  | some t => if s.wdogOver t && s.coreRuns (coreOf tid) t.ctx then faultOut s tid (scalarF t 0x12 0 0) else .next s
  | none => .next s

/-- A thread that stands in no core ends with a fault (R379, R386, R393): its grant and reservations go, its record is written;
its image lies on a die. -/
def State.endSavedThread (s : State) (die : Nat) (t : Thread) (code source : Nat) (pc info : Word) : State :=
  let s := s.unpinPages t.grant
  let s : State := { s with sysReqs := s.sysReqs.filter (fun r => r.uid != t.uid) }
  let s := (s.leaveReserved t).taskThreadEnds t true
  let mk (ends n : Nat) : FRec :=
    { code, source, lane := 0xFF, ends, core := 0xFFFF, slot := 0xFF, replays := n, pc, task := t.task,
      winid := t.winid, addr := 0, info }
  match t.step with
  | some st =>
    let stream := (look s.windows st.win).elim 0 (fun w => w.stream)
    let y := s.stepFailed stream st.win true
    y.1.raise t.ctx (.unit die) t.uid (mk y.2.1 y.2.2)
  | none => s.raise t.ctx (.unit die) t.uid (mk (if t.task = 0 ∨ t.detached then 1 else 4) 0)

/-- A saved cohort's image and its place in the queue go. -/
def State.dropSaved (s : State) (k : Nat) : State :=
  { s with
    saved := del s.saved k
    dies := s.dies.map (fun d => (d.1, { d.2 with reqs := d.2.reqs.filter (fun r => r.kind != .restore k) })) }

/-- A saved thread, by its uid, ends with a fault: it leaves its cohort's image, which goes with its last thread. -/
def State.failSaved (s : State) (uid code source : Nat) (pc info : Word) : State :=
  match s.saved.find? (fun x => x.2.threads.any (fun t => t.uid == uid)) with
  | none => s
  | some (k, x) =>
    let rest := x.threads.filter (fun t => t.uid != uid)
    let s := if rest.isEmpty then s.dropSaved k else { s with saved := put s.saved k { x with threads := rest } }
    (x.threads.filter (fun t => t.uid == uid)).foldl (fun s t => s.endSavedThread x.die t code source pc info) s

/-- A response word stored for a slice, its hold released (R364, R393). -/
def answerSlice (i : Nat) (t : Thread) : Thread :=
  { t with sl := t.sl.zipIdx.map (fun x => if x.2 = i then { x.1 with held := false } else x.1) }

/-- A thread that is saved, changed in its image. -/
def State.onSaved (s : State) (uid : Nat) (f : Thread → Thread) : State :=
  { s with saved := s.saved.map (fun x =>
      (x.1, { x.2 with threads := x.2.threads.map (fun t => if t.uid = uid then f t else t) })) }

/-- The event SYS_RESPONSE (R364, R393): the Milliner's response `word` to the `obj`-th outstanding request arrives; `flag`
says that the service image does not define its code. The response of a slice is a store of the Milliner. -/
def execSysResponse (s : State) : Out :=
  match s.sysReqs[s.arg.obj]? with
  | none => .next s
  | some r =>
    let v := s.arg.word
    let drop (s : State) : State := { s with sysReqs := s.sysReqs.erase r }
    let live := match look s.threads r.tid with
      | some t => if t.uid = r.uid && !t.ended then some t else none
      | none => none
    if s.arg.flag then
      match live with
      | some t => faultOut (drop s) r.tid { scalarF t 0x10 0 (r.svc.setWidth 64) with pc := r.pc }
      | none => .next (if r.slice = 8 then drop s else (drop s).failSaved r.uid 0x10 0 r.pc (r.svc.setWidth 64))
    else if r.slice = 8 then
      match live with
      | some t => .next ((drop s).setThread r.tid (t.setS r.d v).step4)
      | none => .next (drop s)
    else
      let ctx := match live with
        | some t => some t.ctx
        | none => ((s.saved.flatMap (fun x => x.2.threads)).find? (fun t => t.uid == r.uid)).map (fun t => t.ctx)
      match ctx with
      | none => .next (drop s)
      | some ctx =>
        match s.writeBytes (.unit (dieOfCore (coreOf r.tid))) ctx (r.block.toNat + 0x40 + 8 * r.slice) (leBytes 8 v.toNat) with
        | .wait => .next s
        | .fault f =>
          match live with
          | some t => faultOut (drop s) r.tid { scalarF t f r.block 0 with source := 8, pc := r.pc }
          | none => .next (drop s)
        | .ok s =>
          match live with
          | some _ => .next ((drop s).onLive r.tid (answerSlice r.slice))
          | none => .next ((drop s).onSaved r.uid (answerSlice r.slice))

end Sys2Proof.Machine
end

