-- ==== Sys2Proof/Machine/Alarm.lean ====
section
/-! DEFINITION. Sys2Proof/Machine/Alarm.lean: the security alarm (R378-R380), its actions, and the clearing of quads and
channels (R373). -/

namespace Sys2Proof.Machine

/-- A saved cohort ends: its threads fault, its image and its place in the queue go. -/
def State.endSaved (s : State) (k : Nat) (code source : Nat) : State :=
  match look s.saved k with
  | none => s
  | some x => x.threads.foldl (fun s t => s.endSavedThread x.die t code source t.pc 0) (s.dropSaved k)

/-- The mark of a quarantine (R379, R380): what the partition's threads have had accepted and no home has performed is refused
and performs nothing: requests at slices, posted reductions, operations of the MX and SL units. -/
def State.markRefused (s : State) (part : Nat) : State :=
  let other (ctx : Nat) : Bool := partOfCtx ctx != part
  let s := s.threads.foldl (fun s t => if other t.2.ctx then s else s.cancelOps (coreOf t.1) t.2.uid) s
  { s with
    slices := s.slices.map (fun q => (q.1, { reqs := q.2.reqs.filter (fun r => other r.ctx),
                                             misses := q.2.misses.filter (fun r => other r.ctx) }))
    dies := s.dies.map (fun d => (d.1, { d.2 with combiner := d.2.combiner.filter (fun r => other r.ctx) }))
    cores := s.cores.map (fun c => (c.1, { c.2 with posted := c.2.posted.filter (fun r => other r.ctx) }))
    threads := s.threads.map (fun t => (t.1, if other t.2.ctx then t.2 else { t.2 with redBuf := [] })) }

/-- Quarantine of a partition (R379): its threads' waits are refused with their other requests, then they end with ALARM; its
copy chains stop as under `copy.cabort`. -/
def State.quarantine (s : State) (part : Nat) : State :=
  let s := s.markRefused part
  let s := s.threads.foldl (fun s p => if partOfCtx p.2.ctx = part then s.withdraw p.1 else s) s
  let s := s.threads.foldl (fun s p =>
    match look s.threads p.1 with
    | some t => if partOfCtx t.ctx = part ∧ t.ended = false then s.fault p.1 { scalarF t 0x17 0 0 with source := 9 } else s
    | none => s) s
  let s := s.saved.foldl (fun s x => if partOfCtx x.2.cohort.ctx = part then s.endSaved x.1 0x17 9 else s) s
  s.chans.foldl (fun s c => s.abortChains c.1 (fun h => partOfCtx h.ctx == part)) s

/-- Quads cleared (R373): pool banks, operand buffers, L1s and instruction caches hold nothing. -/
def State.clearQuads (s : State) (quads : BitVec 96) : State :=
  let on (core : Nat) : Bool := quads.getLsbD (core / 4)
  { s with
    threads := s.threads.filter (fun t => !on (coreOf t.1))
    cohorts := s.cohorts.filter (fun c => !on (c.1 / 32))
    cores := s.cores.map (fun c =>
      if on c.1 then (c.1, { CoreSt.fresh with poolword := c.2.poolword, pts := c.2.pts }) else c) }

/-- The slices of channels emptied (R373): every line is dropped without write-back, their TLBs, walkers and homes hold
nothing. -/
def State.dropSlices (s : State) (sel : Nat → Bool) : State :=
  let s := (s.l2.filter (fun l => sel l.2.ch)).foldl (fun s l => s.loseLine l.1) s
  { s with
    tlbs := s.tlbs.filter (fun t => !sel t.1)
    walkers := s.walkers.filter (fun w => !sel w.1)
    slices := s.slices.filter (fun q => !sel q.1)
    queues := s.queues.filter (fun q => decide (2 ^ 64 ≤ q.1) || !sel (q.1 / 2 ^ 48)) }

/-- Channels cleared (R373): their slices are emptied, and what their frames held is gone, so that a page made resident reads
zero. -/
def State.clearChannels (s : State) (sel : Nat → Bool) : State :=
  let s := s.dropSlices sel
  { s with
    mem := s.mem.filter (fun c => decide (2 ^ 64 ≤ c.1) || !sel (c.1 / 2 ^ 48))
    poison := s.poison.filter (fun x => decide (2 ^ 64 ≤ 32 * x) || !sel (32 * x / 2 ^ 48)) }

/-- The task engines' events of a partition gone. -/
def State.dropDecs (s : State) (part : Nat) : State :=
  if s.dies.any (fun d => d.2.decs.any (fun e => hPart e.1 == part)) then
    { s with dies := s.dies.map (fun d => (d.1, { d.2 with decs := d.2.decs.filter (fun e => hPart e.1 != part) })) }
  else s

/-- The 32-byte sectors of a window record, all poisoned (R414). -/
def recordSectors : List Nat := upFrom 0 8

/-- What level 2 does to a partition (R379): its key is zeroised, the host endpoint's copy revoked, its on-chip plaintext,
the records of its window caches (R278) and its Batt contents cleared. What its frames hold stays, and returns poisoned, as do the
window records in HBM (R376). -/
def State.zeroise (s : State) (part : Nat) : State :=
  let p := s.partAt part
  let s := s.setPart part { p with key := none }
  let s := s.setFn part { s.fnAt part with spdm := false }
  let s : State := { s with
    saved := s.saved.filter (fun x => partOfCtx x.2.cohort.ctx != part)
    windows := (s.windows.filter (fun w => partOfCtx w.2.ctx != part || w.2.tier != 0)).map (fun w =>
      if partOfCtx w.2.ctx = part ∧ w.2.tier = 1 then (w.1, { w.2 with poison := recordSectors }) else w)
    streams := s.streams.map (fun c => if partOfCtx c.2.ctx = part then
      (c.1, { c.2 with keys := (c.2.keys.filter (fun k => k.2.tier != 0)).map (fun k =>
        if k.2.tier = 1 then (k.1, { k.2 with poison := recordSectors }) else k) }) else c)
    swaps := s.swaps.filter (fun x => x.1 / 4 != part) }
  ((s.dropDecs part).clearQuads p.quads).dropSlices p.hasChannel

/-- A partition's level raised (R379, R380): levels only rise, and each includes the actions of the lower ones. -/
def State.alarmPart (s : State) (part level : Nat) : State :=
  let old := (s.partAt part).level
  let s := if 1 ≤ level ∧ old < 1 then s.quarantine part else s
  let s := if 2 ≤ level ∧ old < 2 then s.zeroise part else s
  s.setPart part { s.partAt part with level := max old level }

/-- Every partition's level raised. -/
def State.alarmAll (s : State) (level : Nat) : State := s.parts.foldl (fun s p => s.alarmPart p.1 level) s

/-- Level 3 (R379): the identity key and every session key are zeroised, and the device halts. -/
def State.haltDevice (s : State) : State :=
  { s with run := .halted, identity := false, fns := s.fns.map (fun f => (f.1, { f.2 with spdm := false })) }

/-- The record of an alarm, which comes before its actions (R379, R380). Sources are numbered in R378's order from 0. The spec
does not say which die's log takes the record of a scope that has no die: die 0's (DESIGN CHOICE, log 27). -/
def State.alarmRecord (s : State) (source : Nat) (scope : Option Nat) (level : Nat) : State :=
  s.addRas 3 0 0 (scope.getD 255) 0 [word source, word level]

/-- The device's level raised (R379): level 3 of any scope halts it. -/
def State.alarmDevice (s : State) (level : Nat) : State :=
  let s : State := { s with devLevel := max s.devLevel level }
  if 3 ≤ level then (s.alarmAll level).haltDevice else s.alarmAll level

/-- An alarm event (R378-R380): its record comes first, then the actions of its level. The scope is a partition or, for
none, the device. -/
def State.alarm (s : State) (source : Nat) (scope : Option Nat) (level : Nat) : State :=
  let s := s.alarmRecord source scope level
  match scope with
  | none => s.alarmDevice level
  | some p => if 3 ≤ level then (s.alarmAll level).haltDevice else s.alarmPart p level

/-- Whether the device still acts (R379). -/
def State.awake (s : State) : Bool := s.run != .halted

/-- The level of a fused source: its default, or what a host request has raised it to (R378, log 27). -/
def State.fusedLevel (s : State) (source default : Nat) : Nat := max default ((look s.fused source).getD 0)

/-- The event ALARM_VOLT (R378): the fused default is 3 (log 27). -/
def execAlarmVolt (s : State) : Out := .next (if s.awake then s.alarm 0 none (s.fusedLevel 0 3) else s)
/-- The event ALARM_CLOCK (R378): the fused default 3. -/
def execAlarmClock (s : State) : Out := .next (if s.awake then s.alarm 1 none (s.fusedLevel 1 3) else s)
/-- The event ALARM_TEMP (R378): the fused default 1, in every partition. -/
def execAlarmTemp (s : State) : Out := .next (if s.awake then s.alarm 2 none (s.fusedLevel 2 1) else s)
/-- The event ALARM_MESH (R378): the fused default 3. -/
def execAlarmMesh (s : State) : Out := .next (if s.awake then s.alarm 3 none (s.fusedLevel 3 3) else s)

/-- A level of a partition's ALARMPOL (R372): bits 2i+1:2i. -/
def Partition.polLevel (p : Partition) (i : Nat) : Nat := bits p.alarmpol.toNat (2 * i + 1) (2 * i)

/-- MEASURE (R378, R383): a measurement chain that ends away from the value installed for it. -/
def State.measure (s : State) (part : Nat) : State :=
  let p := s.partAt part
  match p.expected with
  | some m => if p.partm = m then s else s.alarm 4 (some part) (p.polLevel 0)
  | none => s

/-- Whether more than n of some rising times lie within 1 ms (R372). -/
def burst (n : Nat) : List Nat → Bool
  | [] => false
  | x :: t => ((x :: t)[n]?).any (fun y => decide (y ≤ x + 1000000)) || burst n t

/-- Whether PRIVREP is raised (R378): PRIV faults of the partition came within some 1 ms more often than PRIVTHR. -/
def State.privRep (s : State) (part : Nat) : Bool :=
  (s.partAt part).privthr != 0 && burst (s.partAt part).privthr (s.partAt part).privAt

/-- The event ALARM_PRIVREP (R378) of partition `obj`. The faults that raised it are counted once. -/
def execAlarmPrivrep (s : State) : Out :=
  let part := s.arg.obj
  if s.awake && s.privRep part then
    let p := s.partAt part
    .next ((s.setPart part { p with privAt := [] }).alarm 5 (some part) (p.polLevel 1))
  else .next s

/-- A request for the device's level (R378): in each partition its level is at least that of the partition's ALARMPOL. -/
def State.alarmRequest (s : State) (level : Nat) : State :=
  let want (p : Partition) : Nat := max level (p.polLevel 2)
  let top := s.parts.foldl (fun m p => max m (want p.2)) level
  if 3 ≤ top then s.alarm 6 none 3
  else
    let s := s.alarmRecord 6 none level
    s.parts.foldl (fun s p => s.alarmPart p.1 (want p.2)) { s with devLevel := max s.devLevel level }

/-- The event DOE_ALARM_REQUEST (R378): function `obj` asks for level `obj3` in partition `obj2`, or in the device for
255. A virtual function names its own partition only; the level is at least ALARMPOL's. With `flag` the physical function raises
the fused level of source `obj2`, never to a lower one (log 27). -/
def execDoeAlarmRequest (s : State) : Out :=
  let fn := s.arg.obj
  let tgt := s.arg.obj2
  let level := min s.arg.obj3 3
  if !s.awake then .next s
  else if s.arg.flag then
    .next (if fn = 0 ∧ tgt < 4 then { s with fused := put s.fused tgt (max level ((look s.fused tgt).getD 0)) } else s)
  else if tgt = 255 then .next (if fn = 0 then s.alarmRequest level else s)
  else if (fn = 0 ∨ fn = tgt) ∧ (look s.parts tgt).isSome then
    .next (s.alarm 6 (some tgt) (max level ((s.partAt tgt).polLevel 2)))
  else .next s

/-- The event DOE_ALARM_CLEAR (R380): the physical function clears level 1 of partition `obj2`; what its Carder and task
engine hold is then delivered. -/
def execDoeAlarmClear (s : State) : Out :=
  let part := s.arg.obj2
  let p := s.partAt part
  .next (if s.awake && s.arg.obj == 0 && p.level == 1 then s.setPart part { p with level := 0 } else s)

end Sys2Proof.Machine
end

