-- ==== Sys2Proof/Machine/Mailbox.lean ====
section
/-! DEFINITION. Sys2Proof/Machine/Mailbox.lean: the registers of BAR0 and the mailbox requests (R358-R360, R367, R372,
R373). The payloads' words beyond those R360 names are the model's (log 14). -/

namespace Sys2Proof

open Sys2Proof.Machine

/-- A header word (R360). -/
def mboxHeader (tag : BitVec 16) (len ctx code : Nat) : Word :=
  BitVec.ofNat 64 (tag.toNat * 2 ^ 48 + len * 2 ^ 32 + ctx * 2 ^ 26 + code)

/-- The bytes of a request as the host writes them. -/
def MboxReq.bytes (r : MboxReq) (code : Nat) : List Byte :=
  wordsBytes (mboxHeader r.tag (r.payload.take 31).length r.ctx.toNat code :: r.payload.take 31)

/-- The n-th payload word. -/
def MboxReq.w (r : MboxReq) (n : Nat) : Word := nth (r.payload.take 31) n 0

/-- Number of payload words (R360). -/
def MboxReq.len (r : MboxReq) : Nat := (r.payload.take 31).length

/-- Key of the context a request names. -/
def MboxReq.key (r : MboxReq) : Nat := r.fn * 64 + r.ctx.toNat

end Sys2Proof

namespace Sys2Proof.Machine

/-- What a Milliner answers to a request (R360): done, refused, malformed, or not yet. -/
inductive MboxAns where
  | done (s : State)
  | refused
  | malformed
  | wait

/-- The doorbell rung (R360): the request stands in MBOXREQ and BUSY is set. -/
def State.ring (s : State) (r : MboxReq) (code : Nat) : State :=
  let f := s.fnAt r.fn
  s.setFn r.fn { f with mboxreq := r.bytes code, mboxst := f.mboxst ||| 1#3 }

/-- A doorbell rung while BUSY is set (R360): ignored, but OVR is set. -/
def State.ringBusy (s : State) (fn : Nat) : State :=
  let f := s.fnAt fn
  s.setFn fn { f with mboxst := f.mboxst ||| 4#3 }

/-- A response (R360): MBOXRSP written, BUSY cleared, DONE set, vector 0 sent. -/
def State.respond (s : State) (r : MboxReq) (code : Nat) : State :=
  let f := s.fnAt r.fn
  s.setFn r.fn { f with
    mboxrsp := wordsBytes [mboxHeader r.tag 0 r.ctx.toNat code]
    mboxst := (f.mboxst &&& ~~~1#3) ||| 2#3
    msix0 := f.msix0 + 1 }

/-- Whether a function may be asked: the physical one, which carries the partitions' management, or one of the virtual ones, whose
partition exists (R358, R372). -/
def State.fnServes (s : State) (fn : Nat) : Bool := fn == 0 || (decide (fn < 16) && (look s.parts fn).isSome)

/-- An event that waits is taken up again later (log 3). -/
def State.postpone (s : State) (i : Instr) : State := { s with later := s.later ++ [.event i s.arg] }

/-- Whether a census holds a partition (R412): nothing of it changes until it resumes. -/
def State.counted (s : State) (part : Nat) : Bool := (s.partAt part).census != 0

/-- A mailbox request (R360, R384): rung by the host, or, with `flag`, taken up again by its Milliner after a wait. In the
recovery state every request gives response 1. -/
def mbox (i : Instr) (code : Nat) (act : State → MboxReq → MboxAns) (s : State) : Out :=
  let r := s.arg.req
  let busy := (s.fnAt r.fn).mboxst.getLsbD 0
  if !s.awake then .next s
  else if s.arg.flag && !busy then .next s
  else if !s.arg.flag && busy then .next (s.ringBusy r.fn)
  else
    let s := if s.arg.flag then s else s.ring r code
    if s.run == .recovery || !s.fnServes r.fn then .next (s.respond r 1)
    else
      match (if s.counted r.fn then .wait else act s r) with
      | .done s => .next (s.respond r 0)
      | .refused => .next (s.respond r 1)
      | .malformed => .next (s.respond r 2)
      | .wait => .next { s with later := s.later ++ [.event i { s.arg with flag := true }] }

/-- The least ASID no live context of the device has (R346). -/
def State.newAsid (s : State) : Nat :=
  ((upFrom 1 (s.ctxs.length + 1)).find? (fun a => s.ctxs.all (fun c => c.2.asid.toNat != a))).getD 1

/-- Pairs of words: a page with its level in bits 1:0, and its entry. -/
def wordPairs : List Word → List (Word × Word)
  | a :: b :: t => (a, b) :: wordPairs t
  | _ => []

/-- A page word of a payload: address and level. -/
def pageWord (w : Word) : Nat × Nat := (bits w.toNat 63 2 * 4, bits w.toNat 1 0)

/-- The submission queue of a new context bound (R287): none where its block does not pass binding (R212). -/
def State.bindSubmit (s : State) (ctx : Nat) (va : Word) : Option State :=
  if va.toNat % 64 ≠ 0 ∨ 2 ^ 57 ≤ va.toNat then none
  else
    let s := (s.makeResident ctx va.toNat).getD s
    match s.place ctx va.toNat with
    | .byte pa =>
      let r : QRef := .global pa
      let b := s.qcbBytes r 64
      if s.hitsQcb pa 64 || qEsize b != 256 || !engineScope b then none
      else
        let q : Queue := { stream := false, va, ctx, core := 0, uid := 0, bind := 0, commit := [], pushers := [],
                           poppers := [], frozen := none }
        let m := s.homeBind r q (s.homeUnitOf ctx va.toNat)
        if m.1 = 0 then some m.2 else none
    | _ => none

/-- Mailbox code 0x01 (R346, R360, R374): payload words are the privilege bit, RNGSEED, WDOG, the fault queue, the
submission queue, the host window's base and length (R361), and the leaves the context starts with. -/
def createContext (s : State) (r : MboxReq) : MboxAns :=
  let k := r.key
  if r.len < 7 ∨ r.len % 2 = 0 then .malformed
  else if 1 < (r.w 0).toNat then .malformed
  else if (look s.ctxs k).isSome ∨ (look s.parts r.fn).isNone ∨ ((r.w 0) = 1 ∧ r.fn ≠ 0) then .refused
  else
    let x := s.newTable r.fn
    let c : Ctx :=
      { asid := BitVec.ofNat 16 s.newAsid, priv := r.w 0 == 1, root := x.1, wdog := (r.w 2).toNat, rngseed := r.w 1,
        faultQ := r.w 3, submitQ := r.w 4, lost := 0, lostRun := false, seq := 0, optab := [], scopes := [], sched := [],
        evstep := 0, rolemaps := [], uints := [], portPage := none, sections := [], launches := [], halted := false }
    let s := x.2.setCtx k c
    let p := s.partAt r.fn
    let s := if r.w 6 = 0 then s
      else s.setPart r.fn { p with window := p.window ++ [(k, (r.w 5).toNat, (r.w 6).toNat)] }
    let pairs := wordPairs ((r.payload.take 31).drop 7)
    match leavesAll (fun s x => s.writeLeaf k (pageWord x.1).1 (pageWord x.1).2 x.2) pairs s with
    | .ok s =>
      match s.bindSubmit k (r.w 4) with
      | some s => .done s
      | none => .refused
    | .wait => .wait
    | .refuse => .refused

/-- The event MBOX_CREATE_CONTEXT (R360). -/
def execMboxCreateContext (s : State) : Out := mbox .mboxCreateContext 1 createContext s

/-- Whether nothing of a context is in flight: accepted operations, chains, posted reductions, remote operations. -/
def State.ctxQuiet (s : State) (ctx : Nat) : Bool :=
  s.cohorts.all (fun c => c.2.ctx != ctx || !s.engineOps c.1)
    && s.cores.all (fun c => c.2.mx.all (fun o => o.ctx != ctx) && c.2.posted.all (fun r => r.ctx != ctx))
    && s.chans.all (fun c => c.2.chains.all (fun h => h.ctx != ctx))
    && s.dies.all (fun d => d.2.combiner.all (fun r => r.ctx != ctx))
    && s.threads.all (fun t => t.2.ctx != ctx || t.2.redBuf.isEmpty)
    && s.flows.all (fun f => f.2.reds.all (fun r => r.ctx != ctx)
        && f.2.waiting.all (fun w => s.threads.all (fun t => t.2.uid != w.uid || t.2.ctx != ctx)))

/-- A held emission of a context leaves the waiter list it stands in. -/
def State.dropEmits (s : State) (ctx : Nat) : State :=
  let mine (w : Waiter) : Bool := match w.op with | .emit _ c _ => c == ctx | _ => false
  s.queues.foldl (fun s q =>
    if q.2.pushers.any mine then
      (s.putQueue (.global q.1) { q.2 with pushers := q.2.pushers.filter (fun w => !mine w) }).resettle (.global q.1) q.2
    else s) s

/-- A context ends (R360): its threads, cohorts, windows, streams, tasks, queues and requests go; its pages are unmapped
and its ASID is purged everywhere (R346, R350), its requests that still stand at a slice among it. -/
def State.removeContext (s : State) (ctx : Nat) : State :=
  let part := partOfCtx ctx
  let asid := s.asidOf ctx
  let s := s.threads.foldl (fun s t => if t.2.ctx = ctx then s.withdraw t.1 else s) s
  let s := s.dropEmits ctx
  let uids := (s.threads.filter (fun t => t.2.ctx == ctx)).map (fun t => t.2.uid)
  let s := s.queues.foldl (fun s q => if q.2.ctx = ctx then s.unbind (.global q.1) else s) s
  let s : State := { s with
    threads := s.threads.filter (fun t => t.2.ctx != ctx)
    cohorts := s.cohorts.filter (fun c => c.2.ctx != ctx)
    saved := s.saved.filter (fun x => x.2.cohort.ctx != ctx)
    windows := s.windows.filter (fun w => w.2.ctx != ctx)
    streams := s.streams.filter (fun c => c.2.ctx != ctx)
    tasks := s.tasks.map (fun t =>
      if t.2.ctx = ctx ∧ t.2.st ≠ .free then (t.1, { TaskSlot.fresh with gen := t.2.gen }) else t)
    uints := s.uints.filter (fun u => u.ctx != ctx)
    sysReqs := s.sysReqs.filter (fun r => !uids.contains r.uid)
    chores := s.chores.filter (fun x => match x with | .record c _ _ _ _ => c != ctx | _ => true)
    pins := s.pins.filter (fun p => p.1 / 2 ^ 64 != asid.toNat)
    slices := s.slices.map (fun q => (q.1, { reqs := q.2.reqs.filter (fun r => r.asid != asid),
                                             misses := q.2.misses.filter (fun r => r.asid != asid) }))
    dies := s.dies.map (fun d => (d.1, { d.2 with
      reqs := d.2.reqs.filter (fun r => r.ctx != ctx)
      emits := d.2.emits.filter (fun e => e.2.1 != ctx) })) }
  let s := s.purgePage asid 0 (2 ^ 57)
  let ms := s.leavesOf ctx
  let s := ms.foldl (fun s m =>
    (State.freeFrame { s with tables := put s.tables (tableKey part m.addr) 0 } part m.entry m.size).resetCounts ctx m.va) s
  let p := s.partAt part
  let s := s.setPart part { p with
    window := p.window.filter (fun w => w.1 != ctx)
    tts := p.tts.filter (fun t => t.2.ctx != ctx) }
  { s with ctxs := del s.ctxs ctx }

/-- Mailbox code 0x02 (R360, R397): the context stops, and ends once nothing of it is in flight (log 14). -/
def endContext (s : State) (r : MboxReq) : MboxAns :=
  match look s.ctxs r.key with
  | none => .refused
  | some _ => if s.ctxQuiet r.key then .done (s.removeContext r.key) else .wait

/-- The context a request is to end issues no more. -/
def State.stopContext (s : State) : State :=
  let k := s.arg.req.key
  match look s.ctxs k with
  | some c =>
    if (s.fnAt s.arg.req.fn).mboxst.getLsbD 0 then s else s.setCtx k { c with halted := true }
  | none => s

/-- The event MBOX_END_CONTEXT (R360). -/
def execMboxEndContext (s : State) : Out :=
  mbox .mboxEndContext 2 endContext (if s.run == .running then s.stopContext else s)

/-- Mailbox code 0x03 (R350, R351, R360): pairs of a page word and its leaf. -/
def writeLeaves (s : State) (r : MboxReq) : MboxAns :=
  if r.len = 0 ∨ r.len % 2 = 1 then .malformed
  else if (look s.ctxs r.key).isNone then .refused
  else
    match leavesAll (fun s x => s.writeLeaf r.key (pageWord x.1).1 (pageWord x.1).2 x.2) (wordPairs (r.payload.take 31)) s with
    | .ok s => .done s
    | .wait => .wait
    | .refuse => .refused

/-- The event MBOX_WRITE_LEAF (R350). -/
def execMboxWriteLeaf (s : State) : Out := mbox .mboxWriteLeaf 3 writeLeaves s

/-- Mailbox code 0x04 (R350, R360): page words. -/
def clearLeaves (s : State) (r : MboxReq) : MboxAns :=
  if r.len = 0 then .malformed
  else if (look s.ctxs r.key).isNone then .refused
  else
    match leavesAll (fun s x => s.clearLeaf r.key (pageWord x).1 (pageWord x).2) (r.payload.take 31) s with
    | .ok s => .done s
    | .wait => .wait
    | .refuse => .refused

/-- The event MBOX_CLEAR_LEAF (R350). -/
def execMboxClearLeaf (s : State) : Out := mbox .mboxClearLeaf 4 clearLeaves s

/-- The first release at or after a time (R297). -/
def firstRelease (offset period now : Nat) : Nat :=
  if now ≤ offset then offset else offset + (now - offset + period - 1) / period * period

/-- Mailbox code 0x05 (R296, R360): a slot number and the 64 bytes of the slot. -/
def writeTtSlot (s : State) (r : MboxReq) : MboxAns :=
  let n := (r.w 0).toNat
  let b := wordsBytes ((r.payload.take 31).drop 1)
  let period := leAt b 0 8
  let offset := leAt b 8 8
  let slack := leAt b 0x18 8
  if r.len ≠ 9 ∨ leAt b 0x2E 18 ≠ 0 ∨ 1 < leAt b 0x2C 1 then .malformed
  else if 64 ≤ n ∨ (look s.ctxs r.key).isNone ∨ 3 < leAt b 0x2D 1 then .refused
  else if period ≠ 0 ∧ (period < 1000 ∨ period ≤ slack) then .refused
  else
    let p := s.partAt r.fn
    let last := (look p.tts n).bind (fun t => t.last)
    let freeAt := (look p.tts n).elim 0 (fun t => t.freeAt)
    let t : TTSlot :=
      { period, offset, templ := wordAt b 0x10, slack, bound := leAt b 0x20 8, overrun := BitVec.ofNat 32 (leAt b 0x28 4),
        sticky := leAt b 0x2C 1 == 1, prio := leAt b 0x2D 1,
        nextRel := if period = 0 then offset else firstRelease offset period s.time, last, freeAt,
        ctx := r.key }
    .done (s.setPart r.fn { p with tts := put p.tts n t })

/-- The event MBOX_WRITE_TT_SLOT (R296). -/
def execMboxWriteTtSlot (s : State) : Out := mbox .mboxWriteTtSlot 5 writeTtSlot s

/-- The leaf of a user port's page (R367): read only, its lines never cached by an L1. -/
def portLeaf (ctx : Nat) : Word := word (2 ^ 63 + 2 ^ 62 + 2 ^ 61 + 2 ^ 58 + 2 ^ 48 + portFrame ctx)

/-- Mailbox code 0x06 (R360, R367): the virtual page at which the context's port appears. -/
def mapPort (s : State) (r : MboxReq) : MboxAns :=
  let va := (r.w 0).toNat
  if r.len ≠ 1 ∨ va % 2 ^ 16 ≠ 0 ∨ 2 ^ 57 ≤ va then .malformed
  else
    match look s.ctxs r.key with
    | none => .refused
    | some c =>
      if c.portPage.isSome ∨ (s.leafAt r.key va).isSome then .refused
      else
        match State.tableFor r.fn va 0 4 s c.root with
        | none => .refused
        | some x =>
          match x.2.setEntry r.key va 0 x.1 (portLeaf r.key) with
          | .ok s => .done (s.setCtx r.key { c with portPage := some va })
          | .wait => .wait
          | .refuse => .refused

/-- The event MBOX_MAP_USER_PORT (R367). -/
def execMboxMapUserPort (s : State) : Out := mbox .mboxMapUserPort 6 mapPort s

/-- Mailbox code 0x07 (R365): an entry number and the entry's 32 bytes. -/
def writeUintEntry (s : State) (r : MboxReq) : MboxAns :=
  let b := wordsBytes ((r.payload.take 31).drop 1)
  let pcap := leAt b 0x18 4
  if r.len ≠ 5 ∨ 1 < leAt b 0x1E 2 then .malformed
  else
    match look s.ctxs r.key with
    | none => .refused
    | some c =>
      if 64 ≤ (r.w 0).toNat ∨ leAt b 0x10 8 % 64 ≠ 0 ∨ ¬ (upFrom 0 17).any (fun i => pcap == 2 ^ i) then .refused
      else
        let e : UintEntry :=
          { target := wordAt b 0, runaddr := wordAt b 8, pendq := wordAt b 0x10, pcap := BitVec.ofNat 32 pcap,
            vector := BitVec.ofNat 16 (leAt b 0x1C 2), flags := BitVec.ofNat 16 (leAt b 0x1E 2), sent := 0 }
        .done (s.setCtx r.key { c with uints := put c.uints (r.w 0).toNat e })

/-- The event MBOX_WRITE_UINT_ENTRY (R365). -/
def execMboxWriteUintEntry (s : State) : Out := mbox .mboxWriteUintEntry 7 writeUintEntry s

/-- Whether a partition word is well formed (R156). -/
def wordOk (w : Word) : Bool :=
  bits w.toNat 63 22 == 0 && bits w.toNat 15 14 == 0 && bits w.toNat 7 6 == 0
    && bits w.toNat 21 16 + bits w.toNat 13 8 + bits w.toNat 5 0 == 48 && bits w.toNat 5 0 != 0

/-- Names no request: a core that is closing for a partition word (R158). -/
abbrev closingForWord : Nat := 2 ^ 64

/-- A core's partition word written (R158) once the core holds no thread and no unretired engine operation. -/
def writeCoreWord (s : State) (core : Nat) (w : Word) : MboxAns :=
  if !wordOk w then .malformed
  else if Config.cores ≤ core then .refused
  else if s.threads.any (fun t => coreOf t.1 == core) || !(s.coreAt core).mx.isEmpty || !(s.coreAt core).slq.isEmpty
      || s.cohorts.any (fun c => c.1 / 32 == core) then .wait
  else
    let c := s.coreAt core
    .done (s.setCore core { c with poolword := w, closing := if c.closing = some closingForWord then none else c.closing })

/-- Whether a partition holds a thread, a bound queue, a live grant or an unretired engine operation (R373). -/
def State.partHeld (s : State) (part : Nat) : Bool :=
  s.threads.any (fun t => partOfCtx t.2.ctx == part)
    || s.saved.any (fun x => partOfCtx x.2.cohort.ctx == part)
    || s.queues.any (fun q => partOfCtx q.2.ctx == part)
    || s.pins.any (fun p => s.ctxs.any (fun c => partOfCtx c.1 == part && c.2.asid.toNat == p.1 / 2 ^ 64))
    || s.cores.any (fun c => c.2.mx.any (fun o => partOfCtx o.ctx == part))
    || s.chans.any (fun c => c.2.chains.any (fun h => partOfCtx h.ctx == part))
    || s.dies.any (fun d => d.2.combiner.any (fun r => partOfCtx r.ctx == part))

/-- Whether two interleave sets overlap (R373). -/
def setsMeet (a b : Partition) : Bool := overlaps a.chbase (2 ^ a.chlog) b.chbase (2 ^ b.chlog)

/-- The pages of a partition whose frames are gone are no longer present (R373): nothing that was brought in through their
entries stays (R350). -/
def State.unallocate (s : State) (part : Nat) : State :=
  s.ctxs.foldl (fun s c =>
    if partOfCtx c.1 = part then
      (s.leavesOf c.1).foldl (fun s m =>
        if leafKind m.entry = 0 ∧ leafRes m.entry then
          State.purgePage
            { s with tables := put s.tables (tableKey part m.addr) (word (m.entry.toNat - 2 ^ 61 - leafFrame m.entry)) }
            c.2.asid m.va m.size
        else s) s
    else s) s

/-- A partition ended (R372): a descriptor with no quad. Its contexts, page tables, quads, channels and key go, the host
endpoint's copy of the key too. -/
def State.endPartition (s : State) (part : Nat) : State :=
  let p := s.partAt part
  let s := s.ctxs.foldl (fun s c => if partOfCtx c.1 = part then s.removeContext c.1 else s) s
  let s := ((s.clearQuads p.quads).clearChannels p.hasChannel).dropDecs part
  let s := s.setFn part { s.fnAt part with spdm := false, insp := none }
  { s with
    parts := del s.parts part
    tables := s.tables.filter (fun x => x.1 / 2 ^ 60 != part)
    swaps := s.swaps.filter (fun x => x.1 / 4 != part) }

/-- Bytes as a number with the first byte most significant, as the bytes of a digest are (R377). -/
def beAt (b : List Byte) (off n : Nat) : Nat := ((b.drop off).take n).foldl (fun v x => v * 256 + x.toNat) 0

/-- The fields of a descriptor's 96 bytes (R372), with the rest of the partition as it was. -/
def Partition.describe (p : Partition) (b : List Byte) : Partition :=
  { p with
    quads := BitVec.ofNat 96 (leAt b 0 12), chbase := leAt b 0x0C 2, chlog := leAt b 0x0E 1,
    batt := leAt b 0x0F 1 % 2 == 1, reqsig := leAt b 0x0F 1 / 2 % 2 == 1, alarmpol := BitVec.ofNat 8 (leAt b 0x10 1),
    privthr := leAt b 0x12 2, sigkey0 := BitVec.ofNat 256 (beAt b 0x20 32), sigkey1 := BitVec.ofNat 256 (beAt b 0x40 32) }

/-- Ways 13 to 15 left to the Batt (R168): the partition's lines in them leave L2, written back. -/
def State.battWays (s : State) (part : Nat) : State :=
  { s with l2 := s.l2.filter (fun l => partOfCtx l.2.ctx != part || decide (l.2.way < 13)) }

/-- The memory key a partition has after a descriptor (R375): drawn with its first one, and no more once it is zeroised. -/
def State.keyFor (s : State) (old : Partition) : Option (BitVec 512) :=
  if old.key.isNone && decide (old.level < 2) then some (Config.freeKey s.freeCount) else old.key

/-- A partition descriptor written (R372, R373): one with no quad ends the partition. A partition that did not exist starts its
measurement at BOOTM; each accepted descriptor extends it (R383). -/
def writeDescriptor (s : State) (part : Nat) (b : List Byte) : MboxAns :=
  if leAt b 0x0F 1 / 4 ≠ 0 ∨ leAt b 0x10 1 / 64 ≠ 0 ∨ leAt b 0x11 1 ≠ 0 ∨ leAt b 0x14 12 ≠ 0 then .refused
  else if 16 ≤ part then .refused
  else
    let was := look s.parts part
    let old := s.partAt part
    let new := old.describe b
    let moved := was.isSome && (new.quads != old.quads || new.chbase != old.chbase || new.chlog != old.chlog)
    if moved && s.partHeld part then .refused
    else if new.chbase % 2 ^ new.chlog ≠ 0 then .refused
    else if s.parts.any (fun q => q.1 != part && ((q.2.quads &&& new.quads) != 0 || setsMeet q.2 new)) then .refused
    else if new.quads = 0 then .done (if was.isSome then s.endPartition part else s)
    else if new.chlog < 4 ∨ 9 < new.chlog ∨ 512 < new.chbase + 2 ^ new.chlog then .refused
    else
      let s := if moved then
          let s := s.clearQuads (old.quads &&& ~~~new.quads)
          if new.chbase = old.chbase ∧ new.chlog = old.chlog then s
          else (s.clearChannels old.hasChannel).unallocate part
        else s
      let s := if new.batt then s.battWays part else s
      let m := if was.isSome then old.partm else s.bootm
      let sets := new.chbase == old.chbase && new.chlog == old.chlog && was.isSome
      let p := { new with
        partm := extendM m (sha256 b)
        key := s.keyFor old
        nextFrame := if sets then old.nextFrame else 0
        freeFrames := if sets then old.freeFrames else [] }
      let s : State := { s with freeCount := s.freeCount + 1 }
      .done ((s.setPart part p).measure part)

/-- Mailbox code 0x08 (R158, R300, R373), for the physical function: word 0 is 0 for a partition word (core, word), 1 for
PRIO_W (partition, value), 2 for a descriptor (partition, 96 bytes). -/
def writePartition (s : State) (r : MboxReq) : MboxAns :=
  if r.fn ≠ 0 then .refused
  else
    match (r.w 0).toNat with
    | 0 =>
      if r.len ≠ 3 then .malformed
      else if (s.partOfCore (r.w 1).toNat).any s.counted then .wait
      else writeCoreWord s (r.w 1).toNat (r.w 2)
    | 1 =>
      let v := (r.w 2).toNat
      if r.len ≠ 3 ∨ 2 ^ 32 ≤ v ∨ ¬ (upFrom 0 4).all (fun i => bits v (8 * i + 7) (8 * i) != 0) then .malformed
      else if (look s.parts (r.w 1).toNat).isNone then .refused
      else .done (s.setPart (r.w 1).toNat { s.partAt (r.w 1).toNat with prioW := BitVec.ofNat 32 v })
    | 2 =>
      if r.len ≠ 14 then .malformed
      else if s.counted (r.w 1).toNat then .wait
      else writeDescriptor s (r.w 1).toNat (wordsBytes ((r.payload.take 31).drop 2))
    | _ => .malformed

/-- The core a partition word is asked for is closing until the write (R158). -/
def State.closeCore (s : State) : State :=
  let r := s.arg.req
  let core := (r.w 1).toNat
  if r.fn = 0 ∧ r.w 0 = 0 ∧ r.len = 3 ∧ wordOk (r.w 2) ∧ core < Config.cores ∧ (s.fnAt 0).mboxst.getLsbD 0 = false
      ∧ s.run = .running then
    s.setCore core { s.coreAt core with closing := some closingForWord }
  else s

/-- The event MBOX_WRITE_PARTITION (R158, R373). -/
def execMboxWritePartition (s : State) : Out := mbox .mboxWritePartition 8 writePartition s.closeCore

/-- The event MBOX_BAD_REQUEST (R360): code `obj` is none the function may use. -/
def execMboxBadRequest (s : State) : Out :=
  let code := s.arg.obj % 2 ^ 16
  if code = 0 ∨ 8 < code then mbox .mboxBadRequest code (fun _ _ => .malformed) s
  else if code = 8 ∧ s.arg.req.fn ≠ 0 then mbox .mboxBadRequest code (fun _ _ => .refused) s
  else .next s

/-- The event MBOX_DOORBELL_BUSY (R360) on function `obj`. -/
def execMboxDoorbellBusy (s : State) : Out :=
  .next (if s.awake && (s.fnAt s.arg.obj).mboxst.getLsbD 0 then s.ringBusy s.arg.obj else s)

/-- The event MBOXST_WRITE (R359): a 1 written to a bit of function `obj`'s MBOXST clears it. -/
def execMboxstWrite (s : State) : Out :=
  let f := s.fnAt s.arg.obj
  .next (if s.awake then s.setFn s.arg.obj { f with mboxst := f.mboxst &&& ~~~(s.arg.word.setWidth 3) } else s)

/-- Whether an event is a coherent-port write that still waits for its home (R183, R361). -/
def waitingWrite : Move → Bool
  | .event .scpAccess a => a.flag
  | .event .userPortWrite a => a.flag
  | _ => false

/-- Whether a context's partition has exposed bytes to the host (R361). -/
def State.exposed (s : State) (ctx va n : Nat) : Bool :=
  (s.partAt (partOfCtx ctx)).window.any (fun w =>
    w.1 == ctx && decide (w.2.1 ≤ va) && decide (va + n ≤ w.2.1 + w.2.2))

/-- Whether a transaction of the host on bytes of a context is taken (R361, R376, R379): the device runs, the partition is
not quarantined, the host's endpoint holds its key, and the bytes are exposed. -/
def State.scpTakes (s : State) (ctx va n : Nat) : Bool :=
  s.run == .running && (look s.ctxs ctx).isSome && (s.partAt (partOfCtx ctx)).level == 0
    && (s.fnAt (partOfCtx ctx)).spdm && s.exposed ctx va n

/-- The lines that a transaction of the coherent port accesses, which it accesses in the order of arrival (R173, R185). -/
def State.portLines (s : State) : Move → List Nat
  | .event .scpAccess a => one a
  | .event .scpQpush a => one a
  | .event .scpQtrypop a => one a
  | .event .scpQlen a => one a
  | .event .scpSnoop a => upFrom (hostKey a.word.toNat / 128) ((a.word.toNat % 128 + a.bytes.length + 127) / 128)
  | .event .userPortWrite a => [portKey a.obj / 128]
  | .event .pendingRingHeadAdvance a =>
    (((look s.ctxs a.obj).bind (fun c => look c.uints a.obj2)).map (fun u => hostKey u.pendq.toNat / 128)).toList
  | _ => []
where
  /-- The line of the byte an operand names. -/
  one (a : EvArg) : List Nat := match s.place a.obj a.word.toNat with | .byte pa => [pa / 128] | _ => []

/-- Whether a transaction of the coherent port must stand behind one to the same line that waits (R173, R185). -/
def State.behind (s : State) (i : Instr) : Bool :=
  let ls := s.portLines (.event i s.arg)
  s.later.any (fun m => (s.portLines m).any (fun l => ls.contains l))

/-- The event PATHSYNC_READ (R185, R359): it completes once every coherent-port write received before has been performed, and
returns their count for function `obj`'s partition. -/
def execPathsyncRead (s : State) : Out :=
  if !s.awake then .next s
  else if s.later.any waitingWrite then .next (s.postpone .pathsyncRead)
  else .next { s with scpResp := [word ((look s.scpWrites s.arg.obj).getD 0)] }

/-- A coherent-port write of a partition counted (R359). -/
def State.countScp (s : State) (part : Nat) : State :=
  { s with scpWrites := put s.scpWrites part ((look s.scpWrites part).getD 0 + 1) }

/-- A value written to a context's user port (R367): VALUE and COUNT change in one access at the port's home. -/
def State.writePort (s : State) (ctx : Nat) (c : Ctx) (v : Word) : State :=
  let n := s.portCount ctx + 1
  let s := match c.portPage with
    | some va => s.writeTouch (s.homeUnitOf ctx va) ctx va (portKey ctx) none
    | none => s
  { s with mem := Mem.writeN (Mem.writeN s.mem (portKey ctx) 8 v.toNat) (portKey ctx + 8) 8 n.toNat }

/-- Whether the access to a mapped port must wait at its home. -/
def State.portWaits (s : State) (ctx : Nat) (c : Ctx) : Bool := c.portPage.any (fun va => s.mustWait ctx va (portKey ctx))

/-- The event USER_PORT_WRITE (R361, R367): the host writes `word` to VALUE of context `obj`'s port; through SCP for `flag`,
where the port's page lies in the host window, behind what it has sent to the line before. -/
def execUserPortWrite (s : State) : Out :=
  let ctx := s.arg.obj
  match look s.ctxs ctx with
  | some c =>
    let takes :=
      if s.arg.flag then c.portPage.any (fun va => s.scpTakes ctx va 8)
      else s.run == .running && (s.partAt (partOfCtx ctx)).level == 0
    if !takes then .next s
    else if s.counted (partOfCtx ctx) || s.portWaits ctx c || s.behind .userPortWrite then .next (s.postpone .userPortWrite)
    else
      let s := if s.arg.flag then s.countScp (partOfCtx ctx) else s
      .next (s.writePort ctx c s.arg.word)
  | none => .next s

/-- DEVID (R359): partition `fn` in bits 35:32. -/
def devId (fn : Nat) : Nat := 0x5A520001 + fn % 16 * 2 ^ 32

/-- A byte of function `fn`'s BAR0 as a read returns it (R359): 0 at offsets that are not listed. -/
def State.bar0Byte (s : State) (fn off : Nat) : Byte :=
  let f := s.fnAt fn
  let of8 (v : Nat) : Byte := BitVec.ofNat 8 (v / 2 ^ (8 * (off % 8)))
  if off < 0x8 then of8 (devId fn)
  else if off < 0x10 then of8 ((look s.scpWrites fn).getD 0)
  else if off < 0x100 then 0
  else if off < 0x200 then (f.mboxreq[off - 0x100]?).getD 0
  else if off < 0x300 then (f.mboxrsp[off - 0x200]?).getD 0
  else if off < 0x308 then 0
  else if off < 0x310 then of8 f.mboxst.toNat
  else if off < 0x1000 then 0
  else if off < 0x2000 then
    let ctx := fn * 64 + (off - 0x1000) / 64
    if (look s.ctxs ctx).isSome then Mem.read s.mem (portKey ctx + off % 64) else 0
  else 0

/-- The event BAR0_WRITE_OTHER (R359) on function `obj`: `bytes` at offset `obj2`. In MBOXREQ they stand there until a doorbell
or the next write; at an offset that is not listed, or only read, they are ignored. -/
def execBar0WriteOther (s : State) : Out :=
  let off := s.arg.obj2
  let f := s.fnAt s.arg.obj
  if s.awake ∧ 0x100 ≤ off ∧ off + s.arg.bytes.length ≤ 0x200 then
    .next (s.setFn s.arg.obj { f with mboxreq := patchBytes (padBytes f.mboxreq 256) (off - 0x100) s.arg.bytes })
  else .next s

end Sys2Proof.Machine
end

