-- ==== Sys2Proof/Machine/HostPort.lean ====
section
/-! DEFINITION. Sys2Proof/Machine/HostPort.lean: the coherent port (R184, R361, R362), host extents and page migration
(R354-R357), and the delivery of user interrupts (R365, R366). -/

namespace Sys2Proof.Machine

/-- What the host receives for a transaction; nothing where it is refused. -/
def State.answer (s : State) (ws : List Word) : State := { s with scpResp := ws }

/-- The bound queue a host transaction names (R208, R362): its scope admits the host. -/
def State.hostQueue (s : State) (ctx va : Nat) : Option QRef :=
  if va % 64 ≠ 0 ∨ !s.scpTakes ctx va 64 then none
  else
    match s.globalRef ctx va with
    | some r =>
      match s.queueAt r with
      | some q => if partOfCtx q.ctx = partOfCtx ctx ∧ engineScope (s.qcbBytes r 64) then some r else none
      | none => some r
    | none => none

/-- A host transaction refused, or one whose walk found nothing mapped, with the walk's record (R348). -/
def State.hostNone (s : State) (ctx : Nat) : State :=
  (if s.scpTakes ctx s.arg.word.toNat 1 then s.walkRas ctx s.arg.word.toNat else s).answer []

/-- What a blocked, closed or frozen queue answers the host (R362). -/
def hostCode : QAns → List Word
  | .closed => [wMinus1]
  | .corrupt _ => [wMinus1]
  | _ => [wMinus2]

/-- A host transaction at a queue's home, which waits while the lines it needs cannot be accessed (R161, R178, R183, R215), behind
what the host has sent to the block's line before, and while a census holds the partition (R412). -/
def State.hostHome (s : State) (i : Instr) (r : QRef) (push : Bool) (n : Nat) (k : Asker → Out) : Out :=
  if s.queueBusy r push n || s.behind i || s.counted (partOfCtx s.arg.obj) then .next (s.postpone i)
  else k ((s.queueAt r).elim (.unit 0) (s.homeUnit r))

/-- The event SCP_QPUSH (R362): the host pushes `bytes` on the queue at `word` of context `obj`, after every coherent-port
write it has made before. -/
def execScpQpush (s : State) : Out :=
  let ctx := s.arg.obj
  match s.hostQueue ctx s.arg.word.toNat with
  | none => .next (s.hostNone ctx)
  | some r =>
    if s.later.any waitingWrite then .next (s.postpone .scpQpush)
    else s.hostHome .scpQpush r true 1 (fun a =>
      let h := s.homePush r a [padBytes s.arg.bytes (qEsize (s.qcbBytes r 64))]
      let t := s.homeActed r h
      match h.ans with
      | .many (p :: _) _ _ => .next (t.answer [word p])
      | a => .next (t.answer (hostCode a)))

/-- The event SCP_QTRYPOP (R362): the host pops the queue at `word` of context `obj`; a queue with an engine for its only
popper is not the host's to pop (R268, R287). -/
def execScpQtrypop (s : State) : Out :=
  let ctx := s.arg.obj
  match s.hostQueue ctx s.arg.word.toNat with
  | none => .next (s.hostNone ctx)
  | some r =>
    match s.queueAt r with
    | some _ =>
      if s.engineOnly r then .next (s.answer [])
      else
        s.hostHome .scpQtrypop r false 1 (fun a =>
          let h := s.homePop r a 1
          let t := s.homeActed r h
          match h.ans with
          | .many (p :: _) (e :: _) _ => .next (t.answer (word p :: bytesWords e))
          | a => .next (t.answer (hostCode a)))
    | none => .next (s.answer [wMinus1])

/-- The event SCP_QLEN (R362): `queue.qlen` with sel 0. -/
def execScpQlen (s : State) : Out :=
  let ctx := s.arg.obj
  match s.hostQueue ctx s.arg.word.toNat with
  | none => .next (s.hostNone ctx)
  | some r =>
    s.hostHome .scpQlen r true 0 (fun a =>
      let h := s.homeLen r a 0
      let t := s.homeActed r h
      match h.ans with
      | .pos n => .next (t.answer [word n])
      | a => .next (t.answer (hostCode a)))

/-- The event SCP_ACCESS (R173, R183, R213, R361): the host reads `obj2` bytes, or for `flag` writes `bytes`, at `word` of
context `obj`: one access at the home of a device-homed line. -/
def execScpAccess (s : State) : Out :=
  let ctx := s.arg.obj
  let va := s.arg.word.toNat
  let n := if s.arg.flag then s.arg.bytes.length else s.arg.obj2
  if n = 0 ∨ 128 < va % 128 + n ∨ !s.scpTakes ctx va n then .next (s.answer [])
  else
    match s.place ctx va with
    | .byte pa =>
      if isHost pa then .next (s.answer [])
      else if s.mustWait ctx va pa || s.behind .scpAccess || s.counted (partOfCtx ctx) then .next (s.postpone .scpAccess)
      else if s.arg.flag then .next (((s.writeChunk (s.homeUnitOf ctx va) ctx va pa none s.arg.bytes).countScp (partOfCtx ctx)).answer [0])
      else if s.poisoned pa n then .next (s.answer [])
      else
        let bs := Mem.readBytes s.mem pa n
        .next ((s.readTouch (s.homeUnitOf ctx va) ctx va (sectorMask va n) pa).answer (bytesWords bs))
    | _ => .next (s.hostNone ctx)

/-- Lines of L2 that hold host bytes of a range. -/
def State.hostLines (s : State) (a n : Nat) : List (Nat × L2Line) :=
  s.l2.filter (fun l => overlaps (l.1 * 128) 128 (hostKey a) n)

/-- Bytes written to host memory (R184): the slices' copies are invalidated first, written back. -/
def State.hostPut (s : State) (a : Nat) (bs : List Byte) : State :=
  let s := (s.hostLines a bs.length).foldl (fun s l => s.dropLine l.1) s
  let s := s.unpoison (hostKey a) bs.length
  { s with mem := Mem.writeBytes s.mem (hostKey a) bs }

/-- Whether an engine owns a line of host bytes, which their next store waits for (R183). -/
def State.hostOwned (s : State) (a n : Nat) : Bool :=
  s.run != .halted && (upFrom (hostKey a / 128) ((a % 128 + n + 127) / 128)).any s.ownsLine

/-- The event SCP_SNOOP (R184): the host stores `bytes` at its address `word`; the slices' copies are invalidated first,
written back, once no engine owns them (R183), in the order in which the host sends them (R185). -/
def execScpSnoop (s : State) : Out :=
  let a := s.arg.word.toNat
  let bs := s.arg.bytes
  .next (if s.hostOwned a bs.length || s.behind .scpSnoop then s.postpone .scpSnoop else s.hostPut a bs)

/-- The event EXTENT_MARK_MIGRATABLE (R354): the host marks the extent of `obj2` bytes at its address `obj`, migratable for
`flag`. -/
def execExtentMarkMigratable (s : State) : Out :=
  let e : Extent := { base := s.arg.obj, size := s.arg.obj2, migratable := s.arg.flag, released := false }
  .next { s with extents := put s.extents s.arg.obj e }

/-- The pages of every context that map bytes of a host extent. -/
def State.extentPages (s : State) (base size : Nat) : List (Nat × Mapped) :=
  s.ctxs.flatMap (fun c => ((s.leavesOf c.1).filter (fun m =>
    leafKind m.entry == 1 && overlaps (leafFrame m.entry * 2 ^ 16) m.size base size)).map (fun m => (c.1, m)))

/-- Step 1 of R356: V is cleared in every entry that maps the extent, without waiting for grants, and the TLBs lose it. -/
def State.unmapExtent (s : State) (base size : Nat) : State :=
  (s.extentPages base size).foldl (fun s x =>
    let asid := s.asidOf x.1
    let s : State := { s with
      tables := put s.tables (tableKey (partOfCtx x.1) x.2.addr) (word (x.2.entry.toNat % 2 ^ 63))
      tlbs := s.tlbs.map (fun t => (t.1, t.2.filter (fun e => !(e.asid == asid && e.page == x.2.va)))) }
    s.resetCounts x.1 x.2.va) s

/-- The release acknowledged (R356): its pages are the host's, and no mark of R355 stands on them. -/
def State.ackExtent (s : State) (base size : Nat) : State :=
  let e := (look s.extents base).getD { base, size, migratable := false, released := false }
  { s with
    extents := put s.extents base { e with size, migratable := false, released := true }
    noMigrate := s.noMigrate.filter (fun f => !(decide (base ≤ f * 65536) && decide (f * 65536 < base + size))) }

/-- The event HOST_EXTENT_RELEASE (R356): the extent of `obj2` bytes at host address `obj` is unmapped, its lines are
written back and dropped, and the release is acknowledged; a line an engine owns is waited for. -/
def execHostExtentRelease (s : State) : Out :=
  if s.run == .halted then .next s
  else
    let base := s.arg.obj
    let size := s.arg.obj2
    let s := s.unmapExtent base size
    let ls := s.hostLines base size
    let s := (ls.filter (fun l => !s.ownsLine l.1)).foldl (fun s l => s.dropLine l.1) s
    if ls.any (fun l => s.ownsLine l.1) then .next (s.postpone .hostExtentRelease) else .next (s.ackExtent base size)

/-- The event HOST_FORCED_RELEASE (R357): the dirty lines the device still holds of the extent are dropped, each with a
RAS record that names the line, the ASID and the extent; then the acknowledgment. -/
def execHostForcedRelease (s : State) : Out :=
  if s.run == .halted then .next s
  else
    let base := s.arg.obj
    let size := s.arg.obj2
    let s := s.unmapExtent base size
    let s := (s.hostLines base size).foldl (fun s l =>
      if l.2.dirty then
        (s.loseLine l.1).addRas 7 0 (l.2.ch / 128) (partOfCtx l.2.ctx) (l.1 * 128 - 2 ^ 64)
          [l.2.asid.setWidth 64, word base, word size]
      else s.dropLine l.1) s
    let s : State := { s with later := s.later.filter (fun m => m != .event .hostExtentRelease s.arg) }
    .next (s.ackExtent base size)

/-- Whether a host page lies in an extent marked migratable (R354). -/
def State.migratable (s : State) (e : Word) (size : Nat) : Bool :=
  let a := leafFrame e * 2 ^ 16
  s.extents.any (fun x => x.2.migratable && !x.2.released && decide (x.2.base ≤ a)
    && decide (a + size ≤ x.2.base + x.2.size))

/-- The leaves of a partition that name a host page (R351): the page and its aliases, by context. -/
def State.aliases (s : State) (part : Nat) (e : Word) (size : Nat) : List (Nat × Mapped) :=
  s.ctxs.flatMap (fun c => if partOfCtx c.1 = part then
    ((s.leavesOf c.1).filter (fun m => leafKind m.entry == 1 && m.size == size && leafFrame m.entry == leafFrame e)).map
      (fun m => (c.1, m)) else [])

/-- Whether the count of some controller and die has reached MIG_T for a page (R354). -/
def State.countFull (s : State) (key migT : Nat) : Bool :=
  s.migCount.any (fun x => x.1 / countKey 1 0 0 == key && decide (migT ≤ x.2))

/-- Whether a host page, under whatever name, is marked never to be migrated (R355). -/
def State.neverMoves (s : State) (e : Word) (size : Nat) : Bool :=
  s.noMigrate.any (fun f => decide (leafFrame e ≤ f) && decide (f < leafFrame e + size / 65536))

/-- The host page at an address whose migration is due (R354): its leaf and its size. Its aliases move with it (log 28), so
that no grant may cover one of them either. -/
def State.migrates (s : State) (ctx va : Nat) : Option (Word × Nat) :=
  match s.walk ctx va with
  | .leaf e size _ =>
    let base := pageBase va size
    let p := s.partAt (partOfCtx ctx)
    if leafKind e = 1 ∧ s.run = .running ∧ p.level = 0 ∧ p.census = 0 ∧ s.migratable e size ∧ !s.neverMoves e size
        ∧ s.countFull (s.pageKey ctx base) p.migT
        ∧ !(s.aliases (partOfCtx ctx) e size).any (fun x => s.pinnedPage x.1 x.2.va size)
        ∧ !s.ownedPage ctx base size ∧ 128 * 2 ^ p.chlog ≤ size then
      some (e, size)
    else none
  | _ => none

/-- A migration given up (R355): the host page is never migrated again, and a RAS record says so. -/
def State.abandon (s : State) (ctx base : Nat) (e : Word) : State :=
  let s : State := { s with noMigrate := addNat s.noMigrate (leafFrame e) }
  s.addRas 6 0 0 (partOfCtx ctx) base [(s.asidOf ctx).setWidth 64]

/-- A page's bytes stand in its new frame (R354): memory, poison, the lines that slices hold and the queues bound there are
named anew; the host frame keeps what lay behind dirty lines. -/
def State.moveFrame (s : State) (ctx base size hostPa : Nat) (e : Word) : State :=
  let p := s.partAt (partOfCtx ctx)
  let dst (va : Nat) : Nat :=
    match placeOf p.chbase p.chlog va e size with
    | .byte pa => pa
    | _ => 0
  let inOld (k : Nat) : Bool := decide (hostPa ≤ k) && decide (k < hostPa + size)
  let lines := s.l2.filter (fun l => inOld (l.1 * 128))
  let mem := (s.mem.filter (fun c => inOld c.1)).foldl (fun m c => Mem.write m (dst (base + (c.1 - hostPa))) c.2) s.mem
  let mem := lines.foldl (fun m l => if l.2.dirty then Mem.writeBytes m (l.1 * 128) l.2.shadow else m) mem
  let poison := (s.poison.filter (fun x => inOld (32 * x))).foldl (fun xs x =>
    addNat xs (dst (base + (32 * x - hostPa)) / 32)) (s.poison.filter (fun x => !inOld (32 * x)))
  let l2 := lines.foldl (fun m l => put (del m l.1) (dst (base + (l.1 * 128 - hostPa)) / 128) l.2) s.l2
  let moved (q : Nat) : Nat := if inOld q then dst (base + (q - hostPa)) else q
  if s.queues.any (fun q => inOld q.1) then State.rekeyQueues { s with mem, poison, l2 } moved else { s with mem, poison, l2 }

/-- The event PAGE_MIGRATE (R354, R355): the host page at `word` of context `obj` moves to a frame of the partition's set.
`obj2` says how many destination frames fail: the first is retired and the copy retried, the second ends the attempt. A
poisoned source ends it too. The entries change as R350 says, but that the slices keep the page's lines. -/
def execPageMigrate (s : State) : Out :=
  let ctx := s.arg.obj
  let va := s.arg.word.toNat
  match s.migrates ctx va with
  | none => .next s
  | some (e, size) =>
    let part := partOfCtx ctx
    let base := pageBase va size
    let hostPa := hostKey (leafFrame e * 2 ^ 16)
    match (s.partAt part).takeFrame size with
    | none => .next s
    | some (f, p) =>
      if s.poisoned hostPa size then .next (s.abandon ctx base e)
      else
        let bad (p : Partition) (f : Nat) : Partition := { p with badFrames := p.badFrames ++ [f] }
        let go (s : State) (p : Partition) (f : Nat) : State :=
          let s := s.setPart part p
          let s := s.zeroFrame p size f
          let all := s.aliases part e size
          let s := s.moveFrame ctx base size hostPa (leafMoved e f)
          all.foldl (fun s x =>
            (State.purgeCaches { s with tables := put s.tables (tableKey part x.2.addr) (leafMoved x.2.entry f) }
              (s.asidOf x.1) x.2.va x.2.size).resetCounts x.1 x.2.va) s
        match s.arg.obj2 with
        | 0 => .next (go s p f)
        | k =>
          match (bad p f).takeFrame size with
          | none => .next (s.setPart part (bad p f))
          | some (f2, p2) =>
            if k = 1 then .next (go s p2 f2) else .next ((s.setPart part (bad p2 f2)).abandon ctx base e)

/-- Bytes of host memory as a number. -/
def State.hostN (s : State) (a n : Nat) : Nat := Mem.readN s.mem (hostKey a) n

/-- The entry a user interrupt goes to. -/
def State.uintEntry (s : State) (m : UintMsg) : Option UintEntry := (look s.ctxs m.ctx).bind (fun c => look c.uints m.entry)

/-- Whether the host thread of an entry is running (R365): bit 0 of its run word. -/
def State.hostRuns (s : State) (u : UintEntry) : Bool := s.hostN u.runaddr.toNat 8 % 2 == 1

/-- Whether an entry's pending ring has room (R366). -/
def State.ringRoom (s : State) (u : UintEntry) : Bool :=
  (word (s.hostN (u.pendq.toNat + 8) 8) - word (s.hostN u.pendq.toNat 8)).toNat != u.pcap.toNat

/-- The first interrupt that can be delivered now (R366): of each entry only the oldest. One the host has refused waits for
room in its ring. -/
def State.uintReady (s : State) : List UintMsg → List UintMsg → Option UintMsg
  | _, [] => none
  | seen, m :: t =>
    let ok := match s.uintEntry m with
      | some u => (s.hostRuns u && !m.refused) || s.ringRoom u
      | none => true
    if (s.partAt (partOfCtx m.ctx)).level == 0 && !seen.any (fun x => x.ctx == m.ctx && x.entry == m.entry) && ok then some m
    else s.uintReady (m :: seen) t

/-- A pending record written at TAIL (R365, R366). -/
def State.pend (s : State) (m : UintMsg) (u : UintEntry) : State :=
  let tail := s.hostN (u.pendq.toNat + 8) 8
  let at_ := u.pendq.toNat + 64 + 16 * (tail % u.pcap.toNat)
  let rec_ := leBytes 8 m.data.toNat ++ leBytes 1 m.entry ++ leBytes 3 0 ++ leBytes 4 (m.seq % 2 ^ 32)
  (s.hostPut at_ rec_).hostPut (u.pendq.toNat + 8) (leBytes 8 ((tail + 1) % 2 ^ 64))

/-- The event UINT_DELIVER (R366): the next user interrupt goes to its host thread, directly where it runs and, unless
`flag`, the host takes the message; else to the pending ring once it has room: until then the others go on. -/
def execUintDeliver (s : State) : Out :=
  if s.run != .running then .next s
  else
    match s.uintReady [] s.uints with
    | none => .next s
    | some m =>
      let t : State := { s with uints := s.uints.erase m }
      match s.uintEntry m with
      | none => .next t
      | some u =>
        if s.hostRuns u && !m.refused && !s.arg.flag then
          .next { t with uintOut := t.uintOut ++ [[u.target, u.vector.setWidth 64, m.data]] }
        else if s.ringRoom u then .next (t.pend m u)
        else .next { s with uints := s.uints.map (fun x => if x = m then { m with refused := true } else x) }

/-- The event PENDING_RING_HEAD_ADVANCE (R366): the host writes `word` to HEAD of the ring of entry `obj2` of context
`obj`, as it stores any bytes of its own (R184). -/
def execPendingRingHeadAdvance (s : State) : Out :=
  match (look s.ctxs s.arg.obj).bind (fun c => look c.uints s.arg.obj2) with
  | some u =>
    .next (if s.hostOwned u.pendq.toNat 8 || s.behind .pendingRingHeadAdvance then s.postpone .pendingRingHeadAdvance
      else s.hostPut u.pendq.toNat (leBytes 8 s.arg.word.toNat))
  | none => .next s

end Sys2Proof.Machine
end

