-- ==== Sys2Proof/Machine/Doe.lean ====
section
/-! DEFINITION. Sys2Proof/Machine/Doe.lean: boot and measurement (R383, R384), what the host asks over DOE beside
inspection (R358, R382, R410, R412), and what the management path installs (R377, R383). -/

namespace Sys2Proof.Machine

/-- The fused digest of the service image's public key (R383): that of the maker's, 64 bytes that are free (log 18). -/
def fusedKeyDigest : BitVec 256 := sha256 ((upFrom 0 64).map Config.bootKey)

/-- Whether the boot ROM accepts an image (R383): the digest of its 64-byte key, the signature, and the fused least version. -/
def BootImageOk (m : BootImage) : Bool :=
  m.pubkey.length == 64 && sha256 m.pubkey == fusedKeyDigest && m.sigOk
    && decide (Config.minVersion.toNat ≤ m.version.toNat)

/-- The final boot measurement of an image (R383): M0 is 32 zero bytes, extended with the digests of the image body and then of
the device policy block. -/
def bootMeasure (m : BootImage) : BitVec 256 := extendM (extendM 0 (sha256 m.body)) (sha256 m.policy)

/-- The state after power-up, before the image is known (R419): what lies outside the device stays, and so does the value
the management path expects. -/
def State.powerOn (s : State) : State :=
  { State.reset with
    agenda := s.agenda, later := s.later, freeCount := s.freeCount, pkg := s.pkg, expected := s.expected
    mem := s.mem.filter (fun c => decide (2 ^ 64 ≤ c.1) && decide (c.1 < portKey 0)) }

/-- An image booted (R383): its version and its measurement, from which partition 0's starts; MEASURE at boot is raised where the
chain ends elsewhere. -/
def State.boot (s : State) (m : BootImage) : State :=
  let s := State.setPart { s with run := .running, version := m.version, bootm := bootMeasure m } 0
    { s.partAt 0 with partm := bootMeasure m }
  match s.expected with
  | some x => if x = s.bootm then s else s.alarm 4 none 3
  | none => s

/-- The event POWER_UP (R383, R384, R419): the ROM boots the image, or stays in the recovery state. -/
def execPowerUp (s : State) : Out :=
  let m := s.arg.img
  .next (if BootImageOk m then s.powerOn.boot m else { s.powerOn with run := .recovery })

/-- The event DOE_RECOVERY_IMAGE (R384): in the recovery state the ROM checks an image from the host. -/
def execDoeRecoveryImage (s : State) : Out :=
  .next (if s.run == .recovery && BootImageOk s.arg.img then s.boot s.arg.img else s)

/-- A response over DOE on a function. -/
def State.doe (s : State) (fn : Nat) (bs : List Byte) : State := s.setFn fn { s.fnAt fn with doeResp := bs }

/-- The fields of an attestation report (R382), which its signature covers. -/
def State.reportFields (s : State) (fn : Nat) (nonce : List Byte) : List Byte :=
  padBytes nonce 32 ++ digestBytes s.bootm
    ++ (if fn = 0 then List.replicate 32 0 else digestBytes (s.partAt fn).partm)
    ++ leBytes 4 s.version.toNat ++ leBytes 2 fn ++ leBytes 2 (s.partAt fn).level ++ List.replicate 56 0

/-- SHA-256 of a byte and the fused seed (R381); the seed is free (log 18). -/
def seedHash (b : Byte) : BitVec 256 := sha256 (b :: digestBytes (Config.freeSecret 1 0))

/-- SK.seed, the first half of K1 (R381). -/
def skSeed : BitVec 128 := ((seedHash 1) >>> 128).setWidth 128

/-- PK.seed, the first half of K2 (R381). -/
def pkSeed : BitVec 128 := ((seedHash 2) >>> 128).setWidth 128

/-- The identity public key (R381): PK.seed and then PK.root, as one number with the first byte most significant. -/
def identityKey : BitVec 256 := pkSeed ++ Config.slhRoot skSeed pkSeed

/-- The 32 bytes of the identity public key. -/
def publicKey : List Byte := digestBytes identityKey

/-- An attestation report (R382): 8,048 bytes; the signature is that of the identity key, K1 and the public key (log 18). -/
def State.report (s : State) (fn : Nat) (nonce : List Byte) : List Byte :=
  let b := s.reportFields fn nonce
  b ++ (upFrom 0 7856).map (Config.slhSign (seedHash 1) identityKey b) ++ publicKey

/-- The event DOE_ATTEST (R382): a report for the nonce `bytes`, on function `obj`. -/
def execDoeAttest (s : State) : Out :=
  let fn := s.arg.obj
  .next (if s.run == .running && s.identity && s.fnServes fn then s.doe fn (s.report fn s.arg.bytes) else s)

/-- The event SPDM_SESSION (R358, R376): function `obj`'s session gives the host's endpoint the partition's key. -/
def execSpdmSession (s : State) : Out :=
  let fn := s.arg.obj
  .next (if s.run == .running && s.fnServes fn && (s.partAt fn).key.isSome then s.setFn fn { s.fnAt fn with spdm := true }
    else s)

/-- The event EXPECTED_MEASUREMENT_INSTALL (R383): the value `big` expected of partition `obj`, or of the boot chain for
255; MEASURE is raised where the chain stands elsewhere. -/
def execExpectedMeasurementInstall (s : State) : Out :=
  let p := s.arg.obj
  if s.run != .running then .next s
  else if p = 255 then
    let s : State := { s with expected := some s.arg.big }
    .next (if s.bootm = s.arg.big then s else s.alarm 4 none 3)
  else if (look s.parts p).isSome then .next ((s.setPart p { s.partAt p with expected := some s.arg.big }).measure p)
  else .next s

/-- Whether an object may be loaded (R377): where REQSIG is set, its signature is good and its key is one of the two. -/
def Partition.accepts (p : Partition) (x : LoadSection) : Bool :=
  !p.reqsig || (x.signed && x.sigOk && ((p.sigkey0 != 0 && x.keyDigest == p.sigkey0) || (p.sigkey1 != 0 && x.keyDigest == p.sigkey1)))

/-- Whether an object's LAUNCH records can stand beside those a context holds (R425): two with one entry address and different
values are a load error. -/
def launchesAgree : List (Nat × BitVec 64) → SMap (BitVec 64) → Bool
  | [], _ => true
  | x :: t, m => (look m x.1).all (fun y => y == x.2) && launchesAgree t (put m x.1 x.2)

/-- The event SECTION_MARKED_LOADED (R57, R93, R352, R377, R383, R425): a code section of context `obj` is marked loaded, with
the LAUNCH records and role maps of its object; an object not seen before extends PARTM. A load error marks nothing loaded. -/
def execSectionMarkedLoaded (s : State) : Out :=
  let k := s.arg.obj
  let x := s.arg.sec
  let part := partOfCtx k
  match look s.ctxs k with
  | none => .next s
  | some c =>
    let p := s.partAt part
    if s.run != .running || !p.accepts x || !launchesAgree x.launches c.launches then .next s
    else
      let c' : Ctx := { c with
        sections := c.sections ++ [{ base := x.base.toNat, size := x.size, lane := x.lane, obj := x.obj }]
        launches := x.launches.foldl (fun m y => put m y.1 y.2) c.launches
        rolemaps := x.rolemaps.foldl (fun m y => put m y.1 y.2) c.rolemaps }
      let s := s.setCtx k c'
      if c.sections.any (fun y => y.obj == x.obj) then .next s
      else .next ((s.setPart part { p with partm := extendM p.partm x.digest }).measure part)

/-- The event DOE_CENSUS (R412): the cores of function `obj`'s partition stop, blocked instructions withdrawn, those that
wait at a peer once it gives them back (R229); engines hold its records and packets. -/
def execDoeCensus (s : State) : Out :=
  let part := s.arg.obj
  let p := s.partAt part
  if s.run == .running && (look s.parts part).isSome && p.census == 0 then
    let s := s.cohorts.foldl (fun s c => if partOfCtx c.2.ctx = part then s.withdrawAll c.1 else s) s
    .next (s.setPart part { s.partAt part with census := 1 })
  else .next s

/-- The partition a home's work is of. -/
def State.chorePart (s : State) (c : Chore) : Option Nat :=
  let at_ (k : Nat) : Option Nat := (s.queueAt (refOf k)).map (fun q => partOfCtx q.ctx)
  match c with
  | .record ctx _ _ _ _ => some (partOfCtx ctx)
  | .commit k _ _ => at_ k
  | .settle k _ => at_ k
  | .retire k _ => at_ k

/-- Whether a channel has stopped at a record boundary (R412): a QPUT that its queue has not admitted has done nothing, and
stands before its record (log 29). -/
def Channel.atBoundary (c : Channel) (part : Nat) : Bool :=
  match c.chains.head? with
  | some h => partOfCtx h.ctx != part || (match h.taken with | some r => h.st == .waitSlot && r.qpos.isNone | none => true)
  | none => true

/-- Whether everything a partition's homes and engines have accepted is complete (R412). -/
def State.censusReady (s : State) (part : Nat) : Bool :=
  let p := s.partAt part
  p.census == 1
    && s.slices.all (fun q => !p.hasChannel q.1 || (q.2.reqs.isEmpty && q.2.misses.isEmpty))
    && s.cores.all (fun c => s.partOfCore c.1 != some part || (c.2.mx.isEmpty && c.2.slq.isEmpty && c.2.responses.isEmpty
        && c.2.posted.isEmpty))
    && s.threads.all (fun t => partOfCtx t.2.ctx != part || (t.2.redBuf.isEmpty && t.2.quiet))
    && s.dies.all (fun d => d.2.combiner.all (fun r => partOfCtx r.ctx != part) && d.2.decs.all (fun e => hPart e.1 != part))
    && s.chans.all (fun c => c.2.atBoundary part)
    && s.chores.all (fun c => s.chorePart c != some part)

/-- The event CENSUS_DONE (R412) of partition `obj`: done is reported to its function. -/
def execCensusDone (s : State) : Out :=
  let part := s.arg.obj
  if s.censusReady part then .next ((s.setPart part { s.partAt part with census := 2 }).doe part (leBytes 8 1))
  else .next s

/-- The event DOE_CENSUS_RESUME (R412): partition `obj` runs again; withdrawn instructions are issued anew. -/
def execDoeCensusResume (s : State) : Out :=
  let part := s.arg.obj
  .next (if s.awake && (look s.parts part).isSome then s.setPart part { s.partAt part with census := 0 } else s)

end Sys2Proof.Machine
end

