-- ==== Sys2Proof/Machine/Sync.lean ====
section
/-! DEFINITION. Sys2Proof/Machine/Sync.lean: waits and barriers (R313-R319), and the events that end a wait (R316). -/

namespace Sys2Proof.Machine

/-- KIND of a condition word (R315). -/
def cKind (c : Word) : Nat := bits c.toNat 63 60

/-- Whether a condition word's reserved bits are zero and its KIND is one of R315. -/
def condOk (c : Word) : Bool :=
  let n := c.toNat % 2 ^ 60
  match cKind c with
  | 0 => n == 0
  | 1 => bits n 15 4 == 0 && decide (n < 2 ^ 32)
  | 2 => bits n 58 57 == 0
  | 3 => bits n 58 57 == 0
  | 4 => decide (n < 2 ^ 38)
  | 5 => decide (n < 16)
  | 6 => n == 0
  | 7 => true
  | 8 => decide (n < 8)
  | 9 => decide (n < 8)
  | _ => false

/-- Whether a condition names a queue. -/
def condQueue (c : Word) : Bool := cKind c == 2 || cKind c == 3

/-- The queue address of a condition in the form of R211. -/
def condAddr (c : Word) : Word :=
  word ((if c.getLsbD 59 then 2 ^ 62 else 0) + bits c.toNat 56 0)

/-- The cause mask of a condition's queue: none where the queue is intact, or where no queue is named. -/
def State.condCorrupt (s : State) (t : Thread) (c : Word) : Option Nat :=
  if condQueue c then
    match s.queueRef t (condAddr c) 64 with
    | .inr r =>
      match s.queueAt r with
      | some q => q.frozen.map (fun m => m.toNat)
      | none => none
    | .inl _ => none
  else none

/-- Whether the home of a condition's queue cannot look at its block now (R178, R183): the condition is evaluated once it can. -/
def State.condBusy (s : State) (t : Thread) (c : Word) : Bool :=
  condQueue c && (match s.queueRef t (condAddr c) 64 with | .inr r => s.queueBusy r true 0 | .inl _ => false)

/-- Whether a condition is satisfied (R315). A queue no longer bound had been closed (R316). -/
def State.condHolds (s : State) (tid : Nat) (t : Thread) (c : Word) : Bool :=
  let n := c.toNat % 2 ^ 60
  let queueBytes : Option (List Byte) :=
    match s.queueRef t (condAddr c) 64 with
    | .inr r => if (s.queueAt r).isSome then some (s.qcbBytes r 64) else none
    | .inl _ => none
  if s.condBusy t c then false
  else match cKind c with
  | 1 => (look s.cohorts t.cohort).elim false (fun h => phaseReached (h.barAt (n % 16)).phase (BitVec.ofNat 16 (n / 2 ^ 16)))
  | 2 => queueBytes.elim true (fun b => qTail b != qHead b || qClosed b)
  | 3 => queueBytes.elim true (fun b => (decide (1 ≤ qFree b) && decide (qResv b < 64)) || qClosed b)
  | 4 =>
    let ts := s.taskAt (hKey (word n))
    ts.st != .waiting || ts.gen.toNat != hGen (word n)
  | 5 => (s.chanAt (chanKey tid n)).chains.all (fun h => h.ctx != t.ctx)
  | 6 => s.portCount t.ctx != t.portCopy
  | 7 => decide (n ≤ s.time)
  | 8 => decide (t.lbq ≤ n)
  | 9 => !s.tileBusy tid t.uid n
  | _ => false

/-- The four condition words from S(a) (R316). -/
def Thread.conds (t : Thread) (a : BitVec 6) : List Word := (upFrom 0 4).map (fun i => t.SRun a i)

/-- The mask of satisfied conditions at one evaluation (R316). -/
def State.condMask (s : State) (tid : Nat) (t : Thread) (cs : List Word) : Nat :=
  (cs.zipIdx.map (fun c => if cKind c.1 ≠ 0 ∧ s.condHolds tid t c.1 then 2 ^ c.2 else 0)).sum

/-- The mask of conditions that are not NONE. -/
def wantMask (cs : List Word) : Nat := (cs.zipIdx.map (fun c => if cKind c.1 ≠ 0 then 2 ^ c.2 else 0)).sum

/-- A `sync.wait` that returns a mask; the copy of the port's count is renewed where PORT is set (R315, R316). -/
def State.syncReturn (s : State) (tid : Nat) (d : BitVec 6) (cs : List Word) (m : Nat) : State :=
  s.onLive tid (fun t =>
    let port := cs.zipIdx.any (fun c => cKind c.1 == 6 && m.testBit c.2)
    let t := if port then { t with portCopy := s.portCount t.ctx } else t
    (t.setS d (word m)).step4)

/-- One evaluation of a `sync.wait` (R316): what it returns, or a queue's cause mask with its address, or nothing. -/
inductive SyncAt where
  | returns (m : Nat)
  | corrupt (addr : Word) (causes : Nat)
  | waits
  deriving DecidableEq, Repr

/-- One evaluation against a deadline. -/
def State.syncEval (s : State) (tid : Nat) (t : Thread) (a b : BitVec 6) (deadline : Option Nat) : SyncAt :=
  let cs := t.conds a
  match cs.find? (fun c => (s.condCorrupt t c).isSome) with
  | some c => .corrupt (condAddr c) ((s.condCorrupt t c).getD 0)
  | none =>
    let m := s.condMask tid t cs
    if (¬ (t.S b).getLsbD 63 ∧ m ≠ 0) ∨ ((t.S b).getLsbD 63 ∧ m = wantMask cs) then .returns m
    else
      match deadline with
      | some n => if n ≤ s.tick then .returns 0 else .waits
      | none => .waits

/-- The checks of `sync.wait` that fail before its wait begins (R42, R316): the code, the address and INFO. -/
def State.syncCheck (s : State) (tid : Nat) (t : Thread) (a b : BitVec 6) : Option (Nat × Word × Word) :=
  let cs := t.conds a
  let priv (c : Word) : Bool :=
    (cKind c == 4 && hPart (word (c.toNat % 2 ^ 38)) != partOfCtx t.ctx)
    || (condQueue c && (match s.queueRef t (condAddr c) 64 with | .inr r => s.queuePriv tid t r | .inl _ => false))
  let pool (c : Word) : Bool := cKind c == 9 && decide (t.tiles.length ≤ c.toNat % 8)
  let refFault (c : Word) : Option Nat :=
    if condQueue c then (match s.queueRef t (condAddr c) 64 with | .inl f => some f | .inr _ => none) else none
  let home (c : Word) : Option Nat :=
    if condQueue c then
      match s.queueRef t (condAddr c) 64 with
      | .inr r =>
        match s.queueAt r with
        | none => some 0x100
        | some q => if s.causes r q = 0 then none else some (s.causes r q)
      | .inl _ => none
    else none
  if 60 < a.toNat then some (0x01, 0, 0)
  else if cs.any priv then some (0x14, 0, 0)
  else if cs.any pool then some (0x0F, 0, 0)
  else if bits (t.S b).toNat 62 48 ≠ 0 ∨ cs.any (fun c => !condOk c) ∨ wantMask cs = 0 then some (0x0D, 0, 0)
  else
    match cs.find? (fun c => (refFault c).isSome) with
    | some c => some ((refFault c).getD 0, condAddr c, 0)
    | none =>
      match cs.find? (fun c => (home c).isSome) with
      | some c => some (0x08, condAddr c, word ((home c).getD 0))
      | none => none

/-- The queue a condition's check finds damaged frozen, with its waiters ended (R214, R316). -/
def State.freezeFound (s : State) (t : Thread) (addr : Word) : State :=
  match s.queueRef t addr 64 with
  | .inr r =>
    match s.queueAt r with
    | some q =>
      if q.frozen = none then
        let h := s.freeze r q (s.causes r q)
        h.s.applyEnds h.ended
      else s
    | none => s
  | .inl _ => s

/-- `sync.wait` (R314-R316); one that a save withdrew is issued again with the deadline it had. -/
def execSyncWait (d a b : BitVec 6) (s : State) : Out :=
  onThread s (fun tid t =>
    let n := bits (t.S b).toNat 47 0
    let deadline := match t.wait with
      | some (.resync n) => n
      | _ => if n = 2 ^ 48 - 1 then none else some (s.tick + n)
    match s.syncCheck tid t a b with
    | some (f, addr, info) =>
      if f = 0x08 then
        if (t.conds a).any (s.condBusy t) then .next (s.hold tid .scalar (.resync deadline))
        else faultOut (s.freezeFound t addr) tid (scalarF t f addr info)
      else faultOut s tid (scalarF t f addr info)
    | none =>
      match s.syncEval tid t a b deadline with
      | .returns m => .next (s.syncReturn tid d (t.conds a) m)
      | .corrupt addr m => faultOut s tid (scalarF t 0x08 addr (word m))
      | .waits => .next (s.hold tid .scalar (.sync d a b deadline)))

/-- MEM of a barrier designator (R317). -/
def barMem (w : Word) : Bool := w.getLsbD 63
/-- NAME of a barrier designator. -/
def barName (w : Word) : Nat := bits w.toNat 56 0
/-- Whether a designator's reserved bits are zero. -/
def barOk (w : Word) : Bool := bits w.toNat 62 57 == 0 && (barMem w || decide (barName w < 16))

/-- PHASE of a barrier as it stands. -/
def State.phaseOf (s : State) (t : Thread) (w : Word) : BitVec 16 :=
  if barMem w then (barrierOf (s.peekBytes t.ctx (barName w) 16)).phase
  else ((s.cohortOf t).elim Barrier.fresh (fun c => c.barAt (barName w))).phase

/-- Whether the scope of a memory barrier admits a core (R318). -/
def State.barrierAdmits (s : State) (ctx core sc : Nat) : Bool :=
  if sc < 7 then true
  else (((look s.ctxs ctx).bind (fun c => look c.scopes sc)).elim false (fun e => e.cores.getLsbD core))

/-- The peer a barrier designator leads to (R369): its page handle. -/
def State.barPeer (s : State) (t : Thread) (w : Word) : Option Nat :=
  if barMem w then (match s.place t.ctx (barName w) with | .remote h => some h | _ => none) else none

/-- Whether a thread has asked a peer about a phase and not been told (R318, R370). -/
def State.asksPhase (s : State) (uid : Nat) : Bool :=
  s.flows.any (fun f => f.2.waiting.any (fun w => w.uid == uid && (match w.op with | .phase _ => true | _ => false)))

/-- The wait of an arrival at a peer's barrier: the peer is asked for the phase after `p`; TRANSLATE on a flow that is
down (R368). -/
def State.askPhase (s : State) (tid : Nat) (t : Thread) (h : Nat) (w : Word) (p : BitVec 16) : Out :=
  let k := handleFlow (dieOfCore (coreOf tid)) h
  let fl := s.flowAt k
  let a := word (barName w)
  if fl.down then faultOut s tid (scalarF t 0x06 a 0)
  else
    let x : NetWait := { uid := t.uid, party := .scalar, op := .phase p, addr := a, asked := false }
    let msg := [word h, a, 10, (p + 1).setWidth 64]
    .next { s with flows := put s.flows k { fl with waiting := fl.waiting ++ [x], sent := fl.sent ++ [msg] } }

/-- What the messages of one peer's barrier and count begin with (R370, log 31): the page handle, the address, the kind, the
count offered. -/
def arrivalHead (h a n : Word) : List Word := [h, a, 9, n]

/-- The last message of this package's arrivals at a peer's barrier, on whichever of its dies' flows to the peer's partition it
stands (R370): the flow and the message's place. Five words, and the phase it has been told plus 1, 0 for none. -/
def State.lastArrival (s : State) (k : Nat) (head : List Word) : Option (Nat × Nat) :=
  s.flows.findSome? (fun f =>
    if f.1 % 2 ^ 15 = k % 2 ^ 15 ∧ ¬ f.2.down then
      ((f.2.sent.zipIdx.filter (fun m => m.1.take 4 == head)).getLast?).map (fun m => (f.1, m.2))
    else none)

/-- The arrivals at a peer's barrier under one count that no answer has come for yet. -/
def State.openArrivals (s : State) (k : Nat) (head : List Word) : Nat :=
  (s.flows.map (fun f =>
    if f.1 % 2 ^ 15 = k % 2 ^ 15 then
      (f.2.waiting.filter (fun x => match x.op with
        | .arrive _ _ n _ => x.addr == nth head 1 0 && n.setWidth 64 == nth head 3 0
        | _ => false)).length
    else 0)).sum

/-- The words of a flow's i-th message changed. -/
def State.setMessage (s : State) (k i : Nat) (f : List Word → List Word) : State :=
  let fl := s.flowAt k
  { s with flows := put s.flows k { fl with sent := setNth fl.sent i (f (nth fl.sent i [])) } }

/-- One more arrival of this package in the message of its phase (R370): the first one begins it. -/
def State.addArrival (s : State) (k : Nat) (head : List Word) : State :=
  match s.lastArrival k head with
  | some (j, i) => s.setMessage j i (fun m => setNth m 4 (nth m 4 0 + 1))
  | none =>
    let fl := s.flowAt k
    { s with flows := put s.flows k { fl with sent := fl.sent ++ [head ++ [1, 0]] } }

/-- An arrival answered with the phase it arrived in (R318, R370): where its message has been told an earlier one, that phase is
over, and this arrival and those still open make the message of the next. -/
def State.arrivalTold (s : State) (k : Nat) (head : List Word) (p : BitVec 16) : State :=
  match s.lastArrival k head with
  | some (j, i) =>
    let m := nth (s.flowAt j).sent i []
    let told := nth m 5 0
    if told = 0 then s.setMessage j i (fun m => setNth m 5 (p.setWidth 64 + 1))
    else
      let was : BitVec 16 := (told - 1).setWidth 16
      if p = was ∨ ¬ phaseReached p was then s
      else
        let n := word (s.openArrivals k head + 1)
        let s := s.setMessage j i (fun m => setNth m 4 (nth m 4 0 - n))
        let fl := s.flowAt j
        { s with flows := put s.flows j { fl with sent := fl.sent ++ [head ++ [n, p.setWidth 64 + 1]] } }
  | none => s

/-- An arrival sent to a peer's barrier (R369, R370): its thread waits for the answer; TRANSLATE on a flow that is down. -/
def sendArrival (s : State) (tid : Nat) (t : Thread) (h va : Nat) (d : BitVec 6) (w : Word) (n : BitVec 16) (waits : Bool) : Out :=
  let k := handleFlow (dieOfCore (coreOf tid)) h
  let fl := s.flowAt k
  if fl.down then faultOut s tid (scalarF t 0x06 (word va) 0)
  else
    let x : NetWait := { uid := t.uid, party := .scalar, op := .arrive d w n waits, addr := word va, asked := false }
    let s : State := { s with flows := put s.flows k { fl with waiting := fl.waiting ++ [x] } }
    let s := s.addArrival k (arrivalHead (word h) (word va) (n.setWidth 64))
    .next (s.onLive tid (fun t => t.block .scalar (.remote k)))

/-- An arrival's end (R318): d takes the phase arrived in; with WAIT the thread blocks until the phase has passed. -/
def State.arriveDone (s : State) (tid : Nat) (d : BitVec 6) (w : Word) (p : BitVec 16) (waits : Bool) : State :=
  s.onLive tid (fun t =>
    let t := (t.setS d (p.setWidth 64)).dirty
    if waits ∧ ((s.barPeer t w).isSome ∨ ¬ phaseReached (s.phaseOf t w) (p + 1)) then t.block .scalar (.phase w p) else t.step4)

/-- Whether an arrival must wait before the SCOPE of its object can be read (R42, R178, R183). -/
def State.arrivalBusy (s : State) (t : Thread) (w : Word) : Bool :=
  barMem w && (s.check t (word (barName w)) 16 .atomic true).isNone
    && (match s.reach t.ctx (barName w) with | .wait => true | _ => false)

/-- Whether the SCOPE of a memory barrier, once it can be read, keeps a core out (R42, R318). -/
def State.arrivalPriv (s : State) (core : Nat) (t : Thread) (w : Word) : Bool :=
  barMem w && (s.check t (word (barName w)) 16 .atomic true).isNone
    && (match s.reach t.ctx (barName w) with
      | .ok pa => !s.poisoned pa 16 && !s.barrierAdmits t.ctx core (barrierScope (s.peekBytes t.ctx (barName w) 16))
      | _ => false)

/-- `sync.arrive` (R317, R318, R369), its checks in the order of R42. -/
def execSyncArrive (d a b : BitVec 6) (s : State) : Out :=
  onThread s (fun tid t =>
    let w := t.S a
    let x := t.S b
    let n : BitVec 16 := x.setWidth 16
    let waits := x.getLsbD 16
    let core := coreOf tid
    let clash (l : Barrier) : Bool := l.count != 0 && l.count != n
    let badCount (s : State) (l : Barrier) : Out :=
      faultOut s tid (scalarF t 0x0B (word (barName w)) (word (l.count.toNat * 2 ^ 16 + n.toNat)))
    let va := barName w
    let sent (s : State) (k : State → Out) : Out :=
      let y := s.release t.uid
      if y.2 then k y.1 else .next (y.1.hold tid .scalar .stall)
    if s.arrivalBusy t w then .next (s.await tid t .scalar t.ctx 0 [] (s.lineWaits t.ctx va 16))
    else if s.arrivalPriv core t w then faultOut s tid (scalarF t 0x14 (word va) 0)
    else if !barOk w || decide (2 ^ 17 ≤ x.toNat) || n == 0 then faultOut s tid (scalarF t 0x0D 0 0)
    else if barMem w then
      match s.check t (word va) 16 .atomic true with
      | some f => faultOut s tid (scalarF t f (word va) 0)
      | none =>
        match s.place t.ctx va with
        | .remote h => sent s (fun s => sendArrival (s.onLive tid Thread.dirty) tid t h va d w n waits)
        | .byte _ =>
          sent s (fun s =>
            let l := barrierOf (s.peekBytes t.ctx va 16)
            if s.portHeld core then .next (s.hold tid .scalar .stall)
            else
              match s.reach t.ctx va with
              | .ok pa =>
                if clash l && !s.poisoned pa 16 then badCount s l
                else
                  accOut s tid t .scalar (word va) 16 (s.arriveMem (.core core) t.ctx va (some n)) (fun r =>
                    .next (r.2.arriveDone tid d w r.1.phase waits))
              | .fault f => faultOut s tid (scalarF t f (word va) 0)
              | .wait => .next (s.await tid t .scalar t.ctx 0 [] (s.lineWaits t.ctx va 16)))
        | _ => faultOut s tid (scalarF t 0x06 (word va) 0)
    else
      sent s (fun s =>
        match look s.cohorts t.cohort with
        | none => .next (s.hold tid .scalar .again)
        | some c =>
          let l := c.barAt (barName w)
          if clash l then badCount s l
          else
            let s := s.setCohort t.cohort { c with bars := put c.bars (barName w) (l.arrive (some n)) }
            .next (s.arriveDone tid d w l.phase waits)))

/-- `sync.binit` (R319). -/
def execSyncBinit (a b : BitVec 6) (s : State) : Out :=
  onThread s (fun tid t =>
    let w := t.S a
    let x := t.S b
    let va := barName w
    let l : Barrier := { phase := x.setWidth 16, count := 0, arrived := 0 }
    if !barOk w || decide ((if barMem w then 2 ^ 21 else 2 ^ 16) ≤ x.toNat) then faultOut s tid (scalarF t 0x0D 0 0)
    else if barMem w then
      match s.check t (word va) 16 .write true with
      | some f => faultOut s tid (scalarF t f (word va) 0)
      | none =>
        accOut s tid t .scalar (word va) 16 (s.loadHomeT tid t va 16) (fun r =>
          if (barrierOf r.1).arrived ≠ 0 then faultOut r.2 tid (scalarF t 0x0D 0 0)
          else
            accOut r.2 tid t .scalar (word va) 16
              (r.2.storeT tid t va (l.bytes ++ leBytes 1 (bits x.toNat 20 16))) (fun s =>
                .next (s.onLive tid (fun t => t.dirty.step4))))
    else
      match look s.cohorts t.cohort with
      | none => .next (s.hold tid .scalar .again)
      | some c =>
        if (c.barAt va).arrived ≠ 0 then faultOut s tid (scalarF t 0x0D 0 0)
        else .next ((s.setCohort t.cohort { c with bars := put c.bars va l }).onLive tid Thread.step4))

/-- The state of a barrier as `sync.bphase` returns it (R319). -/
def Barrier.state (l : Barrier) (sc : Nat) : Word :=
  word (l.phase.toNat + 2 ^ 16 * l.arrived.toNat + 2 ^ 32 * l.count.toNat + 2 ^ 48 * sc)

/-- `sync.bphase` (R319). -/
def execSyncBphase (d a : BitVec 6) (s : State) : Out :=
  onThread s (fun tid t =>
    let w := t.S a
    let va := barName w
    if !barOk w then faultOut s tid (scalarF t 0x0D 0 0)
    else if barMem w then
      match s.check t (word va) 16 .read true with
      | some f => faultOut s tid (scalarF t f (word va) 0)
      | none =>
        accOut s tid t .scalar (word va) 16 (s.loadHomeT tid t va 16) (fun r =>
          .next (r.2.finish tid d ((barrierOf r.1).state (barrierScope r.1))))
    else aluDone s tid t d (((s.cohortOf t).elim Barrier.fresh (fun c => c.barAt va)).state 0))

/-- WAIT_SATISFIED (R316, R318) for thread `obj`: a condition event ends the wait, or a frozen queue ends the thread; of an
arrival at a peer's barrier, the peer is asked. -/
def execWaitSatisfied (s : State) : Out :=
  let tid := s.arg.obj
  match look s.threads tid with
  | none => .next s
  | some t =>
    if !s.mayIssue tid t.ctx then .next s
    else match t.wait with
    | some (.sync d a b deadline) =>
      match s.syncEval tid t a b deadline with
      | .returns m => if m = 0 then .next s else .next (s.syncReturn tid d (t.conds a) m)
      | .corrupt addr m => faultOut s tid (scalarF t 0x08 addr (word m))
      | .waits => .next s
    | some (.phase w p) =>
      match s.barPeer t w with
      | some h => if s.asksPhase t.uid then .next s else s.askPhase tid t h w p
      | none => if phaseReached (s.phaseOf t w) (p + 1) then .next (s.onLive tid Thread.step4) else .next s
    | _ => .next s

/-- WAIT_TIMEOUT (R316) for thread `obj`: the deadline has passed and the wait returns 0. -/
def execWaitTimeout (s : State) : Out :=
  let tid := s.arg.obj
  match look s.threads tid with
  | none => .next s
  | some t =>
    if !s.mayIssue tid t.ctx then .next s
    else match t.wait with
    | some (.sync d a b (some n)) =>
      if n ≤ s.tick then
        match s.syncEval tid t a b (some n) with
        | .returns m => .next (s.syncReturn tid d (t.conds a) m)
        | .corrupt addr m => faultOut s tid (scalarF t 0x08 addr (word m))
        | .waits => .next s
      else .next s
    | _ => .next s

/-- Whether WAIT_SATISFIED has something to do for a thread. -/
def State.waitDue (s : State) (tid : Nat) (t : Thread) : Bool :=
  s.mayIssue tid t.ctx && match t.wait with
  | some (.sync _ a b deadline) =>
    (match s.syncEval tid t a b deadline with
      | .returns m => m != 0
      | .corrupt _ _ => true
      | .waits => false)
  | some (.phase w p) => if (s.barPeer t w).isSome then !s.asksPhase t.uid else phaseReached (s.phaseOf t w) (p + 1)
  | _ => false

/-- Whether WAIT_TIMEOUT has something to do for a thread. -/
def State.timeoutDue (s : State) (tid : Nat) (t : Thread) : Bool :=
  s.mayIssue tid t.ctx && match t.wait with
  | some (.sync _ a b (some n)) => decide (n ≤ s.tick) && s.syncEval tid t a b (some n) == .returns 0
  | _ => false

end Sys2Proof.Machine
end

