-- ==== Sys2Proof/Machine/Network.lean ====
section
/-! DEFINITION. Sys2Proof/Machine/Network.lean: peer packages (R224, R368-R370) and the source of device time (R371). The
words of a message are the model's (log 31). -/

namespace Sys2Proof.Machine

/-- A flow changed. -/
def State.setFlow (s : State) (k : Nat) (f : Flow) : State := { s with flows := put s.flows k f }

/-- An answer sent to a peer on its flow. -/
def State.reply (s : State) (k : Nat) (ws : List Word) : State :=
  let f := s.flowAt k
  s.setFlow k { f with sent := f.sent ++ [ws] }

/-- The package and the context an operation from a peer names. -/
def netParty : NetOp → Nat × Nat
  | .qpush pkg ctx _ _ _ => (pkg, ctx)
  | .qlen pkg ctx _ _ => (pkg, ctx)
  | .red pkg ctx _ _ _ _ => (pkg, ctx)
  | .copy pkg ctx _ _ _ => (pkg, ctx)
  | .withdraw pkg ctx _ _ => (pkg, ctx)
  | .phase pkg ctx _ _ => (pkg, ctx)

/-- Whether an operation waits for a barrier's phase, and holds up nothing behind it (R318). -/
def waitsPhase : NetOp → Bool
  | .phase _ _ _ _ => true
  | _ => false

/-- The flow an operation of a peer comes on (R368): to die `obj` mod 4. -/
def netFlow (a : EvArg) : Nat := flowKey (a.obj % 4) true (netParty a.net).1 (partOfCtx (netParty a.net).2)

/-- The flow a package's arrivals come on: `obj3` names the die and the package. -/
def podFlow (a : EvArg) : Nat := flowKey (a.obj3 / 1024 % 4) true (a.obj3 % 1024) (partOfCtx a.obj)

/-- Whether an event is an operation of a flow that others of the flow come after (R369). -/
def aheadOn (k : Nat) : Move → Bool
  | .event .netRemoteOp a => netFlow a == k && !waitsPhase a.net
  | .event .podBarrierMessage a => podFlow a == k
  | _ => false

/-- Whether a peer's page handle (R369) names this package and the partition of the context it reaches. -/
def State.handleOurs (s : State) (h : Nat) (ctx : Nat) : Bool :=
  bits h 47 38 == s.pkg.toNat && bits h 37 34 == partOfCtx ctx

/-- A remote queue as a peer's operation finds it (R208, R212, R214, R224): the queue, or what the peer is told. A block
that is not intact is left to the home's check. -/
def State.netQueue (s : State) (ctx va : Nat) : Sum (List Word) QRef :=
  match s.globalRef ctx va with
  | some r =>
    match s.queueAt r with
    | some q =>
      let b := s.qcbBytes r 64
      if partOfCtx q.ctx ≠ partOfCtx ctx then .inl (refusal 0x05 0)
      else if s.causes r q ≠ 0 then .inr r
      else if qHome b ≠ 2 then .inl (refusal 0x05 0)
      else if qScope b ≠ 5 ∧ qScope b ≠ 6 then .inl (refusal 0x14 0)
      else .inr r
    | none => .inl (refusal 0x08 0x100)
  | none => .inl (refusal 0x05 0)

/-- The waiter that stands for a peer's push (R224). -/
def netWaiter (k : Nat) (es : List (List Byte)) : Waiter :=
  match es with
  | [e] => { who := .network k, op := .push 0 e }
  | _ => { who := .network k, op := .pushv noLanes 0 (upFrom 0 es.length) es }
where
  /-- A lane word's fields, all zero. -/
  noLanes : LaneOps := { ty := 0, ps := 0, pn := false, d := 0, a := 0, b := 0, c := 0, md := 0, im := 0 }

/-- A peer's push at its home (R215, R223, R224): blocked, it waits in the list or answers −2. None while it must wait for
its lines (R161, R178, R183). -/
def State.netPush (s : State) (k ctx : Nat) (q : Word) (es : List (List Byte)) (wait : Bool) : Option State :=
  match s.netQueue ctx q.toNat with
  | .inl ws => some ((s.walkRas ctx q.toNat).reply k ws)
  | .inr r =>
    if s.queueBusy r true es.length then none
    else
      let b := s.qcbBytes r 64
      let intact := (s.queueAt r).elim false (fun x => s.causes r x == 0)
      if intact && decide (qCap b < es.length) then some (s.reply k (refusal 0x0D 0))
      else
        let h := s.homePush r (s.homeUnitOf ctx q.toNat) (es.map (fun e => padBytes e (qEsize b)))
        let t := s.homeActed r h
        match h.ans with
        | .many ps _ _ => some (t.reply k (ps.map word))
        | .closed => some (t.reply k [wMinus1])
        | .blocked => some (if wait then t.joinWait r true (netWaiter k es) else t.reply k [wMinus2])
        | .corrupt m => some (t.reply k (refusal 0x08 (word m)))
        | _ => some (t.reply k (refusal 0x06 0))

/-- A peer's `queue.qlen` at its home (R220, R224). -/
def State.netLen (s : State) (k ctx : Nat) (q : Word) (sel : Nat) : Option State :=
  match s.netQueue ctx q.toNat with
  | .inl ws => some ((s.walkRas ctx q.toNat).reply k ws)
  | .inr r =>
    if s.queueBusy r true 0 then none
    else
      let h := s.homeLen r (s.homeUnitOf ctx q.toNat) sel
      let t := s.homeActed r h
      match h.ans with
      | .pos n => some (t.reply k [word n])
      | .corrupt m => some (t.reply k (refusal 0x08 (word m)))
      | _ => some (t.reply k (refusal 0x06 0))

/-- A list without the n-th element that a condition admits. -/
def dropNth {α : Type} (p : α → Bool) : Nat → List α → List α
  | _, [] => []
  | n, x :: t => if p x then (match n with | 0 => t | m + 1 => x :: dropNth p m t) else x :: dropNth p n t

/-- A peer takes the n-th of its flow's waiting pushes back (R229): it leaves the list, and the peer is told so; one that no
longer waits has been answered. -/
def State.netWithdraw (s : State) (k ctx : Nat) (q : Word) (n : Nat) : State :=
  let mine (w : Waiter) : Bool := w.who == .network k
  match s.netQueue ctx q.toNat with
  | .inl _ => s
  | .inr r =>
    match s.queueAt r with
    | some x =>
      if n < (x.pushers.filter mine).length then
        ((s.putQueue r { x with pushers := dropNth mine n x.pushers }).resettle r x).reply k (refusal 0 0)
      else s
    | none => s

/-- A peer's reduction at its home (R193, R213, R369), and its acknowledgment. -/
def State.netRed (s : State) (k ctx : Nat) (a : Word) (op n : Nat) (v : BitVec 128) : Option State :=
  if n = 0 ∨ a.toNat % n ≠ 0 then some (s.reply k (refusal 0x05 0))
  else if s.overlapsQcb ctx a.toNat n then some (s.reply k (refusal 0x09 0))
  else
    match s.place ctx a.toNat with
    | .byte pa =>
      if s.mustWait ctx a.toNat pa then none
      else if s.poisoned pa n then some (s.reply k (refusal 0x07 0))
      else
        let new := (atomNew op (8 * n) (Mem.readN s.mem pa n) v.toNat 0).1
        let s := s.writeTouch (s.homeUnitOf ctx a.toNat) ctx a.toNat pa none
        some (State.reply { s with mem := Mem.writeN s.mem pa n new } k [0])
    | _ => some ((s.walkRas ctx a.toNat).reply k (refusal 0x05 0))

/-- A peer's copied bytes at their home (R213, R237, R369), and the acknowledgment; the sectors that poisoned bytes feed are
poisoned (R242). -/
def State.netCopy (s : State) (k ctx : Nat) (a : Word) (bs : List Byte) (bad : List Nat) : Option State :=
  if s.overlapsQcb ctx a.toNat bs.length then some (s.reply k (refusal 0x09 0))
  else
    match s.writeBytes (s.homeUnitOf ctx a.toNat) ctx a.toNat bs with
    | .ok s =>
      let xs := bad.filterMap (fun i => match s.place ctx (a.toNat + i) with | .byte pa => some (pa / 32) | _ => none)
      some ((if xs.isEmpty then s else s.addPoison xs).reply k [0])
    | .wait => none
    | .fault f => some ((s.walksRas ctx ((chunks a.toNat bs.length).map (fun c => c.va))).reply k (refusal f 0))

/-- The pod barrier object at an address (R317, R370): its state; none where the address leads nowhere, is no multiple of 16,
or the object's scope is not 5 or 6. -/
def State.podBarrier (s : State) (ctx va : Nat) : Option Barrier :=
  let o := s.peekBytes ctx va 16
  match s.place ctx va with
  | .byte _ =>
    if va % 16 = 0 ∧ (barrierScope o = 5 ∨ barrierScope o = 6) ∧ ¬ s.overlapsQcb ctx va 16 then some (barrierOf o) else none
  | _ => none

/-- Whether the object at an address cannot be accessed now (R161, R178, R183). -/
def State.objectWaits (s : State) (ctx va : Nat) : Bool :=
  match s.place ctx va with
  | .byte pa => s.mustWait ctx va pa
  | _ => false

/-- A peer's question about a phase (R318, R370): answered once the phase is reached. -/
def State.netPhase (s : State) (k ctx va : Nat) (v : BitVec 16) : Option State :=
  if s.objectWaits ctx va then none
  else match s.podBarrier ctx va with
  | none => some (s.reply k (refusal 0x05 0))
  | some l => if phaseReached l.phase v then some (s.reply k [0]) else none

/-- The event NET_REMOTE_OP (R368, R369): a peer's operation arrives over its flow, which has its key and is not down, and
is performed at its home, in the flow's order, once no census holds the partition (R412). `big` is the page handle it came with,
which this package checks; the page index of the handle has led to the context and the address that the operation names (log 31).
A quarantined partition refuses it (R379). -/
def execNetRemoteOp (s : State) : Out :=
  let ctx := (netParty s.arg.net).2
  let k := netFlow s.arg
  let f := s.flowAt k
  let done (x : Option State) : Out := .next (x.getD (s.postpone .netRemoteOp))
  if s.run != .running || f.down || f.key.isNone then .next s
  else if s.later.any (aheadOn k) || s.counted (partOfCtx ctx) then .next (s.postpone .netRemoteOp)
  else if (look s.ctxs ctx).isNone || (s.partAt (partOfCtx ctx)).level != 0 || !s.handleOurs s.arg.big.toNat ctx then
    .next (s.reply k (refusal 0x05 0))
  else
    match s.arg.net with
    | .qpush _ _ q es wait => done (s.netPush k ctx q es wait)
    | .qlen _ _ q sel => done (s.netLen k ctx q sel.toNat)
    | .red _ _ a op n v => done (s.netRed k ctx a op n v)
    | .copy _ _ a bs bad => done (s.netCopy k ctx a bs bad)
    | .withdraw _ _ q n => .next (s.netWithdraw k ctx q n)
    | .phase _ _ a v => done (s.netPhase k ctx a.toNat v)

/-- The live thread with a uid. -/
def State.threadBy (s : State) (uid : Nat) : Option (Nat × Thread) :=
  s.threads.find? (fun t => t.2.uid == uid && !t.2.ended)

/-- A waiting thread operation of a flow fails (R368): TRANSLATE, or what the peer says. -/
def State.netFail (s : State) (w : NetWait) (code : Nat) (info : Word) : State :=
  match s.threadBy w.uid with
  | some t => s.fault t.1 (partyF t.2 w.party code w.addr info)
  | none => s

/-- A piece of a remote record acknowledged by its peer, or refused with a code (R238, R240, R368): the last one ends the
record once its bytes are all sent. A record that has ended meanwhile is not there. -/
def State.pieceAnswered (s : State) (c : Nat × Nat) (refused : Option Nat) : State :=
  match s.headChain c.1 with
  | some h =>
    match h.taken with
    | some r =>
      if h.ticket ≠ c.2 ∨ r.ending.isSome ∨ crKind r.raw ≠ 7 then s
      else
        let r := { r with acks := r.acks - 1 }
        match refused with
        | some code => s.endRecord c.1 h r (if code = 0x09 then 0x05 else 0x03) 0 0
        | none => if h.st = .waitAck then s.movesDone c.1 h r else s.setChain c.1 { h with taken := some r }
    | none => s
  | none => s

/-- The event NET_FLOW_DOWN (R368): flow `obj` is declared down, with its RAS record, which names the partition of this package
that the flow leads to; an outgoing flow leads to none of its own, and the record is the device's. What waits on it fails. -/
def execNetFlowDown (s : State) : Out :=
  let k := s.arg.obj
  let f := s.flowAt k
  if f.down || !s.awake then .next s
  else
    let s := s.setFlow k { f with down := true, waiting := [], reds := [], copies := [] }
    let s := s.addRas 9 0 (flowDie k) (if flowIn k then f.part else 255) 0 [word f.pkg, word f.part]
    let s := f.waiting.foldl (fun s w => s.netFail w 0x06 0) s
    let s := f.reds.foldl (fun s r => s.redRecord r 0x06) s
    .next (f.copies.foldl (fun s c => s.pieceAnswered c (some 0x06)) s)

/-- The wait of a party at a peer replaced, as the peer has given its operation back (R229): it is issued again. -/
def State.netBack (s : State) (w : NetWait) : State :=
  match s.threadBy w.uid with
  | some (tid, t) => s.setThread tid (t.block w.party .again)
  | none => s

/-- A remote answer on a flow completes its thread's operation (R224, R229, R318, R370). -/
def State.netAnswer (s : State) (k : Nat) (w : NetWait) (v : Word) : State :=
  match s.threadBy w.uid with
  | none => s
  | some (tid, t) =>
    match w.op with
    | .push d _ => if v = wMinus1 then s.netFail w 0x0A 0 else s.setThread tid (t.setS d v).dirty.step4
    | .attempt d =>
      s.setThread tid (if v = wMinus1 ∨ v = wMinus2 then (t.setS d v).step4 else (t.setS d v).dirty.step4)
    | .value d => s.setThread tid (t.setS d v).step4
    | .pushv o len lanes _ =>
      if v = wMinus1 then s.netFail w 0x0A 0
      else
        let g := match w.party with | .gang g => g | .scalar => 0
        let ps := (upFrom 0 lanes.length).map (fun i => (v.toNat + i) % 2 ^ 32)
        s.setThread tid ((t.pushvDeliver o lanes ps).dirty.advance g len)
    | .arrive d bar n waits =>
      let p : BitVec 16 := v.setWidth 16
      let s := match s.barPeer t bar with
        | some h => s.arrivalTold k (arrivalHead (word h) w.addr (n.setWidth 64)) p
        | none => s
      let t := (t.setS d (p.setWidth 64)).dirty
      s.setThread tid (if waits then t.block .scalar (.phase bar p) else t.step4)
    | .phase _ => s.setThread tid t.step4
    | _ => s

/-- The event NET_REMOTE_RESPONSE (R194, R224, R229, R240): flow `obj` brings the answer to one of its waiting operations
(`obj2` 0; `bound` names it, the oldest where it names none): value `word`, or for `flag` the fault code `obj3` with INFO
`word`, or for `flag2` that it has been given back; or to its oldest reduction (1) or piece of a remote copy record (2). -/
def execNetRemoteResponse (s : State) : Out :=
  let k := s.arg.obj
  let f := s.flowAt k
  if f.down || !s.awake then .next s
  else
    match s.arg.obj2 with
    | 0 =>
      let i := s.arg.bound.getD 0
      match f.waiting[i]? with
      | some w =>
        let s := s.setFlow k { f with waiting := f.waiting.eraseIdx i }
        .next (if s.arg.flag then s.netFail w s.arg.obj3 s.arg.word
          else if s.arg.flag2 then s.netBack w else s.netAnswer k w s.arg.word)
      | none => .next s
    | 1 =>
      match f.reds with
      | r :: rs =>
        let s := s.setFlow k { f with reds := rs }
        .next (if s.arg.flag then s.redRecord r s.arg.obj3 else s)
      | [] => .next s
    | _ =>
      match f.copies with
      | c :: cs => .next ((s.setFlow k { f with copies := cs }).pieceAnswered c (if s.arg.flag then some s.arg.obj3 else none))
      | [] => .next s

/-- Arrivals at a memory barrier applied one after another (R318): the phase each arrived in, none for one whose count is not
the barrier's, which is not counted. -/
def arriveMany (a : Asker) (ctx va : Nat) (n : Option (BitVec 16)) : Nat → State → Acc (List (Option (BitVec 16)) × State)
  | 0, s => .ok ([], s)
  | k + 1, s =>
    let l := barrierOf (s.peekBytes ctx va 16)
    if l.count ≠ 0 ∧ n.any (fun n => n ≠ l.count) then
      match arriveMany a ctx va n k s with
      | .ok x => .ok (none :: x.1, x.2)
      | .fault f => .fault f
      | .wait => .wait
    else
      match s.arriveMem a ctx va n with
      | .ok x =>
        match arriveMany a ctx va n k x.2 with
        | .ok y => .ok (some x.1.phase :: y.1, y.2)
        | .fault f => .fault f
        | .wait => .wait
      | .fault f => .fault f
      | .wait => .wait

/-- What a package is told of its arrivals (R318, R370): the phase each arrived in; BARRIER_COUNT for one not counted. -/
def arrivalReply (l : Barrier) (n : BitVec 16) (ps : List (Option (BitVec 16))) : List Word :=
  ps.flatMap (fun p =>
    match p with
    | some p => [p.setWidth 64]
    | none => refusal 0x0B (word (l.count.toNat * 2 ^ 16 + n.toNat)))

/-- The event POD_BARRIER_MESSAGE (R368-R370): the arrivals of a package's threads in one phase, `obj2` of them, offering the
count `word2`, at the pod barrier at `word` of context `obj`, over the flow of die and package `obj3`, in whose order it is
performed; `big` is the page handle. Quarantine refuses it (R379). -/
def execPodBarrierMessage (s : State) : Out :=
  let ctx := s.arg.obj
  let va := s.arg.word.toNat
  let k := podFlow s.arg
  let f := s.flowAt k
  if s.run != .running || f.down || f.key.isNone then .next s
  else if s.later.any (aheadOn k) || s.counted (partOfCtx ctx) then .next (s.postpone .podBarrierMessage)
  else if (look s.ctxs ctx).isNone || (s.partAt (partOfCtx ctx)).level != 0 || !s.handleOurs s.arg.big.toNat ctx then
    .next (s.reply k (refusal 0x05 0))
  else if s.objectWaits ctx va then .next (s.postpone .podBarrierMessage)
  else
    match s.podBarrier ctx va with
    | none => .next (s.reply k (refusal 0x05 0))
    | some l =>
      let n : BitVec 16 := s.arg.word2.setWidth 16
      match arriveMany (s.homeUnitOf ctx va) ctx va (if n = 0 then none else some n) s.arg.obj2 s with
      | .ok x => .next (x.2.reply k (arrivalReply l n x.1))
      | .wait => .next (s.postpone .podBarrierMessage)
      | .fault c => .next (s.reply k (refusal c 0))

/-- The event FLOW_KEY_INSTALL (R368): flow `obj` takes the keys that `obj2` names. -/
def execFlowKeyInstall (s : State) : Out :=
  let f := s.flowAt s.arg.obj
  .next (if s.awake then s.setFlow s.arg.obj { f with key := some s.arg.obj2 } else s)

/-- Device time counted anew from now, with a correction to slew in. -/
def State.rebaseTime (s : State) (step : Nat) (slew : Int) : State :=
  { s with timeBase := s.time + step, clkBase := s.clk, slew := slew }

/-- The event TIME_SOURCE_SELECT (R371): with no source, time runs free from the reference clock from now on, whatever
correction was under way. -/
def execTimeSourceSelect (s : State) : Out :=
  .next { (if s.arg.src = .none then s.rebaseTime 0 0 else s) with timeSrc := s.arg.src }

/-- The event TIME_SYNC (R331, R371): the chosen source finds device time off by `offset` ns. More than 1 ms behind is
corrected by a forward step, with its RAS record; every other correction is slewed, and time never moves back. -/
def execTimeSync (s : State) : Out :=
  let o := s.arg.offset
  if s.timeSrc = .none then .next s
  else if 1000000 < o then .next ((s.rebaseTime o.toNat 0).addRas 8 0 0 255 0 [wordI o])
  else .next (s.rebaseTime 0 o)

end Sys2Proof.Machine
end

