-- ==== Sys2Proof/Machine/Device.lean ====
section
/-! DEFINITION. Sys2Proof/Machine/Device.lean: issue gating (R16), error correction (R414-R416), and the words that are no
instruction (R40, R41). -/

namespace Sys2Proof.Machine

/-- The event ISSUE_GATING_START (R16): lane issue slots are gated, with one RAS record for the episode. The spec does not say
which die's log takes the record of an episode of the whole package: die 0's (DESIGN CHOICE, log 27). -/
def execIssueGatingStart (s : State) : Out :=
  .next (if s.gated || !s.awake then s else State.addRas { s with gated := true } 5 0 0 255 0 [])

/-- The event ISSUE_GATING_END (R16). -/
def execIssueGatingEnd (s : State) : Out := .next { s with gated := false }

/-- A structure's row in R414, from 1. -/
def eccRow : EccPlace → Nat
  | .pool _ _ => 1
  | .operand _ _ => 1
  | .vector _ _ => 1
  | .tile _ _ _ => 1
  | .milliner _ _ => 1
  | .l1 _ _ => 2
  | .icache _ _ => 2
  | .l2 _ => 3
  | .batt _ _ _ => 3
  | .battOperand _ _ _ => 3
  | .battVector _ _ _ _ => 3
  | .battTile _ _ _ _ _ => 3
  | .window _ _ _ => 3
  | .keyEntry _ _ _ _ => 3
  | .task _ _ => 3
  | .hbm _ => 4

/-- The die of the home of a line that stands in L2, or of the channel that would hold it. -/
def State.lineDie (s : State) (pl : Nat) : Nat := ((look s.l2 pl).elim (pl * 128 / 2 ^ 48) (fun l => l.ch)) / 128 % 4

/-- The die a structure's word lies on. -/
def State.eccDie (s : State) : EccPlace → Nat
  | .pool c _ => dieOfCore (c / 32)
  | .operand c _ => dieOfCore (c / 32)
  | .vector t _ => dieOfCore (coreOf t)
  | .tile t _ _ => dieOfCore (coreOf t)
  | .milliner m _ => milliDie m
  | .l1 c _ => dieOfCore c
  | .icache c _ => dieOfCore c
  | .l2 x => s.lineDie (x / 4)
  | .batt d _ _ => d
  | .battOperand d _ _ => d
  | .battVector d _ _ _ => d
  | .battTile d _ _ _ _ => d
  | .window d _ _ => d
  | .keyEntry d _ _ _ => d
  | .task k _ => k / 65536
  | .hbm x => 32 * x / 2 ^ 48 / 128

/-- A saved image in a die's Batt. -/
def State.battImage (s : State) (d k : Nat) : Option Saved := (look s.saved k).filter (fun x => x.batt && x.die == d)

/-- The entry of a count key in a stream's control. -/
def State.keyEntry (s : State) (stream : Nat) (key : Word) : Option KeyEnt :=
  (look s.streams stream).bind (fun c => look c.keys key.toNat)

/-- Whether a thread has a poisonable sector of its registers, two registers of a slice each (R156). -/
def Thread.hasSector (t : Thread) (x : Nat) : Bool := decide (x / 124 < t.slices) && decide (2 * (x % 124) < t.vregs)

/-- Whether a tile has a sector of eight cells. -/
def Tile.hasSector (t : Tile) (x : Nat) : Bool := decide (8 * x < 2048 * t.tag)

/-- Whether the device holds the word an event names (R11-R13, R156, R278, R285): an error elsewhere is none. -/
def State.eccThere (s : State) : EccPlace → Bool
  | .pool c o => (look s.cohorts c).any (fun h => decide (o < h.spsize))
  | .operand c o => (look s.cohorts c).isSome && decide (o < Config.operandBytes)
  | .vector t x => (look s.threads t).any (fun y => y.hasSector x)
  | .tile t n x => (look s.threads t).any (fun y => (y.tiles[n]?).any (fun z => z.hasSector x))
  | .milliner m o => decide (m < 64) && decide (o < 2 ^ 20)
  | .l1 c _ => decide (c < Config.cores)
  | .icache c _ => decide (c < Config.cores)
  | .l2 x => (look s.l2 (x / 4)).isSome
  | .batt d k o => (s.battImage d k).any (fun x => decide (o < x.cohort.spsize))
  | .battOperand d k o => (s.battImage d k).isSome && decide (o < Config.operandBytes)
  | .battVector d k n x => (s.battImage d k).any (fun y => (y.threads[n]?).any (fun t => t.hasSector x))
  | .battTile d k n i x =>
    (s.battImage d k).any (fun y => (y.threads[n]?).any (fun t => (t.tiles[i]?).any (fun z => z.hasSector x)))
  | .window d wk x =>
    (look s.windows wk).any (fun w => w.tier == 0 && s.dieOfKey (partOfCtx w.ctx) w.key == d) && decide (x < 8)
  | .keyEntry d st key x =>
    (look s.streams st).any (fun c => (look c.keys key.toNat).any (fun k => k.tier == 0 && s.dieOfKey (partOfCtx c.ctx) key == d))
      && decide (x < 8)
  | .task k x => decide (k < 4 * Config.taskSlots) && decide (x < 10)
  | .hbm x => decide (32 * x / 2 ^ 48 < Config.channels) && decide (32 * x % 2 ^ 48 < Config.channelBytes)

/-- The partition whose set a line lies in. -/
def State.linePart (s : State) (x : Nat) : Nat :=
  match look s.l2 (x / 4) with
  | some l => partOfCtx l.ctx
  | none => ((s.parts.find? (fun p => p.2.hasChannel (32 * x / 2 ^ 48))).map Prod.fst).getD 255

/-- The partition a structure's word belongs to; the device where it is none's. -/
def State.eccPart (s : State) : EccPlace → Nat
  | .pool c _ => (look s.cohorts c).elim 255 (fun h => partOfCtx h.ctx)
  | .operand c _ => (look s.cohorts c).elim 255 (fun h => partOfCtx h.ctx)
  | .vector t _ => (s.partOfCore (coreOf t)).getD 255
  | .tile t _ _ => (s.partOfCore (coreOf t)).getD 255
  | .milliner _ _ => 255
  | .l1 c _ => (s.partOfCore c).getD 255
  | .icache c _ => (s.partOfCore c).getD 255
  | .l2 x => s.linePart x
  | .batt _ k _ => saved k
  | .battOperand _ k _ => saved k
  | .battVector _ k _ _ => saved k
  | .battTile _ k _ _ _ => saved k
  | .window _ wk _ => (look s.windows wk).elim 255 (fun w => partOfCtx w.ctx)
  | .keyEntry _ st _ _ => (look s.streams st).elim 255 (fun c => partOfCtx c.ctx)
  | .task k _ => if (s.taskAt k).st = .free then 255 else partOfCtx (s.taskAt k).ctx
  | .hbm x => s.linePart x
where
  /-- The partition of a saved image. -/
  saved (k : Nat) : Nat := (look s.saved k).elim 255 (fun x => partOfCtx x.cohort.ctx)

/-- The address a record of an error names. -/
def eccAddr : EccPlace → Nat
  | .pool _ o => o
  | .operand _ o => o
  | .vector _ x => 32 * x
  | .tile _ _ x => 32 * x
  | .milliner _ o => o
  | .l1 _ l => l * 128
  | .icache _ l => l * 128
  | .l2 x => 32 * x
  | .batt _ _ o => o
  | .battOperand _ _ o => o
  | .battVector _ _ _ x => 32 * x
  | .battTile _ _ _ _ x => 32 * x
  | .window _ wk _ => wk % 2 ^ 64
  | .keyEntry _ _ key _ => key.toNat
  | .task k _ => k % 65536
  | .hbm x => 32 * x

/-- A soft-error counter of a structure (R416): 0 corrected, 1 uncorrected. -/
def softKey (row k : Nat) : Nat := 2 * row + k

/-- A counter raised (R416): it saturates. -/
def State.countEcc (s : State) (die row k : Nat) : Nat × State :=
  let d := s.dieAt die
  let n := min ((look d.softErr (softKey row k)).getD 0 + 1) 0xFFFFFFFF
  (n, s.setDie die { d with softErr := put d.softErr (softKey row k) n })

/-- A Milliner (R13); its SRAM is zero until something is written in it (log 1). -/
def State.milliAt (s : State) (m : Nat) : Milliner := (look s.millis m).getD Milliner.fresh

/-- A sector of a thread's registers poisoned. -/
def Thread.hurtVector (x : Nat) (t : Thread) : Thread := { t with vpoison := addNat t.vpoison x }

/-- A sector of a thread's n-th tile poisoned. -/
def Thread.hurtTile (n x : Nat) (t : Thread) : Thread :=
  { t with tiles := t.tiles.zipIdx.map (fun y => if y.2 = n then { y.1 with poison := addNat y.1.poison x } else y.1) }

/-- A saved image changed. -/
def State.onImage (s : State) (k : Nat) (f : Saved → Saved) : State :=
  match look s.saved k with
  | some x => { s with saved := put s.saved k (f x) }
  | none => s

/-- The n-th thread of a saved image changed. -/
def Saved.onThread (x : Saved) (n : Nat) (f : Thread → Thread) : Saved :=
  { x with threads := x.threads.zipIdx.map (fun y => if y.2 = n then f y.1 else y.1) }

/-- What an uncorrectable error leaves (R414, R415): the sector poisoned, in a saved image too, or the line dropped to be fetched
again. What consumes poison of a register, a window record or a task slot the spec does not say: nothing does (log 27). -/
def State.eccHurts (s : State) : EccPlace → State
  | .pool c o =>
    match look s.cohorts c with
    | some h => s.setCohort c { h with spoison := addNat h.spoison (o / 32) }
    | none => s
  | .operand c o =>
    match look s.cohorts c with
    | some h => s.setCohort c { h with opoison := addNat h.opoison (o / 32) }
    | none => s
  | .vector tid x =>
    match look s.threads tid with
    | some t => s.setThread tid (t.hurtVector x)
    | none => s
  | .tile tid n x =>
    match look s.threads tid with
    | some t => s.setThread tid (t.hurtTile n x)
    | none => s
  | .milliner m o =>
    let x := s.milliAt m
    { s with millis := put s.millis m { x with poison := addNat x.poison (o / 32) } }
  | .l1 c l => s.setCore c { s.coreAt c with l1 := (s.coreAt c).l1.filter (fun y => y.vline != l) }
  | .icache c l =>
    let k := s.coreAt c
    s.setCore c { k with
      sicache := k.sicache.filter (fun y => y.vline != l)
      licache := k.licache.filter (fun y => !overlaps (128 * l) 128 y.va y.bytes.length) }
  | .l2 x => s.addPoison [x]
  | .batt _ k o => s.onImage k (fun x => { x with cohort := { x.cohort with spoison := addNat x.cohort.spoison (o / 32) } })
  | .battOperand _ k o => s.onImage k (fun x => { x with cohort := { x.cohort with opoison := addNat x.cohort.opoison (o / 32) } })
  | .battVector _ k n x => s.onImage k (fun y => y.onThread n (Thread.hurtVector x))
  | .battTile _ k n i x => s.onImage k (fun y => y.onThread n (Thread.hurtTile i x))
  | .window _ wk x =>
    match look s.windows wk with
    | some w => s.setWindow wk { w with poison := addNat w.poison x }
    | none => s
  | .keyEntry _ st key x =>
    match look s.streams st, s.keyEntry st key with
    | some c, some k => { s with streams := put s.streams st { c with keys := put c.keys key.toNat { k with poison := addNat k.poison x } } }
    | _, _ => s
  | .task k x => s.setTask k { s.taskAt k with poison := addNat (s.taskAt k).poison x }
  | .hbm x => s.addPoison [x]

/-- The event ECC_UNCORRECTED (R414-R416) at `place`. -/
def execEccUncorrected (s : State) : Out :=
  let p := s.arg.place
  if !s.awake || !s.eccThere p then .next s
  else
    let die := s.eccDie p
    let part := s.eccPart p
    let s := ((s.eccHurts p).countEcc die (eccRow p) 1).2
    .next (s.addRas 1 (eccRow p) die part (eccAddr p) [])

/-- The event ECC_CORRECTED (R416) at `place`: counted, with a RAS record at each multiple of 1,024. -/
def execEccCorrected (s : State) : Out :=
  let p := s.arg.place
  if !s.awake || !s.eccThere p then .next s
  else
    let die := s.eccDie p
    let x := s.countEcc die (eccRow p) 0
    .next (if x.1 % 1024 = 0 then x.2.addRas 2 (eccRow p) die (s.eccPart p) (eccAddr p) [] else x.2)

/-- A scalar word that is no instruction (R40): ILL_SCALAR. -/
def execNonInstructionScalar (s : State) : Out := onThread s (fun tid t => faultOut s tid (scalarF t 0x01 0 0))

/-- A lane offset whose expansion failed (R41): ILL_LANE. -/
def execNonInstructionLane (s : State) : Out :=
  onThread s (fun tid t => faultOut s tid (partyF t s.cur.party 0x02 0 0))

end Sys2Proof.Machine
end

