-- ==== Sys2Proof/Machine/Inspect.lean ====
section
/-! DEFINITION. Sys2Proof/Machine/Inspect.lean: inspection space (R408-R411) and the management unbind (R410). Where R409
names a field and no place in its word, the place is the model's (log 29). -/

namespace Sys2Proof.Machine

/-- Bytes of an object that stand at an offset. -/
structure Seg where
  off   : Nat
  bytes : List Byte

/-- A byte of an object: zero where no segment holds it (R409). -/
def segByte (gs : List Seg) (a : Nat) : Byte :=
  match gs.find? (fun g => decide (g.off ≤ a) && decide (a < g.off + g.bytes.length)) with
  | some g => nth g.bytes (a - g.off) 0
  | none => 0

/-- A word of an object. -/
def segWord (gs : List Seg) (off : Nat) : Word := BitVec.ofNat 64 (leNat ((upFrom off 8).map (segByte gs)))

/-- Words of an object at an offset. -/
def segWords (off : Nat) (ws : List Word) : Seg := { off, bytes := wordsBytes ws }

/-- STATE of a slice (R253). -/
def SliceState.code : SliceState → Nat
  | .issuing => 0
  | .atRegang => 1
  | .ended => 2
  | .idle => 3

/-- A slice's state word (R253). -/
def sliceWord (x : Slice) : Word :=
  word (x.lpc.toNat * 2 ^ 32 + x.stack.length * 2 ^ 11 + x.gang * 2 ^ 8 + x.st.code * 2 ^ 6 + x.mask.toNat)

/-- A token's entry (R254). -/
def tokenWord (t : Token) : Word :=
  let k := match t.kind with
    | .ifTok => 0
    | .elseTok => 1
    | .loopTok => 2
  word (k * 2 ^ 62 + t.pending.toNat * 2 ^ 58 + t.exited.toNat * 2 ^ 54 + t.join.toNat)

/-- A predicate as 32 bits: p0 is true in every lane (R32). -/
def Thread.predMask (t : Thread) (k : Nat) : Nat := if k = 0 then 2 ^ 32 - 1 else (t.p.get32 k).toNat

/-- Class 0x01: a thread image. -/
def threadSegs (t : Thread) : List Seg :=
  [segWords 0 ((upFrom 0 64).map (fun i => t.S (BitVec.ofNat 6 i))),
   segWords 0x200 [t.fpflags.setWidth 64, t.fpctl.setWidth 64, t.rngkey, t.rngctr],
   segWords 0x220 ((upFrom 0 8).map (fun i => t.y.get64 i)),
   segWords 0x260 (t.sl.map sliceWord),
   { off := 0x2A0, bytes := (upFrom 0 8).flatMap (fun k => leBytes 4 (t.predMask k)) },
   segWords 0x2C0 [word ((if t.clean then 1 else 0) + t.wdog % 2 ^ 48 * 2 ^ 16), t.task, t.winid]]
  ++ t.sl.zipIdx.map (fun x => segWords (0x400 + 192 * x.2) (x.1.stack.map tokenWord))
  ++ t.blocks.zipIdx.map (fun b => segWords (0xA00 + 72 * b.2) (b.1.entry.setWidth 64 :: b.1.args))

/-- A vector register's 32 bits in class 0x02, by their index. -/
def Thread.vAt (t : Thread) (i : Nat) : Nat :=
  let l := 4 * (i / 4 / 248) + i % 4
  let r := i / 4 % 248
  if i / 4 / 248 < t.slices ∧ r < t.vregs then (t.v.get32 (vKey l r)).toNat else 0

/-- A tile cell in class 0x03, by its index. -/
def Thread.cellAt (t : Thread) (tile i : Nat) : Nat :=
  match t.tiles[tile]? with
  | some x => if i / 128 < 16 * x.tag then (x.cells.get32 i).toNat else 0
  | none => 0

/-- A byte of a core's scratchpad in class 0x04. -/
def State.spadByte (s : State) (core a : Nat) : Byte :=
  match s.cohorts.find? (fun c => c.1 / 32 == core && decide (c.2.spbase ≤ a) && decide (a < c.2.spbase + c.2.spsize)) with
  | some c => c.2.scratch.get8 (a - c.2.spbase)
  | none => 0

/-- A barrier register's word (R317). -/
def barWord (b : Barrier) : Word := word (b.phase.toNat + b.count.toNat * 2 ^ 16 + b.arrived.toNat * 2 ^ 32)

/-- Class 0x05: a cohort. -/
def cohortSegs (c : Cohort) : List Seg :=
  [segWords 0 ((upFrom 0 16).map (fun k => barWord (c.barAt k))),
   segWords 0x80 ((upFrom 0 16).flatMap (fun k =>
     match look c.recs k with
     | some r => if r.live then [r.w0, r.w1] else [0, 0]
     | none => [0, 0])),
   segWords 0x180 [word (c.spbase + c.spsize * 2 ^ 32), word c.freeUnits],
   segWords 0x190 (c.poolTiles.map (fun t => word t.tag))]

/-- FLAGS of a window record (R277). -/
def windowFlags (w : Window) : Nat :=
  min w.replays 255 * 256 + (if w.paneWin then 16 else 0) + (if w.firing then 4 else 0) + w.tier

/-- The 256 bytes of a window record (R277). -/
def windowBytes (va : Word) (w : Window) : List Byte :=
  wordsBytes [w.key, w.winid, word w.start, word w.last, word w.expiry, w.state, va]
    ++ leBytes 4 w.count.toNat ++ leBytes 2 (windowFlags w) ++ leBytes 2 w.panes.toNat ++ wordsBytes w.carry

/-- A count key's entry (R277): LAST is the next ordinal. -/
def keyBytes (va : Word) (key : Nat) (k : KeyEnt) : List Byte :=
  wordsBytes [word key, 0, 0, word k.next, word k.expiry, 0, va] ++ leBytes 4 0
    ++ leBytes 2 (8 + (if k.firing then 4 else 0) + k.tier) ++ leBytes 2 0

/-- The records of a tier, key entries among them, each with its partition (R277, R278). -/
def State.recordsIn (s : State) (tier : Nat) : List (Nat × Word × List Byte) :=
  let va (k : Nat) : Word := (look s.streams k).elim 0 (fun c => c.va)
  (s.windows.filter (fun w => w.2.tier == tier)).map (fun w => (partOfCtx w.2.ctx, w.2.key, windowBytes (va w.2.stream) w.2))
    ++ s.streams.flatMap (fun c => (c.2.keys.filter (fun k => k.2.tier == tier)).map (fun k =>
        (partOfCtx c.2.ctx, word k.1, keyBytes c.2.va k.1 k.2)))

/-- Class 0x06: the n-th record of a die's window cache, where it is a partition's. -/
def State.cacheRecord (s : State) (part die n : Nat) : Option (List Byte) :=
  match ((s.recordsIn 0).filter (fun x => s.dieOfKey x.1 x.2.1 == die))[n]? with
  | some x => if x.1 = part then some x.2.2 else none
  | none => none

/-- Classes 0x07 and 0x14: the n-th record of a partition's table in HBM or in host memory. -/
def State.tableRecord (s : State) (part tier n : Nat) : Option (List Byte) :=
  (((s.recordsIn tier).filter (fun x => x.1 == part))[n]?).map (fun x => x.2.2)

/-- Class 0x08: a task slot (R330). -/
def taskSegs (t : TaskSlot) : List Seg :=
  [segWords 0 [word (t.st.code + (if t.st = .waiting then t.count * 2 ^ 16 else 0) + t.gen.toNat * 2 ^ 48)],
   { off := 0x40, bytes := t.packet }]

/-- The commit map as a word: bit i stands for position TAIL + i. -/
def commitWord : List Bool → Nat
  | [] => 0
  | b :: t => (if b then 1 else 0) + 2 * commitWord t

/-- The waiter words of a list, from its head on. -/
def waiterWords : List Waiter → List Word
  | [] => []
  | w :: t => word (waiterWord (w :: t)) :: waiterWords t

/-- Class 0x09: a queue at its home. -/
def State.queueSegs (s : State) (r : QRef) (q : Queue) : List Seg :=
  [segWords 0 [q.va], { off := 0x40, bytes := s.qcbBytes r 64 }, segWords 0x80 [word (commitWord q.commit)],
   segWords 0x88 ((waiterWords q.pushers).take 4096), segWords 0x8088 ((waiterWords q.poppers).take 4079)]

/-- A user-interrupt entry's 32 bytes (R365). -/
def uintBytes (u : UintEntry) : List Byte :=
  wordsBytes [u.target, u.runaddr, u.pendq] ++ leBytes 4 u.pcap.toNat ++ leBytes 2 u.vector.toNat ++ leBytes 2 u.flags.toNat

/-- A scope entry's 64 bytes (R179). -/
def scopeBytes (c : Scope) : List Byte := leBytes 48 c.cores.toNat ++ leBytes 1 (if c.host then 1 else 0)

/-- Class 0x0A: a context. What the scope table shows for the entries 0 to 6, which R17 fixes, the spec does not say: zero, as for
an operator entry R117 fixes (DESIGN CHOICE, log 29). -/
def contextSegs (c : Ctx) : List Seg :=
  [segWords 0 [c.asid.setWidth 64, word c.root, word c.wdog, c.rngseed, c.faultQ, c.submitQ, word c.lost,
               if c.priv then 1 else 0],
   segWords 0x100 ((upFrom 0 16).map (fun k => (look c.optab k).getD 0)),
   segWords 0x200 ((upFrom 0 64).map (fun k => (look c.sched k).getD 0) ++ [c.evstep.setWidth 64])]
  ++ c.scopes.map (fun x => { off := 0x800 + 64 * x.1, bytes := scopeBytes x.2 : Seg })
  ++ c.uints.map (fun x => { off := 0x1000 + 32 * x.1, bytes := uintBytes x.2 : Seg })

/-- A range's 16 bytes (R56). -/
def Range.bytes (r : Range) : List Byte :=
  leBytes 8 r.base ++ leBytes 6 r.len
    ++ leBytes 2 ((if r.read then 1 else 0) + (if r.write then 2 else 0) + (if r.atomic then 4 else 0))

/-- The tag of a line-buffer row (R239): the row's address, SSTRIDE[0], and LEN with W above it. -/
def LineBuf.tag (b : LineBuf) : List Word := [word b.row, wordI b.pitch, word (b.len + b.w * 2 ^ 32)]

/-- Class 0x0C: a copy channel (R246), its RECORD shown. -/
def State.chanSegs (s : State) (ck : Nat) : List Seg :=
  let c := s.chanAt ck
  match c.chains with
  | [] => [segWords 0x28 [word c.ticket]]
  | h :: t =>
    [segWords 0 [word (s.chanWord ck h.ctx)], segWords 8 ((t.map (fun x => x.at_)).take 4), segWords 0x28 [word c.ticket],
     { off := 0x30, bytes := (h.ranges.take 8).flatMap Range.bytes },
     segWords 0xB0 (c.linebuf.flatMap LineBuf.tag)]

/-- A TLB entry's words: ASID in bits 63:48, the size's shift in 47:42, the page over 2^16 below; and the leaf. -/
def tlbWords (t : TlbEntry) : List Word :=
  [word (t.asid.toNat * 2 ^ 48 + Nat.log2 t.size * 2 ^ 42 + t.page / 2 ^ 16), t.leaf]

/-- A line's words in class 0x0E: ASID and line number; sector valid bits, dirty, poison and REGION; wts; rts. -/
def State.lineWords (s : State) (pl : Nat) (l : L2Line) : List Word :=
  let pois := (upFrom 0 4).foldl (fun n i => n + (if s.poison.contains (4 * pl + i) then 2 ^ i else 0)) 0
  [word (l.asid.toNat * 2 ^ 48 + l.vline % 2 ^ 48),
   word (l.sectors.toNat + (if l.dirty then 16 else 0) + pois * 256 + l.region * 2 ^ 16), word l.wts, word l.rts]

/-- A RAS record's 64 bytes (R417). -/
def rasBytes (r : Ras) : List Byte :=
  leBytes 2 r.type ++ leBytes 2 r.struct ++ leBytes 1 r.die ++ leBytes 1 r.part ++ leBytes 2 0 ++ leBytes 8 r.addr
    ++ padBytes (wordsBytes r.info) 32 ++ leBytes 8 r.time ++ leBytes 8 r.seq

/-- Class 0x0F: a part of a die's RAS log (R417). -/
def State.rasSegs (s : State) (die part : Nat) : List Seg :=
  let d := s.dieAt die
  if part = 0 then [segWords 0 [word d.rasCount]]
  else d.ras.filterMap (fun r =>
    let j := r.seq % 4096
    if 1 + j / 1024 = part then some { off := 64 * (j % 1024), bytes := rasBytes r } else none)

/-- A partition's descriptor (R372) and its alarm level. -/
def partitionBytes (p : Partition) : List Byte :=
  leBytes 12 p.quads.toNat ++ leBytes 2 p.chbase ++ leBytes 1 p.chlog
    ++ leBytes 1 ((if p.batt then 1 else 0) + (if p.reqsig then 2 else 0)) ++ leBytes 1 p.alarmpol.toNat ++ leBytes 1 0
    ++ leBytes 2 p.privthr ++ List.replicate 12 0 ++ digestBytes p.sigkey0 ++ digestBytes p.sigkey1
    ++ leBytes 8 p.level

/-- A time-triggered slot's 64 bytes (R296). -/
def ttBytes (t : TTSlot) : List Byte :=
  leBytes 8 t.period ++ leBytes 8 t.offset ++ wordsBytes [t.templ] ++ leBytes 8 t.slack ++ leBytes 8 t.bound
    ++ leBytes 4 t.overrun.toNat ++ leBytes 1 (if t.sticky then 1 else 0) ++ leBytes 1 t.prio

/-- Class 0x12: a die's soft-error counters (R416), 16 bytes a structure. -/
def softSegs (d : DieSt) : List Seg :=
  (upFrom 1 4).map (fun r => segWords (16 * (r - 1)) [word ((look d.softErr (2 * r)).getD 0), word ((look d.softErr (2 * r + 1)).getD 0)])

/-- Class 0x13: the device. -/
def State.deviceSegs (s : State) : List Seg :=
  [{ off := 0, bytes := publicKey }, { off := 32, bytes := digestBytes s.bootm }]
  ++ s.ctxs.map (fun c => segWords (64 + 8 * c.1) [word c.2.lost])

/-- Two 32-bit values as a word. -/
def pairWord (lo hi : Nat) : Word := word (lo + hi * 2 ^ 32)

/-- A word of inspection space (R408, R409): zero beyond an object, and where there is none. -/
def State.inspectAt (s : State) (cls part index off : Nat) : Word :=
  let segs (o : Option (List Seg)) : Word := match o with | some gs => segWord gs off | none => 0
  let bytesOf (o : Option (List Byte)) : Word := segs (o.map (fun b => [{ off := 0, bytes := b }]))
  let thr (tid : Nat) : Option Thread := (look s.threads tid).filter (fun t => partOfCtx t.ctx == part)
  match cls with
  | 0x01 => segs ((thr index).map threadSegs)
  | 0x02 => match thr index with | some t => pairWord (t.vAt (off / 4)) (t.vAt (off / 4 + 1)) | none => 0
  | 0x03 =>
    match thr (index / 8) with
    | some t => pairWord (t.cellAt (index % 8) (off / 4)) (t.cellAt (index % 8) (off / 4 + 1))
    | none => 0
  | 0x04 =>
    if s.partOfCore (index / 32) = some part then
      BitVec.ofNat 64 (leNat ((upFrom (index % 32 * 65536 + off) 8).map (s.spadByte (index / 32))))
    else 0
  | 0x05 => segs (((look s.cohorts index).filter (fun c => partOfCtx c.ctx == part)).map cohortSegs)
  | 0x06 => bytesOf (s.cacheRecord part (index / 65536) (index % 65536))
  | 0x07 => bytesOf (s.tableRecord part 1 index)
  | 0x08 =>
    let t := s.taskAt index
    if t.st = .free ∨ partOfCtx t.ctx = part then segWord (taskSegs t) off else 0
  | 0x09 =>
    match (s.directory (index / 65536))[index % 65536]? with
    | some x => if partOfCtx x.2.ctx = part then segWord (s.queueSegs x.1 x.2) off else 0
    | none => 0
  | 0x0A => if index < 64 then segs ((look s.ctxs (part * 64 + index)).map contextSegs) else 0
  | 0x0B =>
    if index / 65536 < 64 then
      bytesOf (((look s.ctxs (part * 64 + index / 65536)).bind (fun c => look c.rolemaps (index % 65536))).map
        (fun m => m.flatMap (fun v => leBytes 2 v.toNat)))
    else 0
  | 0x0C => if s.partOfCore (index / 16 * 4) = some part then segWord (s.chanSegs index) off else 0
  | 0x0D =>
    match ((look s.tlbs (index / 1024)).getD [])[index % 1024]? with
    | some t => segWord [segWords 0 (tlbWords t)] off
    | none => 0
  | 0x0E =>
    let k := (s.partAt part).chlog
    match s.l2.find? (fun l => l.2.ch == index / 65536 && setIndex k (l.2.vline * 128) == index / 16 % 4096
        && l.2.way == index % 16) with
    | some l => segWord [segWords 0 (s.lineWords l.1 l.2)] off
    | none => 0
  | 0x0F => if index % 8 < 5 ∧ index / 8 < 4 then segWord (s.rasSegs (index / 8) (index % 8)) off else 0
  | 0x10 => bytesOf ((look s.parts part).map partitionBytes)
  | 0x11 => bytesOf ((look (s.partAt part).tts index).map ttBytes)
  | 0x12 => if index < 4 then segWord (softSegs (s.dieAt index)) off else 0
  | 0x13 => segWord s.deviceSegs off
  | 0x14 => bytesOf (s.tableRecord part 2 index)
  | _ => 0

/-- Fields of an inspection address (R408). -/
structure InspAddr where
  cls   : Nat
  part  : Nat
  index : Nat
  off   : Nat

/-- An inspection address (R408): reserved bits zero, the offset a multiple of 8. -/
def inspAddr (a : Word) : Option InspAddr :=
  if bits a.toNat 63 58 ≠ 0 ∨ bits a.toNat 2 0 ≠ 0 then none
  else some { cls := bits a.toNat 57 52, part := bits a.toNat 51 48, index := bits a.toNat 47 16, off := bits a.toNat 15 0 }

/-- Whether a function may read an address (R410). -/
def inspAllowed (fn : Nat) (a : InspAddr) : Bool :=
  fn == 0 || (a.part == fn && a.cls != 0x0D && a.cls != 0x0E && a.cls != 0x13)

/-- The i-th word a read of an address returns (R410). -/
def State.inspectWord (s : State) (a : InspAddr) (i : Nat) : Word :=
  if a.off + 8 * i < 2 ^ 16 then s.inspectAt a.cls a.part a.index (a.off + 8 * i) else 0

/-- The next word of a read read (R411), in an access of its own; after the last one the response is sent. -/
def State.inspectNext (s : State) (fn : Nat) (r : InspRead) : State :=
  match inspAddr r.addr with
  | some a =>
    let got := r.got ++ [s.inspectWord a r.got.length]
    if r.left ≤ 1 then (s.setFn fn { s.fnAt fn with insp := none }).doe fn (wordsBytes got)
    else s.setFn fn { s.fnAt fn with insp := some { r with left := r.left - 1, got } }
  | none => s

/-- The event DOE_INSPECT_READ (R410, R411): function `obj` asks for `obj2` words at the inspection address `word`; any other
request is refused. For `flag` the next word of the read under way is read; the words of a read are read one at each such event,
and the next request is taken after it. -/
def execDoeInspectRead (s : State) : Out :=
  let fn := s.arg.obj
  if s.run = .halted then .next s
  else
    match (s.fnAt fn).insp with
    | some r => .next (if s.arg.flag then s.inspectNext fn r else s)
    | none =>
      if s.arg.flag then .next s
      else
        match inspAddr s.arg.word with
        | some a =>
          if inspAllowed fn a ∧ 1 ≤ s.arg.obj2 ∧ s.arg.obj2 ≤ 512 then
            .next (s.setFn fn { s.fnAt fn with insp := some { addr := s.arg.word, left := s.arg.obj2, got := [] } })
          else .next (s.doe fn [])
        | none => .next (s.doe fn [])

/-- The event DOE_QUEUE_UNBIND (R214, R410): function `obj` names a frozen queue by its class-0x09 address `word`; its home
releases the line. -/
def execDoeQueueUnbind (s : State) : Out :=
  let fn := s.arg.obj
  match inspAddr s.arg.word with
  | some a =>
    match (s.directory (a.index / 65536))[a.index % 65536]? with
    | some x =>
      if s.run = .running ∧ a.cls = 0x09 ∧ inspAllowed fn a ∧ partOfCtx x.2.ctx = a.part ∧ x.2.frozen ≠ none then
        .next (s.unbind x.1)
      else .next s
    | none => .next s
  | none => .next s

end Sys2Proof.Machine
end

