-- ==== Sys2Proof/Machine/LaneBlocks.lean ====
section
/-! DEFINITION. Sys2Proof/Machine/LaneBlocks.lean: the LB group and the token stacks of slices (R302-R309), parting and
rejoining of gangs (R255, R256), and the start and end of a lane block (R257, R258). -/

namespace Sys2Proof.Machine

/-- Level of a stack from a token on: the level two tokens below, the pending lanes of the token below, and the level
reached (R303). -/
def levelFrom (before below cur : BitVec 4) : List Token → BitVec 4
  | [] => cur
  | t :: r =>
    let next := match t.kind with
      | .ifTok => cur &&& ~~~t.pending
      | .elseTok => before &&& below
      | .loopTok => cur &&& ~~~(t.pending ||| t.exited)
    levelFrom cur t.pending next r

/-- Level(DEPTH) of a stack, the slice's MASK (R303). -/
def level (st : List Token) : BitVec 4 := levelFrom 0xF 0 0xF st

/-- The position of the topmost token that a test holds of. -/
def topmost (p : Token → Bool) (st : List Token) : Option Nat :=
  match st.reverse.findIdx? p with
  | some i => some (st.length - 1 - i)
  | none => none

/-- A LOOP token without lanes. -/
def loopToken (j : BitVec 32) : Token := { kind := .loopTok, pending := 0, exited := 0, join := j }

/-- Where FindLoop(J) finds its token, or would insert one, and whether it is there (R304). -/
def loopPos (j : BitVec 32) (st : List Token) : Nat × Bool :=
  match topmost (fun t => t.kind == .loopTok) st with
  | some i => if (st[i]?).elim false (fun t => t.join == j) then (i, true) else (insertAt, false)
  | none => (insertAt, false)
where
  /-- Directly above the topmost token whose JOIN is at or past J, or the bottom. -/
  insertAt : Nat := match topmost (fun t => decide (j ≤ t.join)) st with | some i => i + 1 | none => 0

/-- FindLoop(J) with its token changed (R304): none where the insertion would be a 25th token. -/
def findLoop (j : BitVec 32) (st : List Token) (f : Token → Token) : Option (List Token) :=
  let p := loopPos j st
  if p.2 then some (st.zipIdx.map (fun x => if x.2 = p.1 then f x.1 else x.1))
  else if 24 ≤ st.length then none
  else some (st.take p.1 ++ f (loopToken j) :: st.drop p.1)

/-- Unwind (R307), by fuel over the tokens. -/
def unwind : Nat → List Token → BitVec 32 → List Token × BitVec 32
  | 0, st, pc => (st, pc)
  | f + 1, st, pc =>
    if level st ≠ 0 then (st, pc)
    else
      match st.getLast? with
      | none => (st, pc)
      | some t =>
        match t.kind with
        | .ifTok => unwind f st.dropLast t.join
        | .elseTok => unwind f st.dropLast.dropLast t.join
        | .loopTok =>
          if level st.dropLast &&& t.pending ≠ 0 then
            unwind f (st.dropLast ++ [{ t with pending := 0 }]) (t.join - 12)
          else unwind f st.dropLast t.join

/-- A slice with a stack and a lane PC: MASK follows, with Unwind where it is empty (R303, R307). -/
def Slice.at (x : Slice) (st : List Token) (pc : BitVec 32) : Slice :=
  let u := unwind 64 st pc
  { x with stack := u.1, lpc := u.2, mask := level u.1, wait := none }

/-- Whether the top token is a LOOP with this JOIN. -/
def topLoop (j : BitVec 32) (st : List Token) : Bool :=
  match st.getLast? with
  | some t => t.kind == .loopTok && t.join == j
  | none => false

/-- `lb.brc` on one slice (R304): its condition bits, the immediate and the stored length; none is TOKEN_DEPTH. -/
def brcSlice (x : Slice) (c : BitVec 4) (im : BitVec 32) (n : Nat) : Option Slice :=
  let next := x.lpc + BitVec.ofNat 32 n
  let target := x.lpc + im
  if 0 < im.toInt then
    let yes := x.mask &&& c
    let no := x.mask &&& ~~~c
    if no = 0 then some (x.at x.stack target)
    else if yes = 0 then some (x.at x.stack next)
    else if 24 ≤ x.stack.length then none
    else some (x.at (x.stack ++ [{ kind := .ifTok, pending := yes, exited := 0, join := target }]) next)
  else
    let tl := topLoop next x.stack
    let st := if tl then
        (match x.stack.getLast? with | some t => x.stack.dropLast ++ [{ t with pending := 0 }] | none => x.stack)
      else x.stack
    let m := level st
    let yes := m &&& c
    let no := m &&& ~~~c
    if no = 0 then some (x.at st target)
    else if yes = 0 then some (x.at (if tl then st.dropLast else st) next)
    else (findLoop next st (fun t => { t with exited := t.exited ||| no })).map (fun st => x.at st target)

/-- The token at a position of a stack, or one without lanes. -/
def tokenAt (st : List Token) (p : Nat × Bool) (j : BitVec 32) : Token :=
  if p.2 then (st[p.1]?).getD (loopToken j) else loopToken j

/-- `lb.brk` on one slice (R305). -/
def brkSlice (x : Slice) (c : BitVec 4) (im : BitVec 32) (n : Nat) : Option Slice :=
  let j := x.lpc + im
  let next := x.lpc + BitVec.ofNat 32 n
  let out := x.mask &&& c
  if out = 0 then some (x.at x.stack next)
  else
    let p := loopPos j x.stack
    let lanes := level (x.stack.take p.1) &&& ~~~(tokenAt x.stack p j).exited
    if lanes &&& ~~~out = 0 then some (x.at (x.stack.take p.1) j)
    else (findLoop j x.stack (fun t => { t with exited := t.exited ||| out })).map (fun st => x.at st next)

/-- `lb.cont` on one slice (R305). -/
def contSlice (x : Slice) (c : BitVec 4) (im : BitVec 32) (n : Nat) : Option Slice :=
  let j := x.lpc + im
  let next := x.lpc + BitVec.ofNat 32 n
  let out := x.mask &&& c
  if out = 0 then some (x.at x.stack next)
  else
    let p := loopPos j x.stack
    let tok := tokenAt x.stack p j
    let lanes := level (x.stack.take p.1) &&& ~~~tok.exited
    let keep := if p.2 then p.1 + 1 else p.1
    if lanes &&& ~~~out &&& ~~~tok.pending = 0 ∧ (x.stack.drop keep).all (fun t => t.kind == .loopTok) then
      some (x.at (x.stack.take keep) (j - 12))
    else (findLoop j x.stack (fun t => { t with pending := t.pending ||| out })).map (fun st => x.at st next)

/-- `lb.jmp` on one slice (R306): the else point, or a plain jump. -/
def jmpSlice (x : Slice) (im : BitVec 32) (n : Nat) : Option Slice :=
  let next := x.lpc + BitVec.ofNat 32 n
  match x.stack.getLast? with
  | some t =>
    if t.kind = .ifTok ∧ t.join = next then
      if 24 ≤ x.stack.length then none
      else some (x.at (x.stack ++ [{ kind := .elseTok, pending := 0, exited := 0, join := x.lpc + im }]) next)
    else some (x.at x.stack (x.lpc + im))
  | none => some (x.at x.stack (x.lpc + im))

/-- `lb.join` on one slice (R306). -/
def joinSlice (x : Slice) (n : Nat) : Slice :=
  let next := x.lpc + BitVec.ofNat 32 n
  match x.stack.getLast? with
  | some t =>
    if t.join = x.lpc then x.at (if t.kind = .elseTok then x.stack.dropLast.dropLast else x.stack.dropLast) next
    else x.at x.stack next
  | none => x.at x.stack next

/-- c(L) of the four lanes of a slice (R302). -/
def Thread.cond4 (t : Thread) (i : Nat) (o : LaneOps) : BitVec 4 :=
  (upFrom 0 4).foldl (fun m b => if t.pred (4 * i + b) o.ps.toNat != o.pn then m ||| (1#4 <<< b) else m) 0

/-- A list of slices after one gang's instruction has acted on each of its slices; the first slice that fails, if any. -/
def actSlices (gs : List Nat) (f : Nat → Slice → Option Slice) : Nat → List Slice → Except Nat (List Slice)
  | _, [] => .ok []
  | i, x :: r =>
    match (if gs.contains i then f i x else some x), actSlices gs f (i + 1) r with
    | none, _ => .error i
    | some y, .ok t => .ok (y :: t)
    | some _, .error e => .error e

/-- A gang parts by lane PC, each new gang named by its lowest slice (R255). -/
def partGang (gs : List Nat) (sl : List Slice) : List Slice :=
  sl.zipIdx.map (fun p =>
    if gs.contains p.2 && p.1.st == .issuing then
      match gs.find? (fun j => match sl[j]? with | some y => y.st == .issuing && y.lpc == p.1.lpc | none => false) with
      | some j => { p.1 with gang := j }
      | none => p.1
    else p.1)

/-- The regang completes when every slice waits at one or has ended its block (R256): those that wait
at one offset make a gang, and go on past it. -/
def regangDone (sl : List Slice) : List Slice :=
  if sl.all (fun x => x.st == .atRegang || x.st == .ended) && sl.any (fun x => x.st == .atRegang) then
    let gangs := partGang (upFrom 0 sl.length) (sl.map (fun x => if x.st = .atRegang then { x with st := .issuing } else x))
    gangs.map (fun x => if x.st = .issuing then { x with lpc := x.lpc + BitVec.ofNat 32 x.skip } else x)
  else sl

/-- An LB instruction of a gang (R302): each issuing slice is evaluated alone, a push past 24 tokens faults with
TOKEN_DEPTH and nothing takes effect (R254), and the gang parts where lane PCs differ. -/
def lbOp (s : State) (f : Thread → Nat → Slice → Option Slice) : Out :=
  match issuer s, s.cur.party with
  | some t, .gang g =>
    let gs := t.gangSlices g
    if gs.isEmpty then .fault .noIssuer
    else
      match actSlices gs (f t) 0 t.sl with
      | .error i =>
        let m := match t.sl[i]? with | some x => x.mask | none => 0
        faultOut s s.cur.tid (gangF t g 0x0C (4 * i + ctz 4 m.toNat) 0 0)
      | .ok sl => .next (s.setThread s.cur.tid { t with sl := regangDone (partGang gs sl) })
  | _, _ => .fault .noIssuer

/-- `lb.brc` (R304). -/
def execLbBrc (o : LaneOps) (s : State) : Out := lbOp s (fun t i x => brcSlice x (t.cond4 i o) o.im s.cur.len)
/-- `lb.brk` (R305). -/
def execLbBrk (o : LaneOps) (s : State) : Out := lbOp s (fun t i x => brkSlice x (t.cond4 i o) o.im s.cur.len)
/-- `lb.cont` (R305). -/
def execLbCont (o : LaneOps) (s : State) : Out := lbOp s (fun t i x => contSlice x (t.cond4 i o) o.im s.cur.len)
/-- `lb.jmp` (R306). -/
def execLbJmp (o : LaneOps) (s : State) : Out := lbOp s (fun _ _ x => jmpSlice x o.im s.cur.len)
/-- `lb.join` (R306). -/
def execLbJoin (s : State) : Out := lbOp s (fun _ _ x => some (joinSlice x s.cur.len))
/-- `lb.regang` (R256): the slice waits at it. -/
def execLbRegang (s : State) : Out := lbOp s (fun _ _ x => some { x with st := .atRegang, skip := s.cur.len, wait := none })
/-- `lb.lend` (R254, R257, R309): the slice's tokens are discarded. -/
def execLbLend (s : State) : Out :=
  lbOp s (fun _ _ x => some { x with st := .ended, stack := [], mask := 0xF, wait := none })
/-- `lb.nop` (R309). -/
def execLbNop (s : State) : Out := lbOp s (fun _ _ x => some { x with lpc := x.lpc + BitVec.ofNat 32 s.cur.len, wait := none })

/-- The event LANE_BLOCK_START (R255, R257, R258): the first queued block of thread `obj` starts, one gang at its entry
with full masks and empty stacks. Without one there is nothing to start. -/
def execLaneBlockStart (s : State) : Out :=
  .next (s.onLive s.arg.obj (fun t =>
    if t.running || !s.mayIssue s.arg.obj t.ctx then t
    else
      match t.blocks with
      | [] => t
      | b :: _ =>
        { t with
          running := true
          sl := t.sl.map (fun x =>
            { x with lpc := b.entry, mask := 0xF, gang := 0, st := .issuing, stack := [], wait := none, since := s.clk }) }))

/-- Whether a block has ended on every slice (R257). -/
def Thread.blockOver (t : Thread) : Bool := t.running && t.sl.all (fun x => x.st == .ended)

/-- The event LANE_BLOCK_END (R257): the running block of thread `obj`, ended on every slice, leaves the queue. Its
stores and atomics were performed as it issued them (log 5); what its gangs have posted is a completed block's (R195). -/
def execLaneBlockEnd (s : State) : Out :=
  let tid := s.arg.obj
  match look s.threads tid with
  | none => .next s
  | some t =>
    if t.ended || !t.blockOver || !s.mayIssue tid t.ctx then .next s
    else
      let s := s.passOps tid t.uid (fun p => p != .scalar) Party.past
      .next (s.onLive tid (fun t =>
        { t with running := false, blocks := t.blocks.tail, sl := t.sl.map (fun x => { x with st := .idle }) }))

end Sys2Proof.Machine
end

