-- ==== Sys2Proof/Machine/LaneCross.lean ====
section
/-! DEFINITION. Sys2Proof/Machine/LaneCross.lean: the VX group (R105-R108). -/

namespace Sys2Proof.Machine

/-- A permute (R105, R106): lane L takes A of its source lane, or its own A where the source is outside the gang. -/
def vxPermute (s : State) (fn : BitVec 8) (o : LaneOps) (src : Thread → Nat → Int) : Out :=
  laneVector s 0x40 fn o (fun t g l =>
    let x := src t l
    t.operand (if 0 ≤ x ∧ (t.gangLanes g).contains x.toNat then x.toNat else l) o.a o.ty)

/-- `vx.shfl` (R106). -/
def execVxShfl (o : LaneOps) (s : State) : Out := vxPermute s 0x00 o (fun t l => (t.laneRead l o.b 32 : Int))
/-- `vx.shup` (R106). -/
def execVxShup (o : LaneOps) (s : State) : Out := vxPermute s 0x01 o (fun _ l => (l : Int) - o.im.toNat)
/-- `vx.shdn` (R106). -/
def execVxShdn (o : LaneOps) (s : State) : Out := vxPermute s 0x02 o (fun _ l => (l : Int) + o.im.toNat)
/-- `vx.shxor` (R106). -/
def execVxShxor (o : LaneOps) (s : State) : Out := vxPermute s 0x03 o (fun _ l => (Nat.xor l o.im.toNat : Nat))
/-- `vx.bcast` (R106). -/
def execVxBcast (o : LaneOps) (s : State) : Out := vxPermute s 0x04 o (fun _ _ => (o.im.toNat : Int))

/-- OPER of a scan or reduction (R107). -/
def vxOper (o : LaneOps) : Nat := o.md.toNat % 8

/-- x op y for OPER (R107). -/
def vxCombine (ty oper x y : Nat) : Nat × FFlags :=
  if isIntTy ty then
    let w := widthOf ty
    match oper with
    | 0 => ((x + y) % 2 ^ w, 0)
    | 1 => (if sext y w < sext x w then y else x, 0)
    | 2 => (if sext x w < sext y w then y else x, 0)
    | 3 => (min x y, 0)
    | 4 => (max x y, 0)
    | 5 => (Nat.land x y, 0)
    | 6 => (Nat.lor x y, 0)
    | _ => (Nat.xor x y, 0)
  else
    let f := Fmt.ofTy ty
    match oper with
    | 0 => addF f x y
    | 1 => (encodeF f ((f.value x).pick false (f.value y)), 0)
    | _ => (encodeF f ((f.value x).pick true (f.value y)), 0)

/-- The identity of OPER (R107): for min and max the type's maximum and minimum (R69). -/
def vxIdentity (ty oper : Nat) : Nat :=
  let w := widthOf ty
  if isIntTy ty then
    match oper with
    | 1 => if isSigned ty then 2 ^ (w - 1) - 1 else 2 ^ w - 1
    | 2 => if isSigned ty then 2 ^ (w - 1) else 0
    | 3 => 2 ^ w - 1
    | 5 => 2 ^ w - 1
    | _ => 0
  else
    match oper with
    | 1 => (Fmt.ofTy ty).infCode false
    | 2 => (Fmt.ofTy ty).infCode true
    | _ => 0

/-- acc(i) of the active lanes in ascending order, with the flags each raises (R107). Those of acc(i)'s rounding are counted as
lane i's, of an exclusive scan too (R79; DEDUCED, log 20). -/
def vxScan (ty oper : Nat) : Nat → List (Nat × Nat) → List (Nat × Nat × FFlags)
  | _, [] => []
  | acc, (l, x) :: t =>
    let r := vxCombine ty oper acc x
    (l, r.1, r.2) :: vxScan ty oper r.1 t

/-- What a scan or reduction starts from: A of the lowest lane, a NaN as CanonNaN (R71, R107). -/
def vxStart (ty x : Nat) : Nat :=
  if isIntTy ty then x else if (Fmt.ofTy ty).value x = .nan then canonNaN (Fmt.ofTy ty) else x

/-- The accumulators of a gang's active lanes: the first is A of the lowest lane (R107). -/
def vxAccs (t : Thread) (o : LaneOps) (ls : List Nat) : List (Nat × Nat × FFlags) :=
  match ls with
  | [] => []
  | l :: r =>
    let a := vxStart o.ty.toNat (t.operand l o.a o.ty)
    (l, a, 0) :: vxScan o.ty.toNat (vxOper o) a (r.map (fun i => (i, t.operand i o.a o.ty)))

/-- `vx.scan` (R107). -/
def execVxScan (o : LaneOps) (s : State) : Out :=
  onGang s 0x40 0x05 o (fun tid t g ls =>
    let acc := vxAccs t o ls
    let vals := if o.md.getLsbD 3 then ls.zip (vxIdentity o.ty.toNat (vxOper o) :: acc.map (fun p => p.2.1))
      else acc.map (fun p => (p.1, p.2.1))
    laneDone s tid t (t.writeTy o.ty o.d vals) g (acc.map (fun p => (p.1, p.2.2))))

/-- `vx.red` (R107). -/
def execVxRed (o : LaneOps) (s : State) : Out :=
  onGang s 0x40 0x06 o (fun tid t g ls =>
    let acc := vxAccs t o ls
    let v := match acc.getLast? with | some p => p.2.1 | none => 0
    laneDone s tid t (t.writeTy o.ty o.d (ls.map (fun l => (l, v)))) g (acc.map (fun p => (p.1, p.2.2))))

/-- `vx.vote` (R108). -/
def execVxVote (o : LaneOps) (s : State) : Out :=
  onGang s 0x40 0x07 o (fun tid t g ls =>
    let bs := ls.map (fun l => t.pred l o.a.toNat)
    let r := match o.md.toNat % 4 with
      | 0 => bs.all id
      | 1 => bs.any id
      | _ => bs.all id || !bs.any id
    laneDone s tid t (t.writePred o.d (ls.map (fun l => (l, r)))) g [])

/-- `vx.ballot` (R108). -/
def execVxBallot (o : LaneOps) (s : State) : Out :=
  onGang s 0x40 0x08 o (fun tid t g ls =>
    let m := ls.foldl (fun m l => m + (if t.pred l o.a.toNat then 2 ^ l else 0)) 0
    laneDone s tid t (t.writeN32 o.d (ls.map (fun l => (l, m)))) g [])

end Sys2Proof.Machine
end

