-- ==== Sys2Proof/Machine/LaneFp.lean ====
section
/-! DEFINITION. Sys2Proof/Machine/LaneFp.lean: the VF group (R97-R99) and the VC group (R77, R100-R104). -/

namespace Sys2Proof.Machine

/-- PK of a VF instruction (R97). -/
def vfPk (o : LaneOps) : Bool := o.md.getLsbD 2

/-- A VF function of A, B and C, packed or not (R97): f takes the format, the mode and the three codes. -/
def vfOp (s : State) (fn : BitVec 8) (o : LaneOps) (f : Fmt → RMode → Nat → Nat → Nat → Nat × FFlags) : Out :=
  onGang s 0x20 fn o (fun tid t g ls =>
    let fmt := Fmt.ofTy o.ty.toNat
    let m := RMode.ofCode o.md.toNat
    let w := tyWidth o.ty
    let one (l : Nat) : Nat × FFlags :=
      let a := t.laneRead l o.a w
      let b := t.laneRead l o.b w
      let c := t.laneRead l o.c w
      if vfPk o then
        let lo := f fmt m (a % 2 ^ 16) (b % 2 ^ 16) (c % 2 ^ 16)
        let hi := f fmt m (a / 2 ^ 16) (b / 2 ^ 16) (c / 2 ^ 16)
        (lo.1 + 2 ^ 16 * hi.1, lo.2 ||| hi.2)
      else f fmt m (a % 2 ^ w) (b % 2 ^ w) (c % 2 ^ w)
    let r := ls.map (fun l => (l, one l))
    let vals := r.map (fun p => (p.1, p.2.1))
    laneDone s tid t (if vfPk o then t.writeN32 o.d vals else t.writeTy o.ty o.d vals) g (r.map (fun p => (p.1, p.2.2))))

/-- The one rounding of an exact result, with the flags of forming it (R98). -/
def vfRound (fmt : Fmt) (m : RMode) (x : FVal × FFlags) : Nat × FFlags :=
  let r := roundF fmt m x.1
  (r.1, r.2 ||| x.2)

/-- A code of a format with its sign replaced; a NaN gives CanonNaN (R98). -/
def vfSign (fmt : Fmt) (a : Nat) (neg : Bool) : Nat :=
  if fmt.value a = .nan then canonNaN fmt
  else fmt.signBit neg + a % 2 ^ (fmt.ew + fmt.fw)

/-- The sign bit of a code. -/
def vfNeg (fmt : Fmt) (a : Nat) : Bool := a / 2 ^ (fmt.ew + fmt.fw) % 2 == 1

/-- `vf.add` (R98). -/
def execVfAdd (o : LaneOps) (s : State) : Out :=
  vfOp s 0x00 o (fun f m a b _ => vfRound f m ((f.value a).add m (f.value b)))
/-- `vf.sub` (R98). -/
def execVfSub (o : LaneOps) (s : State) : Out :=
  vfOp s 0x01 o (fun f m a b _ => vfRound f m ((f.value a).add m (f.value b).negate))
/-- `vf.mul` (R98). -/
def execVfMul (o : LaneOps) (s : State) : Out :=
  vfOp s 0x02 o (fun f m a b _ => vfRound f m ((f.value a).mul (f.value b)))
/-- `vf.fma` (R98). -/
def execVfFma (o : LaneOps) (s : State) : Out :=
  vfOp s 0x03 o (fun f m a b c => vfRound f m ((f.value a).fma m (f.value b) (f.value c)))
/-- `vf.fms` (R98). -/
def execVfFms (o : LaneOps) (s : State) : Out :=
  vfOp s 0x04 o (fun f m a b c => vfRound f m ((f.value a).fma m (f.value b) (f.value c).negate))
/-- `vf.min` (R99). -/
def execVfMin (o : LaneOps) (s : State) : Out :=
  vfOp s 0x05 o (fun f _ a b _ => (encodeF f ((f.value a).pick false (f.value b)), 0))
/-- `vf.max` (R99). -/
def execVfMax (o : LaneOps) (s : State) : Out :=
  vfOp s 0x06 o (fun f _ a b _ => (encodeF f ((f.value a).pick true (f.value b)), 0))
/-- `vf.div` (R98). -/
def execVfDiv (o : LaneOps) (s : State) : Out :=
  vfOp s 0x07 o (fun f m a b _ => vfRound f m ((f.value a).div (f.value b)))
/-- `vf.sqrt` (R98). -/
def execVfSqrt (o : LaneOps) (s : State) : Out := vfOp s 0x08 o (fun f m a _ _ => vfRound f m (f.value a).sqrt)
/-- `vf.rcp` (R98). -/
def execVfRcp (o : LaneOps) (s : State) : Out :=
  vfOp s 0x09 o (fun f m a _ _ => vfRound f m ((FVal.fin false 1 0).div (f.value a)))
/-- `vf.rsq` (R98). -/
def execVfRsq (o : LaneOps) (s : State) : Out := vfOp s 0x0A o (fun f m a _ _ => vfRound f m (f.value a).rsqrt)
/-- `vf.exp2` (R98). -/
def execVfExp2 (o : LaneOps) (s : State) : Out := vfOp s 0x0B o (fun f m a _ _ => vfRound f m (f.value a).exp2)
/-- `vf.log2` (R98). -/
def execVfLog2 (o : LaneOps) (s : State) : Out := vfOp s 0x0C o (fun f m a _ _ => vfRound f m (f.value a).log2)
/-- `vf.abs` (R98). -/
def execVfAbs (o : LaneOps) (s : State) : Out := vfOp s 0x0D o (fun f _ a _ _ => (vfSign f a false, 0))
/-- `vf.neg` (R98). -/
def execVfNeg (o : LaneOps) (s : State) : Out := vfOp s 0x0E o (fun f _ a _ _ => (vfSign f a (!vfNeg f a), 0))
/-- `vf.copysign` (R98). -/
def execVfCopysign (o : LaneOps) (s : State) : Out := vfOp s 0x0F o (fun f _ a b _ => (vfSign f a (vfNeg f b), 0))

/-- A compare of A and B to a predicate (R99). -/
def vfCmp (s : State) (fn : BitVec 8) (o : LaneOps) (f : FVal → FVal → Bool) : Out :=
  lanePred s 0x20 fn o (fun t l =>
    f ((Fmt.ofTy o.ty.toNat).value (t.operand l o.a o.ty)) ((Fmt.ofTy o.ty.toNat).value (t.operand l o.b o.ty)))

/-- `vf.cmpeq` (R99). -/
def execVfCmpeq (o : LaneOps) (s : State) : Out := vfCmp s 0x10 o FVal.feq
/-- `vf.cmplt` (R99). -/
def execVfCmplt (o : LaneOps) (s : State) : Out := vfCmp s 0x11 o FVal.lt
/-- `vf.cmple` (R99). -/
def execVfCmple (o : LaneOps) (s : State) : Out := vfCmp s 0x12 o (fun x y => x.lt y || x.feq y)
/-- `vf.cmpun` (R99). -/
def execVfCmpun (o : LaneOps) (s : State) : Out := vfCmp s 0x13 o (fun x y => decide (x = .nan) || decide (y = .nan))

/-- The class bit of a code (R99). -/
def classBit (f : Fmt) (a : Nat) : Nat :=
  let sub := decide (a / 2 ^ f.fw % 2 ^ f.ew = 0)
  match f.value a with
  | .nan => 8
  | .inf neg => if neg then 0 else 7
  | .fin neg m _ =>
    if m = 0 then (if neg then 3 else 4)
    else if sub then (if neg then 2 else 5)
    else (if neg then 1 else 6)

/-- `vf.class` (R99). -/
def execVfClass (o : LaneOps) (s : State) : Out :=
  onGang s 0x20 0x14 o (fun tid t g ls =>
    laneDone s tid t (t.writeN32 o.d (ls.map (fun l =>
      (l, 2 ^ classBit (Fmt.ofTy o.ty.toNat) (t.operand l o.a o.ty))))) g [])

/-- `vf.mov` (R98): a NaN becomes CanonNaN. -/
def execVfMov (o : LaneOps) (s : State) : Out := vfOp s 0x15 o (fun f _ a _ _ => (vfSign f a (vfNeg f a), 0))

/-- The value `vf.li` writes (R99). -/
def vfLiValue (ty im : Nat) : Nat :=
  if ty = 11 then encodeF .f64 (Fmt.f32.value im)
  else
    let f := Fmt.ofTy ty
    vfSign f (im % 2 ^ f.width) (vfNeg f im)

/-- `vf.li` (R99). -/
def execVfLi (o : LaneOps) (s : State) : Out :=
  laneVector s 0x20 0x16 o (fun _ _ _ => vfLiValue o.ty.toNat o.im.toNat)

/-- Source type code of a VC instruction (R100). -/
def vcSrc (o : LaneOps) : BitVec 4 := o.md.extractLsb' 0 4
/-- Rounding mode of a VC instruction (R100). -/
def vcRm (o : LaneOps) : RMode := RMode.ofCode (o.md.toNat / 16)

/-- `vc.cvt` (R101). -/
def execVcCvt (o : LaneOps) (s : State) : Out :=
  laneFlags s 0x30 0x00 o (fun t l => roundTy o.ty.toNat (vcRm o) (valueTy (vcSrc o).toNat (t.operand l o.a (vcSrc o))))

/-- The exponent of the spacing of a format at a magnitude m·2^e (R77): the subnormal spacing below the smallest normal,
the spacing of the largest finite value beyond it. -/
def spacing (f : Fmt) (m : Nat) (e : Int) : Int :=
  let lead := e + bitLen m - 1
  let mx := f.maxFin
  let top := mx.2 + bitLen mx.1 - 1
  max (min lead top) (1 - (f.bias : Int)) - f.fw

/-- Stochastic rounding of a value with 16 random bits (R77). -/
def roundSR (f : Fmt) (x : FVal) (u : Nat) : Nat × FFlags :=
  match x with
  | .fin neg m e =>
    if m = 0 then (f.signBit neg, 0)
    else
      let q := spacing f m e
      let num := if q ≤ e then m * 2 ^ (e - q).toNat else m
      let den := if q ≤ e then 1 else 2 ^ (q - e).toNat
      let fl := num / den
      let f16 := (num % den) * 2 ^ 16 / den
      let k := fl + (if 2 ^ 16 ≤ f16 + u then 1 else 0)
      let r := roundFin f .rne neg k q
      (r.1, r.2 ||| (if num % den = 0 then 0 else fInexact))
  | v => roundF f .rne v

/-- The 16 random bits of element j of a lane (R77). -/
def cvtsRandom (key ctr : Word) (l j : Nat) : Nat :=
  let ws := philox key (ctr.toNat % 2 ^ 32) (ctr.toNat / 2 ^ 32) l 0xFFFFFFFF
  if j < 4 then nth ws j 0 / 2 ^ 16 else nth ws (j - 4) 0 % 2 ^ 16

/-- Elements of w bits packed into a register, element 0 lowest. -/
def packElems (w : Nat) : List Nat → Nat
  | [] => 0
  | x :: t => x % 2 ^ w + 2 ^ w * packElems w t

/-- One lane's `vc.cvts` (R102). -/
def cvtsLane (t : Thread) (o : LaneOps) (l : Nat) : Nat × FFlags :=
  let f := Fmt.ofTy o.ty.toNat
  let sw := tyWidth (vcSrc o)
  let w := tyWidth o.ty
  let es := (upFrom 0 (32 / w)).map (fun j =>
    let x := t.laneRead l (o.a + BitVec.ofNat 8 (j * (sw / 32))) sw
    roundSR f ((Fmt.ofTy (vcSrc o).toNat).value x) (cvtsRandom t.rngkey t.rngctr l j))
  (packElems w (es.map Prod.fst), es.foldl (fun x p => x ||| p.2) 0)

/-- `vc.cvts` (R77, R102): RNGCTR moves on once. -/
def execVcCvts (o : LaneOps) (s : State) : Out :=
  onGang s 0x30 0x01 o (fun tid t g ls =>
    let r := ls.map (fun l => (l, cvtsLane t o l))
    let t' := t.writeN32 o.d (r.map (fun p => (p.1, p.2.1)))
    laneDone s tid t { t' with rngctr := t'.rngctr + 1 } g (r.map (fun p => (p.1, p.2.2))))

/-- The code whose level is nearest to x/s, ties to the lower code, with its flags (R103): u and v are x and a positive
scale as whole numbers of one unit. -/
def qnCode (u v : Int) : Nat × FFlags :=
  let c := ((upFrom 0 15).filter (fun i =>
    decide ((nth qnLevel256 i 0 + nth qnLevel256 (i + 1) 0) * v < 512 * u))).length
  (c, (if v < u.natAbs then fOverflow else 0) ||| (if nth qnLevel256 c 0 * v = 256 * u then 0 else fInexact))

/-- One element of `vc.qnpack` against a finite non-zero scale ±n·2^g (R103). -/
def qnElem (sneg : Bool) (n : Nat) (g : Int) (x : FVal) : Nat × FFlags :=
  match x with
  | .nan => (7, fInvalid)
  | .inf neg => (if neg != sneg then 0 else 15, fOverflow ||| fInexact)
  | .fin neg m e =>
    let q := min e g
    let u : Int := (m * 2 ^ (e - q).toNat : Nat)
    let v : Int := (n * 2 ^ (g - q).toNat : Nat)
    qnCode (if neg != sneg then -u else u) v

/-- One lane's `vc.qnpack` (R103). -/
def qnpackLane (t : Thread) (o : LaneOps) (l : Nat) : Nat × FFlags :=
  match Fmt.f32.value (t.laneRead l o.b 32) with
  | .fin sneg n g =>
    if n = 0 then (0x77777777, fInvalid)
    else
      let es := (upFrom 0 8).map (fun j => qnElem sneg n g (Fmt.f32.value (t.laneRead l (o.a + BitVec.ofNat 8 j) 32)))
      (packElems 4 (es.map Prod.fst), es.foldl (fun x p => x ||| p.2) 0)
  | _ => (0x77777777, fInvalid)

/-- `vc.qnpack` (R103). -/
def execVcQnpack (o : LaneOps) (s : State) : Out :=
  onGang s 0x30 0x02 o (fun tid t g ls =>
    let r := ls.map (fun l => (l, qnpackLane t o l))
    laneDone s tid t (t.writeN32 o.d (r.map (fun p => (p.1, p.2.1)))) g (r.map (fun p => (p.1, p.2.2))))

/-- One lane's eight elements of `vc.qnunpack` (R103). -/
def qnunpackLane (t : Thread) (o : LaneOps) (l : Nat) : List (Nat × FFlags) :=
  let a := t.laneRead l o.a 32
  let sc := Fmt.f32.value (t.laneRead l o.b 32)
  (upFrom 0 8).map (fun j => vfRound (Fmt.ofTy o.ty.toNat) (vcRm o) ((qnLevel (a / 16 ^ j)).mul sc))

/-- `vc.qnunpack` (R103). -/
def execVcQnunpack (o : LaneOps) (s : State) : Out :=
  onGang s 0x30 0x03 o (fun tid t g ls =>
    let r := ls.map (fun l => (l, qnunpackLane t o l))
    laneDone s tid t (t.writeRun (tyWidth o.ty) o.d (r.map (fun p => (p.1, p.2.map Prod.fst)))) g
      (r.map (fun p => (p.1, p.2.foldl (fun x e => x ||| e.2) 0))))

/-- `vc.pack` (R104): the packed 32 bits are an n32 value for every TY, so a block result takes them zero-extended (log
20). -/
def execVcPack (o : LaneOps) (s : State) : Out :=
  onGang s 0x30 0x04 o (fun tid t g ls =>
    let w := tyWidth o.ty
    laneDone s tid t (t.writeN32 o.d (ls.map (fun l =>
      (l, packElems w ((upFrom 0 (32 / w)).map (fun j => t.laneRead l (o.a + BitVec.ofNat 8 j) 32)))))) g [])

/-- `vc.unpack` (R104): sign-extended for i8 and i16. -/
def execVcUnpack (o : LaneOps) (s : State) : Out :=
  onGang s 0x30 0x05 o (fun tid t g ls =>
    let w := tyWidth o.ty
    laneDone s tid t (t.writeRun 32 o.d (ls.map (fun l =>
      let a := t.laneRead l o.a 32
      (l, (upFrom 0 (32 / w)).map (fun j =>
        let e := a / 2 ^ (w * j) % 2 ^ w
        if isSigned o.ty.toNat then wrap (sext e w) 32 else e))))) g [])

end Sys2Proof.Machine
end

