-- ==== Sys2Proof/Machine/LaneInt.lean ====
section
/-! DEFINITION. Sys2Proof/Machine/LaneInt.lean: the VI group (R95, R96) and the VP group (R109). -/

namespace Sys2Proof.Machine

/-- A binary function of the low w bits of A and B (R96). -/
def viBin (s : State) (fn : BitVec 8) (o : LaneOps) (f : Nat → Nat → Nat → Nat) : Out :=
  laneVector s 0x10 fn o (fun t _ l => f (tyWidth o.ty) (t.operand l o.a o.ty) (t.operand l o.b o.ty))

/-- A unary function of the low w bits of A (R96). -/
def viUn (s : State) (fn : BitVec 8) (o : LaneOps) (f : Nat → Nat → Nat) : Out :=
  laneVector s 0x10 fn o (fun t _ l => f (tyWidth o.ty) (t.operand l o.a o.ty))

/-- A compare of A and B (R96). -/
def viCmp (s : State) (fn : BitVec 8) (o : LaneOps) (f : Nat → Nat → Nat → Bool) : Out :=
  lanePred s 0x10 fn o (fun t l => f (tyWidth o.ty) (t.operand l o.a o.ty) (t.operand l o.b o.ty))

/-- A shift of A by bits 31:0 of B (R96). -/
def viShift (s : State) (fn : BitVec 8) (o : LaneOps) (f : Nat → Nat → Nat → Nat) : Out :=
  laneVector s 0x10 fn o (fun t _ l =>
    f (tyWidth o.ty) (t.operand l o.a o.ty) (t.laneRead l o.b (tyWidth o.ty) % 2 ^ 32))

/-- `vi.add` (R96). -/
def execViAdd (o : LaneOps) (s : State) : Out := viBin s 0x00 o (fun w a b => (a + b) % 2 ^ w)
/-- `vi.sub` (R96). -/
def execViSub (o : LaneOps) (s : State) : Out := viBin s 0x01 o (fun w a b => (a + 2 ^ w - b) % 2 ^ w)
/-- `vi.mul` (R96). -/
def execViMul (o : LaneOps) (s : State) : Out := viBin s 0x02 o (fun w a b => a * b % 2 ^ w)
/-- `vi.mulh` (R96). -/
def execViMulh (o : LaneOps) (s : State) : Out :=
  viBin s 0x03 o (fun w a b => wrap (sext a w * sext b w / ((2 ^ w : Nat) : Int)) w)
/-- `vi.mulhn` (R96). -/
def execViMulhn (o : LaneOps) (s : State) : Out := viBin s 0x04 o (fun w a b => a * b / 2 ^ w)
/-- `vi.mad` (R96). -/
def execViMad (o : LaneOps) (s : State) : Out :=
  laneVector s 0x10 0x05 o (fun t _ l =>
    (t.operand l o.a o.ty * t.operand l o.b o.ty + t.operand l o.c o.ty) % 2 ^ tyWidth o.ty)
/-- `vi.and` (R96). -/
def execViAnd (o : LaneOps) (s : State) : Out := viBin s 0x06 o (fun _ a b => Nat.land a b)
/-- `vi.or` (R96). -/
def execViOr (o : LaneOps) (s : State) : Out := viBin s 0x07 o (fun _ a b => Nat.lor a b)
/-- `vi.xor` (R96). -/
def execViXor (o : LaneOps) (s : State) : Out := viBin s 0x08 o (fun _ a b => Nat.xor a b)
/-- `vi.andn` (R96). -/
def execViAndn (o : LaneOps) (s : State) : Out := viBin s 0x09 o (fun w a b => Nat.land a (2 ^ w - 1 - b))
/-- `vi.shl` (R96). -/
def execViShl (o : LaneOps) (s : State) : Out :=
  viShift s 0x0A o (fun w a n => if n < w then a * 2 ^ n % 2 ^ w else 0)
/-- `vi.shr` (R96). -/
def execViShr (o : LaneOps) (s : State) : Out := viShift s 0x0B o (fun w a n => if n < w then a / 2 ^ n else 0)
/-- `vi.sar` (R96). -/
def execViSar (o : LaneOps) (s : State) : Out :=
  viShift s 0x0C o (fun w a n => wrap (sext a w / ((2 ^ min n (w - 1) : Nat) : Int)) w)
/-- `vi.min` (R96). -/
def execViMin (o : LaneOps) (s : State) : Out := viBin s 0x0D o (fun w a b => if sext b w < sext a w then b else a)
/-- `vi.max` (R96). -/
def execViMax (o : LaneOps) (s : State) : Out := viBin s 0x0E o (fun w a b => if sext a w < sext b w then b else a)
/-- `vi.minn` (R96). -/
def execViMinn (o : LaneOps) (s : State) : Out := viBin s 0x0F o (fun _ a b => min a b)
/-- `vi.maxn` (R96). -/
def execViMaxn (o : LaneOps) (s : State) : Out := viBin s 0x10 o (fun _ a b => max a b)
/-- `vi.abs` (R96). -/
def execViAbs (o : LaneOps) (s : State) : Out :=
  viUn s 0x11 o (fun w a => if isSigned o.ty.toNat then wrap (sext a w).natAbs w else a)
/-- `vi.clz` (R96). -/
def execViClz (o : LaneOps) (s : State) : Out := viUn s 0x12 o clz
/-- `vi.popc` (R96). -/
def execViPopc (o : LaneOps) (s : State) : Out := viUn s 0x13 o popc

/-- â of an operand (R95). -/
def hatOf (ty : BitVec 4) (x : Nat) : Int := if isSigned ty.toNat then sext x (tyWidth ty) else x

/-- `vi.addsat` (R96). -/
def execViAddsat (o : LaneOps) (s : State) : Out :=
  viBin s 0x14 o (fun w a b => wrap (satTy (hatOf o.ty a + hatOf o.ty b) o.ty.toNat) w)
/-- `vi.subsat` (R96). -/
def execViSubsat (o : LaneOps) (s : State) : Out :=
  viBin s 0x15 o (fun w a b => wrap (satTy (hatOf o.ty a - hatOf o.ty b) o.ty.toNat) w)
/-- `vi.cmpeq` (R96). -/
def execViCmpeq (o : LaneOps) (s : State) : Out := viCmp s 0x16 o (fun _ a b => a == b)
/-- `vi.cmpne` (R96). -/
def execViCmpne (o : LaneOps) (s : State) : Out := viCmp s 0x17 o (fun _ a b => a != b)
/-- `vi.cmplt` (R96). -/
def execViCmplt (o : LaneOps) (s : State) : Out := viCmp s 0x18 o (fun w a b => decide (sext a w < sext b w))
/-- `vi.cmpltn` (R96). -/
def execViCmpltn (o : LaneOps) (s : State) : Out := viCmp s 0x19 o (fun _ a b => decide (a < b))
/-- `vi.cmple` (R96). -/
def execViCmple (o : LaneOps) (s : State) : Out := viCmp s 0x1A o (fun w a b => decide (sext a w ≤ sext b w))
/-- `vi.cmplen` (R96). -/
def execViCmplen (o : LaneOps) (s : State) : Out := viCmp s 0x1B o (fun _ a b => decide (a ≤ b))
/-- `vi.sel` (R96): C is a predicate. -/
def execViSel (o : LaneOps) (s : State) : Out :=
  laneVector s 0x10 0x1C o (fun t _ l => if t.pred l o.c.toNat then t.operand l o.a o.ty else t.operand l o.b o.ty)
/-- `vi.mov` (R96). -/
def execViMov (o : LaneOps) (s : State) : Out := viUn s 0x1D o (fun _ a => a)
/-- `vi.li` (R96). -/
def execViLi (o : LaneOps) (s : State) : Out :=
  laneVector s 0x10 0x1E o (fun _ _ _ =>
    wrap (if isSigned o.ty.toNat then sext o.im.toNat 32 else o.im.toNat) (tyWidth o.ty))
/-- `vi.iota` (R96). -/
def execViIota (o : LaneOps) (s : State) : Out :=
  laneVector s 0x10 0x1F o (fun _ _ l => wrap ((l : Int) + sext o.im.toNat 32) (tyWidth o.ty))

/-- `vp.pand` (R109). -/
def execVpPand (o : LaneOps) (s : State) : Out :=
  lanePred s 0x50 0x00 o (fun t l => t.pred l o.a.toNat && t.pred l o.b.toNat)
/-- `vp.por` (R109). -/
def execVpPor (o : LaneOps) (s : State) : Out :=
  lanePred s 0x50 0x01 o (fun t l => t.pred l o.a.toNat || t.pred l o.b.toNat)
/-- `vp.pxor` (R109). -/
def execVpPxor (o : LaneOps) (s : State) : Out :=
  lanePred s 0x50 0x02 o (fun t l => t.pred l o.a.toNat != t.pred l o.b.toNat)
/-- `vp.pnot` (R109). -/
def execVpPnot (o : LaneOps) (s : State) : Out := lanePred s 0x50 0x03 o (fun t l => !t.pred l o.a.toNat)
/-- `vp.pmov` (R109). -/
def execVpPmov (o : LaneOps) (s : State) : Out := lanePred s 0x50 0x04 o (fun t l => t.pred l o.a.toNat)
/-- `vp.pset` (R109). -/
def execVpPset (o : LaneOps) (s : State) : Out := lanePred s 0x50 0x05 o (fun _ l => o.im.getLsbD l)

end Sys2Proof.Machine
end

