-- ==== Sys2Proof/Machine/Memory.lean ====
section
/-! DEFINITION. Sys2Proof/Machine/Memory.lean: scalar loads, stores, atomics, reductions, fences and cache control
(R189-R199). -/

namespace Sys2Proof.Machine

/-- A memory instruction of the scalar sequencer (R205): it waits while the thread's store buffer is full. -/
def onMemory (s : State) (k : Nat → Thread → Out) : Out :=
  onThread s (fun tid t => if Config.storeBuffer ≤ t.redBuf.length then .next (s.hold tid .scalar .stall) else k tid t)

/-- LD (R189, R190): n = 2^sz bytes read, extended, and written to d. -/
def loadOp (s : State) (d a : BitVec 6) (o : BitVec 11) (sz : Nat) (signed : Bool) : Out :=
  onMemory s (fun tid t =>
    let va := smAddress (t.S a) o sz
    match s.check t va (2 ^ sz) .read true with
    | some f => faultOut s tid (scalarF t f va 0)
    | none =>
      accOut s tid t .scalar va (2 ^ sz) (s.loadT tid t va.toNat (2 ^ sz)) (fun r =>
        let x := leNat r.1
        .next (r.2.finish tid d (if signed then wordI (sext x (8 * 2 ^ sz)) else word x))))

/-- ST (R189, R190): the low n bytes of S(d) written. -/
def storeOp (s : State) (d a : BitVec 6) (o : BitVec 11) (sz : Nat) : Out :=
  onMemory s (fun tid t =>
    let va := smAddress (t.S a) o sz
    match s.check t va (2 ^ sz) .write true with
    | some f => faultOut s tid (scalarF t f va 0)
    | none =>
      accOut s tid t .scalar va (2 ^ sz) (s.storeT tid t va.toNat (leBytes (2 ^ sz) (t.S d).toNat)) (fun s =>
        .next (s.onLive tid (fun t => t.dirty.step4))))

/-- `ld.n8` (R189). -/
def execLdN8 (d a : BitVec 6) (o : BitVec 11) (s : State) : Out := loadOp s d a o 0 false
/-- `ld.i8` (R189). -/
def execLdI8 (d a : BitVec 6) (o : BitVec 11) (s : State) : Out := loadOp s d a o 0 true
/-- `ld.n16` (R189). -/
def execLdN16 (d a : BitVec 6) (o : BitVec 11) (s : State) : Out := loadOp s d a o 1 false
/-- `ld.i16` (R189). -/
def execLdI16 (d a : BitVec 6) (o : BitVec 11) (s : State) : Out := loadOp s d a o 1 true
/-- `ld.n32` (R189). -/
def execLdN32 (d a : BitVec 6) (o : BitVec 11) (s : State) : Out := loadOp s d a o 2 false
/-- `ld.i32` (R189). -/
def execLdI32 (d a : BitVec 6) (o : BitVec 11) (s : State) : Out := loadOp s d a o 2 true
/-- `ld.n64` (R189). -/
def execLdN64 (d a : BitVec 6) (o : BitVec 11) (s : State) : Out := loadOp s d a o 3 false
/-- `st.n8` (R189). -/
def execStN8 (d a : BitVec 6) (o : BitVec 11) (s : State) : Out := storeOp s d a o 0
/-- `st.n16` (R189). -/
def execStN16 (d a : BitVec 6) (o : BitVec 11) (s : State) : Out := storeOp s d a o 1
/-- `st.n32` (R189). -/
def execStN32 (d a : BitVec 6) (o : BitVec 11) (s : State) : Out := storeOp s d a o 2
/-- `st.n64` (R189). -/
def execStN64 (d a : BitVec 6) (o : BitVec 11) (s : State) : Out := storeOp s d a o 3

/-- A returning atomic of n bytes (R191, R192): op is the code of R202; `give` shapes the old value for d. -/
def atomOp (s : State) (d a : BitVec 6) (op n x : Nat) (flags : FFlags) (give : Nat → Word) : Out :=
  onMemory s (fun tid t =>
    let va := t.S a
    match s.check t va n .atomic true with
    | some f => faultOut s tid (scalarF t f va 0)
    | none =>
      let cmp := (t.S d).toNat
      accOut s tid t .scalar va n (s.atomT tid t va.toNat n (fun old => (atomNew op (8 * n) old x cmp).1)) (fun r =>
        let s := r.2.onLive tid (fun t => (t.setS d (give r.1)).dirty.step4)
        .next (s.trapAfter tid (flags ||| (atomNew op (8 * n) r.1 x cmp).2) (scalarF t 0x15 0 0))))

/-- A 64-bit integer atomic, whose operand is S(b) (R191). -/
def atomInt (s : State) (d a b : BitVec 6) (op : Nat) : Out :=
  onThread s (fun _ t => atomOp s d a op 8 (t.S b).toNat 0 (fun old => word old))

/-- `atom.add` (R191, R192). -/
def execAtomAdd (d a b : BitVec 6) (s : State) : Out := atomInt s d a b 0
/-- `atom.and` (R191, R192). -/
def execAtomAnd (d a b : BitVec 6) (s : State) : Out := atomInt s d a b 1
/-- `atom.or` (R191, R192). -/
def execAtomOr (d a b : BitVec 6) (s : State) : Out := atomInt s d a b 2
/-- `atom.xor` (R191, R192). -/
def execAtomXor (d a b : BitVec 6) (s : State) : Out := atomInt s d a b 3
/-- `atom.min` (R191, R192). -/
def execAtomMin (d a b : BitVec 6) (s : State) : Out := atomInt s d a b 4
/-- `atom.max` (R191, R192). -/
def execAtomMax (d a b : BitVec 6) (s : State) : Out := atomInt s d a b 5
/-- `atom.minn` (R191, R192). -/
def execAtomMinn (d a b : BitVec 6) (s : State) : Out := atomInt s d a b 6
/-- `atom.maxn` (R191, R192). -/
def execAtomMaxn (d a b : BitVec 6) (s : State) : Out := atomInt s d a b 7
/-- `atom.swap` (R191, R192). -/
def execAtomSwap (d a b : BitVec 6) (s : State) : Out := atomInt s d a b 8
/-- `atom.cas`: S(d) is the comparand, read before d is written (R191, R192). -/
def execAtomCas (d a b : BitVec 6) (s : State) : Out := atomInt s d a b 9

/-- `atom.fadd32`: the operand in bits 31:0 of S(b) (R191, R192). -/
def execAtomFadd32 (d a b : BitVec 6) (s : State) : Out :=
  onThread s (fun _ t => atomOp s d a 10 4 ((t.S b).toNat % 2 ^ 32) 0 (fun old => word old))
/-- `atom.fadd64` (R191, R192). -/
def execAtomFadd64 (d a b : BitVec 6) (s : State) : Out :=
  onThread s (fun _ t => atomOp s d a 10 8 (t.S b).toNat 0 (fun old => word old))

/-- The addend of `fxadd` modulo 2^128, with its flags (R84). -/
def fxAddend (f : Fmt) (x : Nat) : Nat × FFlags :=
  let c := fxConvert (f.value x)
  (wrap c.1 128, c.2)

/-- `atom.fxadd`: d takes the old integer part (R84, R191, R192). -/
def execAtomFxadd (d a b : BitVec 6) (s : State) : Out :=
  onThread s (fun _ t =>
    let c := fxAddend .f64 (t.S b).toNat
    atomOp s d a 12 16 c.1 c.2 (fun old => word (old / 2 ^ 64)))

/-- `atom.fxread` (R85, R191, R192): immediate 0 gives f64, 1 gives f32; a read, which leaves the thread clean. -/
def execAtomFxread (d a i : BitVec 6) (s : State) : Out :=
  onMemory s (fun tid t =>
    let va := t.S a
    if 1 < i.toNat then faultOut s tid (scalarF t 0x01 0 0)
    else
      match s.check t va 16 .read true with
      | some f => faultOut s tid (scalarF t f va 0)
      | none =>
        accOut s tid t .scalar va 16 (s.loadHomeT tid t va.toNat 16) (fun r =>
          let x := fxRead (if i = 0 then .f64 else .f32) (leNat r.1)
          .next ((r.2.finish tid d (word x.1)).trapAfter tid x.2 (scalarF t 0x15 0 0))))

/-- A reduction as a party posts it (R181, R193), with what a record of it says of the thread and the lane (R388). -/
def Thread.red (t : Thread) (tid : Nat) (party : Party) (lane : Nat) (pc va : Word) (op n x : Nat) : Red :=
  { uid := t.uid, core := coreOf tid, slot := tid % 32, lane, party, pc, task := t.task, winid := t.winid, ctx := t.ctx,
    addr := va.toNat, op, bytes := n, value := BitVec.ofNat 128 x, owed := false }

/-- A reduction posted (R181, R193): checked as an atomic at issue, then held in the store buffer (R205). -/
def redOp (s : State) (a : BitVec 6) (op n x : Nat) (flags : FFlags) : Out :=
  onMemory s (fun tid t =>
    let va := t.S a
    match s.check t va n .atomic true with
    | some f => faultOut s tid (scalarF t f va 0)
    | none =>
      let r := t.red tid .scalar 0xFF t.pc va op n x
      let s := s.onLive tid (fun t => { t.dirty.step4 with redBuf := t.redBuf ++ [r] })
      .next (s.trapAfter tid flags (scalarF t 0x15 0 0)))

/-- A 64-bit integer reduction. -/
def redInt (s : State) (a b : BitVec 6) (op : Nat) : Out := onThread s (fun _ t => redOp s a op 8 (t.S b).toNat 0)

/-- `red.add` (R191, R193). -/
def execRedAdd (a b : BitVec 6) (s : State) : Out := redInt s a b 0
/-- `red.and` (R191, R193). -/
def execRedAnd (a b : BitVec 6) (s : State) : Out := redInt s a b 1
/-- `red.or` (R191, R193). -/
def execRedOr (a b : BitVec 6) (s : State) : Out := redInt s a b 2
/-- `red.xor` (R191, R193). -/
def execRedXor (a b : BitVec 6) (s : State) : Out := redInt s a b 3
/-- `red.min` (R191, R193). -/
def execRedMin (a b : BitVec 6) (s : State) : Out := redInt s a b 4
/-- `red.max` (R191, R193). -/
def execRedMax (a b : BitVec 6) (s : State) : Out := redInt s a b 5
/-- `red.minn` (R191, R193). -/
def execRedMinn (a b : BitVec 6) (s : State) : Out := redInt s a b 6
/-- `red.maxn` (R191, R193). -/
def execRedMaxn (a b : BitVec 6) (s : State) : Out := redInt s a b 7
/-- `red.fadd32` (R191, R193). -/
def execRedFadd32 (a b : BitVec 6) (s : State) : Out :=
  onThread s (fun _ t => redOp s a 10 4 ((t.S b).toNat % 2 ^ 32) 0)
/-- `red.fadd64` (R191, R193). -/
def execRedFadd64 (a b : BitVec 6) (s : State) : Out := onThread s (fun _ t => redOp s a 10 8 (t.S b).toNat 0)
/-- `red.fxadd`: converted at issue (R84, R191, R193). -/
def execRedFxadd (a b : BitVec 6) (s : State) : Out :=
  onThread s (fun _ t =>
    let c := fxAddend .f64 (t.S b).toNat
    redOp s a 12 16 c.1 c.2)

/-- Whether scope sc of a context covers a home, for an issuing core (R180). -/
def State.covers (s : State) (ctx core sc : Nat) (h : HomeAt) : Bool :=
  match sc with
  | 0 => false
  | 1 => h == .pad core
  | 2 => match h with | .pad k => k / 4 == core / 4 | _ => false
  | 3 => match h with | .pad k => k / 96 == core / 96 | .slice ch => ch / 128 == core / 96 | _ => false
  | 4 => match h with | .pad _ => true | .slice _ => true | _ => false
  | 5 => h != .host
  | 6 => true
  | n =>
    match (look s.ctxs ctx).bind (fun c => look c.scopes n) with
    | none => false
    | some e =>
      match h with
      | .pad k => e.cores.getLsbD k
      | .slice ch => (e.cores >>> (96 * (ch / 128))).setWidth 96 != 0#96
      | .host => e.host
      | .remote => false

/-- Where a reduction is performed, none where its address leads nowhere: a line of the host tier counts as host memory, which
scope 6 and HOST cover (DEDUCED, log 12). -/
def State.redHome (s : State) (r : Red) : Option HomeAt :=
  match s.place r.ctx r.addr with
  | .byte pa => some (if isHost pa then .host else .slice (pa / 2 ^ 48))
  | .remote _ => some .remote
  | _ => none

/-- Whether an attached engine operation of the thread whose destination a scope covers is unfinished (R182, R194): a copy
record, taken or still to be reached; an MX store that the scalar sequencer's operations count (R195). -/
def State.fenceWaits (s : State) (tid : Nat) (t : Thread) (sc : Nat) : Bool :=
  let core := coreOf tid
  let cov : HomeAt → Bool := s.covers t.ctx core sc
  s.chans.any (fun c => c.2.chains.any (fun h => h.uid == t.uid
    && (s.attachedOf h).any (fun raw => (s.recordHomes h raw).any cov)))
  || (s.coreAt core).mx.any (fun o => o.uid == t.uid && o.party == .scalar && (match o.kind with
      | .mst _ _ _ => cov (.pad core)
      | .mstx _ _ _ _ => o.owned.any (fun l => cov (lineHome core l))
      | _ => false))

/-- `fence.fence` (R194): the scalar sequencer's reductions that the scope covers are performed and its covered engine
operations done before it completes; those of a gang count from `lane.lwait` on (R195). -/
def execFenceFence (sc : BitVec 6) (s : State) : Out :=
  onThread s (fun tid t =>
    if 31 < sc.toNat then faultOut s tid (scalarF t 0x01 0 0)
    else
      let mine (r : Red) : Bool := r.uid == t.uid && r.party == .scalar
      let reds := (s.postedBy t.uid).filter (fun r => r.party == .scalar && (match s.redHome r with
        | some h => s.covers t.ctx (coreOf tid) sc.toNat h
        | none => sc != 0))
      let x := s.performAll reds
      if x.2 && !x.1.fenceWaits tid t sc.toNat
          && !(x.1.flows.any (fun f => f.2.reds.any mine) && x.1.covers t.ctx (coreOf tid) sc.toNat .remote) then
        .next (x.1.onLive tid Thread.step4)
      else .next (x.1.hold tid .scalar .stall))

/-- A line that an instruction prefetches (R160, R196): its number and the sectors asked for. -/
structure PrefLine where
  vline   : Nat
  sectors : BitVec 4
  deriving DecidableEq, Repr

/-- A prefetch sent to its home slice's queue (R160, R161, R196): dropped where no translation is or the line is poisoned;
none where the queue is full. -/
def State.sendPref (s : State) (tid : Nat) (t : Thread) (p : PrefLine) (l1 : Bool) : Option State :=
  let va := p.vline * 128
  match s.place t.ctx va with
  | .byte pa =>
    if s.poisoned (pa / 128 * 128) 128 then some s
    else
      let ch := s.homeOf t.ctx va
      let q := s.sliceAt ch
      if Config.requestQueue ≤ q.reqs.length then none
      else
        let r : MemReq := { who := none, core := coreOf tid, pts := s.pts (coreOf tid), ctx := t.ctx, asid := s.asidOf t.ctx,
                            vline := p.vline, sectors := p.sectors, l1 }
        some { s with slices := put s.slices ch { q with reqs := q.reqs ++ [r] } }
  | _ => some (s.walkRas t.ctx va)

/-- Prefetches sent in turn (R160), and whether all have left: none leaves past one that a full queue holds. The count is
of those that left. -/
def State.sendPrefs (s : State) (tid : Nat) (t : Thread) (l1 : Bool) : List PrefLine → State × Nat × Bool
  | [] => (s, 0, true)
  | p :: r =>
    match s.sendPref tid t p l1 with
    | some s =>
      let y := s.sendPrefs tid t l1 r
      (y.1, y.2.1 + 1, y.2.2)
    | none => (s, 0, false)

/-- A party's prefetches sent behind what the core's port holds (R160): those not sent yet, until the party completes; held
at the port, with what has left, where a queue is full. -/
def prefOut (s : State) (tid : Nat) (t : Thread) (p : Party) (l1 : Bool) (ls : List PrefLine) (done : State → Out) : Out :=
  let n := (t.sentBefore p).1
  if s.portHeld (coreOf tid) || s.ptsFull then .next (s.hold tid p (if n = 0 then .stall else .port n []))
  else
    let x := s.sendPrefs tid t l1 (ls.drop n)
    if x.2.2 then done x.1 else .next (x.1.hold tid p (.port (n + x.2.1) []))

/-- `cache.pref` (R196): a hint, which leaves for the slice and changes no value; dropped outside the declared ranges. -/
def execCachePref (a l : BitVec 6) (s : State) : Out :=
  onMemory s (fun tid t =>
    if 1 < l.toNat then faultOut s tid (scalarF t 0x01 0 0)
    else
      let va := (t.S a).toNat
      let ls : List PrefLine :=
        if inRanges t.ranges va 1 .read then [{ vline := va / 128, sectors := sectorMask va 1 }] else []
      prefOut s tid t .scalar (l == 0) ls (fun s => .next (s.onLive tid Thread.step4)))

/-- A line dropped from the L1 and the instruction caches of every core of a partition (R43, R197). -/
def State.purgeLine (s : State) (part : Nat) (asid : BitVec 16) (vline : Nat) : State :=
  let p := s.partAt part
  { s with cores := s.cores.map (fun c =>
      if p.quads.getLsbD (quadOfCore c.1) then
        (c.1, { c.2 with
          l1 := c.2.l1.filter (fun l => !(l.asid == asid && l.vline == vline))
          sicache := c.2.sicache.filter (fun l => !(l.asid == asid && l.vline == vline))
          licache := c.2.licache.filter (fun l => !(l.asid == asid && overlaps l.va l.bytes.length (vline * 128) 128)) })
      else c) }

/-- `cache.evict` (R197). -/
def execCacheEvict (a : BitVec 6) (s : State) : Out :=
  onMemory s (fun tid t =>
    let va := t.S a &&& ~~~127#64
    match s.check t va 1 .read false with
    | some f => faultOut s tid (scalarF t f va 0)
    | none =>
      let purge (s : State) : Out :=
        .next ((s.purgeLine (partOfCtx t.ctx) (s.asidOf t.ctx) (va.toNat / 128)).onLive tid Thread.step4)
      match s.place t.ctx va.toNat with
      | .byte pa =>
        if s.ownedByte pa || s.ptsFull || s.portHeld (coreOf tid) then .next (s.hold tid .scalar .stall)
        else purge (s.dropLine (pa / 128))
      | _ => purge s)

/-- A memory instruction whose request leaves at once by its core's issue port, behind what is held there (R160, R205). -/
def onPort (s : State) (k : Nat → Thread → Out) : Out :=
  onMemory s (fun tid t => if s.portHeld (coreOf tid) || s.ptsFull then .next (s.hold tid .scalar .stall) else k tid t)

/-- `cache.evstep` (R198). -/
def execCacheEvstep (d a : BitVec 6) (s : State) : Out :=
  onPort s (fun tid t =>
    match look s.ctxs t.ctx with
    | some c =>
      let e := c.evstep + (t.S a).setWidth 32
      .next ((s.setCtx t.ctx { c with evstep := e }).onLive tid (fun t => (t.setS d (e.setWidth 64)).dirty.step4))
    | none => .next (s.onLive tid (fun t => (t.setS d ((t.S a).setWidth 32 |>.setWidth 64)).dirty.step4)))

/-- `conf.evset` (R166, R199). -/
def execConfEvset (a b : BitVec 6) (s : State) : Out :=
  onMemory s (fun tid t =>
    if 64 ≤ (t.S a).toNat ∨ 2 ^ 34 ≤ (t.S b).toNat then faultOut s tid (scalarF t 0x01 0 0)
    else if s.portHeld (coreOf tid) || s.ptsFull then .next (s.hold tid .scalar .stall)
    else
      let s := match look s.ctxs t.ctx with
        | some c => s.setCtx t.ctx { c with sched := put c.sched (t.S a).toNat (t.S b) }
        | none => s
      .next (s.onLive tid (fun t => t.dirty.step4)))

end Sys2Proof.Machine
end

