-- ==== Sys2Proof/Machine/LaneMem.lean ====
section
/-! DEFINITION. Sys2Proof/Machine/LaneMem.lean: the VM group (R200-R204): lane loads, stores, atomics, reductions and
prefetches, with the aggregation of R82. -/

namespace Sys2Proof.Machine

/-- The first lane that fails Check, with the code and the address (R42, R201). -/
def State.vmCheck (s : State) (t : Thread) (n : Nat) (k : Kind) : List (Nat × Word) → Option (Nat × Nat × Word)
  | [] => none
  | (l, va) :: r =>
    match s.check t va n k true with
    | some c => some (l, c, va)
    | none => s.vmCheck t n k r

/-- A lane's access with its address. -/
structure LaneAt where
  lane : Nat
  va   : Nat
  deriving DecidableEq, Repr

/-- The first lane whose address leads to no byte, with the code (R42, R190). -/
def State.vmLost (s : State) (ctx : Nat) : List (Nat × Word) → Option (Nat × Nat × Word)
  | [] => none
  | (l, va) :: r =>
    match s.reach ctx va.toNat with
    | .fault c => some (l, c, va)
    | _ => s.vmLost ctx r

/-- The thread's own reductions to what the lanes access performed first (R182). -/
def State.ownFirstAll (s : State) (tid : Nat) (t : Thread) (n : Nat) : List (Nat × Word) → Option State
  | [] => some s
  | (_, va) :: r =>
    match s.ownFirst tid t va.toNat n with
    | some s => s.ownFirstAll tid t n r
    | none => none

/-- Lane accesses in the order of their line requests (R201, R203): ascending line, then lane. -/
def lineOrder (ps : List LaneAt) : List LaneAt :=
  sortBy (fun a b => decide (a.va / 128 < b.va / 128) || (a.va / 128 == b.va / 128 && decide (a.lane ≤ b.lane))) ps

/-- The lines of ordered accesses, each with its accesses, by fuel. -/
def byLine : Nat → List LaneAt → List (List LaneAt)
  | 0, _ => []
  | _ + 1, [] => []
  | f + 1, p :: r =>
    let same := fun (q : LaneAt) => q.va / 128 == p.va / 128
    (p :: r.filter same) :: byLine f (r.filter (fun q => !same q))

/-- The line requests of a lane memory instruction (R160, R201): one for each line its lanes touch, ascending, each with the
accesses of its lanes. -/
def lineRequests (vas : List (Nat × Word)) : List (List LaneAt) :=
  byLine vas.length (lineOrder (vas.map (fun v => { lane := v.1, va := v.2.toNat })))

/-- The sectors of its line that a line request touches with accesses of n bytes (R160). -/
def requestMask (n : Nat) (ps : List LaneAt) : BitVec 4 := ps.foldl (fun m p => m ||| sectorMask p.va n) 0

/-- What a line request comes to: performed, with what it returned by lane; a fault of a lane; or a wait at its home. -/
inductive LineOut where
  | done (s : State) (got : List (Nat × Nat × FFlags))
  | fault (lane code : Nat) (va : Word)
  | wait

/-- Line requests performed in turn (R201), at most as many as a turn may perform: the machine they leave, how many have been
performed, what they returned, and how the last one ended that was not. -/
def runLines (f : State → List LaneAt → LineOut) : Option Nat → State → List (List LaneAt) →
    State × Nat × List (Nat × Nat × FFlags) × Option LineOut
  | _, s, [] => (s, 0, [], none)
  | some 0, s, _ :: _ => (s, 0, [], some .wait)
  | m, s, ps :: r =>
    match f s ps with
    | .done s got =>
      let y := runLines f (m.map (· - 1)) s r
      (y.1, y.2.1 + 1, got ++ y.2.2.1, y.2.2.2)
    | e => (s, 0, [], some e)

/-- A memory instruction of a gang (R205): it waits while the thread's store buffer is full. -/
def onGangMem (s : State) (fn : BitVec 8) (o : LaneOps) (k : Nat → Thread → Nat → List Nat → Out) : Out :=
  onGangFirst s 0x70 fn o (fun tid t g _ =>
    if Config.storeBuffer ≤ t.redBuf.length then some (laneHold s tid g) else none) k

/-- A global VM access (R201, R204): every active lane checked before any takes effect, then its line requests by `f`, each one
access of its own, those of earlier turns left out; when all are performed, `k` of the lanes' results. -/
def vmGlobal (s : State) (tid : Nat) (t : Thread) (g n : Nat) (kind : Kind) (vas : List (Nat × Word))
    (f : State → List LaneAt → LineOut) (k : State → List (Nat × Nat × FFlags) → Out) : Out :=
  let before := t.sentBefore (.gang g)
  let rs := (lineRequests vas).drop before.1
  let left := vas.filter (fun v => rs.any (fun ps => ps.any (fun p => p.lane == v.1)))
  let wait (s : State) (sent : Nat) (got : List (Nat × Nat × FFlags)) (vs : List Nat) : Out :=
    .next (s.await tid t (.gang g) t.ctx sent got vs)
  match s.vmCheck t n kind left with
  | some (l, c, va) => faultOut s tid (gangF t g c l va 0)
  | none =>
    match s.ownFirstAll tid t n left with
    | none => wait s before.1 before.2 []
    | some s =>
      match s.vmLost t.ctx left with
      | some (l, c, va) => faultOut s tid (gangF t g c l va 0)
      | none =>
        let x := runLines f s.cur.lines s rs
        let got := before.2 ++ x.2.2.1
        match x.2.2.2 with
        | none => k x.1 (sortBy (fun a b => decide (a.1 ≤ b.1)) got)
        | some (.fault l c va) => faultOut x.1 tid (gangF t g c l va 0)
        | some _ => wait x.1 (before.1 + x.2.1) got ((((rs.drop x.2.1).headD []).map (fun p => p.va)).take 1)

/-- The uniform base of a VM instruction with its offset (R201). -/
def vmBase (t : Thread) (ls : List Nat) (o : LaneOps) : Word := word (t.uniform ls o.a 64) + o.im.signExtend 64

/-- Addresses of consecutive elements (R201). -/
def vmRow (t : Thread) (ls : List Nat) (o : LaneOps) (e : Nat) : List (Nat × Word) :=
  ls.map (fun l => (l, vmBase t ls o + word (e * l)))

/-- Addresses by index (R201). -/
def vmIndexed (t : Thread) (ls : List Nat) (o : LaneOps) : List (Nat × Word) :=
  ls.map (fun l => (l, vmBase t ls o
    + ((BitVec.ofNat 32 (t.laneRead l o.b 32)).signExtend 64 <<< (o.md.extractLsb' 0 2).toNat)))

/-- Bytes of an element of a type. -/
def elemBytes (ty : BitVec 4) : Nat := tyWidth ty / 8

/-- A line request of a load of n bytes by each lane (R160, R201): one read of the sectors its lanes touch, POISON where a
lane's bytes are poisoned; `give` says what a lane takes from the bytes read, with the flags it raises. A read that is not
`cached` is performed at the home, past the L1 (R85). -/
def loadLine (core ctx n : Nat) (cached : Bool) (give : Nat → Nat × FFlags) (s : State) (ps : List LaneAt) : LineOut :=
  match ps with
  | [] => .done s []
  | p :: _ =>
    let m := requestMask n ps
    match s.source (if cached then .core core else .unit 0) ctx p.va m with
    | .fault c => .fault p.lane c (word p.va)
    | .wait => .wait
    | .ok src =>
      match ps.find? (fun q => s.spoiled n (src.moved p.va q.va)) with
      | some q => .fault q.lane 0x07 (word q.va)
      | none =>
        .done (s.loaded (.core core) ctx p.va m src)
          (ps.map (fun q => (q.lane, give (leNat (s.given q.va n (src.moved p.va q.va))))))

/-- A VM load: one read for each line, the raw bits to D (R201). -/
def vmLoad (s : State) (fn : BitVec 8) (o : LaneOps) (addr : Thread → List Nat → List (Nat × Word)) : Out :=
  onGangMem s fn o (fun tid t g ls =>
    let n := elemBytes o.ty
    vmGlobal s tid t g n .read (addr t ls) (loadLine (coreOf tid) t.ctx n true (fun x => (x, 0))) (fun s got =>
      laneDoneOn s tid t g [] (fun t => t.writeTy o.ty o.d (got.map (fun r => (r.1, r.2.1))))))

/-- `vm.ld` (R200, R201). -/
def execVmLd (o : LaneOps) (s : State) : Out := vmLoad s 0x00 o (fun t ls => vmRow t ls o (elemBytes o.ty))
/-- `vm.ldx` (R200, R201). -/
def execVmLdx (o : LaneOps) (s : State) : Out := vmLoad s 0x02 o (fun t ls => vmIndexed t ls o)

/-- Whether writes of n bytes cover a 32-byte sector whole. -/
def coversSector (n : Nat) (starts : List Nat) (x : Nat) : Bool :=
  (upFrom (32 * x) 32).all (fun b => starts.any (fun a => decide (a ≤ b) && decide (b < a + n)))

/-- One line request of a store (R160, R201): stamped once, after the party's store before it (R176); sectors it covers
whole lose their poison (R190), later lanes over earlier ones. -/
def storeLine (tid : Nat) (t : Thread) (n : Nat) (val : Nat → Nat) (s : State) (ps : List LaneAt) : LineOut :=
  match ps with
  | [] => .done s []
  | p :: _ =>
    match s.reach t.ctx p.va with
    | .fault c => .fault p.lane c (word p.va)
    | .wait => .wait
    | .ok pa =>
      let at' (q : LaneAt) : Nat := pa - p.va % 128 + q.va % 128
      let s := s.writeTouch (.core (coreOf tid)) t.ctx p.va pa (s.storeBefore tid t)
      let s : State := { s with
        poison := s.poison.filter (fun x => !coversSector n (ps.map at') x)
        mem := ps.foldl (fun m q => Mem.writeN m (at' q) n (val q.lane)) s.mem }
      .done (s.markStore tid t p.va) []

/-- A VM store (R201). -/
def vmStore (s : State) (fn : BitVec 8) (o : LaneOps) (code : BitVec 8) (addr : Thread → List Nat → List (Nat × Word)) : Out :=
  onGangMem s fn o (fun tid t g ls =>
    let n := elemBytes o.ty
    vmGlobal s tid t g n .write (addr t ls) (storeLine tid t n (fun i => t.operand i code o.ty)) (fun s _ =>
      laneDoneOn s tid t g [] Thread.dirty))

/-- `vm.st` (R200, R201). -/
def execVmSt (o : LaneOps) (s : State) : Out := vmStore s 0x01 o o.b (fun t ls => vmRow t ls o (elemBytes o.ty))
/-- `vm.stx` (R200, R201). -/
def execVmStx (o : LaneOps) (s : State) : Out := vmStore s 0x03 o o.c (fun t ls => vmIndexed t ls o)

/-- The scratchpad offset of a lane (R201). -/
def vmOffset (t : Thread) (o : LaneOps) (l : Nat) : Int := (t.laneRead l o.a 32 : Int) + sext o.im.toNat 32

/-- The check of a scratchpad access (R201) in the order of R42: MISALIGN, RANGE, then QCB_STORE for a store. -/
def scratchCheck (c : Cohort) (off : Int) (n : Nat) (store : Bool) : Option Nat :=
  if off % n ≠ 0 then some 0x04
  else if off < 0 ∨ (c.spsize : Int) < off + n then some 0x05
  else if store && c.hitsQcb off.toNat n then some 0x09
  else none

/-- A scratchpad access of a gang: its active lanes checked, then what `k` does at their offsets. -/
def vmScratch (s : State) (fn : BitVec 8) (o : LaneOps) (store : Bool)
    (k : Nat → Thread → Nat → Cohort → List (Nat × Nat) → Out) : Out :=
  onGangMem s fn o (fun tid t g ls =>
    let n := elemBytes o.ty
    match look s.cohorts t.cohort with
    | none => faultOut s tid (gangF t g 0x05 (ls.headD 0xFF) 0 0)
    | some c =>
      match ls.findSome? (fun l => (scratchCheck c (vmOffset t o l) n store).map (fun f => (l, f))) with
      | some (l, f) => faultOut s tid (gangF t g f l (wordI (vmOffset t o l)) 0)
      | none =>
        let offs := ls.map (fun l => (l, (vmOffset t o l).toNat))
        if offs.any (fun p => s.scratchOwned c p.2 n) then laneHold s tid g
        else k tid t g c offs)

/-- `vm.sld` (R200, R201). -/
def execVmSld (o : LaneOps) (s : State) : Out :=
  vmScratch s 0x04 o false (fun tid t g c offs =>
    let n := elemBytes o.ty
    match offs.find? (fun p => c.poisoned p.2 n) with
    | some p => faultOut s tid (gangF t g 0x07 p.1 (word p.2) 0)
    | none =>
      laneDone s tid t (t.writeTy o.ty o.d (offs.map (fun p => (p.1, c.scratch.readN p.2 n)))) g [])

/-- `vm.sst` (R200, R201). -/
def execVmSst (o : LaneOps) (s : State) : Out :=
  vmScratch s 0x05 o true (fun tid t g _ offs =>
    let n := elemBytes o.ty
    match look s.cohorts t.cohort with
    | none => laneHold s tid g
    | some c =>
      let scratch := offs.foldl (fun r p => r.writeBytes p.2 (leBytes n (t.operand p.1 o.b o.ty))) c.scratch
      let spoison := c.spoison.filter (fun x => !coversSector n (offs.map Prod.snd) x)
      laneDone (s.setCohort t.cohort { c with scratch, spoison }) tid t t.dirty g [])

/-- OPR of vm.atom and vm.red (R202). -/
def vmOpr (o : LaneOps) : Nat := o.md.toNat / 4

/-- The comparand of a lane's cas: D's value before the write (R202); a block result where D names one (log 20). -/
def vmComparand (t : Thread) (o : LaneOps) (l : Nat) : Nat :=
  if 0xF8 ≤ o.d.toNat then (t.y.get64 (o.d.toNat - 0xF8)).toNat % 2 ^ tyWidth o.ty else t.operand l o.d o.ty

/-- Integer, bitwise, swap and cas lanes of one address in ascending lane order (R82): what each receives, and what
memory holds after the last. -/
def atomChain (op w : Nat) : Nat → List (Nat × Nat × Nat) → List (Nat × Nat) × Nat
  | m, [] => ([], m)
  | m, (l, x, cmp) :: r =>
    let y := atomChain op w (atomNew op w m x cmp).1 r
    ((l, m) :: y.1, y.2)

/-- fadd lanes of one address (R82): the running sum P from +0, what each lane receives with the flags its roundings
raise, and what memory becomes. -/
def faddChain (f : Fmt) (m : Nat) : Bool → Nat → List (Nat × Nat) → List (Nat × Nat × FFlags) × Nat
  | _, p, [] => ([], (addF f m p).1)
  | first, p, (l, x) :: r =>
    let got := if first then (m, (0 : FFlags)) else addF f m p
    let p' := addF f p x
    let last := if r.isEmpty then (addF f m p'.1).2 else 0
    let y := faddChain f m false p'.1 r
    ((l, got.1, got.2 ||| p'.2 ||| last) :: y.1, y.2)

/-- One aggregated access of the lanes that name one address (R203): the old values with flags, and the new memory
value. A lane that names its address alone makes a plain atomic (R192). -/
def atomGroup (op : Nat) (ty : BitVec 4) (m : Nat) (ls : List (Nat × Nat × Nat)) : List (Nat × Nat × FFlags) × Nat :=
  match op, ls with
  | 10, [(l, x, _)] => ([(l, m, (addF (Fmt.ofTy ty.toNat) m x).2)], (addF (Fmt.ofTy ty.toNat) m x).1)
  | 10, [] => ([], m)
  | 10, ls => faddChain (Fmt.ofTy ty.toNat) m true 0 (ls.map (fun x => (x.1, x.2.1)))
  | _, ls =>
    let y := atomChain op (tyWidth ty) m ls
    (y.1.map (fun p => (p.1, p.2, 0)), y.2)

/-- Ordered accesses grouped by address, by fuel (R82). -/
def byAddress : Nat → List LaneAt → List (List LaneAt)
  | 0, _ => []
  | _ + 1, [] => []
  | f + 1, p :: r => (p :: r.filter (fun q => q.va == p.va)) :: byAddress f (r.filter (fun q => q.va != p.va))

/-- The atomics of one line request performed in turn (R203): one for each address, at the byte `at'` gives it. -/
def State.atomAll (s : State) (core : Nat) (t : Thread) (o : LaneOps) (at' : LaneAt → Nat) : List (List LaneAt) →
    State × List (Nat × Nat × FFlags)
  | [] => (s, [])
  | [] :: r => s.atomAll core t o at' r
  | (p :: ps) :: r =>
    let n := elemBytes o.ty
    let m := Mem.readN s.mem (at' p) n
    let x := atomGroup (vmOpr o) o.ty m ((p :: ps).map (fun q => (q.lane, t.operand q.lane o.c o.ty, vmComparand t o q.lane)))
    let s := s.writeTouch (.core core) t.ctx p.va (at' p) none
    let y := { s with mem := Mem.writeN s.mem (at' p) n x.2 }.atomAll core t o at' r
    (y.1, x.1 ++ y.2)

/-- One line request of a `vm.atom` (R203): POISON where a lane's bytes are poisoned, else the atomics of its lanes. -/
def atomLine (core : Nat) (t : Thread) (o : LaneOps) (s : State) (ps : List LaneAt) : LineOut :=
  match ps with
  | [] => .done s []
  | p :: _ =>
    match s.reach t.ctx p.va with
    | .fault c => .fault p.lane c (word p.va)
    | .wait => .wait
    | .ok pa =>
      let at' (q : LaneAt) : Nat := pa - p.va % 128 + q.va % 128
      match ps.find? (fun q => s.poisoned (at' q) (elemBytes o.ty)) with
      | some q => .fault q.lane 0x07 (word q.va)
      | none =>
        let y := s.atomAll core t o at' (byAddress ps.length ps)
        .done y.1 y.2

/-- `vm.atom` (R202, R203). -/
def execVmAtom (o : LaneOps) (s : State) : Out :=
  onGangMem s 0x06 o (fun tid t g ls =>
    let core := coreOf tid
    let vas := vmIndexed t ls o
    let done (clean : Bool) (s : State) (r : List (Nat × Nat × FFlags)) : Out :=
      laneDoneOn s tid t g (r.map (fun p => (p.1, p.2.2))) (fun t =>
        let t := t.writeTy o.ty o.d (r.map (fun p => (p.1, p.2.1)))
        if clean then t else t.dirty)
    if vmOpr o = 11 then
      vmGlobal s tid t g 16 .read vas (loadLine core t.ctx 16 false (fxRead (Fmt.ofTy o.ty.toNat))) (done true)
    else vmGlobal s tid t g (elemBytes o.ty) .atomic vas (atomLine core t o) (done false))

/-- `vm.red` (R193, R202, R203): posted in ascending lane order, each lane's reduction in an entry of the store buffer
(R205). -/
def execVmRed (o : LaneOps) (s : State) : Out :=
  onGangMem s 0x07 o (fun tid t g ls =>
    let op := vmOpr o
    let n := if op = 12 then 16 else elemBytes o.ty
    let vas := vmIndexed t ls o
    match s.vmCheck t n .atomic vas with
    | some (l, c, va) => faultOut s tid (gangF t g c l va 0)
    | none =>
      if Config.storeBuffer < t.redBuf.length + ls.length then laneHold s tid g
      else
        let mk (p : Nat × Word) : Red × FFlags :=
          let x := t.operand p.1 o.c o.ty
          let c := if op = 12 then fxAddend (Fmt.ofTy o.ty.toNat) x else (x, (0 : FFlags))
          (t.red tid (.gang g) p.1 (lanePc (t.gangPc g)) p.2 op n c.1, c.2)
        let rs := vas.map (fun p => (p.1, mk p))
        laneDoneOn s tid t g (rs.map (fun r => (r.1, r.2.2))) (fun t =>
          { t.dirty with redBuf := t.redBuf ++ rs.map (fun r => r.2.1) }))

/-- The lines that a `vm.pref` names inside the declared ranges (R160, R196), ascending, each with the sectors touched. -/
def prefLines (rs : List Range) (vas : List (Nat × Word)) : List PrefLine :=
  let vs := (vas.map (fun p => p.2.toNat)).filter (fun v => inRanges rs v 1 .read)
  let lines := sortBy (fun a b => decide (a ≤ b)) (vs.map (fun v => v / 128)).eraseDups
  lines.map (fun l => { vline := l,
                        sectors := (vs.filter (fun v => v / 128 == l)).foldl (fun m v => m ||| sectorMask v 1) 0 })

/-- `vm.pref` (R196, R201): a hint, which makes no check. -/
def execVmPref (o : LaneOps) (s : State) : Out :=
  onGangMem s 0x08 o (fun tid t g ls =>
    prefOut s tid t (.gang g) true (prefLines t.ranges (vmIndexed t ls o)) (fun s => laneDoneOn s tid t g [] id))

end Sys2Proof.Machine
end

