-- ==== Sys2Proof/Machine/LaneQueue.lean ====
section
/-! DEFINITION. Sys2Proof/Machine/LaneQueue.lean: the LQ group (R222-R224): one queue operation of as many elements as
the gang has active lanes. -/

namespace Sys2Proof.Machine

/-- The element of a lane: n words of its register run (R222). -/
def laneElem (t : Thread) (l run n : Nat) : List Byte :=
  (upFrom 0 n).flatMap (fun j => leBytes 4 (t.v.get32 (vKey l (run + j))).toNat)

/-- The checks of R223 on the element run and the count: OPERAND_RANGE past v247, POOL past VREGS, OPERAND_RANGE past CAP. The
first is R223's own rule for registers that do not exist; behind POOL, as R42 would have it, it could never be met (DEDUCED,
log 20). -/
def lqCheck (t : Thread) (run n m cap : Nat) : Option Nat :=
  if 0xF7 < run + n - 1 then some 0x0D
  else if t.vregs ≤ run + n - 1 then some 0x0F
  else if cap < m then some 0x0D
  else none

/-- What comes before the registers are checked (R42, R223): with no active lane there is no effect; a queue of another
partition or out of SCOPE, or a pop that only an engine may make, faults with PRIV. -/
def lqFirst (s : State) (o : LaneOps) (fn : BitVec 8) (pop : Bool) (tid : Nat) (t : Thread) (g : Nat) (ls : List Nat) : Option Out :=
  if ls.isEmpty then some (laneDone s tid t t g [])
  else
    let q := word (t.uniform ls o.a 64)
    match s.queueRef t q 64 with
    | .inr r =>
      if t.holds (fieldKinds 0xA0 fn o).2.1 o.a && (s.queuePriv tid t r || (pop && s.engineOnly r)) then
        some (faultOut s tid (gangF t g 0x14 0xFF q 0))
      else none
    | .inl _ => none

/-- `lq.qpushv` (R222-R224): a release of the gang's party, one waiter of m elements. A check of its uniform operands fails for
no one lane: its record names lane 0xFF (R388; DEDUCED, log 20), that of POISON the lowest active one. -/
def execLqQpushv (o : LaneOps) (s : State) : Out :=
  onGangFirst s 0xA0 0x00 o (lqFirst s o 0x00 false) (fun tid t g ls =>
    let q := word (t.uniform ls o.a 64)
    let p : Party := .gang g
    let run := o.b.toNat
    match s.remoteHandle t q with
    | some h =>
      let n := remoteEsize h q / 4
      match lqCheck t run n 0 0 with
      | some f => faultOut s tid (gangF t g f 0xFF q 0)
      | none =>
        let y := s.release t.uid
        if !y.2 then laneHold y.1 tid g
        else
          let es := ls.map (fun l => laneElem t l run n)
          sendRemote (y.1.onLive tid Thread.dirty) tid t p h q (.pushv o s.cur.len ls es) (2 :: es.flatMap bytesWords)
    | none =>
      withIntact s tid t p q (fun r _ bk =>
        let n := qEsize bk / 4
        match lqCheck t run n ls.length (qCap bk) with
        | some f => faultOut s tid (gangF t g f 0xFF q 0)
        | none =>
          if qClosed bk then faultOut s tid (gangF t g 0x0A 0xFF q 0)
          else
            let y := s.release t.uid
            if !y.2 then laneHold y.1 tid g
            else
              let es := ls.map (fun l => laneElem t l run n)
              atHome y.1 tid t p r true ls.length none (fun s =>
                homeDone (s.homePush r (.core (coreOf tid)) es) tid t p q (fun s ans =>
                  match ans with
                  | .many ps _ _ => laneDoneOn s tid t g [] (fun t => (t.pushvDeliver o ls ps).dirty)
                  | .closed => faultOut s tid (gangF t g 0x0A 0xFF q 0)
                  | _ => queueWait s tid r true p (.pushv o s.cur.len ls es)))))

/-- Whether the home has answered a gang's waiting pop with poisoned data (R221). -/
def Thread.gangPoisoned (t : Thread) (g : Nat) : Bool :=
  (t.gangSlices g).any (fun i => match t.sl[i]? with
    | some x => match x.wait with | some (.deliver _ _ _ _ p) => p | _ => false
    | none => false)

/-- `lq.qpopv` (R222, R223): all or nothing of an open queue, what is left of a closed one; the lane its records name is as for
`lq.qpushv`. -/
def execLqQpopv (o : LaneOps) (s : State) : Out :=
  onGangFirst s 0xA0 0x01 o (lqFirst s o 0x01 true) (fun tid t g ls =>
    let q := word (t.uniform ls o.a 64)
    if t.gangPoisoned g then faultOut s tid (gangF t g 0x07 (ls.headD 0xFF) q 0)
    else
      let p : Party := .gang g
      withIntact s tid t p q (fun r _ bk =>
        match lqCheck t o.d.toNat (qEsize bk / 4) ls.length (qCap bk) with
        | some f => faultOut s tid (gangF t g f 0xFF q 0)
        | none =>
          atHome s tid t p r false ls.length none (fun s =>
            homeDone (s.homePop r (.core (coreOf tid)) ls.length) tid t p q (fun s ans =>
              match ans with
              | .many _ es poison =>
                if poison then faultOut s tid (gangF t g 0x07 (ls.headD 0xFF) q 0)
                else laneDoneOn s tid t g [] (fun t => (t.popvDeliver o ls es).dirty)
              | .closed => laneDoneOn s tid t g [] (fun t => (t.popvDeliver o ls []).dirty)
              | _ => queueWait s tid r false p (.popv o s.cur.len ls)))))

end Sys2Proof.Machine
end

