-- ==== Sys2Proof/Machine/MemEvents.lean ====
section
/-! DEFINITION. Sys2Proof/Machine/MemEvents.lean: the steps of the memory hierarchy that no instruction takes itself: a
slice's queue, its fills and their answers (R161), the rebase of the clocks (R178), the combiner (R181, R205). -/

namespace Sys2Proof.Machine

/-- Whether a request's line stands in its slice under any name (R186). -/
def State.reqHits (s : State) (r : MemReq) : Bool :=
  match s.place r.ctx (r.vline * 128) with
  | .byte pa => (look s.l2 (pa / 128)).isSome
  | _ => true

/-- Whether an engine owns a request's line (R183). -/
def State.reqOwned (s : State) (r : MemReq) : Bool :=
  match s.place r.ctx (r.vline * 128) with
  | .byte pa => s.ownedByte pa
  | _ => false

/-- A prefetch performed at its home and answered (R161, R175); one whose address leads nowhere by now is dropped
(R196). A line that an engine owns gives no lease (R183, log 9). -/
def State.serveReq (s : State) (r : MemReq) : State :=
  let va := r.vline * 128
  match s.place r.ctx va with
  | .byte pa =>
    let short := s.noLease r.ctx va pa || s.ownedByte pa
    let s := s.fillLine r.ctx va pa (dieOfCore r.core)
    match look s.l2 (pa / 128) with
    | some l =>
      let t := max r.pts l.wts
      let e := if short then t else max l.rts (t + (s.partAt (partOfCtx r.ctx)).lease)
      let s : State := { s with l2 := put s.l2 (pa / 128) { l with rts := max l.rts e } }
      let c := s.coreAt r.core
      let m : MemResp := { asid := r.asid, vline := r.vline, sectors := r.sectors, t,
                           lease := if r.l1 && !short then some e else none,
                           bytes := Mem.readBytes s.mem (pa / 128 * 128) 128 }
      s.setCore r.core { c with responses := c.responses ++ [m] }
    | none => s
  | _ => s

/-- Whether a thread's party waits with an access in flight. -/
def Thread.accessing (t : Thread) : Party → Bool
  | .scalar => (progress t.wait).isSome
  | .gang g => (t.gangSlices g).any (fun i => (t.sl[i]?).any (fun x => (progress x.wait).isSome))

/-- Whether a request still has its party, which can issue; a prefetch needs none. -/
def State.reqLive (s : State) (r : MemReq) : Bool :=
  match r.who with
  | none => true
  | some w =>
    (look s.threads w.tid).any (fun t => t.uid == w.uid && !t.ended && t.accessing w.party && s.canRun t.ctx
      && !(s.gated && w.party != .scalar))

/-- Whether a request leaves its slice with nothing performed (R161): its party has gone, or an engine has come to own its line,
whose accesses wait at the home beside the queue (R183). -/
def State.reqGone (s : State) (r : MemReq) : Bool := r.who.isSome && (!s.reqLive r || s.reqOwned r)

/-- The event L2_SERVE_REQUEST (R161): slice `obj` takes its oldest request: a hit is performed, a prefetch here and an
access in its party's next turn; a miss moves to the miss buffer if that has room. -/
def execL2ServeRequest (s : State) : Out :=
  let ch := s.arg.obj
  let q := s.sliceAt ch
  match q.reqs with
  | [] => .next s
  | r :: rest =>
    let taken : State := { s with slices := put s.slices ch { q with reqs := rest } }
    if s.reqGone r then .next taken
    else if s.reqHits r then .next (if r.who.isSome then s else taken.serveReq r)
    else if q.misses.length < Config.missBuffer then
      .next { s with slices := put s.slices ch { reqs := rest, misses := q.misses ++ [r] } }
    else .next s

/-- The event L2_MISS_FILL (R161, R251): the channel of slice `obj` completes the fill of its oldest miss, which is performed,
an access in its party's next turn. -/
def execL2MissFill (s : State) : Out :=
  let ch := s.arg.obj
  let q := s.sliceAt ch
  match q.misses with
  | [] => .next s
  | r :: rest =>
    let taken : State := { s with slices := put s.slices ch { q with misses := rest } }
    if s.reqGone r then .next taken else .next (if r.who.isSome then s else taken.serveReq r)

/-- The event MEMORY_RESPONSE (R159, R176): the oldest answer for core `obj` arrives and raises its PTS. -/
def execMemoryResponse (s : State) : Out :=
  let n := s.arg.obj
  let c := s.coreAt n
  match c.responses with
  | [] => .next s
  | m :: rest =>
    let s := (s.setCore n { c with responses := rest }).ptsTo (.core n) m.t
    match m.lease with
    | some e =>
      .next (s.l1Fill n { asid := m.asid, vline := m.vline, sectors := m.sectors, lease := e, stamp := m.t, bytes := m.bytes })
    | none => .next s

/-- Whether every access in flight has been performed (R178). -/
def State.portsIdle (s : State) : Bool :=
  s.slices.all (fun q => q.2.reqs.isEmpty && q.2.misses.isEmpty) && s.cores.all (fun c => c.2.responses.isEmpty)

/-- The event PTS_REBASE (R178): every clock, a saved cohort's too, and every stamp is 0, and every lease is dropped. No
store follows one of before it (R176). -/
def execPtsRebase (s : State) : Out :=
  if s.ptsFull && s.portsIdle then
    .next { s with
      ptsBase := s.clk
      cores := s.cores.map (fun c => (c.1, { c.2 with pts := 0, l1 := [], lastSt := [] }))
      saved := s.saved.map (fun c => (c.1, { c.2 with pts := 0 }))
      l2 := s.l2.map (fun l => (l.1, { l.2 with wts := 0, rts := 0 })) }
  else .next s

/-- The first thread of a core with a reduction in its store buffer. -/
def State.redThread (s : State) (core : Nat) : Option (Nat × Thread) :=
  s.threads.find? (fun t => t.1 / 32 == core && !t.2.redBuf.isEmpty)

/-- Whether a request stands at a core's issue port, held by a full queue (R160). -/
def State.requestHeld (s : State) (core : Nat) : Bool :=
  s.threads.any (fun p => p.1 / 32 == core && s.canRun p.2.ctx && !p.2.ended
    && (atPort p.2.wait || p.2.sl.any (fun x => atPort x.wait)))

/-- The reduction of a core that its die's combiner takes next: one that a saved thread has left on its way (R403), else the
oldest of the first thread that has one. -/
def State.nextRed (s : State) (core : Nat) : Option Red :=
  ((s.coreAt core).posted.head?).or ((s.redThread core).bind (fun t => t.2.redBuf.head?))

/-- A core's next reduction leaves the way there, or its thread's store buffer. -/
def State.unpost (s : State) (core : Nat) : State :=
  let c := s.coreAt core
  match c.posted, s.redThread core with
  | _ :: rest, _ => s.setCore core { c with posted := rest }
  | [], some (tid, t) => s.setThread tid { t with redBuf := t.redBuf.tail }
  | [], none => s

/-- The event REDUCTION_COMBINER_ACCEPT (R160, R181, R205): the die's combiner takes the next reduction of core `obj`, which
frees its entry of the store buffer; none leaves past a request held at the core's port. -/
def execReductionCombinerAccept (s : State) : Out :=
  let n := s.arg.obj
  match s.nextRed n with
  | some r =>
    if (s.dieAt (dieOfCore n)).combiner.length < Config.combinerSize && !s.requestHeld n then
      let s := s.unpost n
      let d := s.dieAt (dieOfCore n)
      .next (s.setDie (dieOfCore n) { d with combiner := d.combiner ++ [r] })
    else .next s
  | none => .next s

/-- The first reduction of a combiner that its home takes, performed, with those before it kept. Reductions to one address are
never merged on the way, so that each adds to the location singly (DESIGN CHOICE, log 12). -/
def State.performFirst (s : State) (die : Nat) : List Red → Option State
  | [] => none
  | r :: rest =>
    let d := s.dieAt die
    match (s.setDie die { d with combiner := d.combiner.erase r }).performRed r with
    | some s => some s
    | none => s.performFirst die rest

/-- The event REDUCTION_PERFORM (R181, R193): a reduction of die `obj`'s combiner is performed at its home. -/
def execReductionPerform (s : State) : Out :=
  let die := s.arg.obj
  match s.performFirst die (s.dieAt die).combiner with
  | some s => .next s
  | none => .next s

end Sys2Proof.Machine
end

