-- ==== Sys2Proof/Machine/Scalar.lean ====
section
/-! DEFINITION. Sys2Proof/Machine/Scalar.lean: scalar integer arithmetic, immediates and control flow (R86-R93, R22). -/

namespace Sys2Proof.Machine

/-- 1 or 0. -/
def wordB (b : Bool) : Word := if b then 1 else 0

/-- shl by a 64-bit amount (R87). -/
def shlW (x n : Word) : Word := if n.toNat < 64 then x <<< n.toNat else 0
/-- shr by a 64-bit amount (R87). -/
def shrW (x n : Word) : Word := if n.toNat < 64 then x >>> n.toNat else 0
/-- sar by a 64-bit amount (R87). -/
def sarW (x n : Word) : Word := x.sshiftRight (min n.toNat 63)

/-- Signed quotient, truncated toward zero (R88). -/
def divW (a b : Word) : Word := if b = 0 then BitVec.allOnes 64 else a.sdiv b
/-- Signed remainder, with the sign of the dividend (R88). -/
def remW (a b : Word) : Word := if b = 0 then a else a.srem b
/-- Unsigned quotient (R88). -/
def divnW (a b : Word) : Word := if b = 0 then BitVec.allOnes 64 else a / b
/-- Unsigned remainder (R88). -/
def remnW (a b : Word) : Word := if b = 0 then a else a % b

/-- An INT instruction: one value of the operands written to d (R86). -/
def intOp (s : State) (d a b : BitVec 6) (f : Word → Word → Word) : Out :=
  onThread s (fun tid t => aluDone s tid t d (f (t.S a) (t.S b)))

/-- A unary INT instruction (R86). -/
def intOp1 (s : State) (d a : BitVec 6) (f : Word → Word) : Out :=
  onThread s (fun tid t => aluDone s tid t d (f (t.S a)))

/-- `int.add` (R87). -/
def execIntAdd (d a b : BitVec 6) (s : State) : Out := intOp s d a b (fun a b => a + b)

/-- `int.sub` (R87). -/
def execIntSub (d a b : BitVec 6) (s : State) : Out := intOp s d a b (fun a b => a - b)

/-- `int.mul` (R87). -/
def execIntMul (d a b : BitVec 6) (s : State) : Out := intOp s d a b (fun a b => a * b)

/-- `int.mulh` (R87). -/
def execIntMulh (d a b : BitVec 6) (s : State) : Out := intOp s d a b (fun a b => wordI (a.toInt * b.toInt / 2 ^ 64))

/-- `int.mulhn` (R87). -/
def execIntMulhn (d a b : BitVec 6) (s : State) : Out := intOp s d a b (fun a b => word (a.toNat * b.toNat / 2 ^ 64))

/-- `int.div` (R87, R88). -/
def execIntDiv (d a b : BitVec 6) (s : State) : Out := intOp s d a b (fun a b => divW a b)

/-- `int.divn` (R87, R88). -/
def execIntDivn (d a b : BitVec 6) (s : State) : Out := intOp s d a b (fun a b => divnW a b)

/-- `int.rem` (R87, R88). -/
def execIntRem (d a b : BitVec 6) (s : State) : Out := intOp s d a b (fun a b => remW a b)

/-- `int.remn` (R87, R88). -/
def execIntRemn (d a b : BitVec 6) (s : State) : Out := intOp s d a b (fun a b => remnW a b)

/-- `int.and` (R87). -/
def execIntAnd (d a b : BitVec 6) (s : State) : Out := intOp s d a b (fun a b => a &&& b)

/-- `int.or` (R87). -/
def execIntOr (d a b : BitVec 6) (s : State) : Out := intOp s d a b (fun a b => a ||| b)

/-- `int.xor` (R87). -/
def execIntXor (d a b : BitVec 6) (s : State) : Out := intOp s d a b (fun a b => a ^^^ b)

/-- `int.andn` (R87). -/
def execIntAndn (d a b : BitVec 6) (s : State) : Out := intOp s d a b (fun a b => a &&& ~~~b)

/-- `int.shl` (R87). -/
def execIntShl (d a b : BitVec 6) (s : State) : Out := intOp s d a b (fun a b => shlW a b)

/-- `int.shr` (R87). -/
def execIntShr (d a b : BitVec 6) (s : State) : Out := intOp s d a b (fun a b => shrW a b)

/-- `int.sar` (R87). -/
def execIntSar (d a b : BitVec 6) (s : State) : Out := intOp s d a b (fun a b => sarW a b)

/-- `int.min` (R87). -/
def execIntMin (d a b : BitVec 6) (s : State) : Out := intOp s d a b (fun a b => if a.slt b then a else b)

/-- `int.max` (R87). -/
def execIntMax (d a b : BitVec 6) (s : State) : Out := intOp s d a b (fun a b => if a.slt b then b else a)

/-- `int.minn` (R87). -/
def execIntMinn (d a b : BitVec 6) (s : State) : Out := intOp s d a b (fun a b => if a.ult b then a else b)

/-- `int.maxn` (R87). -/
def execIntMaxn (d a b : BitVec 6) (s : State) : Out := intOp s d a b (fun a b => if a.ult b then b else a)

/-- `int.clz` (R87). -/
def execIntClz (d a : BitVec 6) (s : State) : Out := intOp1 s d a (fun a => word (clz 64 a.toNat))

/-- `int.ctz` (R87). -/
def execIntCtz (d a : BitVec 6) (s : State) : Out := intOp1 s d a (fun a => word (ctz 64 a.toNat))

/-- `int.popc` (R87). -/
def execIntPopc (d a : BitVec 6) (s : State) : Out := intOp1 s d a (fun a => word (popc 64 a.toNat))

/-- `int.eq` (R87). -/
def execIntEq (d a b : BitVec 6) (s : State) : Out := intOp s d a b (fun a b => wordB (a == b))

/-- `int.ne` (R87). -/
def execIntNe (d a b : BitVec 6) (s : State) : Out := intOp s d a b (fun a b => wordB (a != b))

/-- `int.lt` (R87). -/
def execIntLt (d a b : BitVec 6) (s : State) : Out := intOp s d a b (fun a b => wordB (a.slt b))

/-- `int.ltn` (R87). -/
def execIntLtn (d a b : BitVec 6) (s : State) : Out := intOp s d a b (fun a b => wordB (a.ult b))

/-- `int.le` (R87). -/
def execIntLe (d a b : BitVec 6) (s : State) : Out := intOp s d a b (fun a b => wordB (a.sle b))

/-- `int.len` (R87). -/
def execIntLen (d a b : BitVec 6) (s : State) : Out := intOp s d a b (fun a b => wordB (a.ule b))

/-- `int.sel`: d is read as the condition before it is written (R87). -/
def execIntSel (d a b : BitVec 6) (s : State) : Out :=
  onThread s (fun tid t => aluDone s tid t d (if t.S d ≠ 0 then t.S a else t.S b))

/-- `addi` (R22, R89). -/
def execAddi (d a : BitVec 6) (i : BitVec 14) (s : State) : Out := intOp1 s d a (fun x => x + sextImm i)

/-- `andi` (R22, R89). -/
def execAndi (d a : BitVec 6) (i : BitVec 14) (s : State) : Out := intOp1 s d a (fun x => x &&& sextImm i)

/-- `ori` (R22, R89). -/
def execOri (d a : BitVec 6) (i : BitVec 14) (s : State) : Out := intOp1 s d a (fun x => x ||| zextImm i)

/-- `xori` (R22, R89). -/
def execXori (d a : BitVec 6) (i : BitVec 14) (s : State) : Out := intOp1 s d a (fun x => x ^^^ zextImm i)

/-- `shi.shl` (R89): the INT function with bu the amount. -/
def execShiShl (d a n : BitVec 6) (s : State) : Out := intOp1 s d a (fun x => shlW x (n.setWidth 64))

/-- `shi.shr` (R89): the INT function with bu the amount. -/
def execShiShr (d a n : BitVec 6) (s : State) : Out := intOp1 s d a (fun x => shrW x (n.setWidth 64))

/-- `shi.sar` (R89): the INT function with bu the amount. -/
def execShiSar (d a n : BitVec 6) (s : State) : Out := intOp1 s d a (fun x => sarW x (n.setWidth 64))

/-- `li` (R22). -/
def execLi (d : BitVec 6) (i : BitVec 20) (s : State) : Out :=
  onThread s (fun tid t => aluDone s tid t d (i.signExtend 64))

/-- `lih` (R22). -/
def execLih (d : BitVec 6) (i : BitVec 20) (s : State) : Out :=
  onThread s (fun tid t => aluDone s tid t d ((t.S d <<< 20) ||| (i.setWidth 64)))

/-- The scalar sequencer continues at an address. -/
def goTo (s : State) (tid : Nat) (t : Thread) (pc : Word) : Out :=
  .next (s.setThread tid { t with pc, wait := none })

/-- A conditional branch (R90). -/
def branchIf (s : State) (a : BitVec 6) (o : BitVec 16) (c : Word → Bool) : Out :=
  onThread s (fun tid t => goTo s tid t (if c (t.S a) then branchTarget t.pc o else t.pc + 4))

/-- `bc.eq0` (R90). -/
def execBcEq0 (a : BitVec 6) (o : BitVec 16) (s : State) : Out := branchIf s a o (fun x => x == 0)

/-- `bc.ne0` (R90). -/
def execBcNe0 (a : BitVec 6) (o : BitVec 16) (s : State) : Out := branchIf s a o (fun x => x != 0)

/-- `bc.lt0` (R90). -/
def execBcLt0 (a : BitVec 6) (o : BitVec 16) (s : State) : Out := branchIf s a o (fun x => x.slt 0)

/-- `bc.ge0` (R90). -/
def execBcGe0 (a : BitVec 6) (o : BitVec 16) (s : State) : Out := branchIf s a o (fun x => !(x.slt 0))

/-- `bc.le0` (R90). -/
def execBcLe0 (a : BitVec 6) (o : BitVec 16) (s : State) : Out := branchIf s a o (fun x => x.sle 0)

/-- `bc.gt0` (R90). -/
def execBcGt0 (a : BitVec 6) (o : BitVec 16) (s : State) : Out := branchIf s a o (fun x => !(x.sle 0))

/-- `jmp` (R91). -/
def execJmp (o : BitVec 26) (s : State) : Out := onThread s (fun tid t => goTo s tid t (jumpTarget t.pc o))

/-- `call`: s47 takes the address of the next word (R91). -/
def execCall (o : BitVec 26) (s : State) : Out :=
  onThread s (fun tid t => goTo s tid (t.setS 47 (t.pc + 4)) (jumpTarget t.pc o))

/-- `jr.jr` (R92): a misaligned target faults with MISALIGN here. -/
def execJrJr (a : BitVec 6) (s : State) : Out :=
  onThread s (fun tid t =>
    if (t.S a).toNat % 4 ≠ 0 then faultOut s tid (scalarF t 0x04 (t.S a) 0) else goTo s tid t (t.S a))

/-- `jr.jrl` (R92): the target is read before the link is written. -/
def execJrJrl (a : BitVec 6) (s : State) : Out :=
  onThread s (fun tid t =>
    if (t.S a).toNat % 4 ≠ 0 then faultOut s tid (scalarF t 0x04 (t.S a) 0)
    else goTo s tid (t.setS 47 (t.pc + 4)) (t.S a))

end Sys2Proof.Machine
end

