-- ==== Sys2Proof/Machine/Dispatch.lean ====
section
/-! DEFINITION. Sys2Proof/Machine/Dispatch.lean: one arm for each constructor of Instr, each one call of its meaning. -/

namespace Sys2Proof.Machine

def exec (i : Instr) (s : State) : Host.Outcome State Fault Refusal :=
  match i with
  | .intAdd d a b => Sys2Proof.Machine.execIntAdd d a b s
  | .intSub d a b => Sys2Proof.Machine.execIntSub d a b s
  | .intMul d a b => Sys2Proof.Machine.execIntMul d a b s
  | .intMulh d a b => Sys2Proof.Machine.execIntMulh d a b s
  | .intMulhn d a b => Sys2Proof.Machine.execIntMulhn d a b s
  | .intDiv d a b => Sys2Proof.Machine.execIntDiv d a b s
  | .intDivn d a b => Sys2Proof.Machine.execIntDivn d a b s
  | .intRem d a b => Sys2Proof.Machine.execIntRem d a b s
  | .intRemn d a b => Sys2Proof.Machine.execIntRemn d a b s
  | .intAnd d a b => Sys2Proof.Machine.execIntAnd d a b s
  | .intOr d a b => Sys2Proof.Machine.execIntOr d a b s
  | .intXor d a b => Sys2Proof.Machine.execIntXor d a b s
  | .intAndn d a b => Sys2Proof.Machine.execIntAndn d a b s
  | .intShl d a b => Sys2Proof.Machine.execIntShl d a b s
  | .intShr d a b => Sys2Proof.Machine.execIntShr d a b s
  | .intSar d a b => Sys2Proof.Machine.execIntSar d a b s
  | .intMin d a b => Sys2Proof.Machine.execIntMin d a b s
  | .intMax d a b => Sys2Proof.Machine.execIntMax d a b s
  | .intMinn d a b => Sys2Proof.Machine.execIntMinn d a b s
  | .intMaxn d a b => Sys2Proof.Machine.execIntMaxn d a b s
  | .intClz d a => Sys2Proof.Machine.execIntClz d a s
  | .intCtz d a => Sys2Proof.Machine.execIntCtz d a s
  | .intPopc d a => Sys2Proof.Machine.execIntPopc d a s
  | .intEq d a b => Sys2Proof.Machine.execIntEq d a b s
  | .intNe d a b => Sys2Proof.Machine.execIntNe d a b s
  | .intLt d a b => Sys2Proof.Machine.execIntLt d a b s
  | .intLtn d a b => Sys2Proof.Machine.execIntLtn d a b s
  | .intLe d a b => Sys2Proof.Machine.execIntLe d a b s
  | .intLen d a b => Sys2Proof.Machine.execIntLen d a b s
  | .intSel d a b => Sys2Proof.Machine.execIntSel d a b s
  | .addi d a imm => Sys2Proof.Machine.execAddi d a imm s
  | .andi d a imm => Sys2Proof.Machine.execAndi d a imm s
  | .ori d a imm => Sys2Proof.Machine.execOri d a imm s
  | .xori d a imm => Sys2Proof.Machine.execXori d a imm s
  | .shiShl d a n => Sys2Proof.Machine.execShiShl d a n s
  | .shiShr d a n => Sys2Proof.Machine.execShiShr d a n s
  | .shiSar d a n => Sys2Proof.Machine.execShiSar d a n s
  | .li d imm => Sys2Proof.Machine.execLi d imm s
  | .lih d imm => Sys2Proof.Machine.execLih d imm s
  | .bcEq0 a o => Sys2Proof.Machine.execBcEq0 a o s
  | .bcNe0 a o => Sys2Proof.Machine.execBcNe0 a o s
  | .bcLt0 a o => Sys2Proof.Machine.execBcLt0 a o s
  | .bcGe0 a o => Sys2Proof.Machine.execBcGe0 a o s
  | .bcLe0 a o => Sys2Proof.Machine.execBcLe0 a o s
  | .bcGt0 a o => Sys2Proof.Machine.execBcGt0 a o s
  | .jmp o => Sys2Proof.Machine.execJmp o s
  | .call o => Sys2Proof.Machine.execCall o s
  | .jrJr a => Sys2Proof.Machine.execJrJr a s
  | .jrJrl a => Sys2Proof.Machine.execJrJrl a s
  | .ldN8 d a o => Sys2Proof.Machine.execLdN8 d a o s
  | .ldI8 d a o => Sys2Proof.Machine.execLdI8 d a o s
  | .ldN16 d a o => Sys2Proof.Machine.execLdN16 d a o s
  | .ldI16 d a o => Sys2Proof.Machine.execLdI16 d a o s
  | .ldN32 d a o => Sys2Proof.Machine.execLdN32 d a o s
  | .ldI32 d a o => Sys2Proof.Machine.execLdI32 d a o s
  | .ldN64 d a o => Sys2Proof.Machine.execLdN64 d a o s
  | .stN8 d a o => Sys2Proof.Machine.execStN8 d a o s
  | .stN16 d a o => Sys2Proof.Machine.execStN16 d a o s
  | .stN32 d a o => Sys2Proof.Machine.execStN32 d a o s
  | .stN64 d a o => Sys2Proof.Machine.execStN64 d a o s
  | .atomAdd d a b => Sys2Proof.Machine.execAtomAdd d a b s
  | .atomAnd d a b => Sys2Proof.Machine.execAtomAnd d a b s
  | .atomOr d a b => Sys2Proof.Machine.execAtomOr d a b s
  | .atomXor d a b => Sys2Proof.Machine.execAtomXor d a b s
  | .atomMin d a b => Sys2Proof.Machine.execAtomMin d a b s
  | .atomMax d a b => Sys2Proof.Machine.execAtomMax d a b s
  | .atomMinn d a b => Sys2Proof.Machine.execAtomMinn d a b s
  | .atomMaxn d a b => Sys2Proof.Machine.execAtomMaxn d a b s
  | .atomSwap d a b => Sys2Proof.Machine.execAtomSwap d a b s
  | .atomCas d a b => Sys2Proof.Machine.execAtomCas d a b s
  | .atomFadd32 d a b => Sys2Proof.Machine.execAtomFadd32 d a b s
  | .atomFadd64 d a b => Sys2Proof.Machine.execAtomFadd64 d a b s
  | .atomFxadd d a b => Sys2Proof.Machine.execAtomFxadd d a b s
  | .atomFxread d a imm => Sys2Proof.Machine.execAtomFxread d a imm s
  | .redAdd a b => Sys2Proof.Machine.execRedAdd a b s
  | .redAnd a b => Sys2Proof.Machine.execRedAnd a b s
  | .redOr a b => Sys2Proof.Machine.execRedOr a b s
  | .redXor a b => Sys2Proof.Machine.execRedXor a b s
  | .redMin a b => Sys2Proof.Machine.execRedMin a b s
  | .redMax a b => Sys2Proof.Machine.execRedMax a b s
  | .redMinn a b => Sys2Proof.Machine.execRedMinn a b s
  | .redMaxn a b => Sys2Proof.Machine.execRedMaxn a b s
  | .redFadd32 a b => Sys2Proof.Machine.execRedFadd32 a b s
  | .redFadd64 a b => Sys2Proof.Machine.execRedFadd64 a b s
  | .redFxadd a b => Sys2Proof.Machine.execRedFxadd a b s
  | .fenceFence sc => Sys2Proof.Machine.execFenceFence sc s
  | .cachePref a l => Sys2Proof.Machine.execCachePref a l s
  | .cacheEvict a => Sys2Proof.Machine.execCacheEvict a s
  | .cacheEvstep d a => Sys2Proof.Machine.execCacheEvstep d a s
  | .srGet d h l => Sys2Proof.Machine.execSrGet d h l s
  | .srSet d h l => Sys2Proof.Machine.execSrSet d h l s
  | .laneLrun a b => Sys2Proof.Machine.execLaneLrun a b s
  | .laneLwait n => Sys2Proof.Machine.execLaneLwait n s
  | .laneLres d k => Sys2Proof.Machine.execLaneLres d k s
  | .poolGive d k => Sys2Proof.Machine.execPoolGive d k s
  | .poolClaim d k => Sys2Proof.Machine.execPoolClaim d k s
  | .poolTgive d k => Sys2Proof.Machine.execPoolTgive d k s
  | .poolTclaim d k => Sys2Proof.Machine.execPoolTclaim d k s
  | .queueQinit a k => Sys2Proof.Machine.execQueueQinit a k s
  | .queueQpush d a b => Sys2Proof.Machine.execQueueQpush d a b s
  | .queueQpop d a b => Sys2Proof.Machine.execQueueQpop d a b s
  | .queueQtrypush d a b => Sys2Proof.Machine.execQueueQtrypush d a b s
  | .queueQtrypop d a b => Sys2Proof.Machine.execQueueQtrypop d a b s
  | .queueQres d a => Sys2Proof.Machine.execQueueQres d a s
  | .queueQcom a b => Sys2Proof.Machine.execQueueQcom a b s
  | .queueQlen d a sc => Sys2Proof.Machine.execQueueQlen d a sc s
  | .queueQpeek d a b => Sys2Proof.Machine.execQueueQpeek d a b s
  | .queueQclose a => Sys2Proof.Machine.execQueueQclose a s
  | .queueQdrain a => Sys2Proof.Machine.execQueueQdrain a s
  | .queueQcheck d a => Sys2Proof.Machine.execQueueQcheck d a s
  | .copyCstart d a b => Sys2Proof.Machine.execCopyCstart d a b s
  | .copyCstat d a => Sys2Proof.Machine.execCopyCstat d a s
  | .copyCabort a b => Sys2Proof.Machine.execCopyCabort a b s
  | .taskSpawn d a => Sys2Proof.Machine.execTaskSpawn d a s
  | .taskNote a => Sys2Proof.Machine.execTaskNote a s
  | .taskRnext d => Sys2Proof.Machine.execTaskRnext d s
  | .taskTquery d a => Sys2Proof.Machine.execTaskTquery d a s
  | .winWmark d a b => Sys2Proof.Machine.execWinWmark d a b s
  | .winWclose d a b => Sys2Proof.Machine.execWinWclose d a b s
  | .winWemit d a b => Sys2Proof.Machine.execWinWemit d a b s
  | .winWstate d a b => Sys2Proof.Machine.execWinWstate d a b s
  | .winWbind d a b => Sys2Proof.Machine.execWinWbind d a b s
  | .syncWait d a b => Sys2Proof.Machine.execSyncWait d a b s
  | .syncArrive d a b => Sys2Proof.Machine.execSyncArrive d a b s
  | .syncBinit a b => Sys2Proof.Machine.execSyncBinit a b s
  | .syncBphase d a => Sys2Proof.Machine.execSyncBphase d a s
  | .confScset a b => Sys2Proof.Machine.execConfScset a b s
  | .confOpset a => Sys2Proof.Machine.execConfOpset a s
  | .confEvset a b => Sys2Proof.Machine.execConfEvset a b s
  | .sysSys d a b => Sys2Proof.Machine.execSysSys d a b s
  | .sysTrap a => Sys2Proof.Machine.execSysTrap a s
  | .sysUint a b => Sys2Proof.Machine.execSysUint a b s
  | .timeRdtime d => Sys2Proof.Machine.execTimeRdtime d s
  | .timeRdtick d => Sys2Proof.Machine.execTimeRdtick d s
  | .timeRdpts d => Sys2Proof.Machine.execTimeRdpts d s
  | .viAdd o => Sys2Proof.Machine.execViAdd o s
  | .viSub o => Sys2Proof.Machine.execViSub o s
  | .viMul o => Sys2Proof.Machine.execViMul o s
  | .viMulh o => Sys2Proof.Machine.execViMulh o s
  | .viMulhn o => Sys2Proof.Machine.execViMulhn o s
  | .viMad o => Sys2Proof.Machine.execViMad o s
  | .viAnd o => Sys2Proof.Machine.execViAnd o s
  | .viOr o => Sys2Proof.Machine.execViOr o s
  | .viXor o => Sys2Proof.Machine.execViXor o s
  | .viAndn o => Sys2Proof.Machine.execViAndn o s
  | .viShl o => Sys2Proof.Machine.execViShl o s
  | .viShr o => Sys2Proof.Machine.execViShr o s
  | .viSar o => Sys2Proof.Machine.execViSar o s
  | .viMin o => Sys2Proof.Machine.execViMin o s
  | .viMax o => Sys2Proof.Machine.execViMax o s
  | .viMinn o => Sys2Proof.Machine.execViMinn o s
  | .viMaxn o => Sys2Proof.Machine.execViMaxn o s
  | .viAbs o => Sys2Proof.Machine.execViAbs o s
  | .viClz o => Sys2Proof.Machine.execViClz o s
  | .viPopc o => Sys2Proof.Machine.execViPopc o s
  | .viAddsat o => Sys2Proof.Machine.execViAddsat o s
  | .viSubsat o => Sys2Proof.Machine.execViSubsat o s
  | .viCmpeq o => Sys2Proof.Machine.execViCmpeq o s
  | .viCmpne o => Sys2Proof.Machine.execViCmpne o s
  | .viCmplt o => Sys2Proof.Machine.execViCmplt o s
  | .viCmpltn o => Sys2Proof.Machine.execViCmpltn o s
  | .viCmple o => Sys2Proof.Machine.execViCmple o s
  | .viCmplen o => Sys2Proof.Machine.execViCmplen o s
  | .viSel o => Sys2Proof.Machine.execViSel o s
  | .viMov o => Sys2Proof.Machine.execViMov o s
  | .viLi o => Sys2Proof.Machine.execViLi o s
  | .viIota o => Sys2Proof.Machine.execViIota o s
  | .vfAdd o => Sys2Proof.Machine.execVfAdd o s
  | .vfSub o => Sys2Proof.Machine.execVfSub o s
  | .vfMul o => Sys2Proof.Machine.execVfMul o s
  | .vfFma o => Sys2Proof.Machine.execVfFma o s
  | .vfFms o => Sys2Proof.Machine.execVfFms o s
  | .vfMin o => Sys2Proof.Machine.execVfMin o s
  | .vfMax o => Sys2Proof.Machine.execVfMax o s
  | .vfDiv o => Sys2Proof.Machine.execVfDiv o s
  | .vfSqrt o => Sys2Proof.Machine.execVfSqrt o s
  | .vfRcp o => Sys2Proof.Machine.execVfRcp o s
  | .vfRsq o => Sys2Proof.Machine.execVfRsq o s
  | .vfExp2 o => Sys2Proof.Machine.execVfExp2 o s
  | .vfLog2 o => Sys2Proof.Machine.execVfLog2 o s
  | .vfAbs o => Sys2Proof.Machine.execVfAbs o s
  | .vfNeg o => Sys2Proof.Machine.execVfNeg o s
  | .vfCopysign o => Sys2Proof.Machine.execVfCopysign o s
  | .vfCmpeq o => Sys2Proof.Machine.execVfCmpeq o s
  | .vfCmplt o => Sys2Proof.Machine.execVfCmplt o s
  | .vfCmple o => Sys2Proof.Machine.execVfCmple o s
  | .vfCmpun o => Sys2Proof.Machine.execVfCmpun o s
  | .vfClass o => Sys2Proof.Machine.execVfClass o s
  | .vfMov o => Sys2Proof.Machine.execVfMov o s
  | .vfLi o => Sys2Proof.Machine.execVfLi o s
  | .vcCvt o => Sys2Proof.Machine.execVcCvt o s
  | .vcCvts o => Sys2Proof.Machine.execVcCvts o s
  | .vcQnpack o => Sys2Proof.Machine.execVcQnpack o s
  | .vcQnunpack o => Sys2Proof.Machine.execVcQnunpack o s
  | .vcPack o => Sys2Proof.Machine.execVcPack o s
  | .vcUnpack o => Sys2Proof.Machine.execVcUnpack o s
  | .vxShfl o => Sys2Proof.Machine.execVxShfl o s
  | .vxShup o => Sys2Proof.Machine.execVxShup o s
  | .vxShdn o => Sys2Proof.Machine.execVxShdn o s
  | .vxShxor o => Sys2Proof.Machine.execVxShxor o s
  | .vxBcast o => Sys2Proof.Machine.execVxBcast o s
  | .vxScan o => Sys2Proof.Machine.execVxScan o s
  | .vxRed o => Sys2Proof.Machine.execVxRed o s
  | .vxVote o => Sys2Proof.Machine.execVxVote o s
  | .vxBallot o => Sys2Proof.Machine.execVxBallot o s
  | .vpPand o => Sys2Proof.Machine.execVpPand o s
  | .vpPor o => Sys2Proof.Machine.execVpPor o s
  | .vpPxor o => Sys2Proof.Machine.execVpPxor o s
  | .vpPnot o => Sys2Proof.Machine.execVpPnot o s
  | .vpPmov o => Sys2Proof.Machine.execVpPmov o s
  | .vpPset o => Sys2Proof.Machine.execVpPset o s
  | .lbBrc o => Sys2Proof.Machine.execLbBrc o s
  | .lbBrk o => Sys2Proof.Machine.execLbBrk o s
  | .lbCont o => Sys2Proof.Machine.execLbCont o s
  | .lbJmp o => Sys2Proof.Machine.execLbJmp o s
  | .vmLd o => Sys2Proof.Machine.execVmLd o s
  | .vmSt o => Sys2Proof.Machine.execVmSt o s
  | .vmLdx o => Sys2Proof.Machine.execVmLdx o s
  | .vmStx o => Sys2Proof.Machine.execVmStx o s
  | .vmSld o => Sys2Proof.Machine.execVmSld o s
  | .vmSst o => Sys2Proof.Machine.execVmSst o s
  | .vmAtom o => Sys2Proof.Machine.execVmAtom o s
  | .vmRed o => Sys2Proof.Machine.execVmRed o s
  | .vmPref o => Sys2Proof.Machine.execVmPref o s
  | .mxMres o => Sys2Proof.Machine.execMxMres o s
  | .mxMfree o => Sys2Proof.Machine.execMxMfree o s
  | .mxMfill o => Sys2Proof.Machine.execMxMfill o s
  | .mxMma o => Sys2Proof.Machine.execMxMma o s
  | .mxMmag o => Sys2Proof.Machine.execMxMmag o s
  | .mxMzero o => Sys2Proof.Machine.execMxMzero o s
  | .mxMrd o => Sys2Proof.Machine.execMxMrd o s
  | .mxMwr o => Sys2Proof.Machine.execMxMwr o s
  | .mxMst o => Sys2Proof.Machine.execMxMst o s
  | .mxMstx o => Sys2Proof.Machine.execMxMstx o s
  | .mxMrow o => Sys2Proof.Machine.execMxMrow o s
  | .mxMnote o => Sys2Proof.Machine.execMxMnote o s
  | .slTopk o => Sys2Proof.Machine.execSlTopk o s
  | .slSmax o => Sys2Proof.Machine.execSlSmax o s
  | .slSamp o => Sys2Proof.Machine.execSlSamp o s
  | .slRng o => Sys2Proof.Machine.execSlRng o s
  | .lqQpushv o => Sys2Proof.Machine.execLqQpushv o s
  | .lqQpopv o => Sys2Proof.Machine.execLqQpopv o s
  | .taskDone => Sys2Proof.Machine.execTaskDone s
  | .winPark => Sys2Proof.Machine.execWinPark s
  | .sysEnd => Sys2Proof.Machine.execSysEnd s
  | .sysHalt => Sys2Proof.Machine.execSysHalt s
  | .lbJoin => Sys2Proof.Machine.execLbJoin s
  | .lbRegang => Sys2Proof.Machine.execLbRegang s
  | .lbLend => Sys2Proof.Machine.execLbLend s
  | .lbNop => Sys2Proof.Machine.execLbNop s
  | .laneBlockStart => Sys2Proof.Machine.execLaneBlockStart s
  | .laneBlockEnd => Sys2Proof.Machine.execLaneBlockEnd s
  | .mxRetire => Sys2Proof.Machine.execMxRetire s
  | .slRetire => Sys2Proof.Machine.execSlRetire s
  | .l2ServeRequest => Sys2Proof.Machine.execL2ServeRequest s
  | .l2MissFill => Sys2Proof.Machine.execL2MissFill s
  | .memoryResponse => Sys2Proof.Machine.execMemoryResponse s
  | .ptsRebase => Sys2Proof.Machine.execPtsRebase s
  | .reductionPerform => Sys2Proof.Machine.execReductionPerform s
  | .copyTakeRecord => Sys2Proof.Machine.execCopyTakeRecord s
  | .copyRecordComplete => Sys2Proof.Machine.execCopyRecordComplete s
  | .qputRetry => Sys2Proof.Machine.execQputRetry s
  | .copyFixupReplay => Sys2Proof.Machine.execCopyFixupReplay s
  | .copyPageResident => Sys2Proof.Machine.execCopyPageResident s
  | .carderTakeRecord => Sys2Proof.Machine.execCarderTakeRecord s
  | .windowStepOpen => Sys2Proof.Machine.execWindowStepOpen s
  | .windowStepRecord => Sys2Proof.Machine.execWindowStepRecord s
  | .windowStepMerge => Sys2Proof.Machine.execWindowStepMerge s
  | .windowStepClose => Sys2Proof.Machine.execWindowStepClose s
  | .windowStepExpire => Sys2Proof.Machine.execWindowStepExpire s
  | .windowTimeTrigger => Sys2Proof.Machine.execWindowTimeTrigger s
  | .wheelFire => Sys2Proof.Machine.execWheelFire s
  | .hatboxDemote => Sys2Proof.Machine.execHatboxDemote s
  | .carderEmitPush => Sys2Proof.Machine.execCarderEmitPush s
  | .hatboxFullRepeat => Sys2Proof.Machine.execHatboxFullRepeat s
  | .taskEnginePop => Sys2Proof.Machine.execTaskEnginePop s
  | .taskDecrement => Sys2Proof.Machine.execTaskDecrement s
  | .taskLaunch => Sys2Proof.Machine.execTaskLaunch s
  | .taskComplete => Sys2Proof.Machine.execTaskComplete s
  | .rangeSplit => Sys2Proof.Machine.execRangeSplit s
  | .ttRelease => Sys2Proof.Machine.execTtRelease s
  | .ttReleaseSkip => Sys2Proof.Machine.execTtReleaseSkip s
  | .placement => Sys2Proof.Machine.execPlacement s
  | .starveTimeout => Sys2Proof.Machine.execStarveTimeout s
  | .evictTimeout => Sys2Proof.Machine.execEvictTimeout s
  | .preemptRequest => Sys2Proof.Machine.execPreemptRequest s
  | .drainBoundExpire => Sys2Proof.Machine.execDrainBoundExpire s
  | .cohortSave => Sys2Proof.Machine.execCohortSave s
  | .cohortRestore => Sys2Proof.Machine.execCohortRestore s
  | .cohortFree => Sys2Proof.Machine.execCohortFree s
  | .partitionSwapOut => Sys2Proof.Machine.execPartitionSwapOut s
  | .partitionSwapIn => Sys2Proof.Machine.execPartitionSwapIn s
  | .watchdog => Sys2Proof.Machine.execWatchdog s
  | .waitSatisfied => Sys2Proof.Machine.execWaitSatisfied s
  | .waitTimeout => Sys2Proof.Machine.execWaitTimeout s
  | .sysResponse => Sys2Proof.Machine.execSysResponse s
  | .issueGatingStart => Sys2Proof.Machine.execIssueGatingStart s
  | .issueGatingEnd => Sys2Proof.Machine.execIssueGatingEnd s
  | .alarmVolt => Sys2Proof.Machine.execAlarmVolt s
  | .alarmClock => Sys2Proof.Machine.execAlarmClock s
  | .alarmTemp => Sys2Proof.Machine.execAlarmTemp s
  | .alarmMesh => Sys2Proof.Machine.execAlarmMesh s
  | .alarmPrivrep => Sys2Proof.Machine.execAlarmPrivrep s
  | .mboxCreateContext => Sys2Proof.Machine.execMboxCreateContext s
  | .mboxEndContext => Sys2Proof.Machine.execMboxEndContext s
  | .mboxWriteLeaf => Sys2Proof.Machine.execMboxWriteLeaf s
  | .mboxClearLeaf => Sys2Proof.Machine.execMboxClearLeaf s
  | .mboxWriteTtSlot => Sys2Proof.Machine.execMboxWriteTtSlot s
  | .mboxMapUserPort => Sys2Proof.Machine.execMboxMapUserPort s
  | .mboxWriteUintEntry => Sys2Proof.Machine.execMboxWriteUintEntry s
  | .mboxWritePartition => Sys2Proof.Machine.execMboxWritePartition s
  | .mboxBadRequest => Sys2Proof.Machine.execMboxBadRequest s
  | .mboxDoorbellBusy => Sys2Proof.Machine.execMboxDoorbellBusy s
  | .mboxstWrite => Sys2Proof.Machine.execMboxstWrite s
  | .pathsyncRead => Sys2Proof.Machine.execPathsyncRead s
  | .userPortWrite => Sys2Proof.Machine.execUserPortWrite s
  | .bar0WriteOther => Sys2Proof.Machine.execBar0WriteOther s
  | .scpQpush => Sys2Proof.Machine.execScpQpush s
  | .scpQtrypop => Sys2Proof.Machine.execScpQtrypop s
  | .scpQlen => Sys2Proof.Machine.execScpQlen s
  | .scpAccess => Sys2Proof.Machine.execScpAccess s
  | .scpSnoop => Sys2Proof.Machine.execScpSnoop s
  | .doeInspectRead => Sys2Proof.Machine.execDoeInspectRead s
  | .doeQueueUnbind => Sys2Proof.Machine.execDoeQueueUnbind s
  | .doeCensus => Sys2Proof.Machine.execDoeCensus s
  | .censusDone => Sys2Proof.Machine.execCensusDone s
  | .doeCensusResume => Sys2Proof.Machine.execDoeCensusResume s
  | .doeAttest => Sys2Proof.Machine.execDoeAttest s
  | .doeRecoveryImage => Sys2Proof.Machine.execDoeRecoveryImage s
  | .doeAlarmRequest => Sys2Proof.Machine.execDoeAlarmRequest s
  | .doeAlarmClear => Sys2Proof.Machine.execDoeAlarmClear s
  | .netRemoteOp => Sys2Proof.Machine.execNetRemoteOp s
  | .netFlowDown => Sys2Proof.Machine.execNetFlowDown s
  | .podBarrierMessage => Sys2Proof.Machine.execPodBarrierMessage s
  | .timeSync => Sys2Proof.Machine.execTimeSync s
  | .powerUp => Sys2Proof.Machine.execPowerUp s
  | .pageMigrate => Sys2Proof.Machine.execPageMigrate s
  | .hostExtentRelease => Sys2Proof.Machine.execHostExtentRelease s
  | .hostForcedRelease => Sys2Proof.Machine.execHostForcedRelease s
  | .uintDeliver => Sys2Proof.Machine.execUintDeliver s
  | .eccUncorrected => Sys2Proof.Machine.execEccUncorrected s
  | .eccCorrected => Sys2Proof.Machine.execEccCorrected s
  | .nonInstructionScalar => Sys2Proof.Machine.execNonInstructionScalar s
  | .nonInstructionLane => Sys2Proof.Machine.execNonInstructionLane s
  | .reductionCombinerAccept => Sys2Proof.Machine.execReductionCombinerAccept s
  | .netRemoteResponse => Sys2Proof.Machine.execNetRemoteResponse s
  | .placementStallRepeat => Sys2Proof.Machine.execPlacementStallRepeat s
  | .sectionMarkedLoaded => Sys2Proof.Machine.execSectionMarkedLoaded s
  | .spdmSession => Sys2Proof.Machine.execSpdmSession s
  | .timeSourceSelect => Sys2Proof.Machine.execTimeSourceSelect s
  | .flowKeyInstall => Sys2Proof.Machine.execFlowKeyInstall s
  | .expectedMeasurementInstall => Sys2Proof.Machine.execExpectedMeasurementInstall s
  | .extentMarkMigratable => Sys2Proof.Machine.execExtentMarkMigratable s
  | .pendingRingHeadAdvance => Sys2Proof.Machine.execPendingRingHeadAdvance s

end Sys2Proof.Machine
end

