-- ==== Sys2Proof/Machine/Chores.lean ====
section
/-! DEFINITION. Sys2Proof/Machine/Chores.lean: the work that homes have put off to the end of a step, or until the lines they need
can be accessed (R183): fault records pushed as releases (R389), commits of a holder that ended (R218), queues whose lists have
changed (R209, R214, R217), and stream positions to be retired (R268). Nothing is done where nothing is put off. -/

namespace Sys2Proof.Machine

/-- The bound queue that a chore is for: none where another binding, or none, stands there now. -/
def State.choreQueue (s : State) (key bind : Nat) : Option Queue := (s.queueAt (refOf key)).filter (fun q => q.bind == bind)

/-- The condition of a `sync.wait` that names a queue (R315). -/
def State.condOn (s : State) (t : Thread) (r : QRef) : Option Word :=
  match t.wait with
  | some (.sync _ a _ _) =>
    (t.conds a).find? (fun c => condQueue c && (match s.queueRef t (condAddr c) 64 with | .inr x => x == r | .inl _ => false))
  | _ => none

/-- The `sync.wait`s on a frozen queue end with QCB_CORRUPT (R316). -/
def State.endSyncWaits (s : State) (r : QRef) (m : Nat) : State :=
  s.threads.foldl (fun s p =>
    match (look s.threads p.1).bind (fun t => (s.condOn t r).map (fun c => (t, c))) with
    | some (t, c) => s.fault p.1 (scalarF t 0x08 (condAddr c) (word m))
    | none => s) s

/-- A queue whose lists have changed: its waiter words and CHECK are stored in one access of its home, which checks the block
first, and the waiters it can serve are served (R209, R214, R217). -/
def State.settleNow (s : State) (r : QRef) (q : Queue) : State :=
  match q.frozen with
  | some m => s.endSyncWaits r m.toNat
  | none =>
    s.homeActed r (s.guarded r (s.homeUnit r q) (fun s q b => { s := (s.store r q b).settle r, ended := [], ans := .pos 0 }))

/-- Whether a record stands behind another of its source (R389). -/
def Chore.behind (c : Chore) (kept : List Chore) : Bool :=
  match c with
  | .record _ core die uid _ =>
    kept.any (fun x => match x with | .record _ core' die' uid' _ => core == core' && die == die' && uid == uid' | _ => false)
  | _ => false

/-- A chore done, or as much of it as can be, behind those kept before it. -/
def State.doChore (s : State) (kept : List Chore) (c : Chore) : State × Bool :=
  match c with
  | .record ctx core die uid bs =>
    if c.behind kept then (s, false)
    else
      let x := if uid = 0 then (s, true) else s.release uid
      if !x.2 || x.1.recordBusy ctx then (x.1, false)
      else
        let y := x.1.pushRecord ctx (recordAsker core die) bs
        (y.1.applyEnds y.2, true)
  | .commit key bind pos =>
    let r := refOf key
    match s.choreQueue key bind with
    | none => (s, true)
    | some q => if s.queueBusy r true 0 then (s, false) else (s.homeActed r (s.homeCommit r (s.homeUnit r q) (word pos)), true)
  | .settle key bind =>
    let r := refOf key
    match s.choreQueue key bind with
    | none => (s, true)
    | some q => if q.frozen.isNone && s.queueBusy r true 0 then (s, false) else (s.settleNow r q, true)
  | .retire stream pos =>
    let r : QRef := .global stream
    match s.queueAt r with
    | none => (s, true)
    | some _ => if s.queueBusy r true 0 then (s, false) else (s.homeActed r (s.retireNow stream pos), true)

/-- Chores done in turn; what is left stands before what has been put off meanwhile. -/
def State.runChores : List Chore → List Chore → State → State
  | [], kept, s => { s with chores := kept ++ s.chores }
  | c :: t, kept, s =>
    let x := s.doChore kept c
    State.runChores t (if x.2 then kept else kept ++ [c]) x.1

/-- The chores of a step. -/
def State.doChores (s : State) : State :=
  match s.chores with
  | [] => s
  | cs => State.runChores cs [] { s with chores := [] }

end Sys2Proof.Machine
end

