-- ==== Sys2Proof/Machine/Due.lean ====
section
/-! DEFINITION. Sys2Proof/Machine/Due.lean: which event of the machine's own agents happens next where the agenda names
none (log 3). The events of the world outside (the host, the network, sensors, the Milliner's answers) come from the
agenda only. -/

namespace Sys2Proof.Machine

/-- An event with its operands. -/
abbrev Cand := Instr × EvArg

/-- Operands that name one object. -/
def onObj (n : Nat) : EvArg := { EvArg.none with obj := n }
/-- Operands that name two objects. -/
def onObjs (n m : Nat) : EvArg := { EvArg.none with obj := n, obj2 := m }
/-- Operands that name a stream and a key. -/
def onKey (stream : Nat) (key : Word) : EvArg := { EvArg.none with obj := stream, word := key }

/-- Events of a thread: its lane blocks (R257), its waits (R316, R318), its watchdog (R390). -/
def State.candThread (s : State) (tid : Nat) (t : Thread) : List Cand :=
  if t.ended || !s.coreRuns (coreOf tid) t.ctx then []
  else
    (if s.wdogOver t then [(.watchdog, onObj tid)] else [])
    ++ (if t.blockOver then [(.laneBlockEnd, onObj tid)] else [])
    ++ (if !t.running && !t.blocks.isEmpty then [(.laneBlockStart, onObj tid)] else [])
    ++ (if s.waitDue tid t then [(.waitSatisfied, onObj tid)] else [])
    ++ (if s.timeoutDue tid t then [(.waitTimeout, onObj tid)] else [])

/-- Events of a core: its engines (R135, R142), the answers it awaits (R161). -/
def candCore (n : Nat) (c : CoreSt) : List Cand :=
  (if c.mx.isEmpty then [] else [(.mxRetire, onObj n)])
  ++ (if c.slq.isEmpty then [] else [(.slRetire, onObj n)])
  ++ (if c.responses.isEmpty then [] else [(.memoryResponse, onObj n)])

/-- Events of a slice and its channel (R161, R251). -/
def candSlice (ch : Nat) (q : SliceQ) : List Cand :=
  (if q.reqs.isEmpty then [] else [(.l2ServeRequest, onObj ch)])
  ++ (if q.misses.isEmpty then [] else [(.l2MissFill, onObj ch)])

/-- The events a copy channel waits for (R232, R240, R241): the first that acts is due. A blocked reservation is retried every 64
clk; a record whose cohort has ended ends, whatever it waits for (R249). -/
def State.candChan (s : State) (ck : Nat) (c : Channel) : List Cand :=
  match c.chains with
  | [] => []
  | h :: _ =>
    if !s.chainGoes h then []
    else
      match h.taken with
      | none => [if h.st = .waitPage then (.copyPageResident, onObj ck) else (.copyTakeRecord, onObj ck)]
      | some r =>
        [(.copyRecordComplete, onObj ck)]
        ++ (match h.st with
            | .waitSlot => if r.ending.isNone && s.partRuns (partOfCtx h.ctx) && s.clk % 64 < 2 then [(.qputRetry, onObj ck)] else []
            | .running => if r.ending.isNone then [(.copyFixupReplay, onObj ck)] else []
            | .waitPage => [(.copyPageResident, onObj ck)]
            | .stopping => [(.copyPageResident, onObj ck)]
            | _ => [])

/-- The delivery of a step by its reason (R272). -/
def stepEvent : Reason → Instr
  | .openR => .windowStepOpen
  | .record => .windowStepRecord
  | .pane => .windowStepRecord
  | .merge => .windowStepMerge
  | .close => .windowStepClose
  | .expire => .windowStepExpire

/-- Events of a stream (R268-R280, R418). -/
def State.candStream (s : State) (stream : Nat) (ctl : StreamCtl) : List Cand :=
  if !s.ctxRuns ctl.ctx then []
  else
    let keys := (ctl.steps.map (fun r => r.key)).eraseDups
    (if s.takeReady stream then [(.carderTakeRecord, onObj stream)] else [])
    ++ keys.map (fun k => ((s.stepReady stream k).elim .windowStepRecord (fun r => stepEvent r.reason), onKey stream k))
    ++ (if s.closable stream ctl then [(.windowTimeTrigger, onObj stream)] else [])
    ++ ctl.keys.filterMap (fun e =>
        if slotDue e.2.expiry s.time && !s.windows.any (fun w => w.2.stream == stream && w.2.key == word e.1) then
          some (.wheelFire, onKey stream (word e.1))
        else none)
    ++ ctl.keys.filterMap (fun e =>
        if (s.partAt (partOfCtx ctl.ctx)).idleOver e.2.tier e.2.lastCommit s.time then
          some (.hatboxDemote, { onKey 0 (word e.1) with obj2 := stream })
        else none)
    ++ (ctl.full.filter (fun x => s.fullDue ctl x.1)).map (fun x => (.hatboxFullRepeat, onKey stream x.1))

/-- Events of a window (R278, R280). -/
def State.candWindow (s : State) (wk : Nat) (w : Window) : List Cand :=
  if !s.ctxRuns w.ctx then []
  else
    (if w.fires s.time then [(.wheelFire, { onKey w.stream w.key with obj2 := wk })] else [])
    ++ (if s.demoteDue w then [(.hatboxDemote, onObj wk)] else [])

/-- Events of a die: reductions (R181, R205), decrements (R290), the dispatcher (R298, R299, R418), emissions (R322). -/
def State.candDie (s : State) (die : Nat) (d : DieSt) : List Cand :=
  (if d.combiner.isEmpty then [] else [(.reductionPerform, onObj die)])
  ++ (if (s.nextDecrement die).isSome then [(.taskDecrement, onObj die)] else [])
  ++ (match s.nextEmit die with
      | some e => if s.ctxRuns e.2.1 then [(.carderEmitPush, onObj die)] else []
      | none => [])
  ++ (match s.nextPlaced die with
      | some r => [(if r.1.restores then .cohortRestore else .placement, onObj die)]
      | none => if (s.queueOf die).any (s.stallsNow die) then [(.placement, onObj die)] else [])
  ++ (d.reqs.filter s.served).flatMap (fun r =>
      (if s.stallDue r then [(.placementStallRepeat, onObjs die r.id)] else [])
      ++ (if s.starveDue die r && (s.bestCore die r).isNone then [(.starveTimeout, onObjs die r.id)] else [])
      ++ (if s.evictDue r && (s.bestCore die r).isNone then [(.evictTimeout, onObjs die r.id)] else []))

/-- Events of a cohort (R137, R400-R403). -/
def State.candCohort (s : State) (ck : Nat) (c : Cohort) : List Cand :=
  if !s.coreRuns (ck / 32) c.ctx then []
  else
    (if s.freeReady ck c then [(.cohortFree, onObj ck)] else [])
    ++ (if c.pend.isEmpty then [] else [(.preemptRequest, onObj ck)])
    ++ (if s.drainOver c then [(.drainBoundExpire, onObj ck)] else [])
    ++ (if s.saveAsked c && (s.withdrawDue ck || s.saveReady ck || s.unasked ck) then [(.cohortSave, onObj ck)] else [])

/-- Events of a task slot (R291, R292). -/
def State.candTask (s : State) (k : Nat) (t : TaskSlot) : List Cand :=
  if !s.ctxRuns t.ctx then []
  else
    (if s.launchReady k || s.countUnread k then [(.taskLaunch, onObj k)] else [])
    ++ (if s.completeReady k then [(.taskComplete, onObj k)] else [])

/-- Events of a partition: time-triggered slots (R297), repeated privilege faults (R378), an idle core that asks for work
(R295), a census (R412). -/
def State.candPart (s : State) (n : Nat) (p : Partition) : List Cand :=
  (if s.censusReady n then [(.censusDone, onObj n)] else [])
  ++ (if !s.partRuns n then []
      else
        (if s.privRep n then [(.alarmPrivrep, onObj n)] else [])
        ++ p.tts.flatMap (fun t =>
            (if s.releaseDue n t.1 then [(.ttRelease, onObjs n t.1)] else [])
            ++ (if s.skipDue n t.1 then [(.ttReleaseSkip, onObjs n t.1)] else []))
        ++ (if s.noneReady n && (s.splitChoice n).isSome then
              ((upFrom 0 384).filter (fun c => p.quads.getLsbD (c / 4) && !(s.coreAt c).swapped && (s.coreAt c).closing.isNone
                && (s.dieAt (dieOfCore c)).reqs.isEmpty && !s.threads.any (fun t => t.1 / 32 == c))).map (fun c =>
                  (.rangeSplit, onObj c))
            else []))

/-- Events of a context: its submission queue (R287). -/
def State.candCtx (s : State) (ctx : Nat) : List Cand :=
  if s.ctxRuns ctx && (s.submitRef ctx).isSome && (s.spawnDie (partOfCtx ctx)).isSome then [(.taskEnginePop, onObj ctx)] else []

/-- Host pages whose counts call for migration (R354). -/
def State.candMigrate (s : State) : List Cand :=
  ((s.migCount.map (fun m => m.1 / countKey 1 0 0)).eraseDups).flatMap (fun page =>
    (s.ctxs.filter (fun c => c.2.asid.toNat == page / 2 ^ 64)).filterMap (fun c =>
      if (s.migrates c.1 (page % 2 ^ 64)).isSome then
        some (.pageMigrate, { onObj c.1 with word := word (page % 2 ^ 64) })
      else none))

/-- Inspection reads under way (R411). -/
def State.candInspect (s : State) : List Cand :=
  s.fns.filterMap (fun f => if f.2.insp.isSome then some (.doeInspectRead, { onObj f.1 with flag := true }) else none)

/-- The events of the machine's own agents that may be due. -/
def State.candidates (s : State) : List Cand :=
  if s.run == .halted then []
  else if s.run == .recovery then s.candInspect
  else
    (if s.ptsFull && s.portsIdle then [(.ptsRebase, EvArg.none)] else [])
    ++ (if s.uints.isEmpty then [] else [(.uintDeliver, EvArg.none)])
    ++ s.threads.flatMap (fun t => s.candThread t.1 t.2)
    ++ (((s.threads.filter (fun t => !t.2.redBuf.isEmpty)).map (fun t => coreOf t.1)
          ++ (s.cores.filter (fun c => !c.2.posted.isEmpty)).map Prod.fst).eraseDups).map (fun n =>
        (.reductionCombinerAccept, onObj n))
    ++ s.cores.flatMap (fun c => candCore c.1 c.2)
    ++ s.slices.flatMap (fun q => candSlice q.1 q.2)
    ++ s.chans.flatMap (fun c => s.candChan c.1 c.2)
    ++ s.streams.flatMap (fun c => s.candStream c.1 c.2)
    ++ s.windows.flatMap (fun w => s.candWindow w.1 w.2)
    ++ s.tasks.flatMap (fun t => s.candTask t.1 t.2)
    ++ s.cohorts.flatMap (fun c => s.candCohort c.1 c.2)
    ++ s.dies.flatMap (fun d => s.candDie d.1 d.2)
    ++ s.ctxs.flatMap (fun c => s.candCtx c.1)
    ++ s.parts.flatMap (fun p => s.candPart p.1 p.2)
    ++ s.candMigrate
    ++ s.candInspect

/-- An event is no party's: the issuer stands for no thread while it happens. -/
def State.asEvent (s : State) (a : EvArg) : State := { s with arg := a, cur := { tid := 2 ^ 20, party := .scalar, len := 4 } }

/-- Whether an event changes anything now. -/
def State.acts (s : State) (c : Cand) : Bool :=
  match exec c.1 (s.asEvent c.2) with
  | .next t => decide (t ≠ s.asEvent c.2)
  | _ => false

/-- The event that happens next: the first one that acts, from a place in the list that moves on with the clk (log 3). -/
def dueEvent (s : State) : Option Cand :=
  let cs := s.candidates
  let k := s.clk / 2 % max 1 cs.length
  (cs.drop k ++ cs.take k).find? s.acts

end Sys2Proof.Machine
end

