-- ==== Sys2Proof/Machine/Sched.lean ====
section
/-! DEFINITION. Sys2Proof/Machine/Sched.lean: what a step does around an instruction: fetching its bytes through the
instruction caches (R43, R93, R29), choosing the party that issues (R255, R300), and the clocks (R15, R175, R390). -/

namespace Sys2Proof.Machine

/-- Whether a waiting instruction is issued again by its own sequencer, once that gets it further. -/
def reissues : Option Wait → Bool
  | none => true
  | some .again => true
  | some .stall => true
  | some (.port _ _) => true
  | some (.home _ _) => true
  | some (.loaded _) => true
  | some (.spawn _ _) => true
  | some (.resync _) => true
  | some (.deliver _ _ _ _ _) => true
  | _ => false

/-- The bytes of a line of scalar code, through the scalar instruction cache (R43): a missing line is filled whole, in one
access at its home. The cache keeps 256 lines, the oldest leaving (R11, log 9). -/
def State.codeLine (s : State) (core ctx vline : Nat) : Acc (List Byte × State) :=
  let asid := s.asidOf ctx
  match (s.coreAt core).sicache.find? (fun l => l.asid == asid && l.vline == vline) with
  | some l => .ok (l.bytes, s)
  | none =>
    match s.readBytes (.unit (dieOfCore core)) ctx (vline * 128) 128 with
    | .fault f => .fault f
    | .wait => .wait
    | .ok (bs, s) =>
      let c := s.coreAt core
      let kept := if 256 ≤ c.sicache.length then c.sicache.tail else c.sicache
      .ok (bs, s.setCore core { c with sicache := kept ++ [{ asid, vline, bytes := bs }] })

/-- The four bytes of a scalar word, at most two lines of code. -/
def State.codeWord (s : State) (core ctx va : Nat) : Acc (List Byte × State) :=
  match s.codeLine core ctx (va / 128) with
  | .fault f => .fault f
  | .wait => .wait
  | .ok (b0, s0) =>
    if va % 128 + 4 ≤ 128 then .ok ((b0.drop (va % 128)).take 4, s0)
    else
      match s0.codeLine core ctx (va / 128 + 1) with
      | .fault f => .fault f
      | .wait => .wait
      | .ok (b1, s1) => .ok (((b0 ++ b1).drop (va % 128)).take 4, s1)

/-- What a step will do: nothing but let clk pass, or an instruction. -/
inductive Choice where
  | idle (s : State) (clk : Nat)
  | run (i : Instr) (s : State)

/-- The scalar word a thread fetches (R43, R93): RANGE outside every loaded section; a missing translation delays. -/
def State.fetchScalar (s : State) (tid : Nat) (t : Thread) : Acc (BitVec 32 × State) :=
  match s.scodeAt t.ctx t.pc.toNat with
  | none => .fault 0x05
  | some _ =>
    match s.codeWord (coreOf tid) t.ctx t.pc.toNat with
    | .ok (bs, s) => .ok (BitVec.ofNat 32 (leNat bs), s)
    | .fault 0x06 => .wait
    | .fault f => .fault f
    | .wait => .wait

/-- Stored length a first byte announces (R24). -/
def laneLength (b : Byte) : Nat :=
  match b.toNat / 64 with
  | 2 => 8
  | 3 => 12
  | _ => 4

/-- Consecutive instructions cut from bytes of lane code that begin at an offset, by fuel (R29): each offset with its stored
bytes, the last of them as far as the bytes go. -/
def cutLane : Nat → Nat → List Byte → List (Nat × List Byte)
  | 0, _, _ => []
  | _ + 1, _, [] => []
  | f + 1, off, b :: t =>
    let n := laneLength b
    (off, (b :: t).take n) :: cutLane f (off + n) ((b :: t).drop n)

/-- Words the lane instruction cache holds: 128 KiB of 96-bit words (R11). -/
abbrev laneWords : Nat := 10922

/-- Expanded instructions kept in a core's lane instruction cache (R29, R43), the oldest leaving (log 9). -/
def State.laneFill (s : State) (core ctx base : Nat) (ws : List (Nat × List Byte)) : State :=
  let asid := s.asidOf ctx
  let new : List LaneWord := ws.map (fun w => { asid, va := base + w.1, bytes := w.2 })
  let c := s.coreAt core
  let old := c.licache.filter (fun l => !new.any (fun w => w.asid == l.asid && w.va == l.va))
  s.setCore core { c with licache := (old ++ new).drop (old.length + new.length - laneWords) }

/-- A fill of the lane instruction cache at an offset of a section (R29): the instructions from there to the end of the
128-byte window of the stream, one that crosses the window's end fetched whole where the section holds it. -/
def State.laneWindow (s : State) (core ctx : Nat) (x : Section) (off : Nat) : Acc State :=
  let die := dieOfCore core
  let stop := min x.size (off / 128 * 128 + 128)
  match s.readBytes (.unit die) ctx (x.base + off) (stop - off) with
  | .fault f => .fault f
  | .wait => .wait
  | .ok (bs, s) =>
    let ws := cutLane 33 off bs
    let short (w : Nat × List Byte) : Bool := decide (w.2.length < laneLength (w.2.headD 0))
    match ws.find? short with
    | none => .ok (s.laneFill core ctx x.base ws)
    | some w =>
      let whole := ws.filter (fun w => !short w)
      let n := laneLength (w.2.headD 0)
      if x.size < w.1 + n then .ok (s.laneFill core ctx x.base whole)
      else
        match s.readBytes (.unit die) ctx (x.base + stop) (n - w.2.length) with
        | .ok (r, s) => .ok (s.laneFill core ctx x.base (whole ++ [(w.1, w.2 ++ r)]))
        | .fault f => if whole.isEmpty then .fault f else .ok (s.laneFill core ctx x.base whole)
        | .wait => if whole.isEmpty then .wait else .ok (s.laneFill core ctx x.base whole)

/-- A word of a core's lane instruction cache. -/
def State.laneHeld (s : State) (core ctx va : Nat) : Option LaneWord :=
  (s.coreAt core).licache.find? (fun l => l.asid == s.asidOf ctx && l.va == va)

/-- The stored bytes of the instruction a gang fetches (R29, R43): none where the section ends before it does. -/
def State.fetchLane (s : State) (tid : Nat) (t : Thread) (pc : BitVec 32) : Acc (List Byte × State) :=
  match s.laneSection t with
  | none => .ok ([], s)
  | some x =>
    if x.size ≤ pc.toNat then .ok ([], s)
    else
      let core := coreOf tid
      match s.laneHeld core t.ctx (x.base + pc.toNat) with
      | some w => .ok (w.bytes, s)
      | none =>
        match s.laneWindow core t.ctx x pc.toNat with
        | .ok s => .ok (((s.laneHeld core t.ctx (x.base + pc.toNat)).elim [] (fun w => w.bytes)), s)
        | .fault 0x06 => .wait
        | .fault f => .fault f
        | .wait => .wait

/-- A scalar sequencer's turn: the word it fetches, decoded (R21, R40). -/
def State.turnScalar (s : State) (tid : Nat) : Choice :=
  let cur : Issuer := { tid, party := .scalar, len := 4 }
  match look s.threads tid with
  | none => .run .nonInstructionScalar { s with cur := cur }
  | some t =>
    if t.ended then .run .nonInstructionScalar { s with cur := cur }
    else if !s.mayGoOn tid t.ctx t.wait || !reissues t.wait then .idle s 1
    else
      match s.fetchScalar tid t with
      | .fault f => .idle (s.fault tid (scalarF t f t.pc 0)) 1
      | .wait => .idle (s.walksRas t.ctx [t.pc.toNat, t.pc.toNat + 3]) 1
      | .ok (w, s) =>
        match decodeScalar w with
        | some i => .run i { s with cur := cur }
        | none => .run .nonInstructionScalar { s with cur := cur }

/-- What a gang waits for, which each of its slices keeps. -/
def Thread.gangWaits (t : Thread) (g : Nat) : Option Wait :=
  (t.gangSlices g).findSome? (fun i => (t.sl[i]?).bind (fun x => x.wait))

/-- Whether a gang may issue: a block runs, and no slice of it is held at the start of an instruction or waits for another party
(R255, R257, R393). -/
def Thread.gangReady (t : Thread) (g : Nat) : Bool :=
  t.running && !(t.gangSlices g).isEmpty
    && (t.gangSlices g).all (fun i =>
      match t.sl[i]? with | some x => (x.wait.isSome || !x.held) && reissues x.wait | none => false)

/-- The addresses of the lane code a gang fetches. -/
def State.laneAddrs (s : State) (t : Thread) (pc : BitVec 32) : List Nat :=
  (s.laneSection t).elim [] (fun x => [x.base + pc.toNat, x.base + pc.toNat + 11])

/-- A gang's turn: the instruction it fetches, decoded (R24, R29, R41), with at most so many line requests of it performed
(R201). -/
def State.turnLane (s : State) (tid g : Nat) (lines : Option Nat) : Choice :=
  match look s.threads tid with
  | none => .run .nonInstructionLane { s with cur := { tid, party := .gang g, len := 4 } }
  | some t =>
    if t.ended then .run .nonInstructionLane { s with cur := { tid, party := .gang g, len := 4 } }
    else if !s.mayGoOn tid t.ctx (t.gangWaits g) || !t.gangReady g || s.gated then .idle s 1
    else
      match s.fetchLane tid t (t.gangPc g) with
      | .fault f => .idle (s.fault tid (gangF t g f 0xFF 0 0)) 1
      | .wait => .idle (s.walksRas t.ctx (s.laneAddrs t (t.gangPc g))) 1
      | .ok (bs, s) =>
        match decodeLane bs with
        | .ok (i, f) => .run i { s with cur := { tid, party := .gang g, len := f.bytes, lines } }
        | .error _ => .run .nonInstructionLane { s with cur := { tid, party := .gang g, len := 4 } }

/-- Whether a turn gets anywhere: it does not where the instruction only waits on. -/
def Choice.acts (c : Choice) (was : State) : Bool :=
  match c with
  | .idle s _ => decide (s ≠ was)
  | .run i s => (match exec i s with | .next t => decide (t ≠ s) | _ => true)

/-- Whether a party that may issue is ready (R255, R300): one that waits is where its instruction, issued again, would get
further. -/
def State.partyReady (s : State) (tid : Nat) (g : Option Nat) (w : Option Wait) : Bool :=
  w.isNone || (reissues w && (match g with | none => s.turnScalar tid | some g => s.turnLane tid g none).acts s)

/-- A party that may issue: its class, since when it has been ready, when it issued last, its slot and its gang (none for the
scalar sequencer). -/
structure Ready where
  tid   : Nat
  prio  : Nat
  since : Nat
  last  : Nat
  gang  : Option Nat
  deriving DecidableEq, Repr

/-- The gangs of a thread, by their lowest slices (R255). -/
def Thread.gangs (t : Thread) : List Nat :=
  (upFrom 0 t.sl.length).filter (fun g => !(t.gangSlices g).isEmpty)

/-- The parties of a thread that are ready to issue. -/
def State.readyOf (s : State) (tid : Nat) (t : Thread) (lane : Bool) : List Ready :=
  if t.ended then []
  else if lane then
    if s.gated then []
    else (t.gangs.filter (fun g => t.gangReady g && s.mayGoOn tid t.ctx (t.gangWaits g)
        && s.partyReady tid (some g) (t.gangWaits g))).map (fun g =>
      let x := t.sl[g]?
      { tid, prio := t.prio, since := x.elim 0 (fun x => x.since), last := x.elim 0 (fun x => x.last), gang := some g })
  else if s.mayGoOn tid t.ctx t.wait && s.partyReady tid none t.wait then
    [{ tid, prio := t.prio, since := t.since, last := 0, gang := none }]
  else []

/-- The first of a list in an order, of equals the first in the list. -/
def firstBy (f : Ready → Nat) : List Ready → Option Ready
  | [] => none
  | x :: t =>
    match firstBy f t with
    | none => some x
    | some y => if f y < f x then some y else some x

/-- The party of a class that issues (R300): the one ready longest, then the lowest slot; of gangs of one thread the one that
issued least recently (R255). -/
def eldest (rs : List Ready) : Option Ready :=
  (firstBy (fun r => r.since) rs).bind (fun r => firstBy (fun x => x.last) (rs.filter (fun x => x.tid == r.tid)))

/-- Weight of a class in PRIO_W (R300). -/
def weightOf (w : BitVec 32) (c : Nat) : Nat := bits w.toNat (8 * c + 7) (8 * c)

/-- The class a pipe serves (R300): the highest with a ready party and credit left; with none, every credit is
reloaded first. -/
def pickClass (credits : List Nat) (weights : List Nat) (rs : List Ready) : Option (Nat × List Nat) :=
  let try_ (cs : List Nat) : Option Nat :=
    [0, 1, 2, 3].find? (fun c => rs.any (fun r => r.prio == c) && decide (0 < nth cs c 0))
  match try_ credits with
  | some c => some (c, setNth credits c (nth credits c 0 - 1))
  | none =>
    match try_ weights with
    | some c => some (c, setNth weights c (nth weights c 0 - 1))
    | none => none

/-- The party that issues next on a core's scalar unit or lane pipe, with the credits spent (R300). -/
def State.issueOn (s : State) (core : Nat) (lane : Bool) : Option (Ready × State) :=
  let rs := (s.threads.filter (fun p => p.1 / 32 == core)).flatMap (fun p => s.readyOf p.1 p.2 lane)
  let w := (s.partAt ((s.partOfCore core).getD 0)).prioW
  let weights := [weightOf w 0, weightOf w 1, weightOf w 2, weightOf w 3]
  let c := s.coreAt core
  let pipe := s.clk / (4 * Config.cores) % 2
  let credits := if lane then (c.lcredits.drop (4 * pipe)).take 4 else c.credits
  match pickClass credits weights rs with
  | none => none
  | some (k, cs) =>
    match eldest (rs.filter (fun r => r.prio == k)) with
    | none => none
    | some r =>
      let c := if lane then { c with lcredits := patchList c.lcredits (4 * pipe) cs } else { c with credits := cs }
      some (r, s.setCore core c)
where
  /-- A list with a part replaced. -/
  patchList (l : List Nat) (i : Nat) (n : List Nat) : List Nat := l.take i ++ n ++ l.drop (i + n.length)

/-- The cores that hold threads, from the clk's core on (log 3). Each core stands first for four clk, so that both of its units
come first in turn, before the machine's events and after them (R252, R264). -/
def State.coreOrder (s : State) : List Nat :=
  let cs := (s.threads.map (fun p => p.1 / 32)).eraseDups
  let k := s.clk / 4 % Config.cores
  cs.filter (fun c => decide (k ≤ c)) ++ cs.filter (fun c => decide (c < k))

/-- The first core whose unit has a ready party. -/
def State.issueAny (s : State) (lane : Bool) : List Nat → Option (Ready × State)
  | [] => none
  | c :: t =>
    match s.issueOn c lane with
    | some r => some r
    | none => s.issueAny lane t

/-- A party's readiness starts anew as it issues (R300). -/
def State.issued (s : State) (r : Ready) : State :=
  s.onLive r.tid (fun t =>
    match r.gang with
    | none => { t with since := s.clk }
    | some g => { t with sl := t.sl.map (fun x => if x.gang = g then { x with since := s.clk, last := s.clk + 1 } else x) })

/-- A party's turn. -/
def State.partyTurn (s : State) (r : Ready) (lines : Option Nat) : Choice :=
  match r.gang with
  | none => (s.issued r).turnScalar r.tid
  | some g => (s.issued r).turnLane r.tid g lines

/-- A party the agenda names (log 3): it issues where its unit's rotation has come to it (R255, R300). -/
def State.namedTurn (s : State) (tid : Nat) (g : Option Nat) (lines : Option Nat) : Choice :=
  if (look s.threads tid).any (fun t => !t.ended) then
    match s.issueOn (coreOf tid) g.isSome with
    | some (r, s') => if r.tid = tid ∧ r.gang = g then s'.partyTurn r lines else .idle s 1
    | none => .idle s 1
  else
    match g with
    | none => s.turnScalar tid
    | some g => s.turnLane tid g lines

/-- The party that issues by R300, scalar and lane units in turn. -/
def State.nextParty (s : State) : Option Choice :=
  let lane := s.clk / 2 % 2 == 1
  match s.issueAny lane s.coreOrder with
  | some (r, s) => some (s.partyTurn r none)
  | none => (s.issueAny (!lane) s.coreOrder).map (fun x => x.2.partyTurn x.1 none)

/-- The machine's own choice (log 3): on even clk a due event goes before a party, on odd clk after it; else clk passes. -/
def State.ownTurn (s : State) : Choice :=
  let ev (u : Unit → Choice) : Choice :=
    match dueEvent s with
    | some (i, a) => .run i (s.asEvent a)
    | none => u ()
  let idle (_ : Unit) : Choice := .idle s 1
  let party (u : Unit → Choice) : Choice :=
    match s.nextParty with
    | some c => c
    | none => u ()
  if s.clk % 2 = 0 then ev (fun _ => party idle) else party (fun _ => ev idle)

/-- What the step does: the agenda's head if there is one (log 3), else the machine's own choice; requests of the host that
wait are taken up again every 16 clk. -/
def State.turn (s : State) : Choice :=
  match s.agenda with
  | [] =>
    match s.later with
    | [] => s.ownTurn
    | l => if s.clk % 16 = 0 then .idle { s with agenda := l, later := [] } 1 else s.ownTurn
  | .scalar tid :: r => { s with agenda := r }.namedTurn tid none none
  | .lane tid g :: r => { s with agenda := r }.namedTurn tid (some g) none
  | .lines tid g n :: r => { s with agenda := r }.namedTurn tid (some g) (some n)
  | .event i a :: r => .run i (State.asEvent { s with agenda := r } a)
  | .tick n :: r => .idle { s with agenda := r } n

/-- Whether a sequencer is blocked in a wait for another party (R390). -/
def waitsOther : Option Wait → Bool
  | none => false
  | some .stall => false
  | some (.port _ _) => false
  | some (.home _ _) => false
  | some (.loaded _) => false
  | some (.spawn _ slot) => slot
  | some .select => false
  | some (.deliver _ _ _ _ _) => false
  | _ => true

/-- Whether the lane sequencer is neither idle nor blocked in a wait for another party (R390): a block is queued that has yet to
start, or one runs and some slice issues, or all have come to its end. -/
def Thread.laneBusy (t : Thread) : Bool :=
  let issuing := t.sl.filter (fun x => x.st == .issuing)
  if t.running then issuing.isEmpty || issuing.any (fun x => !x.held && !waitsOther x.wait) else !t.blocks.isEmpty

/-- Whether a thread's clk counts for the watchdog (R390). -/
def Thread.wdogCounts (t : Thread) : Bool := !t.ended && (!waitsOther t.wait || t.laneBusy)

/-- The slices that `sys.sys` holds part from their gang once it is between instructions, each on its own (R364); the others go on
as a gang of theirs. -/
def Thread.partHeld (t : Thread) : Thread :=
  if t.sl.any (fun x => x.held) then
    let free (x : Slice) : Bool := x.st == .issuing && x.wait.isNone
    { t with sl := t.sl.zipIdx.map (fun (p : Slice × Nat) =>
        if !free p.1 then p.1
        else if p.1.held then { p.1 with gang := p.2 }
        else { p.1 with gang := (t.sl.findIdx? (fun y => free y && !y.held && y.gang == p.1.gang)).getD p.2 }) }
  else t

/-- A thread's parties that are not ready at a clk will have been ready only from then on (R300). -/
def State.unready (s : State) (tid : Nat) (t : Thread) : Thread :=
  { t with
    since := (if s.partyReady tid none t.wait then t.since else s.clk)
    sl := t.sl.map (fun (x : Slice) =>
      if x.st == .issuing && (x.wait.isSome || !x.held) && s.partyReady tid (some x.gang) x.wait then x
      else { x with since := s.clk }) }

/-- A thread n clk later (R390). -/
def State.threadLater (s : State) (n tid : Nat) (t : Thread) : Thread :=
  if !s.gated && t.wdogCounts && (s.partAt (partOfCtx t.ctx)).census == 0 && !(s.coreAt (coreOf tid)).swapped then
    { t with wdog := t.wdog + n }
  else t

/-- The clocks n clk later (R15, R390, R400), with what homes had put off done first. -/
def State.advance (s : State) (n : Nat) : State :=
  let s := s.doChores
  let s : State := { s with
    clk := s.clk + n
    ungated := if s.gated then s.ungated else s.ungated + n
    threads := s.threads.map (fun p => (p.1, s.threadLater n p.1 p.2.partHeld))
    cohorts := if s.gated then s.cohorts else s.cohorts.map (fun p =>
      if (s.coreAt (p.1 / 32)).swapped then p else (p.1, { p.2 with elapsed := p.2.elapsed + n })) }
  { s with threads := s.threads.map (fun p => (p.1, if p.2.ended then p.2 else s.unready p.1 p.2)) }

/-- A slice of a thread that runs no block (R253). -/
def Slice.fresh : Slice :=
  { lpc := 0, skip := 0, mask := 0xF, gang := 0, st := .idle, stack := [], held := false, wait := none, since := 0, last := 0 }

/-- A thread's zero image (R419): one slice, the least VREGS, nothing declared. -/
def Thread.image (ctx cohort : Nat) (pc : Word) : Thread :=
  { uid := 0, ctx, cohort, index := 0, csize := 1, slices := 1, prio := 0, role := 0, vregs := 8, tiles := [],
    s := RegFile.zero, v := RegFile.zero, vpoison := [], p := RegFile.zero, y := RegFile.zero, pc, fpflags := 0, fpctl := 0,
    rngkey := 0, rngctr := 0, task := 0, winid := 0, stream := 0,
    sl := [Slice.fresh],
    blocks := [], running := false, ranges := [], grant := [], clean := true, wdog := 0, portCopy := 0, wait := none,
    redBuf := [], reserved := [], emits := [], detached := false, ended := false, faulted := false, step := none,
    piece := 0, ranged := false, since := 0 }

/-- A context with nothing configured (R374, R419). -/
def Ctx.fresh (asid : BitVec 16) (root : Nat) : Ctx :=
  { asid, priv := false, root, wdog := 0, rngseed := 0, faultQ := 0, submitQ := 0, lost := 0, lostRun := false,
    seq := 0, optab := [], scopes := [], sched := [], evstep := 0, rolemaps := [], uints := [],
    portPage := none, sections := [], launches := [], halted := false }

/-- A cohort of one thread with no scratchpad. -/
def Cohort.bare (ctx : Nat) (entry : Word) (tid : Nat) : Cohort :=
  { uid := 0, ctx, entry, members := [tid], csize := 1, prio := 0, window := false, spbase := 0, spsize := 0,
    scratch := RegFile.zero, spoison := [], operand := RegFile.zero, opoison := [], recs := [], bars := [],
    freeUnits := 0, poolTiles := [], claims := [], queues := [], elapsed := 0,
    pend := [], drain := none, saving := none, missed := false, age := 0 }

/-- The words of the page table `placeWord` writes: the page at 0x10000 in frame 1 of every channel (R347, R348). -/
def placeTables (t : SMap Word) : SMap Word :=
  let node (a : Nat) : Word := word (2 ^ 63 + a)
  put (put (put (put (put t 0 (node 0x1000)) 0x1000 (node 0x2000)) 0x2000 (node 0x3000)) 0x3000 (node 0x4000)) 0x4008
    (word (0xF800000000000001))

/-- An instruction's bytes placed where the next step fetches (log 7): context 0 of partition 0 maps one page at
0x10000 that holds it, a section is marked loaded there, a thread with the zero image stands at core 0 slot 0, and the
agenda names its party. A scalar word is run by the scalar sequencer, longer words by the one gang of a running
block. -/
def State.placeWord (s : State) (nbits w : Nat) : State :=
  let lane := decide (32 < nbits)
  let bs := if lane then leBytes 12 w else leBytes 4 w
  let scode : Section := { base := 0x10000, size := 0x8000, lane := false, obj := 0 }
  let lcode : Section := { base := 0x18000, size := 0x8000, lane := true, obj := 0 }
  let c := { Ctx.fresh 1 0 with sections := [scode, lcode] }
  let t := Thread.image 0 0 0x10000
  let t := if lane then
      { t with running := true, blocks := [{ entry := 0, args := [] }],
               sl := t.sl.map (fun x => { x with st := .issuing }) }
    else t
  let s := { s with
    tables := placeTables s.tables
    ctxs := put s.ctxs 0 c
    threads := put s.threads 0 t
    cohorts := put s.cohorts 0 (Cohort.bare 0 0x10000 0)
    l2 := s.l2.filter (fun l => l.2.asid != 1)
    cores := put s.cores 0 { s.coreAt 0 with sicache := [], licache := [] }
    parts :=
      put s.parts 0 { s.partAt 0 with nextFrame := max 256 (s.partAt 0).nextFrame, tableNext := max 0x5000 (s.partAt 0).tableNext }
    agenda := [if lane then .lane 0 0 else .scalar 0] }
  match s.place 0 (if lane then 0x18000 else 0x10000) with
  | .byte pa => { s with mem := Mem.writeBytes s.mem pa bs }
  | _ => s

end Sys2Proof.Machine
end

