-- ==== Sys2Proof/Machine/Step.lean ====
section
/-! DEFINITION. Sys2Proof/Machine/Step.lean: one step of the machine: what its turn chooses (Sched.lean), with the
clocks one clk later (log 4). -/

namespace Sys2Proof.Machine

/-- One step. -/
def step (s : State) : Host.Outcome State Fault Refusal :=
  match s.turn with
  | .idle s' n => .next (s'.advance n)
  | .run i s' =>
    match exec i s' with
    | .next t => .next (t.advance 1)
    | .fault f => .fault f
    | .refused r => .refused r

/-- The machine with an instruction placed where the next step fetches it (log 7). -/
def State.withFetchWord (s : State) (nbits w : Nat) : State := s.placeWord nbits w

end Sys2Proof.Machine
end

