-- ==== Sys2Proof/Laws/Memory.lean ====
section
/-! SUPPORT. Sys2Proof/Laws/Memory.lean: the laws of the sparse collections and of byte memory: what is read after a
write, and that every operation keeps the canonical form. -/

namespace Sys2Proof.Machine

section maps
variable {α : Type}

@[simp] theorem look_nil (k : Nat) : look ([] : SMap α) k = none := rfl

theorem look_put_same (m : SMap α) (k : Nat) (v : α) : look (put m k v) k = some v := by
  induction m with
  | nil => simp [put, look]
  | cons x t ih =>
    obtain ⟨k', v'⟩ := x
    simp only [put]
    split
    · simp [look]
    · split
      · simp [look]
      · next h => simp [look, Ne.symm h, ih]

theorem look_put_ne (m : SMap α) {k j : Nat} (v : α) (h : j ≠ k) : look (put m k v) j = look m j := by
  induction m with
  | nil => simp [put, look, Ne.symm h]
  | cons x t ih =>
    obtain ⟨k', v'⟩ := x
    simp only [put]
    split
    · simp [look, Ne.symm h]
    · split
      · next e => subst e; simp [look, Ne.symm h]
      · simp [look, ih]

theorem look_put (m : SMap α) (k j : Nat) (v : α) : look (put m k v) j = if j = k then some v else look m j := by
  split
  · next h => subst h; exact look_put_same m j v
  · next h => exact look_put_ne m v h

theorem put_put (m : SMap α) (k : Nat) (v w : α) : put (put m k v) k w = put m k w := by
  induction m with
  | nil => simp [put]
  | cons x t ih =>
    obtain ⟨k', v'⟩ := x
    by_cases h1 : k < k'
    · simp [put, h1]
    · by_cases h2 : k = k'
      · simp [put, h2]
      · simp [put, h1, h2, ih]

theorem put_look (m : SMap α) (k : Nat) (v : α) (hs : sorted m = true) (h : look m k = some v) : put m k v = m := by
  induction m with
  | nil => simp at h
  | cons x t ih =>
    obtain ⟨k', v'⟩ := x
    by_cases h2 : k' = k
    · subst h2; simp [look] at h; simp [put, h]
    · have ht : sorted t = true := by
        cases t with
        | nil => rfl
        | cons y u => obtain ⟨a, b⟩ := y; simp [sorted] at hs; exact hs.2
      have hl : look t k = some v := by simpa [look, h2] using h
      have hlt : k' < k := by
        clear ih h
        induction t generalizing k' v' with
        | nil => simp at hl
        | cons y u ihu =>
          obtain ⟨a, b⟩ := y
          simp [sorted] at hs
          by_cases e : a = k
          · omega
          · have hu : sorted u = true := by
              cases u with
              | nil => rfl
              | cons z w => obtain ⟨c, d⟩ := z; simp [sorted] at ht; exact ht.2
            have : a < k := ihu a b hs.2 e hu (by simpa [look, e] using hl)
            omega
      simp [put, Nat.not_lt.mpr (Nat.le_of_lt hlt), Ne.symm h2, ih ht hl]

theorem look_del (m : SMap α) (k j : Nat) : look (del m k) j = if j = k then none else look m j := by
  induction m with
  | nil => simp [del]
  | cons x t ih =>
    obtain ⟨k', v'⟩ := x
    by_cases h : k' = k
    · have hd : del ((k', v') :: t) k = del t k := by simp [del, h]
      rw [hd, ih]
      split
      · rfl
      · next e => simp [look, h, Ne.symm e]
    · by_cases e : j = k
      · subst e; simp [del, h, ih, look]
      · simp [del, h, ih, e, look]

/-- Strictly rising keys, as a pairwise relation. -/
theorem sorted_iff (m : SMap α) : sorted m = true ↔ m.Pairwise (fun a b => a.1 < b.1) := by
  induction m with
  | nil => simp [sorted]
  | cons x t ih =>
    obtain ⟨k, v⟩ := x
    cases t with
    | nil => simp [sorted]
    | cons y u =>
      obtain ⟨k', v'⟩ := y
      simp only [sorted, Bool.and_eq_true, decide_eq_true_eq, ih]
      constructor
      · rintro ⟨h, hp⟩
        refine List.Pairwise.cons ?_ hp
        intro z hz
        rcases List.mem_cons.mp hz with rfl | hz
        · exact h
        · exact lt_trans h ((List.pairwise_cons.mp hp).1 z hz)
      · intro hp
        have h := List.pairwise_cons.mp hp
        exact ⟨h.1 _ (List.mem_cons_self ..), h.2⟩

theorem mem_put (m : SMap α) (k : Nat) (v : α) (c : Nat × α) (h : c ∈ put m k v) : c = (k, v) ∨ c ∈ m := by
  induction m with
  | nil => simpa [put] using h
  | cons x t ih =>
    obtain ⟨k', v'⟩ := x
    simp only [put] at h
    split at h
    · simpa using h
    · split at h
      · rcases List.mem_cons.mp h with h | h
        · exact .inl h
        · exact .inr (List.mem_cons_of_mem _ h)
      · rcases List.mem_cons.mp h with h | h
        · exact .inr (by simp [h])
        · rcases ih h with h | h
          · exact .inl h
          · exact .inr (List.mem_cons_of_mem _ h)

theorem mem_del (m : SMap α) (k : Nat) (c : Nat × α) (h : c ∈ del m k) : c ∈ m := by
  induction m with
  | nil => simp [del] at h
  | cons x t ih =>
    obtain ⟨k', v'⟩ := x
    simp only [del] at h
    split at h
    · exact List.mem_cons_of_mem _ (ih h)
    · rcases List.mem_cons.mp h with h | h
      · simp [h]
      · exact List.mem_cons_of_mem _ (ih h)

theorem sorted_put (m : SMap α) (k : Nat) (v : α) (h : sorted m = true) : sorted (put m k v) = true := by
  rw [sorted_iff] at h ⊢
  induction m with
  | nil => simp [put]
  | cons x t ih =>
    obtain ⟨k', v'⟩ := x
    have hx := List.pairwise_cons.mp h
    simp only [put]
    split
    · next hk =>
      refine List.Pairwise.cons ?_ h
      intro z hz
      rcases List.mem_cons.mp hz with rfl | hz
      · exact hk
      · exact lt_trans hk (hx.1 z hz)
    · split
      · next _ e => subst e; exact List.Pairwise.cons hx.1 hx.2
      · next hn hne =>
        refine List.Pairwise.cons ?_ (ih hx.2)
        intro z hz
        rcases mem_put t k v z hz with rfl | hz
        · simp only []; omega
        · exact hx.1 z hz

theorem sorted_del (m : SMap α) (k : Nat) (h : sorted m = true) : sorted (del m k) = true := by
  rw [sorted_iff] at h ⊢
  induction m with
  | nil => simp [del]
  | cons x t ih =>
    obtain ⟨k', v'⟩ := x
    have hx := List.pairwise_cons.mp h
    simp only [del]
    split
    · exact ih hx.2
    · exact List.Pairwise.cons (fun z hz => hx.1 z (mem_del t k z hz)) (ih hx.2)

theorem sorted_filter (m : SMap α) (p : Nat × α → Bool) (h : sorted m = true) : sorted (m.filter p) = true := by
  rw [sorted_iff] at h ⊢
  exact h.filter p

end maps

/-! Byte memory. -/

theorem Mem.wf_iff (m : List Host.Cell) : Mem.wf m = true ↔ sorted m = true ∧ ∀ c ∈ m, c.2 ≠ 0 := by
  simp [Mem.wf]

theorem Mem.wf_nil : Mem.wf [] = true := rfl

theorem Mem.wf_write (m : List Host.Cell) (a : Nat) (b : Byte) (h : Mem.wf m = true) : Mem.wf (Mem.write m a b) = true := by
  rw [Mem.wf_iff] at h ⊢
  unfold Mem.write
  split
  · exact ⟨sorted_del m a h.1, fun c hc => h.2 c (mem_del m a c hc)⟩
  · next hb =>
    refine ⟨sorted_put m a b h.1, fun c hc => ?_⟩
    rcases mem_put m a b c hc with rfl | hc
    · exact hb
    · exact h.2 c hc

theorem Mem.wf_filter (m : List Host.Cell) (p : Host.Cell → Bool) (h : Mem.wf m = true) : Mem.wf (m.filter p) = true := by
  rw [Mem.wf_iff] at h ⊢
  exact ⟨sorted_filter m p h.1, fun c hc => h.2 c (List.mem_of_mem_filter hc)⟩

theorem Mem.wf_writeBytes (bs : List Byte) (m : List Host.Cell) (a : Nat) (h : Mem.wf m = true) :
    Mem.wf (Mem.writeBytes m a bs) = true := by
  induction bs generalizing m a with
  | nil => exact h
  | cons b t ih => exact ih _ _ (Mem.wf_write m a b h)

theorem Mem.wf_writeN (n : Nat) (m : List Host.Cell) (a v : Nat) (h : Mem.wf m = true) :
    Mem.wf (Mem.writeN m a n v) = true := by
  induction n generalizing m a v with
  | zero => exact h
  | succ n ih => exact ih _ _ _ (Mem.wf_write m a _ h)

theorem Mem.wf_foldl {β : Type} (f : List Host.Cell → β → List Host.Cell)
    (hf : ∀ m x, Mem.wf m = true → Mem.wf (f m x) = true) (l : List β) (m : List Host.Cell) (h : Mem.wf m = true) :
    Mem.wf (l.foldl f m) = true := by
  induction l generalizing m with
  | nil => exact h
  | cons x t ih => exact ih _ (hf m x h)

theorem Mem.read_write (m : List Host.Cell) (a j : Nat) (b : Byte) :
    Mem.read (Mem.write m a b) j = if j = a then b else Mem.read m j := by
  unfold Mem.read Mem.write
  split
  · next hb =>
    rw [look_del]
    split
    · simp [hb]
    · rfl
  · rw [look_put]
    split <;> simp

theorem Mem.read_writeBytes_before (bs : List Byte) (m : List Host.Cell) (a j : Nat) (h : j < a) :
    Mem.read (Mem.writeBytes m a bs) j = Mem.read m j := by
  induction bs generalizing m a with
  | nil => rfl
  | cons b t ih =>
    show Mem.read (Mem.writeBytes (Mem.write m a b) (a + 1) t) j = _
    rw [ih _ _ (by omega), Mem.read_write, if_neg (by omega)]

theorem Mem.read_writeBytes_after (bs : List Byte) (m : List Host.Cell) (a j : Nat) (h : a + bs.length ≤ j) :
    Mem.read (Mem.writeBytes m a bs) j = Mem.read m j := by
  induction bs generalizing m a with
  | nil => rfl
  | cons b t ih =>
    simp only [List.length_cons] at h
    show Mem.read (Mem.writeBytes (Mem.write m a b) (a + 1) t) j = _
    rw [ih _ _ (by omega), Mem.read_write, if_neg (by omega)]

theorem Mem.readBytes_congr (n : Nat) (m m' : List Host.Cell) (a : Nat)
    (h : ∀ j, a ≤ j → j < a + n → Mem.read m j = Mem.read m' j) : Mem.readBytes m a n = Mem.readBytes m' a n := by
  induction n generalizing a with
  | zero => rfl
  | succ n ih =>
    simp only [Mem.readBytes]
    rw [h a (le_refl _) (by omega), ih (a + 1) (fun j h1 h2 => h j (by omega) (by omega))]

@[simp] theorem Mem.readBytes_length (n : Nat) (m : List Host.Cell) (a : Nat) : (Mem.readBytes m a n).length = n := by
  induction n generalizing a with
  | zero => rfl
  | succ n ih => simp [Mem.readBytes, ih]

@[simp] theorem leBytes_length (n w : Nat) : (leBytes n w).length = n := by
  induction n generalizing w with
  | zero => rfl
  | succ n ih => simp [leBytes, ih]

theorem Mem.writeN_eq (n : Nat) (m : List Host.Cell) (a v : Nat) :
    Mem.writeN m a n v = Mem.writeBytes m a (leBytes n v) := by
  induction n generalizing m a v with
  | zero => rfl
  | succ n ih => simp [Mem.writeN, leBytes, Mem.writeBytes, ih]

theorem Mem.readN_eq (n : Nat) (m : List Host.Cell) (a : Nat) : Mem.readN m a n = leNat (Mem.readBytes m a n) := by
  induction n generalizing a with
  | zero => rfl
  | succ n ih => simp [Mem.readN, Mem.readBytes, leNat, ih]

/-! Lists of numbers and setting elements. -/

@[simp] theorem upFrom_length (n lo : Nat) : (upFrom lo n).length = n := by
  induction n generalizing lo with
  | zero => rfl
  | succ n ih => simp [upFrom, ih]

theorem mem_upFrom (n lo k : Nat) : k ∈ upFrom lo n ↔ lo ≤ k ∧ k < lo + n := by
  induction n generalizing lo with
  | zero => simp [upFrom]
  | succ n ih => simp only [upFrom, List.mem_cons, ih]; omega

@[simp] theorem setNth_length {α : Type} (l : List α) (i : Nat) (v : α) : (setNth l i v).length = l.length := by
  induction l generalizing i with
  | nil => simp [setNth]
  | cons x t ih => cases i <;> simp [setNth, ih]

end Sys2Proof.Machine
end

