-- ==== Sys2Proof/Laws/State.lean ====
section
/-! SUPPORT. Sys2Proof/Laws/State.lean: one lemma for each field of the state under each of its updates, and for each
field of a thread under the updates an instruction's completion makes, so that no later proof unfolds a record. -/

namespace Sys2Proof.Machine

/-! Fields after State.setThread. -/

@[simp] theorem State.setThread_cur (s : State) (k : Nat) (x : Thread) : (s.setThread k x).cur = s.cur := rfl
@[simp] theorem State.setThread_arg (s : State) (k : Nat) (x : Thread) : (s.setThread k x).arg = s.arg := rfl
@[simp] theorem State.setThread_agenda (s : State) (k : Nat) (x : Thread) : (s.setThread k x).agenda = s.agenda := rfl
@[simp] theorem State.setThread_later (s : State) (k : Nat) (x : Thread) : (s.setThread k x).later = s.later := rfl
@[simp] theorem State.setThread_freeCount (s : State) (k : Nat) (x : Thread) : (s.setThread k x).freeCount = s.freeCount := rfl
@[simp] theorem State.setThread_nextUid (s : State) (k : Nat) (x : Thread) : (s.setThread k x).nextUid = s.nextUid := rfl
@[simp] theorem State.setThread_nextAge (s : State) (k : Nat) (x : Thread) : (s.setThread k x).nextAge = s.nextAge := rfl
@[simp] theorem State.setThread_clk (s : State) (k : Nat) (x : Thread) : (s.setThread k x).clk = s.clk := rfl
@[simp] theorem State.setThread_ptsBase (s : State) (k : Nat) (x : Thread) : (s.setThread k x).ptsBase = s.ptsBase := rfl
@[simp] theorem State.setThread_ungated (s : State) (k : Nat) (x : Thread) : (s.setThread k x).ungated = s.ungated := rfl
@[simp] theorem State.setThread_gated (s : State) (k : Nat) (x : Thread) : (s.setThread k x).gated = s.gated := rfl
@[simp] theorem State.setThread_timeBase (s : State) (k : Nat) (x : Thread) : (s.setThread k x).timeBase = s.timeBase := rfl
@[simp] theorem State.setThread_clkBase (s : State) (k : Nat) (x : Thread) : (s.setThread k x).clkBase = s.clkBase := rfl
@[simp] theorem State.setThread_slew (s : State) (k : Nat) (x : Thread) : (s.setThread k x).slew = s.slew := rfl
@[simp] theorem State.setThread_timeSrc (s : State) (k : Nat) (x : Thread) : (s.setThread k x).timeSrc = s.timeSrc := rfl
@[simp] theorem State.setThread_pkg (s : State) (k : Nat) (x : Thread) : (s.setThread k x).pkg = s.pkg := rfl
@[simp] theorem State.setThread_run (s : State) (k : Nat) (x : Thread) : (s.setThread k x).run = s.run := rfl
@[simp] theorem State.setThread_devLevel (s : State) (k : Nat) (x : Thread) : (s.setThread k x).devLevel = s.devLevel := rfl
@[simp] theorem State.setThread_version (s : State) (k : Nat) (x : Thread) : (s.setThread k x).version = s.version := rfl
@[simp] theorem State.setThread_bootm (s : State) (k : Nat) (x : Thread) : (s.setThread k x).bootm = s.bootm := rfl
@[simp] theorem State.setThread_expected (s : State) (k : Nat) (x : Thread) : (s.setThread k x).expected = s.expected := rfl
@[simp] theorem State.setThread_identity (s : State) (k : Nat) (x : Thread) : (s.setThread k x).identity = s.identity := rfl
@[simp] theorem State.setThread_mem (s : State) (k : Nat) (x : Thread) : (s.setThread k x).mem = s.mem := rfl
@[simp] theorem State.setThread_poison (s : State) (k : Nat) (x : Thread) : (s.setThread k x).poison = s.poison := rfl
@[simp] theorem State.setThread_tables (s : State) (k : Nat) (x : Thread) : (s.setThread k x).tables = s.tables := rfl
@[simp] theorem State.setThread_l2 (s : State) (k : Nat) (x : Thread) : (s.setThread k x).l2 = s.l2 := rfl
@[simp] theorem State.setThread_slices (s : State) (k : Nat) (x : Thread) : (s.setThread k x).slices = s.slices := rfl
@[simp] theorem State.setThread_tlbs (s : State) (k : Nat) (x : Thread) : (s.setThread k x).tlbs = s.tlbs := rfl
@[simp] theorem State.setThread_walkers (s : State) (k : Nat) (x : Thread) : (s.setThread k x).walkers = s.walkers := rfl
@[simp] theorem State.setThread_pins (s : State) (k : Nat) (x : Thread) : (s.setThread k x).pins = s.pins := rfl
@[simp] theorem State.setThread_migCount (s : State) (k : Nat) (x : Thread) : (s.setThread k x).migCount = s.migCount := rfl
@[simp] theorem State.setThread_noMigrate (s : State) (k : Nat) (x : Thread) : (s.setThread k x).noMigrate = s.noMigrate := rfl
@[simp] theorem State.setThread_extents (s : State) (k : Nat) (x : Thread) : (s.setThread k x).extents = s.extents := rfl
@[simp] theorem State.setThread_queues (s : State) (k : Nat) (x : Thread) : (s.setThread k x).queues = s.queues := rfl
@[simp] theorem State.setThread_parts (s : State) (k : Nat) (x : Thread) : (s.setThread k x).parts = s.parts := rfl
@[simp] theorem State.setThread_ctxs (s : State) (k : Nat) (x : Thread) : (s.setThread k x).ctxs = s.ctxs := rfl
@[simp] theorem State.setThread_cores (s : State) (k : Nat) (x : Thread) : (s.setThread k x).cores = s.cores := rfl
@[simp] theorem State.setThread_threads (s : State) (k : Nat) (x : Thread) : (s.setThread k x).threads = put s.threads k x := rfl
@[simp] theorem State.setThread_cohorts (s : State) (k : Nat) (x : Thread) : (s.setThread k x).cohorts = s.cohorts := rfl
@[simp] theorem State.setThread_dies (s : State) (k : Nat) (x : Thread) : (s.setThread k x).dies = s.dies := rfl
@[simp] theorem State.setThread_chans (s : State) (k : Nat) (x : Thread) : (s.setThread k x).chans = s.chans := rfl
@[simp] theorem State.setThread_streams (s : State) (k : Nat) (x : Thread) : (s.setThread k x).streams = s.streams := rfl
@[simp] theorem State.setThread_windows (s : State) (k : Nat) (x : Thread) : (s.setThread k x).windows = s.windows := rfl
@[simp] theorem State.setThread_tasks (s : State) (k : Nat) (x : Thread) : (s.setThread k x).tasks = s.tasks := rfl
@[simp] theorem State.setThread_saved (s : State) (k : Nat) (x : Thread) : (s.setThread k x).saved = s.saved := rfl
@[simp] theorem State.setThread_swaps (s : State) (k : Nat) (x : Thread) : (s.setThread k x).swaps = s.swaps := rfl
@[simp] theorem State.setThread_fns (s : State) (k : Nat) (x : Thread) : (s.setThread k x).fns = s.fns := rfl
@[simp] theorem State.setThread_scpWrites (s : State) (k : Nat) (x : Thread) : (s.setThread k x).scpWrites = s.scpWrites := rfl
@[simp] theorem State.setThread_scpResp (s : State) (k : Nat) (x : Thread) : (s.setThread k x).scpResp = s.scpResp := rfl
@[simp] theorem State.setThread_flows (s : State) (k : Nat) (x : Thread) : (s.setThread k x).flows = s.flows := rfl
@[simp] theorem State.setThread_uints (s : State) (k : Nat) (x : Thread) : (s.setThread k x).uints = s.uints := rfl
@[simp] theorem State.setThread_uintOut (s : State) (k : Nat) (x : Thread) : (s.setThread k x).uintOut = s.uintOut := rfl
@[simp] theorem State.setThread_sysReqs (s : State) (k : Nat) (x : Thread) : (s.setThread k x).sysReqs = s.sysReqs := rfl
@[simp] theorem State.setThread_millis (s : State) (k : Nat) (x : Thread) : (s.setThread k x).millis = s.millis := rfl
@[simp] theorem State.setThread_chores (s : State) (k : Nat) (x : Thread) : (s.setThread k x).chores = s.chores := rfl
@[simp] theorem State.setThread_fused (s : State) (k : Nat) (x : Thread) : (s.setThread k x).fused = s.fused := rfl
@[simp] theorem State.setThread_events (s : State) (k : Nat) (x : Thread) : (s.setThread k x).events = s.events := rfl

/-! Fields after State.setCore. -/

@[simp] theorem State.setCore_cur (s : State) (k : Nat) (x : CoreSt) : (s.setCore k x).cur = s.cur := rfl
@[simp] theorem State.setCore_arg (s : State) (k : Nat) (x : CoreSt) : (s.setCore k x).arg = s.arg := rfl
@[simp] theorem State.setCore_agenda (s : State) (k : Nat) (x : CoreSt) : (s.setCore k x).agenda = s.agenda := rfl
@[simp] theorem State.setCore_later (s : State) (k : Nat) (x : CoreSt) : (s.setCore k x).later = s.later := rfl
@[simp] theorem State.setCore_freeCount (s : State) (k : Nat) (x : CoreSt) : (s.setCore k x).freeCount = s.freeCount := rfl
@[simp] theorem State.setCore_nextUid (s : State) (k : Nat) (x : CoreSt) : (s.setCore k x).nextUid = s.nextUid := rfl
@[simp] theorem State.setCore_nextAge (s : State) (k : Nat) (x : CoreSt) : (s.setCore k x).nextAge = s.nextAge := rfl
@[simp] theorem State.setCore_clk (s : State) (k : Nat) (x : CoreSt) : (s.setCore k x).clk = s.clk := rfl
@[simp] theorem State.setCore_ptsBase (s : State) (k : Nat) (x : CoreSt) : (s.setCore k x).ptsBase = s.ptsBase := rfl
@[simp] theorem State.setCore_ungated (s : State) (k : Nat) (x : CoreSt) : (s.setCore k x).ungated = s.ungated := rfl
@[simp] theorem State.setCore_gated (s : State) (k : Nat) (x : CoreSt) : (s.setCore k x).gated = s.gated := rfl
@[simp] theorem State.setCore_timeBase (s : State) (k : Nat) (x : CoreSt) : (s.setCore k x).timeBase = s.timeBase := rfl
@[simp] theorem State.setCore_clkBase (s : State) (k : Nat) (x : CoreSt) : (s.setCore k x).clkBase = s.clkBase := rfl
@[simp] theorem State.setCore_slew (s : State) (k : Nat) (x : CoreSt) : (s.setCore k x).slew = s.slew := rfl
@[simp] theorem State.setCore_timeSrc (s : State) (k : Nat) (x : CoreSt) : (s.setCore k x).timeSrc = s.timeSrc := rfl
@[simp] theorem State.setCore_pkg (s : State) (k : Nat) (x : CoreSt) : (s.setCore k x).pkg = s.pkg := rfl
@[simp] theorem State.setCore_run (s : State) (k : Nat) (x : CoreSt) : (s.setCore k x).run = s.run := rfl
@[simp] theorem State.setCore_devLevel (s : State) (k : Nat) (x : CoreSt) : (s.setCore k x).devLevel = s.devLevel := rfl
@[simp] theorem State.setCore_version (s : State) (k : Nat) (x : CoreSt) : (s.setCore k x).version = s.version := rfl
@[simp] theorem State.setCore_bootm (s : State) (k : Nat) (x : CoreSt) : (s.setCore k x).bootm = s.bootm := rfl
@[simp] theorem State.setCore_expected (s : State) (k : Nat) (x : CoreSt) : (s.setCore k x).expected = s.expected := rfl
@[simp] theorem State.setCore_identity (s : State) (k : Nat) (x : CoreSt) : (s.setCore k x).identity = s.identity := rfl
@[simp] theorem State.setCore_mem (s : State) (k : Nat) (x : CoreSt) : (s.setCore k x).mem = s.mem := rfl
@[simp] theorem State.setCore_poison (s : State) (k : Nat) (x : CoreSt) : (s.setCore k x).poison = s.poison := rfl
@[simp] theorem State.setCore_tables (s : State) (k : Nat) (x : CoreSt) : (s.setCore k x).tables = s.tables := rfl
@[simp] theorem State.setCore_l2 (s : State) (k : Nat) (x : CoreSt) : (s.setCore k x).l2 = s.l2 := rfl
@[simp] theorem State.setCore_slices (s : State) (k : Nat) (x : CoreSt) : (s.setCore k x).slices = s.slices := rfl
@[simp] theorem State.setCore_tlbs (s : State) (k : Nat) (x : CoreSt) : (s.setCore k x).tlbs = s.tlbs := rfl
@[simp] theorem State.setCore_walkers (s : State) (k : Nat) (x : CoreSt) : (s.setCore k x).walkers = s.walkers := rfl
@[simp] theorem State.setCore_pins (s : State) (k : Nat) (x : CoreSt) : (s.setCore k x).pins = s.pins := rfl
@[simp] theorem State.setCore_migCount (s : State) (k : Nat) (x : CoreSt) : (s.setCore k x).migCount = s.migCount := rfl
@[simp] theorem State.setCore_noMigrate (s : State) (k : Nat) (x : CoreSt) : (s.setCore k x).noMigrate = s.noMigrate := rfl
@[simp] theorem State.setCore_extents (s : State) (k : Nat) (x : CoreSt) : (s.setCore k x).extents = s.extents := rfl
@[simp] theorem State.setCore_queues (s : State) (k : Nat) (x : CoreSt) : (s.setCore k x).queues = s.queues := rfl
@[simp] theorem State.setCore_parts (s : State) (k : Nat) (x : CoreSt) : (s.setCore k x).parts = s.parts := rfl
@[simp] theorem State.setCore_ctxs (s : State) (k : Nat) (x : CoreSt) : (s.setCore k x).ctxs = s.ctxs := rfl
@[simp] theorem State.setCore_cores (s : State) (k : Nat) (x : CoreSt) : (s.setCore k x).cores = put s.cores k x := rfl
@[simp] theorem State.setCore_threads (s : State) (k : Nat) (x : CoreSt) : (s.setCore k x).threads = s.threads := rfl
@[simp] theorem State.setCore_cohorts (s : State) (k : Nat) (x : CoreSt) : (s.setCore k x).cohorts = s.cohorts := rfl
@[simp] theorem State.setCore_dies (s : State) (k : Nat) (x : CoreSt) : (s.setCore k x).dies = s.dies := rfl
@[simp] theorem State.setCore_chans (s : State) (k : Nat) (x : CoreSt) : (s.setCore k x).chans = s.chans := rfl
@[simp] theorem State.setCore_streams (s : State) (k : Nat) (x : CoreSt) : (s.setCore k x).streams = s.streams := rfl
@[simp] theorem State.setCore_windows (s : State) (k : Nat) (x : CoreSt) : (s.setCore k x).windows = s.windows := rfl
@[simp] theorem State.setCore_tasks (s : State) (k : Nat) (x : CoreSt) : (s.setCore k x).tasks = s.tasks := rfl
@[simp] theorem State.setCore_saved (s : State) (k : Nat) (x : CoreSt) : (s.setCore k x).saved = s.saved := rfl
@[simp] theorem State.setCore_swaps (s : State) (k : Nat) (x : CoreSt) : (s.setCore k x).swaps = s.swaps := rfl
@[simp] theorem State.setCore_fns (s : State) (k : Nat) (x : CoreSt) : (s.setCore k x).fns = s.fns := rfl
@[simp] theorem State.setCore_scpWrites (s : State) (k : Nat) (x : CoreSt) : (s.setCore k x).scpWrites = s.scpWrites := rfl
@[simp] theorem State.setCore_scpResp (s : State) (k : Nat) (x : CoreSt) : (s.setCore k x).scpResp = s.scpResp := rfl
@[simp] theorem State.setCore_flows (s : State) (k : Nat) (x : CoreSt) : (s.setCore k x).flows = s.flows := rfl
@[simp] theorem State.setCore_uints (s : State) (k : Nat) (x : CoreSt) : (s.setCore k x).uints = s.uints := rfl
@[simp] theorem State.setCore_uintOut (s : State) (k : Nat) (x : CoreSt) : (s.setCore k x).uintOut = s.uintOut := rfl
@[simp] theorem State.setCore_sysReqs (s : State) (k : Nat) (x : CoreSt) : (s.setCore k x).sysReqs = s.sysReqs := rfl
@[simp] theorem State.setCore_millis (s : State) (k : Nat) (x : CoreSt) : (s.setCore k x).millis = s.millis := rfl
@[simp] theorem State.setCore_chores (s : State) (k : Nat) (x : CoreSt) : (s.setCore k x).chores = s.chores := rfl
@[simp] theorem State.setCore_fused (s : State) (k : Nat) (x : CoreSt) : (s.setCore k x).fused = s.fused := rfl
@[simp] theorem State.setCore_events (s : State) (k : Nat) (x : CoreSt) : (s.setCore k x).events = s.events := rfl

/-! Fields after State.setCohort. -/

@[simp] theorem State.setCohort_cur (s : State) (k : Nat) (x : Cohort) : (s.setCohort k x).cur = s.cur := rfl
@[simp] theorem State.setCohort_arg (s : State) (k : Nat) (x : Cohort) : (s.setCohort k x).arg = s.arg := rfl
@[simp] theorem State.setCohort_agenda (s : State) (k : Nat) (x : Cohort) : (s.setCohort k x).agenda = s.agenda := rfl
@[simp] theorem State.setCohort_later (s : State) (k : Nat) (x : Cohort) : (s.setCohort k x).later = s.later := rfl
@[simp] theorem State.setCohort_freeCount (s : State) (k : Nat) (x : Cohort) : (s.setCohort k x).freeCount = s.freeCount := rfl
@[simp] theorem State.setCohort_nextUid (s : State) (k : Nat) (x : Cohort) : (s.setCohort k x).nextUid = s.nextUid := rfl
@[simp] theorem State.setCohort_nextAge (s : State) (k : Nat) (x : Cohort) : (s.setCohort k x).nextAge = s.nextAge := rfl
@[simp] theorem State.setCohort_clk (s : State) (k : Nat) (x : Cohort) : (s.setCohort k x).clk = s.clk := rfl
@[simp] theorem State.setCohort_ptsBase (s : State) (k : Nat) (x : Cohort) : (s.setCohort k x).ptsBase = s.ptsBase := rfl
@[simp] theorem State.setCohort_ungated (s : State) (k : Nat) (x : Cohort) : (s.setCohort k x).ungated = s.ungated := rfl
@[simp] theorem State.setCohort_gated (s : State) (k : Nat) (x : Cohort) : (s.setCohort k x).gated = s.gated := rfl
@[simp] theorem State.setCohort_timeBase (s : State) (k : Nat) (x : Cohort) : (s.setCohort k x).timeBase = s.timeBase := rfl
@[simp] theorem State.setCohort_clkBase (s : State) (k : Nat) (x : Cohort) : (s.setCohort k x).clkBase = s.clkBase := rfl
@[simp] theorem State.setCohort_slew (s : State) (k : Nat) (x : Cohort) : (s.setCohort k x).slew = s.slew := rfl
@[simp] theorem State.setCohort_timeSrc (s : State) (k : Nat) (x : Cohort) : (s.setCohort k x).timeSrc = s.timeSrc := rfl
@[simp] theorem State.setCohort_pkg (s : State) (k : Nat) (x : Cohort) : (s.setCohort k x).pkg = s.pkg := rfl
@[simp] theorem State.setCohort_run (s : State) (k : Nat) (x : Cohort) : (s.setCohort k x).run = s.run := rfl
@[simp] theorem State.setCohort_devLevel (s : State) (k : Nat) (x : Cohort) : (s.setCohort k x).devLevel = s.devLevel := rfl
@[simp] theorem State.setCohort_version (s : State) (k : Nat) (x : Cohort) : (s.setCohort k x).version = s.version := rfl
@[simp] theorem State.setCohort_bootm (s : State) (k : Nat) (x : Cohort) : (s.setCohort k x).bootm = s.bootm := rfl
@[simp] theorem State.setCohort_expected (s : State) (k : Nat) (x : Cohort) : (s.setCohort k x).expected = s.expected := rfl
@[simp] theorem State.setCohort_identity (s : State) (k : Nat) (x : Cohort) : (s.setCohort k x).identity = s.identity := rfl
@[simp] theorem State.setCohort_mem (s : State) (k : Nat) (x : Cohort) : (s.setCohort k x).mem = s.mem := rfl
@[simp] theorem State.setCohort_poison (s : State) (k : Nat) (x : Cohort) : (s.setCohort k x).poison = s.poison := rfl
@[simp] theorem State.setCohort_tables (s : State) (k : Nat) (x : Cohort) : (s.setCohort k x).tables = s.tables := rfl
@[simp] theorem State.setCohort_l2 (s : State) (k : Nat) (x : Cohort) : (s.setCohort k x).l2 = s.l2 := rfl
@[simp] theorem State.setCohort_slices (s : State) (k : Nat) (x : Cohort) : (s.setCohort k x).slices = s.slices := rfl
@[simp] theorem State.setCohort_tlbs (s : State) (k : Nat) (x : Cohort) : (s.setCohort k x).tlbs = s.tlbs := rfl
@[simp] theorem State.setCohort_walkers (s : State) (k : Nat) (x : Cohort) : (s.setCohort k x).walkers = s.walkers := rfl
@[simp] theorem State.setCohort_pins (s : State) (k : Nat) (x : Cohort) : (s.setCohort k x).pins = s.pins := rfl
@[simp] theorem State.setCohort_migCount (s : State) (k : Nat) (x : Cohort) : (s.setCohort k x).migCount = s.migCount := rfl
@[simp] theorem State.setCohort_noMigrate (s : State) (k : Nat) (x : Cohort) : (s.setCohort k x).noMigrate = s.noMigrate := rfl
@[simp] theorem State.setCohort_extents (s : State) (k : Nat) (x : Cohort) : (s.setCohort k x).extents = s.extents := rfl
@[simp] theorem State.setCohort_queues (s : State) (k : Nat) (x : Cohort) : (s.setCohort k x).queues = s.queues := rfl
@[simp] theorem State.setCohort_parts (s : State) (k : Nat) (x : Cohort) : (s.setCohort k x).parts = s.parts := rfl
@[simp] theorem State.setCohort_ctxs (s : State) (k : Nat) (x : Cohort) : (s.setCohort k x).ctxs = s.ctxs := rfl
@[simp] theorem State.setCohort_cores (s : State) (k : Nat) (x : Cohort) : (s.setCohort k x).cores = s.cores := rfl
@[simp] theorem State.setCohort_threads (s : State) (k : Nat) (x : Cohort) : (s.setCohort k x).threads = s.threads := rfl
@[simp] theorem State.setCohort_cohorts (s : State) (k : Nat) (x : Cohort) : (s.setCohort k x).cohorts = put s.cohorts k x := rfl
@[simp] theorem State.setCohort_dies (s : State) (k : Nat) (x : Cohort) : (s.setCohort k x).dies = s.dies := rfl
@[simp] theorem State.setCohort_chans (s : State) (k : Nat) (x : Cohort) : (s.setCohort k x).chans = s.chans := rfl
@[simp] theorem State.setCohort_streams (s : State) (k : Nat) (x : Cohort) : (s.setCohort k x).streams = s.streams := rfl
@[simp] theorem State.setCohort_windows (s : State) (k : Nat) (x : Cohort) : (s.setCohort k x).windows = s.windows := rfl
@[simp] theorem State.setCohort_tasks (s : State) (k : Nat) (x : Cohort) : (s.setCohort k x).tasks = s.tasks := rfl
@[simp] theorem State.setCohort_saved (s : State) (k : Nat) (x : Cohort) : (s.setCohort k x).saved = s.saved := rfl
@[simp] theorem State.setCohort_swaps (s : State) (k : Nat) (x : Cohort) : (s.setCohort k x).swaps = s.swaps := rfl
@[simp] theorem State.setCohort_fns (s : State) (k : Nat) (x : Cohort) : (s.setCohort k x).fns = s.fns := rfl
@[simp] theorem State.setCohort_scpWrites (s : State) (k : Nat) (x : Cohort) : (s.setCohort k x).scpWrites = s.scpWrites := rfl
@[simp] theorem State.setCohort_scpResp (s : State) (k : Nat) (x : Cohort) : (s.setCohort k x).scpResp = s.scpResp := rfl
@[simp] theorem State.setCohort_flows (s : State) (k : Nat) (x : Cohort) : (s.setCohort k x).flows = s.flows := rfl
@[simp] theorem State.setCohort_uints (s : State) (k : Nat) (x : Cohort) : (s.setCohort k x).uints = s.uints := rfl
@[simp] theorem State.setCohort_uintOut (s : State) (k : Nat) (x : Cohort) : (s.setCohort k x).uintOut = s.uintOut := rfl
@[simp] theorem State.setCohort_sysReqs (s : State) (k : Nat) (x : Cohort) : (s.setCohort k x).sysReqs = s.sysReqs := rfl
@[simp] theorem State.setCohort_millis (s : State) (k : Nat) (x : Cohort) : (s.setCohort k x).millis = s.millis := rfl
@[simp] theorem State.setCohort_chores (s : State) (k : Nat) (x : Cohort) : (s.setCohort k x).chores = s.chores := rfl
@[simp] theorem State.setCohort_fused (s : State) (k : Nat) (x : Cohort) : (s.setCohort k x).fused = s.fused := rfl
@[simp] theorem State.setCohort_events (s : State) (k : Nat) (x : Cohort) : (s.setCohort k x).events = s.events := rfl

/-! Fields after State.setCtx. -/

@[simp] theorem State.setCtx_cur (s : State) (k : Nat) (x : Ctx) : (s.setCtx k x).cur = s.cur := rfl
@[simp] theorem State.setCtx_arg (s : State) (k : Nat) (x : Ctx) : (s.setCtx k x).arg = s.arg := rfl
@[simp] theorem State.setCtx_agenda (s : State) (k : Nat) (x : Ctx) : (s.setCtx k x).agenda = s.agenda := rfl
@[simp] theorem State.setCtx_later (s : State) (k : Nat) (x : Ctx) : (s.setCtx k x).later = s.later := rfl
@[simp] theorem State.setCtx_freeCount (s : State) (k : Nat) (x : Ctx) : (s.setCtx k x).freeCount = s.freeCount := rfl
@[simp] theorem State.setCtx_nextUid (s : State) (k : Nat) (x : Ctx) : (s.setCtx k x).nextUid = s.nextUid := rfl
@[simp] theorem State.setCtx_nextAge (s : State) (k : Nat) (x : Ctx) : (s.setCtx k x).nextAge = s.nextAge := rfl
@[simp] theorem State.setCtx_clk (s : State) (k : Nat) (x : Ctx) : (s.setCtx k x).clk = s.clk := rfl
@[simp] theorem State.setCtx_ptsBase (s : State) (k : Nat) (x : Ctx) : (s.setCtx k x).ptsBase = s.ptsBase := rfl
@[simp] theorem State.setCtx_ungated (s : State) (k : Nat) (x : Ctx) : (s.setCtx k x).ungated = s.ungated := rfl
@[simp] theorem State.setCtx_gated (s : State) (k : Nat) (x : Ctx) : (s.setCtx k x).gated = s.gated := rfl
@[simp] theorem State.setCtx_timeBase (s : State) (k : Nat) (x : Ctx) : (s.setCtx k x).timeBase = s.timeBase := rfl
@[simp] theorem State.setCtx_clkBase (s : State) (k : Nat) (x : Ctx) : (s.setCtx k x).clkBase = s.clkBase := rfl
@[simp] theorem State.setCtx_slew (s : State) (k : Nat) (x : Ctx) : (s.setCtx k x).slew = s.slew := rfl
@[simp] theorem State.setCtx_timeSrc (s : State) (k : Nat) (x : Ctx) : (s.setCtx k x).timeSrc = s.timeSrc := rfl
@[simp] theorem State.setCtx_pkg (s : State) (k : Nat) (x : Ctx) : (s.setCtx k x).pkg = s.pkg := rfl
@[simp] theorem State.setCtx_run (s : State) (k : Nat) (x : Ctx) : (s.setCtx k x).run = s.run := rfl
@[simp] theorem State.setCtx_devLevel (s : State) (k : Nat) (x : Ctx) : (s.setCtx k x).devLevel = s.devLevel := rfl
@[simp] theorem State.setCtx_version (s : State) (k : Nat) (x : Ctx) : (s.setCtx k x).version = s.version := rfl
@[simp] theorem State.setCtx_bootm (s : State) (k : Nat) (x : Ctx) : (s.setCtx k x).bootm = s.bootm := rfl
@[simp] theorem State.setCtx_expected (s : State) (k : Nat) (x : Ctx) : (s.setCtx k x).expected = s.expected := rfl
@[simp] theorem State.setCtx_identity (s : State) (k : Nat) (x : Ctx) : (s.setCtx k x).identity = s.identity := rfl
@[simp] theorem State.setCtx_mem (s : State) (k : Nat) (x : Ctx) : (s.setCtx k x).mem = s.mem := rfl
@[simp] theorem State.setCtx_poison (s : State) (k : Nat) (x : Ctx) : (s.setCtx k x).poison = s.poison := rfl
@[simp] theorem State.setCtx_tables (s : State) (k : Nat) (x : Ctx) : (s.setCtx k x).tables = s.tables := rfl
@[simp] theorem State.setCtx_l2 (s : State) (k : Nat) (x : Ctx) : (s.setCtx k x).l2 = s.l2 := rfl
@[simp] theorem State.setCtx_slices (s : State) (k : Nat) (x : Ctx) : (s.setCtx k x).slices = s.slices := rfl
@[simp] theorem State.setCtx_tlbs (s : State) (k : Nat) (x : Ctx) : (s.setCtx k x).tlbs = s.tlbs := rfl
@[simp] theorem State.setCtx_walkers (s : State) (k : Nat) (x : Ctx) : (s.setCtx k x).walkers = s.walkers := rfl
@[simp] theorem State.setCtx_pins (s : State) (k : Nat) (x : Ctx) : (s.setCtx k x).pins = s.pins := rfl
@[simp] theorem State.setCtx_migCount (s : State) (k : Nat) (x : Ctx) : (s.setCtx k x).migCount = s.migCount := rfl
@[simp] theorem State.setCtx_noMigrate (s : State) (k : Nat) (x : Ctx) : (s.setCtx k x).noMigrate = s.noMigrate := rfl
@[simp] theorem State.setCtx_extents (s : State) (k : Nat) (x : Ctx) : (s.setCtx k x).extents = s.extents := rfl
@[simp] theorem State.setCtx_queues (s : State) (k : Nat) (x : Ctx) : (s.setCtx k x).queues = s.queues := rfl
@[simp] theorem State.setCtx_parts (s : State) (k : Nat) (x : Ctx) : (s.setCtx k x).parts = s.parts := rfl
@[simp] theorem State.setCtx_ctxs (s : State) (k : Nat) (x : Ctx) : (s.setCtx k x).ctxs = put s.ctxs k x := rfl
@[simp] theorem State.setCtx_cores (s : State) (k : Nat) (x : Ctx) : (s.setCtx k x).cores = s.cores := rfl
@[simp] theorem State.setCtx_threads (s : State) (k : Nat) (x : Ctx) : (s.setCtx k x).threads = s.threads := rfl
@[simp] theorem State.setCtx_cohorts (s : State) (k : Nat) (x : Ctx) : (s.setCtx k x).cohorts = s.cohorts := rfl
@[simp] theorem State.setCtx_dies (s : State) (k : Nat) (x : Ctx) : (s.setCtx k x).dies = s.dies := rfl
@[simp] theorem State.setCtx_chans (s : State) (k : Nat) (x : Ctx) : (s.setCtx k x).chans = s.chans := rfl
@[simp] theorem State.setCtx_streams (s : State) (k : Nat) (x : Ctx) : (s.setCtx k x).streams = s.streams := rfl
@[simp] theorem State.setCtx_windows (s : State) (k : Nat) (x : Ctx) : (s.setCtx k x).windows = s.windows := rfl
@[simp] theorem State.setCtx_tasks (s : State) (k : Nat) (x : Ctx) : (s.setCtx k x).tasks = s.tasks := rfl
@[simp] theorem State.setCtx_saved (s : State) (k : Nat) (x : Ctx) : (s.setCtx k x).saved = s.saved := rfl
@[simp] theorem State.setCtx_swaps (s : State) (k : Nat) (x : Ctx) : (s.setCtx k x).swaps = s.swaps := rfl
@[simp] theorem State.setCtx_fns (s : State) (k : Nat) (x : Ctx) : (s.setCtx k x).fns = s.fns := rfl
@[simp] theorem State.setCtx_scpWrites (s : State) (k : Nat) (x : Ctx) : (s.setCtx k x).scpWrites = s.scpWrites := rfl
@[simp] theorem State.setCtx_scpResp (s : State) (k : Nat) (x : Ctx) : (s.setCtx k x).scpResp = s.scpResp := rfl
@[simp] theorem State.setCtx_flows (s : State) (k : Nat) (x : Ctx) : (s.setCtx k x).flows = s.flows := rfl
@[simp] theorem State.setCtx_uints (s : State) (k : Nat) (x : Ctx) : (s.setCtx k x).uints = s.uints := rfl
@[simp] theorem State.setCtx_uintOut (s : State) (k : Nat) (x : Ctx) : (s.setCtx k x).uintOut = s.uintOut := rfl
@[simp] theorem State.setCtx_sysReqs (s : State) (k : Nat) (x : Ctx) : (s.setCtx k x).sysReqs = s.sysReqs := rfl
@[simp] theorem State.setCtx_millis (s : State) (k : Nat) (x : Ctx) : (s.setCtx k x).millis = s.millis := rfl
@[simp] theorem State.setCtx_chores (s : State) (k : Nat) (x : Ctx) : (s.setCtx k x).chores = s.chores := rfl
@[simp] theorem State.setCtx_fused (s : State) (k : Nat) (x : Ctx) : (s.setCtx k x).fused = s.fused := rfl
@[simp] theorem State.setCtx_events (s : State) (k : Nat) (x : Ctx) : (s.setCtx k x).events = s.events := rfl

/-! Fields after State.setPart. -/

@[simp] theorem State.setPart_cur (s : State) (k : Nat) (x : Partition) : (s.setPart k x).cur = s.cur := rfl
@[simp] theorem State.setPart_arg (s : State) (k : Nat) (x : Partition) : (s.setPart k x).arg = s.arg := rfl
@[simp] theorem State.setPart_agenda (s : State) (k : Nat) (x : Partition) : (s.setPart k x).agenda = s.agenda := rfl
@[simp] theorem State.setPart_later (s : State) (k : Nat) (x : Partition) : (s.setPart k x).later = s.later := rfl
@[simp] theorem State.setPart_freeCount (s : State) (k : Nat) (x : Partition) : (s.setPart k x).freeCount = s.freeCount := rfl
@[simp] theorem State.setPart_nextUid (s : State) (k : Nat) (x : Partition) : (s.setPart k x).nextUid = s.nextUid := rfl
@[simp] theorem State.setPart_nextAge (s : State) (k : Nat) (x : Partition) : (s.setPart k x).nextAge = s.nextAge := rfl
@[simp] theorem State.setPart_clk (s : State) (k : Nat) (x : Partition) : (s.setPart k x).clk = s.clk := rfl
@[simp] theorem State.setPart_ptsBase (s : State) (k : Nat) (x : Partition) : (s.setPart k x).ptsBase = s.ptsBase := rfl
@[simp] theorem State.setPart_ungated (s : State) (k : Nat) (x : Partition) : (s.setPart k x).ungated = s.ungated := rfl
@[simp] theorem State.setPart_gated (s : State) (k : Nat) (x : Partition) : (s.setPart k x).gated = s.gated := rfl
@[simp] theorem State.setPart_timeBase (s : State) (k : Nat) (x : Partition) : (s.setPart k x).timeBase = s.timeBase := rfl
@[simp] theorem State.setPart_clkBase (s : State) (k : Nat) (x : Partition) : (s.setPart k x).clkBase = s.clkBase := rfl
@[simp] theorem State.setPart_slew (s : State) (k : Nat) (x : Partition) : (s.setPart k x).slew = s.slew := rfl
@[simp] theorem State.setPart_timeSrc (s : State) (k : Nat) (x : Partition) : (s.setPart k x).timeSrc = s.timeSrc := rfl
@[simp] theorem State.setPart_pkg (s : State) (k : Nat) (x : Partition) : (s.setPart k x).pkg = s.pkg := rfl
@[simp] theorem State.setPart_run (s : State) (k : Nat) (x : Partition) : (s.setPart k x).run = s.run := rfl
@[simp] theorem State.setPart_devLevel (s : State) (k : Nat) (x : Partition) : (s.setPart k x).devLevel = s.devLevel := rfl
@[simp] theorem State.setPart_version (s : State) (k : Nat) (x : Partition) : (s.setPart k x).version = s.version := rfl
@[simp] theorem State.setPart_bootm (s : State) (k : Nat) (x : Partition) : (s.setPart k x).bootm = s.bootm := rfl
@[simp] theorem State.setPart_expected (s : State) (k : Nat) (x : Partition) : (s.setPart k x).expected = s.expected := rfl
@[simp] theorem State.setPart_identity (s : State) (k : Nat) (x : Partition) : (s.setPart k x).identity = s.identity := rfl
@[simp] theorem State.setPart_mem (s : State) (k : Nat) (x : Partition) : (s.setPart k x).mem = s.mem := rfl
@[simp] theorem State.setPart_poison (s : State) (k : Nat) (x : Partition) : (s.setPart k x).poison = s.poison := rfl
@[simp] theorem State.setPart_tables (s : State) (k : Nat) (x : Partition) : (s.setPart k x).tables = s.tables := rfl
@[simp] theorem State.setPart_l2 (s : State) (k : Nat) (x : Partition) : (s.setPart k x).l2 = s.l2 := rfl
@[simp] theorem State.setPart_slices (s : State) (k : Nat) (x : Partition) : (s.setPart k x).slices = s.slices := rfl
@[simp] theorem State.setPart_tlbs (s : State) (k : Nat) (x : Partition) : (s.setPart k x).tlbs = s.tlbs := rfl
@[simp] theorem State.setPart_walkers (s : State) (k : Nat) (x : Partition) : (s.setPart k x).walkers = s.walkers := rfl
@[simp] theorem State.setPart_pins (s : State) (k : Nat) (x : Partition) : (s.setPart k x).pins = s.pins := rfl
@[simp] theorem State.setPart_migCount (s : State) (k : Nat) (x : Partition) : (s.setPart k x).migCount = s.migCount := rfl
@[simp] theorem State.setPart_noMigrate (s : State) (k : Nat) (x : Partition) : (s.setPart k x).noMigrate = s.noMigrate := rfl
@[simp] theorem State.setPart_extents (s : State) (k : Nat) (x : Partition) : (s.setPart k x).extents = s.extents := rfl
@[simp] theorem State.setPart_queues (s : State) (k : Nat) (x : Partition) : (s.setPart k x).queues = s.queues := rfl
@[simp] theorem State.setPart_parts (s : State) (k : Nat) (x : Partition) : (s.setPart k x).parts = put s.parts k x := rfl
@[simp] theorem State.setPart_ctxs (s : State) (k : Nat) (x : Partition) : (s.setPart k x).ctxs = s.ctxs := rfl
@[simp] theorem State.setPart_cores (s : State) (k : Nat) (x : Partition) : (s.setPart k x).cores = s.cores := rfl
@[simp] theorem State.setPart_threads (s : State) (k : Nat) (x : Partition) : (s.setPart k x).threads = s.threads := rfl
@[simp] theorem State.setPart_cohorts (s : State) (k : Nat) (x : Partition) : (s.setPart k x).cohorts = s.cohorts := rfl
@[simp] theorem State.setPart_dies (s : State) (k : Nat) (x : Partition) : (s.setPart k x).dies = s.dies := rfl
@[simp] theorem State.setPart_chans (s : State) (k : Nat) (x : Partition) : (s.setPart k x).chans = s.chans := rfl
@[simp] theorem State.setPart_streams (s : State) (k : Nat) (x : Partition) : (s.setPart k x).streams = s.streams := rfl
@[simp] theorem State.setPart_windows (s : State) (k : Nat) (x : Partition) : (s.setPart k x).windows = s.windows := rfl
@[simp] theorem State.setPart_tasks (s : State) (k : Nat) (x : Partition) : (s.setPart k x).tasks = s.tasks := rfl
@[simp] theorem State.setPart_saved (s : State) (k : Nat) (x : Partition) : (s.setPart k x).saved = s.saved := rfl
@[simp] theorem State.setPart_swaps (s : State) (k : Nat) (x : Partition) : (s.setPart k x).swaps = s.swaps := rfl
@[simp] theorem State.setPart_fns (s : State) (k : Nat) (x : Partition) : (s.setPart k x).fns = s.fns := rfl
@[simp] theorem State.setPart_scpWrites (s : State) (k : Nat) (x : Partition) : (s.setPart k x).scpWrites = s.scpWrites := rfl
@[simp] theorem State.setPart_scpResp (s : State) (k : Nat) (x : Partition) : (s.setPart k x).scpResp = s.scpResp := rfl
@[simp] theorem State.setPart_flows (s : State) (k : Nat) (x : Partition) : (s.setPart k x).flows = s.flows := rfl
@[simp] theorem State.setPart_uints (s : State) (k : Nat) (x : Partition) : (s.setPart k x).uints = s.uints := rfl
@[simp] theorem State.setPart_uintOut (s : State) (k : Nat) (x : Partition) : (s.setPart k x).uintOut = s.uintOut := rfl
@[simp] theorem State.setPart_sysReqs (s : State) (k : Nat) (x : Partition) : (s.setPart k x).sysReqs = s.sysReqs := rfl
@[simp] theorem State.setPart_millis (s : State) (k : Nat) (x : Partition) : (s.setPart k x).millis = s.millis := rfl
@[simp] theorem State.setPart_chores (s : State) (k : Nat) (x : Partition) : (s.setPart k x).chores = s.chores := rfl
@[simp] theorem State.setPart_fused (s : State) (k : Nat) (x : Partition) : (s.setPart k x).fused = s.fused := rfl
@[simp] theorem State.setPart_events (s : State) (k : Nat) (x : Partition) : (s.setPart k x).events = s.events := rfl

/-! Fields after State.setDie. -/

@[simp] theorem State.setDie_cur (s : State) (k : Nat) (x : DieSt) : (s.setDie k x).cur = s.cur := rfl
@[simp] theorem State.setDie_arg (s : State) (k : Nat) (x : DieSt) : (s.setDie k x).arg = s.arg := rfl
@[simp] theorem State.setDie_agenda (s : State) (k : Nat) (x : DieSt) : (s.setDie k x).agenda = s.agenda := rfl
@[simp] theorem State.setDie_later (s : State) (k : Nat) (x : DieSt) : (s.setDie k x).later = s.later := rfl
@[simp] theorem State.setDie_freeCount (s : State) (k : Nat) (x : DieSt) : (s.setDie k x).freeCount = s.freeCount := rfl
@[simp] theorem State.setDie_nextUid (s : State) (k : Nat) (x : DieSt) : (s.setDie k x).nextUid = s.nextUid := rfl
@[simp] theorem State.setDie_nextAge (s : State) (k : Nat) (x : DieSt) : (s.setDie k x).nextAge = s.nextAge := rfl
@[simp] theorem State.setDie_clk (s : State) (k : Nat) (x : DieSt) : (s.setDie k x).clk = s.clk := rfl
@[simp] theorem State.setDie_ptsBase (s : State) (k : Nat) (x : DieSt) : (s.setDie k x).ptsBase = s.ptsBase := rfl
@[simp] theorem State.setDie_ungated (s : State) (k : Nat) (x : DieSt) : (s.setDie k x).ungated = s.ungated := rfl
@[simp] theorem State.setDie_gated (s : State) (k : Nat) (x : DieSt) : (s.setDie k x).gated = s.gated := rfl
@[simp] theorem State.setDie_timeBase (s : State) (k : Nat) (x : DieSt) : (s.setDie k x).timeBase = s.timeBase := rfl
@[simp] theorem State.setDie_clkBase (s : State) (k : Nat) (x : DieSt) : (s.setDie k x).clkBase = s.clkBase := rfl
@[simp] theorem State.setDie_slew (s : State) (k : Nat) (x : DieSt) : (s.setDie k x).slew = s.slew := rfl
@[simp] theorem State.setDie_timeSrc (s : State) (k : Nat) (x : DieSt) : (s.setDie k x).timeSrc = s.timeSrc := rfl
@[simp] theorem State.setDie_pkg (s : State) (k : Nat) (x : DieSt) : (s.setDie k x).pkg = s.pkg := rfl
@[simp] theorem State.setDie_run (s : State) (k : Nat) (x : DieSt) : (s.setDie k x).run = s.run := rfl
@[simp] theorem State.setDie_devLevel (s : State) (k : Nat) (x : DieSt) : (s.setDie k x).devLevel = s.devLevel := rfl
@[simp] theorem State.setDie_version (s : State) (k : Nat) (x : DieSt) : (s.setDie k x).version = s.version := rfl
@[simp] theorem State.setDie_bootm (s : State) (k : Nat) (x : DieSt) : (s.setDie k x).bootm = s.bootm := rfl
@[simp] theorem State.setDie_expected (s : State) (k : Nat) (x : DieSt) : (s.setDie k x).expected = s.expected := rfl
@[simp] theorem State.setDie_identity (s : State) (k : Nat) (x : DieSt) : (s.setDie k x).identity = s.identity := rfl
@[simp] theorem State.setDie_mem (s : State) (k : Nat) (x : DieSt) : (s.setDie k x).mem = s.mem := rfl
@[simp] theorem State.setDie_poison (s : State) (k : Nat) (x : DieSt) : (s.setDie k x).poison = s.poison := rfl
@[simp] theorem State.setDie_tables (s : State) (k : Nat) (x : DieSt) : (s.setDie k x).tables = s.tables := rfl
@[simp] theorem State.setDie_l2 (s : State) (k : Nat) (x : DieSt) : (s.setDie k x).l2 = s.l2 := rfl
@[simp] theorem State.setDie_slices (s : State) (k : Nat) (x : DieSt) : (s.setDie k x).slices = s.slices := rfl
@[simp] theorem State.setDie_tlbs (s : State) (k : Nat) (x : DieSt) : (s.setDie k x).tlbs = s.tlbs := rfl
@[simp] theorem State.setDie_walkers (s : State) (k : Nat) (x : DieSt) : (s.setDie k x).walkers = s.walkers := rfl
@[simp] theorem State.setDie_pins (s : State) (k : Nat) (x : DieSt) : (s.setDie k x).pins = s.pins := rfl
@[simp] theorem State.setDie_migCount (s : State) (k : Nat) (x : DieSt) : (s.setDie k x).migCount = s.migCount := rfl
@[simp] theorem State.setDie_noMigrate (s : State) (k : Nat) (x : DieSt) : (s.setDie k x).noMigrate = s.noMigrate := rfl
@[simp] theorem State.setDie_extents (s : State) (k : Nat) (x : DieSt) : (s.setDie k x).extents = s.extents := rfl
@[simp] theorem State.setDie_queues (s : State) (k : Nat) (x : DieSt) : (s.setDie k x).queues = s.queues := rfl
@[simp] theorem State.setDie_parts (s : State) (k : Nat) (x : DieSt) : (s.setDie k x).parts = s.parts := rfl
@[simp] theorem State.setDie_ctxs (s : State) (k : Nat) (x : DieSt) : (s.setDie k x).ctxs = s.ctxs := rfl
@[simp] theorem State.setDie_cores (s : State) (k : Nat) (x : DieSt) : (s.setDie k x).cores = s.cores := rfl
@[simp] theorem State.setDie_threads (s : State) (k : Nat) (x : DieSt) : (s.setDie k x).threads = s.threads := rfl
@[simp] theorem State.setDie_cohorts (s : State) (k : Nat) (x : DieSt) : (s.setDie k x).cohorts = s.cohorts := rfl
@[simp] theorem State.setDie_dies (s : State) (k : Nat) (x : DieSt) : (s.setDie k x).dies = put s.dies k x := rfl
@[simp] theorem State.setDie_chans (s : State) (k : Nat) (x : DieSt) : (s.setDie k x).chans = s.chans := rfl
@[simp] theorem State.setDie_streams (s : State) (k : Nat) (x : DieSt) : (s.setDie k x).streams = s.streams := rfl
@[simp] theorem State.setDie_windows (s : State) (k : Nat) (x : DieSt) : (s.setDie k x).windows = s.windows := rfl
@[simp] theorem State.setDie_tasks (s : State) (k : Nat) (x : DieSt) : (s.setDie k x).tasks = s.tasks := rfl
@[simp] theorem State.setDie_saved (s : State) (k : Nat) (x : DieSt) : (s.setDie k x).saved = s.saved := rfl
@[simp] theorem State.setDie_swaps (s : State) (k : Nat) (x : DieSt) : (s.setDie k x).swaps = s.swaps := rfl
@[simp] theorem State.setDie_fns (s : State) (k : Nat) (x : DieSt) : (s.setDie k x).fns = s.fns := rfl
@[simp] theorem State.setDie_scpWrites (s : State) (k : Nat) (x : DieSt) : (s.setDie k x).scpWrites = s.scpWrites := rfl
@[simp] theorem State.setDie_scpResp (s : State) (k : Nat) (x : DieSt) : (s.setDie k x).scpResp = s.scpResp := rfl
@[simp] theorem State.setDie_flows (s : State) (k : Nat) (x : DieSt) : (s.setDie k x).flows = s.flows := rfl
@[simp] theorem State.setDie_uints (s : State) (k : Nat) (x : DieSt) : (s.setDie k x).uints = s.uints := rfl
@[simp] theorem State.setDie_uintOut (s : State) (k : Nat) (x : DieSt) : (s.setDie k x).uintOut = s.uintOut := rfl
@[simp] theorem State.setDie_sysReqs (s : State) (k : Nat) (x : DieSt) : (s.setDie k x).sysReqs = s.sysReqs := rfl
@[simp] theorem State.setDie_millis (s : State) (k : Nat) (x : DieSt) : (s.setDie k x).millis = s.millis := rfl
@[simp] theorem State.setDie_chores (s : State) (k : Nat) (x : DieSt) : (s.setDie k x).chores = s.chores := rfl
@[simp] theorem State.setDie_fused (s : State) (k : Nat) (x : DieSt) : (s.setDie k x).fused = s.fused := rfl
@[simp] theorem State.setDie_events (s : State) (k : Nat) (x : DieSt) : (s.setDie k x).events = s.events := rfl

/-! Fields after State.setChan. -/

@[simp] theorem State.setChan_cur (s : State) (k : Nat) (x : Channel) : (s.setChan k x).cur = s.cur := rfl
@[simp] theorem State.setChan_arg (s : State) (k : Nat) (x : Channel) : (s.setChan k x).arg = s.arg := rfl
@[simp] theorem State.setChan_agenda (s : State) (k : Nat) (x : Channel) : (s.setChan k x).agenda = s.agenda := rfl
@[simp] theorem State.setChan_later (s : State) (k : Nat) (x : Channel) : (s.setChan k x).later = s.later := rfl
@[simp] theorem State.setChan_freeCount (s : State) (k : Nat) (x : Channel) : (s.setChan k x).freeCount = s.freeCount := rfl
@[simp] theorem State.setChan_nextUid (s : State) (k : Nat) (x : Channel) : (s.setChan k x).nextUid = s.nextUid := rfl
@[simp] theorem State.setChan_nextAge (s : State) (k : Nat) (x : Channel) : (s.setChan k x).nextAge = s.nextAge := rfl
@[simp] theorem State.setChan_clk (s : State) (k : Nat) (x : Channel) : (s.setChan k x).clk = s.clk := rfl
@[simp] theorem State.setChan_ptsBase (s : State) (k : Nat) (x : Channel) : (s.setChan k x).ptsBase = s.ptsBase := rfl
@[simp] theorem State.setChan_ungated (s : State) (k : Nat) (x : Channel) : (s.setChan k x).ungated = s.ungated := rfl
@[simp] theorem State.setChan_gated (s : State) (k : Nat) (x : Channel) : (s.setChan k x).gated = s.gated := rfl
@[simp] theorem State.setChan_timeBase (s : State) (k : Nat) (x : Channel) : (s.setChan k x).timeBase = s.timeBase := rfl
@[simp] theorem State.setChan_clkBase (s : State) (k : Nat) (x : Channel) : (s.setChan k x).clkBase = s.clkBase := rfl
@[simp] theorem State.setChan_slew (s : State) (k : Nat) (x : Channel) : (s.setChan k x).slew = s.slew := rfl
@[simp] theorem State.setChan_timeSrc (s : State) (k : Nat) (x : Channel) : (s.setChan k x).timeSrc = s.timeSrc := rfl
@[simp] theorem State.setChan_pkg (s : State) (k : Nat) (x : Channel) : (s.setChan k x).pkg = s.pkg := rfl
@[simp] theorem State.setChan_run (s : State) (k : Nat) (x : Channel) : (s.setChan k x).run = s.run := rfl
@[simp] theorem State.setChan_devLevel (s : State) (k : Nat) (x : Channel) : (s.setChan k x).devLevel = s.devLevel := rfl
@[simp] theorem State.setChan_version (s : State) (k : Nat) (x : Channel) : (s.setChan k x).version = s.version := rfl
@[simp] theorem State.setChan_bootm (s : State) (k : Nat) (x : Channel) : (s.setChan k x).bootm = s.bootm := rfl
@[simp] theorem State.setChan_expected (s : State) (k : Nat) (x : Channel) : (s.setChan k x).expected = s.expected := rfl
@[simp] theorem State.setChan_identity (s : State) (k : Nat) (x : Channel) : (s.setChan k x).identity = s.identity := rfl
@[simp] theorem State.setChan_mem (s : State) (k : Nat) (x : Channel) : (s.setChan k x).mem = s.mem := rfl
@[simp] theorem State.setChan_poison (s : State) (k : Nat) (x : Channel) : (s.setChan k x).poison = s.poison := rfl
@[simp] theorem State.setChan_tables (s : State) (k : Nat) (x : Channel) : (s.setChan k x).tables = s.tables := rfl
@[simp] theorem State.setChan_l2 (s : State) (k : Nat) (x : Channel) : (s.setChan k x).l2 = s.l2 := rfl
@[simp] theorem State.setChan_slices (s : State) (k : Nat) (x : Channel) : (s.setChan k x).slices = s.slices := rfl
@[simp] theorem State.setChan_tlbs (s : State) (k : Nat) (x : Channel) : (s.setChan k x).tlbs = s.tlbs := rfl
@[simp] theorem State.setChan_walkers (s : State) (k : Nat) (x : Channel) : (s.setChan k x).walkers = s.walkers := rfl
@[simp] theorem State.setChan_pins (s : State) (k : Nat) (x : Channel) : (s.setChan k x).pins = s.pins := rfl
@[simp] theorem State.setChan_migCount (s : State) (k : Nat) (x : Channel) : (s.setChan k x).migCount = s.migCount := rfl
@[simp] theorem State.setChan_noMigrate (s : State) (k : Nat) (x : Channel) : (s.setChan k x).noMigrate = s.noMigrate := rfl
@[simp] theorem State.setChan_extents (s : State) (k : Nat) (x : Channel) : (s.setChan k x).extents = s.extents := rfl
@[simp] theorem State.setChan_queues (s : State) (k : Nat) (x : Channel) : (s.setChan k x).queues = s.queues := rfl
@[simp] theorem State.setChan_parts (s : State) (k : Nat) (x : Channel) : (s.setChan k x).parts = s.parts := rfl
@[simp] theorem State.setChan_ctxs (s : State) (k : Nat) (x : Channel) : (s.setChan k x).ctxs = s.ctxs := rfl
@[simp] theorem State.setChan_cores (s : State) (k : Nat) (x : Channel) : (s.setChan k x).cores = s.cores := rfl
@[simp] theorem State.setChan_threads (s : State) (k : Nat) (x : Channel) : (s.setChan k x).threads = s.threads := rfl
@[simp] theorem State.setChan_cohorts (s : State) (k : Nat) (x : Channel) : (s.setChan k x).cohorts = s.cohorts := rfl
@[simp] theorem State.setChan_dies (s : State) (k : Nat) (x : Channel) : (s.setChan k x).dies = s.dies := rfl
@[simp] theorem State.setChan_chans (s : State) (k : Nat) (x : Channel) : (s.setChan k x).chans = put s.chans k x := rfl
@[simp] theorem State.setChan_streams (s : State) (k : Nat) (x : Channel) : (s.setChan k x).streams = s.streams := rfl
@[simp] theorem State.setChan_windows (s : State) (k : Nat) (x : Channel) : (s.setChan k x).windows = s.windows := rfl
@[simp] theorem State.setChan_tasks (s : State) (k : Nat) (x : Channel) : (s.setChan k x).tasks = s.tasks := rfl
@[simp] theorem State.setChan_saved (s : State) (k : Nat) (x : Channel) : (s.setChan k x).saved = s.saved := rfl
@[simp] theorem State.setChan_swaps (s : State) (k : Nat) (x : Channel) : (s.setChan k x).swaps = s.swaps := rfl
@[simp] theorem State.setChan_fns (s : State) (k : Nat) (x : Channel) : (s.setChan k x).fns = s.fns := rfl
@[simp] theorem State.setChan_scpWrites (s : State) (k : Nat) (x : Channel) : (s.setChan k x).scpWrites = s.scpWrites := rfl
@[simp] theorem State.setChan_scpResp (s : State) (k : Nat) (x : Channel) : (s.setChan k x).scpResp = s.scpResp := rfl
@[simp] theorem State.setChan_flows (s : State) (k : Nat) (x : Channel) : (s.setChan k x).flows = s.flows := rfl
@[simp] theorem State.setChan_uints (s : State) (k : Nat) (x : Channel) : (s.setChan k x).uints = s.uints := rfl
@[simp] theorem State.setChan_uintOut (s : State) (k : Nat) (x : Channel) : (s.setChan k x).uintOut = s.uintOut := rfl
@[simp] theorem State.setChan_sysReqs (s : State) (k : Nat) (x : Channel) : (s.setChan k x).sysReqs = s.sysReqs := rfl
@[simp] theorem State.setChan_millis (s : State) (k : Nat) (x : Channel) : (s.setChan k x).millis = s.millis := rfl
@[simp] theorem State.setChan_chores (s : State) (k : Nat) (x : Channel) : (s.setChan k x).chores = s.chores := rfl
@[simp] theorem State.setChan_fused (s : State) (k : Nat) (x : Channel) : (s.setChan k x).fused = s.fused := rfl
@[simp] theorem State.setChan_events (s : State) (k : Nat) (x : Channel) : (s.setChan k x).events = s.events := rfl

/-! Fields after State.setTask. -/

@[simp] theorem State.setTask_cur (s : State) (k : Nat) (x : TaskSlot) : (s.setTask k x).cur = s.cur := rfl
@[simp] theorem State.setTask_arg (s : State) (k : Nat) (x : TaskSlot) : (s.setTask k x).arg = s.arg := rfl
@[simp] theorem State.setTask_agenda (s : State) (k : Nat) (x : TaskSlot) : (s.setTask k x).agenda = s.agenda := rfl
@[simp] theorem State.setTask_later (s : State) (k : Nat) (x : TaskSlot) : (s.setTask k x).later = s.later := rfl
@[simp] theorem State.setTask_freeCount (s : State) (k : Nat) (x : TaskSlot) : (s.setTask k x).freeCount = s.freeCount := rfl
@[simp] theorem State.setTask_nextUid (s : State) (k : Nat) (x : TaskSlot) : (s.setTask k x).nextUid = s.nextUid := rfl
@[simp] theorem State.setTask_nextAge (s : State) (k : Nat) (x : TaskSlot) : (s.setTask k x).nextAge = s.nextAge := rfl
@[simp] theorem State.setTask_clk (s : State) (k : Nat) (x : TaskSlot) : (s.setTask k x).clk = s.clk := rfl
@[simp] theorem State.setTask_ptsBase (s : State) (k : Nat) (x : TaskSlot) : (s.setTask k x).ptsBase = s.ptsBase := rfl
@[simp] theorem State.setTask_ungated (s : State) (k : Nat) (x : TaskSlot) : (s.setTask k x).ungated = s.ungated := rfl
@[simp] theorem State.setTask_gated (s : State) (k : Nat) (x : TaskSlot) : (s.setTask k x).gated = s.gated := rfl
@[simp] theorem State.setTask_timeBase (s : State) (k : Nat) (x : TaskSlot) : (s.setTask k x).timeBase = s.timeBase := rfl
@[simp] theorem State.setTask_clkBase (s : State) (k : Nat) (x : TaskSlot) : (s.setTask k x).clkBase = s.clkBase := rfl
@[simp] theorem State.setTask_slew (s : State) (k : Nat) (x : TaskSlot) : (s.setTask k x).slew = s.slew := rfl
@[simp] theorem State.setTask_timeSrc (s : State) (k : Nat) (x : TaskSlot) : (s.setTask k x).timeSrc = s.timeSrc := rfl
@[simp] theorem State.setTask_pkg (s : State) (k : Nat) (x : TaskSlot) : (s.setTask k x).pkg = s.pkg := rfl
@[simp] theorem State.setTask_run (s : State) (k : Nat) (x : TaskSlot) : (s.setTask k x).run = s.run := rfl
@[simp] theorem State.setTask_devLevel (s : State) (k : Nat) (x : TaskSlot) : (s.setTask k x).devLevel = s.devLevel := rfl
@[simp] theorem State.setTask_version (s : State) (k : Nat) (x : TaskSlot) : (s.setTask k x).version = s.version := rfl
@[simp] theorem State.setTask_bootm (s : State) (k : Nat) (x : TaskSlot) : (s.setTask k x).bootm = s.bootm := rfl
@[simp] theorem State.setTask_expected (s : State) (k : Nat) (x : TaskSlot) : (s.setTask k x).expected = s.expected := rfl
@[simp] theorem State.setTask_identity (s : State) (k : Nat) (x : TaskSlot) : (s.setTask k x).identity = s.identity := rfl
@[simp] theorem State.setTask_mem (s : State) (k : Nat) (x : TaskSlot) : (s.setTask k x).mem = s.mem := rfl
@[simp] theorem State.setTask_poison (s : State) (k : Nat) (x : TaskSlot) : (s.setTask k x).poison = s.poison := rfl
@[simp] theorem State.setTask_tables (s : State) (k : Nat) (x : TaskSlot) : (s.setTask k x).tables = s.tables := rfl
@[simp] theorem State.setTask_l2 (s : State) (k : Nat) (x : TaskSlot) : (s.setTask k x).l2 = s.l2 := rfl
@[simp] theorem State.setTask_slices (s : State) (k : Nat) (x : TaskSlot) : (s.setTask k x).slices = s.slices := rfl
@[simp] theorem State.setTask_tlbs (s : State) (k : Nat) (x : TaskSlot) : (s.setTask k x).tlbs = s.tlbs := rfl
@[simp] theorem State.setTask_walkers (s : State) (k : Nat) (x : TaskSlot) : (s.setTask k x).walkers = s.walkers := rfl
@[simp] theorem State.setTask_pins (s : State) (k : Nat) (x : TaskSlot) : (s.setTask k x).pins = s.pins := rfl
@[simp] theorem State.setTask_migCount (s : State) (k : Nat) (x : TaskSlot) : (s.setTask k x).migCount = s.migCount := rfl
@[simp] theorem State.setTask_noMigrate (s : State) (k : Nat) (x : TaskSlot) : (s.setTask k x).noMigrate = s.noMigrate := rfl
@[simp] theorem State.setTask_extents (s : State) (k : Nat) (x : TaskSlot) : (s.setTask k x).extents = s.extents := rfl
@[simp] theorem State.setTask_queues (s : State) (k : Nat) (x : TaskSlot) : (s.setTask k x).queues = s.queues := rfl
@[simp] theorem State.setTask_parts (s : State) (k : Nat) (x : TaskSlot) : (s.setTask k x).parts = s.parts := rfl
@[simp] theorem State.setTask_ctxs (s : State) (k : Nat) (x : TaskSlot) : (s.setTask k x).ctxs = s.ctxs := rfl
@[simp] theorem State.setTask_cores (s : State) (k : Nat) (x : TaskSlot) : (s.setTask k x).cores = s.cores := rfl
@[simp] theorem State.setTask_threads (s : State) (k : Nat) (x : TaskSlot) : (s.setTask k x).threads = s.threads := rfl
@[simp] theorem State.setTask_cohorts (s : State) (k : Nat) (x : TaskSlot) : (s.setTask k x).cohorts = s.cohorts := rfl
@[simp] theorem State.setTask_dies (s : State) (k : Nat) (x : TaskSlot) : (s.setTask k x).dies = s.dies := rfl
@[simp] theorem State.setTask_chans (s : State) (k : Nat) (x : TaskSlot) : (s.setTask k x).chans = s.chans := rfl
@[simp] theorem State.setTask_streams (s : State) (k : Nat) (x : TaskSlot) : (s.setTask k x).streams = s.streams := rfl
@[simp] theorem State.setTask_windows (s : State) (k : Nat) (x : TaskSlot) : (s.setTask k x).windows = s.windows := rfl
@[simp] theorem State.setTask_tasks (s : State) (k : Nat) (x : TaskSlot) : (s.setTask k x).tasks = put s.tasks k x := rfl
@[simp] theorem State.setTask_saved (s : State) (k : Nat) (x : TaskSlot) : (s.setTask k x).saved = s.saved := rfl
@[simp] theorem State.setTask_swaps (s : State) (k : Nat) (x : TaskSlot) : (s.setTask k x).swaps = s.swaps := rfl
@[simp] theorem State.setTask_fns (s : State) (k : Nat) (x : TaskSlot) : (s.setTask k x).fns = s.fns := rfl
@[simp] theorem State.setTask_scpWrites (s : State) (k : Nat) (x : TaskSlot) : (s.setTask k x).scpWrites = s.scpWrites := rfl
@[simp] theorem State.setTask_scpResp (s : State) (k : Nat) (x : TaskSlot) : (s.setTask k x).scpResp = s.scpResp := rfl
@[simp] theorem State.setTask_flows (s : State) (k : Nat) (x : TaskSlot) : (s.setTask k x).flows = s.flows := rfl
@[simp] theorem State.setTask_uints (s : State) (k : Nat) (x : TaskSlot) : (s.setTask k x).uints = s.uints := rfl
@[simp] theorem State.setTask_uintOut (s : State) (k : Nat) (x : TaskSlot) : (s.setTask k x).uintOut = s.uintOut := rfl
@[simp] theorem State.setTask_sysReqs (s : State) (k : Nat) (x : TaskSlot) : (s.setTask k x).sysReqs = s.sysReqs := rfl
@[simp] theorem State.setTask_millis (s : State) (k : Nat) (x : TaskSlot) : (s.setTask k x).millis = s.millis := rfl
@[simp] theorem State.setTask_chores (s : State) (k : Nat) (x : TaskSlot) : (s.setTask k x).chores = s.chores := rfl
@[simp] theorem State.setTask_fused (s : State) (k : Nat) (x : TaskSlot) : (s.setTask k x).fused = s.fused := rfl
@[simp] theorem State.setTask_events (s : State) (k : Nat) (x : TaskSlot) : (s.setTask k x).events = s.events := rfl

/-! Fields after State.setFn. -/

@[simp] theorem State.setFn_cur (s : State) (k : Nat) (x : PcieFn) : (s.setFn k x).cur = s.cur := rfl
@[simp] theorem State.setFn_arg (s : State) (k : Nat) (x : PcieFn) : (s.setFn k x).arg = s.arg := rfl
@[simp] theorem State.setFn_agenda (s : State) (k : Nat) (x : PcieFn) : (s.setFn k x).agenda = s.agenda := rfl
@[simp] theorem State.setFn_later (s : State) (k : Nat) (x : PcieFn) : (s.setFn k x).later = s.later := rfl
@[simp] theorem State.setFn_freeCount (s : State) (k : Nat) (x : PcieFn) : (s.setFn k x).freeCount = s.freeCount := rfl
@[simp] theorem State.setFn_nextUid (s : State) (k : Nat) (x : PcieFn) : (s.setFn k x).nextUid = s.nextUid := rfl
@[simp] theorem State.setFn_nextAge (s : State) (k : Nat) (x : PcieFn) : (s.setFn k x).nextAge = s.nextAge := rfl
@[simp] theorem State.setFn_clk (s : State) (k : Nat) (x : PcieFn) : (s.setFn k x).clk = s.clk := rfl
@[simp] theorem State.setFn_ptsBase (s : State) (k : Nat) (x : PcieFn) : (s.setFn k x).ptsBase = s.ptsBase := rfl
@[simp] theorem State.setFn_ungated (s : State) (k : Nat) (x : PcieFn) : (s.setFn k x).ungated = s.ungated := rfl
@[simp] theorem State.setFn_gated (s : State) (k : Nat) (x : PcieFn) : (s.setFn k x).gated = s.gated := rfl
@[simp] theorem State.setFn_timeBase (s : State) (k : Nat) (x : PcieFn) : (s.setFn k x).timeBase = s.timeBase := rfl
@[simp] theorem State.setFn_clkBase (s : State) (k : Nat) (x : PcieFn) : (s.setFn k x).clkBase = s.clkBase := rfl
@[simp] theorem State.setFn_slew (s : State) (k : Nat) (x : PcieFn) : (s.setFn k x).slew = s.slew := rfl
@[simp] theorem State.setFn_timeSrc (s : State) (k : Nat) (x : PcieFn) : (s.setFn k x).timeSrc = s.timeSrc := rfl
@[simp] theorem State.setFn_pkg (s : State) (k : Nat) (x : PcieFn) : (s.setFn k x).pkg = s.pkg := rfl
@[simp] theorem State.setFn_run (s : State) (k : Nat) (x : PcieFn) : (s.setFn k x).run = s.run := rfl
@[simp] theorem State.setFn_devLevel (s : State) (k : Nat) (x : PcieFn) : (s.setFn k x).devLevel = s.devLevel := rfl
@[simp] theorem State.setFn_version (s : State) (k : Nat) (x : PcieFn) : (s.setFn k x).version = s.version := rfl
@[simp] theorem State.setFn_bootm (s : State) (k : Nat) (x : PcieFn) : (s.setFn k x).bootm = s.bootm := rfl
@[simp] theorem State.setFn_expected (s : State) (k : Nat) (x : PcieFn) : (s.setFn k x).expected = s.expected := rfl
@[simp] theorem State.setFn_identity (s : State) (k : Nat) (x : PcieFn) : (s.setFn k x).identity = s.identity := rfl
@[simp] theorem State.setFn_mem (s : State) (k : Nat) (x : PcieFn) : (s.setFn k x).mem = s.mem := rfl
@[simp] theorem State.setFn_poison (s : State) (k : Nat) (x : PcieFn) : (s.setFn k x).poison = s.poison := rfl
@[simp] theorem State.setFn_tables (s : State) (k : Nat) (x : PcieFn) : (s.setFn k x).tables = s.tables := rfl
@[simp] theorem State.setFn_l2 (s : State) (k : Nat) (x : PcieFn) : (s.setFn k x).l2 = s.l2 := rfl
@[simp] theorem State.setFn_slices (s : State) (k : Nat) (x : PcieFn) : (s.setFn k x).slices = s.slices := rfl
@[simp] theorem State.setFn_tlbs (s : State) (k : Nat) (x : PcieFn) : (s.setFn k x).tlbs = s.tlbs := rfl
@[simp] theorem State.setFn_walkers (s : State) (k : Nat) (x : PcieFn) : (s.setFn k x).walkers = s.walkers := rfl
@[simp] theorem State.setFn_pins (s : State) (k : Nat) (x : PcieFn) : (s.setFn k x).pins = s.pins := rfl
@[simp] theorem State.setFn_migCount (s : State) (k : Nat) (x : PcieFn) : (s.setFn k x).migCount = s.migCount := rfl
@[simp] theorem State.setFn_noMigrate (s : State) (k : Nat) (x : PcieFn) : (s.setFn k x).noMigrate = s.noMigrate := rfl
@[simp] theorem State.setFn_extents (s : State) (k : Nat) (x : PcieFn) : (s.setFn k x).extents = s.extents := rfl
@[simp] theorem State.setFn_queues (s : State) (k : Nat) (x : PcieFn) : (s.setFn k x).queues = s.queues := rfl
@[simp] theorem State.setFn_parts (s : State) (k : Nat) (x : PcieFn) : (s.setFn k x).parts = s.parts := rfl
@[simp] theorem State.setFn_ctxs (s : State) (k : Nat) (x : PcieFn) : (s.setFn k x).ctxs = s.ctxs := rfl
@[simp] theorem State.setFn_cores (s : State) (k : Nat) (x : PcieFn) : (s.setFn k x).cores = s.cores := rfl
@[simp] theorem State.setFn_threads (s : State) (k : Nat) (x : PcieFn) : (s.setFn k x).threads = s.threads := rfl
@[simp] theorem State.setFn_cohorts (s : State) (k : Nat) (x : PcieFn) : (s.setFn k x).cohorts = s.cohorts := rfl
@[simp] theorem State.setFn_dies (s : State) (k : Nat) (x : PcieFn) : (s.setFn k x).dies = s.dies := rfl
@[simp] theorem State.setFn_chans (s : State) (k : Nat) (x : PcieFn) : (s.setFn k x).chans = s.chans := rfl
@[simp] theorem State.setFn_streams (s : State) (k : Nat) (x : PcieFn) : (s.setFn k x).streams = s.streams := rfl
@[simp] theorem State.setFn_windows (s : State) (k : Nat) (x : PcieFn) : (s.setFn k x).windows = s.windows := rfl
@[simp] theorem State.setFn_tasks (s : State) (k : Nat) (x : PcieFn) : (s.setFn k x).tasks = s.tasks := rfl
@[simp] theorem State.setFn_saved (s : State) (k : Nat) (x : PcieFn) : (s.setFn k x).saved = s.saved := rfl
@[simp] theorem State.setFn_swaps (s : State) (k : Nat) (x : PcieFn) : (s.setFn k x).swaps = s.swaps := rfl
@[simp] theorem State.setFn_fns (s : State) (k : Nat) (x : PcieFn) : (s.setFn k x).fns = put s.fns k x := rfl
@[simp] theorem State.setFn_scpWrites (s : State) (k : Nat) (x : PcieFn) : (s.setFn k x).scpWrites = s.scpWrites := rfl
@[simp] theorem State.setFn_scpResp (s : State) (k : Nat) (x : PcieFn) : (s.setFn k x).scpResp = s.scpResp := rfl
@[simp] theorem State.setFn_flows (s : State) (k : Nat) (x : PcieFn) : (s.setFn k x).flows = s.flows := rfl
@[simp] theorem State.setFn_uints (s : State) (k : Nat) (x : PcieFn) : (s.setFn k x).uints = s.uints := rfl
@[simp] theorem State.setFn_uintOut (s : State) (k : Nat) (x : PcieFn) : (s.setFn k x).uintOut = s.uintOut := rfl
@[simp] theorem State.setFn_sysReqs (s : State) (k : Nat) (x : PcieFn) : (s.setFn k x).sysReqs = s.sysReqs := rfl
@[simp] theorem State.setFn_millis (s : State) (k : Nat) (x : PcieFn) : (s.setFn k x).millis = s.millis := rfl
@[simp] theorem State.setFn_chores (s : State) (k : Nat) (x : PcieFn) : (s.setFn k x).chores = s.chores := rfl
@[simp] theorem State.setFn_fused (s : State) (k : Nat) (x : PcieFn) : (s.setFn k x).fused = s.fused := rfl
@[simp] theorem State.setFn_events (s : State) (k : Nat) (x : PcieFn) : (s.setFn k x).events = s.events := rfl

/-! Fields after State.setQueue. -/

@[simp] theorem State.setQueue_cur (s : State) (k : Nat) (x : Queue) : (s.setQueue k x).cur = s.cur := rfl
@[simp] theorem State.setQueue_arg (s : State) (k : Nat) (x : Queue) : (s.setQueue k x).arg = s.arg := rfl
@[simp] theorem State.setQueue_agenda (s : State) (k : Nat) (x : Queue) : (s.setQueue k x).agenda = s.agenda := rfl
@[simp] theorem State.setQueue_later (s : State) (k : Nat) (x : Queue) : (s.setQueue k x).later = s.later := rfl
@[simp] theorem State.setQueue_freeCount (s : State) (k : Nat) (x : Queue) : (s.setQueue k x).freeCount = s.freeCount := rfl
@[simp] theorem State.setQueue_nextUid (s : State) (k : Nat) (x : Queue) : (s.setQueue k x).nextUid = s.nextUid := rfl
@[simp] theorem State.setQueue_nextAge (s : State) (k : Nat) (x : Queue) : (s.setQueue k x).nextAge = s.nextAge := rfl
@[simp] theorem State.setQueue_clk (s : State) (k : Nat) (x : Queue) : (s.setQueue k x).clk = s.clk := rfl
@[simp] theorem State.setQueue_ptsBase (s : State) (k : Nat) (x : Queue) : (s.setQueue k x).ptsBase = s.ptsBase := rfl
@[simp] theorem State.setQueue_ungated (s : State) (k : Nat) (x : Queue) : (s.setQueue k x).ungated = s.ungated := rfl
@[simp] theorem State.setQueue_gated (s : State) (k : Nat) (x : Queue) : (s.setQueue k x).gated = s.gated := rfl
@[simp] theorem State.setQueue_timeBase (s : State) (k : Nat) (x : Queue) : (s.setQueue k x).timeBase = s.timeBase := rfl
@[simp] theorem State.setQueue_clkBase (s : State) (k : Nat) (x : Queue) : (s.setQueue k x).clkBase = s.clkBase := rfl
@[simp] theorem State.setQueue_slew (s : State) (k : Nat) (x : Queue) : (s.setQueue k x).slew = s.slew := rfl
@[simp] theorem State.setQueue_timeSrc (s : State) (k : Nat) (x : Queue) : (s.setQueue k x).timeSrc = s.timeSrc := rfl
@[simp] theorem State.setQueue_pkg (s : State) (k : Nat) (x : Queue) : (s.setQueue k x).pkg = s.pkg := rfl
@[simp] theorem State.setQueue_run (s : State) (k : Nat) (x : Queue) : (s.setQueue k x).run = s.run := rfl
@[simp] theorem State.setQueue_devLevel (s : State) (k : Nat) (x : Queue) : (s.setQueue k x).devLevel = s.devLevel := rfl
@[simp] theorem State.setQueue_version (s : State) (k : Nat) (x : Queue) : (s.setQueue k x).version = s.version := rfl
@[simp] theorem State.setQueue_bootm (s : State) (k : Nat) (x : Queue) : (s.setQueue k x).bootm = s.bootm := rfl
@[simp] theorem State.setQueue_expected (s : State) (k : Nat) (x : Queue) : (s.setQueue k x).expected = s.expected := rfl
@[simp] theorem State.setQueue_identity (s : State) (k : Nat) (x : Queue) : (s.setQueue k x).identity = s.identity := rfl
@[simp] theorem State.setQueue_mem (s : State) (k : Nat) (x : Queue) : (s.setQueue k x).mem = s.mem := rfl
@[simp] theorem State.setQueue_poison (s : State) (k : Nat) (x : Queue) : (s.setQueue k x).poison = s.poison := rfl
@[simp] theorem State.setQueue_tables (s : State) (k : Nat) (x : Queue) : (s.setQueue k x).tables = s.tables := rfl
@[simp] theorem State.setQueue_l2 (s : State) (k : Nat) (x : Queue) : (s.setQueue k x).l2 = s.l2 := rfl
@[simp] theorem State.setQueue_slices (s : State) (k : Nat) (x : Queue) : (s.setQueue k x).slices = s.slices := rfl
@[simp] theorem State.setQueue_tlbs (s : State) (k : Nat) (x : Queue) : (s.setQueue k x).tlbs = s.tlbs := rfl
@[simp] theorem State.setQueue_walkers (s : State) (k : Nat) (x : Queue) : (s.setQueue k x).walkers = s.walkers := rfl
@[simp] theorem State.setQueue_pins (s : State) (k : Nat) (x : Queue) : (s.setQueue k x).pins = s.pins := rfl
@[simp] theorem State.setQueue_migCount (s : State) (k : Nat) (x : Queue) : (s.setQueue k x).migCount = s.migCount := rfl
@[simp] theorem State.setQueue_noMigrate (s : State) (k : Nat) (x : Queue) : (s.setQueue k x).noMigrate = s.noMigrate := rfl
@[simp] theorem State.setQueue_extents (s : State) (k : Nat) (x : Queue) : (s.setQueue k x).extents = s.extents := rfl
@[simp] theorem State.setQueue_queues (s : State) (k : Nat) (x : Queue) : (s.setQueue k x).queues = put s.queues k x := rfl
@[simp] theorem State.setQueue_parts (s : State) (k : Nat) (x : Queue) : (s.setQueue k x).parts = s.parts := rfl
@[simp] theorem State.setQueue_ctxs (s : State) (k : Nat) (x : Queue) : (s.setQueue k x).ctxs = s.ctxs := rfl
@[simp] theorem State.setQueue_cores (s : State) (k : Nat) (x : Queue) : (s.setQueue k x).cores = s.cores := rfl
@[simp] theorem State.setQueue_threads (s : State) (k : Nat) (x : Queue) : (s.setQueue k x).threads = s.threads := rfl
@[simp] theorem State.setQueue_cohorts (s : State) (k : Nat) (x : Queue) : (s.setQueue k x).cohorts = s.cohorts := rfl
@[simp] theorem State.setQueue_dies (s : State) (k : Nat) (x : Queue) : (s.setQueue k x).dies = s.dies := rfl
@[simp] theorem State.setQueue_chans (s : State) (k : Nat) (x : Queue) : (s.setQueue k x).chans = s.chans := rfl
@[simp] theorem State.setQueue_streams (s : State) (k : Nat) (x : Queue) : (s.setQueue k x).streams = s.streams := rfl
@[simp] theorem State.setQueue_windows (s : State) (k : Nat) (x : Queue) : (s.setQueue k x).windows = s.windows := rfl
@[simp] theorem State.setQueue_tasks (s : State) (k : Nat) (x : Queue) : (s.setQueue k x).tasks = s.tasks := rfl
@[simp] theorem State.setQueue_saved (s : State) (k : Nat) (x : Queue) : (s.setQueue k x).saved = s.saved := rfl
@[simp] theorem State.setQueue_swaps (s : State) (k : Nat) (x : Queue) : (s.setQueue k x).swaps = s.swaps := rfl
@[simp] theorem State.setQueue_fns (s : State) (k : Nat) (x : Queue) : (s.setQueue k x).fns = s.fns := rfl
@[simp] theorem State.setQueue_scpWrites (s : State) (k : Nat) (x : Queue) : (s.setQueue k x).scpWrites = s.scpWrites := rfl
@[simp] theorem State.setQueue_scpResp (s : State) (k : Nat) (x : Queue) : (s.setQueue k x).scpResp = s.scpResp := rfl
@[simp] theorem State.setQueue_flows (s : State) (k : Nat) (x : Queue) : (s.setQueue k x).flows = s.flows := rfl
@[simp] theorem State.setQueue_uints (s : State) (k : Nat) (x : Queue) : (s.setQueue k x).uints = s.uints := rfl
@[simp] theorem State.setQueue_uintOut (s : State) (k : Nat) (x : Queue) : (s.setQueue k x).uintOut = s.uintOut := rfl
@[simp] theorem State.setQueue_sysReqs (s : State) (k : Nat) (x : Queue) : (s.setQueue k x).sysReqs = s.sysReqs := rfl
@[simp] theorem State.setQueue_millis (s : State) (k : Nat) (x : Queue) : (s.setQueue k x).millis = s.millis := rfl
@[simp] theorem State.setQueue_chores (s : State) (k : Nat) (x : Queue) : (s.setQueue k x).chores = s.chores := rfl
@[simp] theorem State.setQueue_fused (s : State) (k : Nat) (x : Queue) : (s.setQueue k x).fused = s.fused := rfl
@[simp] theorem State.setQueue_events (s : State) (k : Nat) (x : Queue) : (s.setQueue k x).events = s.events := rfl

/-! Fields after State.setWindow. -/

@[simp] theorem State.setWindow_cur (s : State) (k : Nat) (x : Window) : (s.setWindow k x).cur = s.cur := rfl
@[simp] theorem State.setWindow_arg (s : State) (k : Nat) (x : Window) : (s.setWindow k x).arg = s.arg := rfl
@[simp] theorem State.setWindow_agenda (s : State) (k : Nat) (x : Window) : (s.setWindow k x).agenda = s.agenda := rfl
@[simp] theorem State.setWindow_later (s : State) (k : Nat) (x : Window) : (s.setWindow k x).later = s.later := rfl
@[simp] theorem State.setWindow_freeCount (s : State) (k : Nat) (x : Window) : (s.setWindow k x).freeCount = s.freeCount := rfl
@[simp] theorem State.setWindow_nextUid (s : State) (k : Nat) (x : Window) : (s.setWindow k x).nextUid = s.nextUid := rfl
@[simp] theorem State.setWindow_nextAge (s : State) (k : Nat) (x : Window) : (s.setWindow k x).nextAge = s.nextAge := rfl
@[simp] theorem State.setWindow_clk (s : State) (k : Nat) (x : Window) : (s.setWindow k x).clk = s.clk := rfl
@[simp] theorem State.setWindow_ptsBase (s : State) (k : Nat) (x : Window) : (s.setWindow k x).ptsBase = s.ptsBase := rfl
@[simp] theorem State.setWindow_ungated (s : State) (k : Nat) (x : Window) : (s.setWindow k x).ungated = s.ungated := rfl
@[simp] theorem State.setWindow_gated (s : State) (k : Nat) (x : Window) : (s.setWindow k x).gated = s.gated := rfl
@[simp] theorem State.setWindow_timeBase (s : State) (k : Nat) (x : Window) : (s.setWindow k x).timeBase = s.timeBase := rfl
@[simp] theorem State.setWindow_clkBase (s : State) (k : Nat) (x : Window) : (s.setWindow k x).clkBase = s.clkBase := rfl
@[simp] theorem State.setWindow_slew (s : State) (k : Nat) (x : Window) : (s.setWindow k x).slew = s.slew := rfl
@[simp] theorem State.setWindow_timeSrc (s : State) (k : Nat) (x : Window) : (s.setWindow k x).timeSrc = s.timeSrc := rfl
@[simp] theorem State.setWindow_pkg (s : State) (k : Nat) (x : Window) : (s.setWindow k x).pkg = s.pkg := rfl
@[simp] theorem State.setWindow_run (s : State) (k : Nat) (x : Window) : (s.setWindow k x).run = s.run := rfl
@[simp] theorem State.setWindow_devLevel (s : State) (k : Nat) (x : Window) : (s.setWindow k x).devLevel = s.devLevel := rfl
@[simp] theorem State.setWindow_version (s : State) (k : Nat) (x : Window) : (s.setWindow k x).version = s.version := rfl
@[simp] theorem State.setWindow_bootm (s : State) (k : Nat) (x : Window) : (s.setWindow k x).bootm = s.bootm := rfl
@[simp] theorem State.setWindow_expected (s : State) (k : Nat) (x : Window) : (s.setWindow k x).expected = s.expected := rfl
@[simp] theorem State.setWindow_identity (s : State) (k : Nat) (x : Window) : (s.setWindow k x).identity = s.identity := rfl
@[simp] theorem State.setWindow_mem (s : State) (k : Nat) (x : Window) : (s.setWindow k x).mem = s.mem := rfl
@[simp] theorem State.setWindow_poison (s : State) (k : Nat) (x : Window) : (s.setWindow k x).poison = s.poison := rfl
@[simp] theorem State.setWindow_tables (s : State) (k : Nat) (x : Window) : (s.setWindow k x).tables = s.tables := rfl
@[simp] theorem State.setWindow_l2 (s : State) (k : Nat) (x : Window) : (s.setWindow k x).l2 = s.l2 := rfl
@[simp] theorem State.setWindow_slices (s : State) (k : Nat) (x : Window) : (s.setWindow k x).slices = s.slices := rfl
@[simp] theorem State.setWindow_tlbs (s : State) (k : Nat) (x : Window) : (s.setWindow k x).tlbs = s.tlbs := rfl
@[simp] theorem State.setWindow_walkers (s : State) (k : Nat) (x : Window) : (s.setWindow k x).walkers = s.walkers := rfl
@[simp] theorem State.setWindow_pins (s : State) (k : Nat) (x : Window) : (s.setWindow k x).pins = s.pins := rfl
@[simp] theorem State.setWindow_migCount (s : State) (k : Nat) (x : Window) : (s.setWindow k x).migCount = s.migCount := rfl
@[simp] theorem State.setWindow_noMigrate (s : State) (k : Nat) (x : Window) : (s.setWindow k x).noMigrate = s.noMigrate := rfl
@[simp] theorem State.setWindow_extents (s : State) (k : Nat) (x : Window) : (s.setWindow k x).extents = s.extents := rfl
@[simp] theorem State.setWindow_queues (s : State) (k : Nat) (x : Window) : (s.setWindow k x).queues = s.queues := rfl
@[simp] theorem State.setWindow_parts (s : State) (k : Nat) (x : Window) : (s.setWindow k x).parts = s.parts := rfl
@[simp] theorem State.setWindow_ctxs (s : State) (k : Nat) (x : Window) : (s.setWindow k x).ctxs = s.ctxs := rfl
@[simp] theorem State.setWindow_cores (s : State) (k : Nat) (x : Window) : (s.setWindow k x).cores = s.cores := rfl
@[simp] theorem State.setWindow_threads (s : State) (k : Nat) (x : Window) : (s.setWindow k x).threads = s.threads := rfl
@[simp] theorem State.setWindow_cohorts (s : State) (k : Nat) (x : Window) : (s.setWindow k x).cohorts = s.cohorts := rfl
@[simp] theorem State.setWindow_dies (s : State) (k : Nat) (x : Window) : (s.setWindow k x).dies = s.dies := rfl
@[simp] theorem State.setWindow_chans (s : State) (k : Nat) (x : Window) : (s.setWindow k x).chans = s.chans := rfl
@[simp] theorem State.setWindow_streams (s : State) (k : Nat) (x : Window) : (s.setWindow k x).streams = s.streams := rfl
@[simp] theorem State.setWindow_windows (s : State) (k : Nat) (x : Window) : (s.setWindow k x).windows = put s.windows k x := rfl
@[simp] theorem State.setWindow_tasks (s : State) (k : Nat) (x : Window) : (s.setWindow k x).tasks = s.tasks := rfl
@[simp] theorem State.setWindow_saved (s : State) (k : Nat) (x : Window) : (s.setWindow k x).saved = s.saved := rfl
@[simp] theorem State.setWindow_swaps (s : State) (k : Nat) (x : Window) : (s.setWindow k x).swaps = s.swaps := rfl
@[simp] theorem State.setWindow_fns (s : State) (k : Nat) (x : Window) : (s.setWindow k x).fns = s.fns := rfl
@[simp] theorem State.setWindow_scpWrites (s : State) (k : Nat) (x : Window) : (s.setWindow k x).scpWrites = s.scpWrites := rfl
@[simp] theorem State.setWindow_scpResp (s : State) (k : Nat) (x : Window) : (s.setWindow k x).scpResp = s.scpResp := rfl
@[simp] theorem State.setWindow_flows (s : State) (k : Nat) (x : Window) : (s.setWindow k x).flows = s.flows := rfl
@[simp] theorem State.setWindow_uints (s : State) (k : Nat) (x : Window) : (s.setWindow k x).uints = s.uints := rfl
@[simp] theorem State.setWindow_uintOut (s : State) (k : Nat) (x : Window) : (s.setWindow k x).uintOut = s.uintOut := rfl
@[simp] theorem State.setWindow_sysReqs (s : State) (k : Nat) (x : Window) : (s.setWindow k x).sysReqs = s.sysReqs := rfl
@[simp] theorem State.setWindow_millis (s : State) (k : Nat) (x : Window) : (s.setWindow k x).millis = s.millis := rfl
@[simp] theorem State.setWindow_chores (s : State) (k : Nat) (x : Window) : (s.setWindow k x).chores = s.chores := rfl
@[simp] theorem State.setWindow_fused (s : State) (k : Nat) (x : Window) : (s.setWindow k x).fused = s.fused := rfl
@[simp] theorem State.setWindow_events (s : State) (k : Nat) (x : Window) : (s.setWindow k x).events = s.events := rfl

/-! Fields after State.setStream. -/

@[simp] theorem State.setStream_cur (s : State) (k : Nat) (x : StreamCtl) : (s.setStream k x).cur = s.cur := rfl
@[simp] theorem State.setStream_arg (s : State) (k : Nat) (x : StreamCtl) : (s.setStream k x).arg = s.arg := rfl
@[simp] theorem State.setStream_agenda (s : State) (k : Nat) (x : StreamCtl) : (s.setStream k x).agenda = s.agenda := rfl
@[simp] theorem State.setStream_later (s : State) (k : Nat) (x : StreamCtl) : (s.setStream k x).later = s.later := rfl
@[simp] theorem State.setStream_freeCount (s : State) (k : Nat) (x : StreamCtl) : (s.setStream k x).freeCount = s.freeCount := rfl
@[simp] theorem State.setStream_nextUid (s : State) (k : Nat) (x : StreamCtl) : (s.setStream k x).nextUid = s.nextUid := rfl
@[simp] theorem State.setStream_nextAge (s : State) (k : Nat) (x : StreamCtl) : (s.setStream k x).nextAge = s.nextAge := rfl
@[simp] theorem State.setStream_clk (s : State) (k : Nat) (x : StreamCtl) : (s.setStream k x).clk = s.clk := rfl
@[simp] theorem State.setStream_ptsBase (s : State) (k : Nat) (x : StreamCtl) : (s.setStream k x).ptsBase = s.ptsBase := rfl
@[simp] theorem State.setStream_ungated (s : State) (k : Nat) (x : StreamCtl) : (s.setStream k x).ungated = s.ungated := rfl
@[simp] theorem State.setStream_gated (s : State) (k : Nat) (x : StreamCtl) : (s.setStream k x).gated = s.gated := rfl
@[simp] theorem State.setStream_timeBase (s : State) (k : Nat) (x : StreamCtl) : (s.setStream k x).timeBase = s.timeBase := rfl
@[simp] theorem State.setStream_clkBase (s : State) (k : Nat) (x : StreamCtl) : (s.setStream k x).clkBase = s.clkBase := rfl
@[simp] theorem State.setStream_slew (s : State) (k : Nat) (x : StreamCtl) : (s.setStream k x).slew = s.slew := rfl
@[simp] theorem State.setStream_timeSrc (s : State) (k : Nat) (x : StreamCtl) : (s.setStream k x).timeSrc = s.timeSrc := rfl
@[simp] theorem State.setStream_pkg (s : State) (k : Nat) (x : StreamCtl) : (s.setStream k x).pkg = s.pkg := rfl
@[simp] theorem State.setStream_run (s : State) (k : Nat) (x : StreamCtl) : (s.setStream k x).run = s.run := rfl
@[simp] theorem State.setStream_devLevel (s : State) (k : Nat) (x : StreamCtl) : (s.setStream k x).devLevel = s.devLevel := rfl
@[simp] theorem State.setStream_version (s : State) (k : Nat) (x : StreamCtl) : (s.setStream k x).version = s.version := rfl
@[simp] theorem State.setStream_bootm (s : State) (k : Nat) (x : StreamCtl) : (s.setStream k x).bootm = s.bootm := rfl
@[simp] theorem State.setStream_expected (s : State) (k : Nat) (x : StreamCtl) : (s.setStream k x).expected = s.expected := rfl
@[simp] theorem State.setStream_identity (s : State) (k : Nat) (x : StreamCtl) : (s.setStream k x).identity = s.identity := rfl
@[simp] theorem State.setStream_mem (s : State) (k : Nat) (x : StreamCtl) : (s.setStream k x).mem = s.mem := rfl
@[simp] theorem State.setStream_poison (s : State) (k : Nat) (x : StreamCtl) : (s.setStream k x).poison = s.poison := rfl
@[simp] theorem State.setStream_tables (s : State) (k : Nat) (x : StreamCtl) : (s.setStream k x).tables = s.tables := rfl
@[simp] theorem State.setStream_l2 (s : State) (k : Nat) (x : StreamCtl) : (s.setStream k x).l2 = s.l2 := rfl
@[simp] theorem State.setStream_slices (s : State) (k : Nat) (x : StreamCtl) : (s.setStream k x).slices = s.slices := rfl
@[simp] theorem State.setStream_tlbs (s : State) (k : Nat) (x : StreamCtl) : (s.setStream k x).tlbs = s.tlbs := rfl
@[simp] theorem State.setStream_walkers (s : State) (k : Nat) (x : StreamCtl) : (s.setStream k x).walkers = s.walkers := rfl
@[simp] theorem State.setStream_pins (s : State) (k : Nat) (x : StreamCtl) : (s.setStream k x).pins = s.pins := rfl
@[simp] theorem State.setStream_migCount (s : State) (k : Nat) (x : StreamCtl) : (s.setStream k x).migCount = s.migCount := rfl
@[simp] theorem State.setStream_noMigrate (s : State) (k : Nat) (x : StreamCtl) : (s.setStream k x).noMigrate = s.noMigrate := rfl
@[simp] theorem State.setStream_extents (s : State) (k : Nat) (x : StreamCtl) : (s.setStream k x).extents = s.extents := rfl
@[simp] theorem State.setStream_queues (s : State) (k : Nat) (x : StreamCtl) : (s.setStream k x).queues = s.queues := rfl
@[simp] theorem State.setStream_parts (s : State) (k : Nat) (x : StreamCtl) : (s.setStream k x).parts = s.parts := rfl
@[simp] theorem State.setStream_ctxs (s : State) (k : Nat) (x : StreamCtl) : (s.setStream k x).ctxs = s.ctxs := rfl
@[simp] theorem State.setStream_cores (s : State) (k : Nat) (x : StreamCtl) : (s.setStream k x).cores = s.cores := rfl
@[simp] theorem State.setStream_threads (s : State) (k : Nat) (x : StreamCtl) : (s.setStream k x).threads = s.threads := rfl
@[simp] theorem State.setStream_cohorts (s : State) (k : Nat) (x : StreamCtl) : (s.setStream k x).cohorts = s.cohorts := rfl
@[simp] theorem State.setStream_dies (s : State) (k : Nat) (x : StreamCtl) : (s.setStream k x).dies = s.dies := rfl
@[simp] theorem State.setStream_chans (s : State) (k : Nat) (x : StreamCtl) : (s.setStream k x).chans = s.chans := rfl
@[simp] theorem State.setStream_streams (s : State) (k : Nat) (x : StreamCtl) : (s.setStream k x).streams = put s.streams k x := rfl
@[simp] theorem State.setStream_windows (s : State) (k : Nat) (x : StreamCtl) : (s.setStream k x).windows = s.windows := rfl
@[simp] theorem State.setStream_tasks (s : State) (k : Nat) (x : StreamCtl) : (s.setStream k x).tasks = s.tasks := rfl
@[simp] theorem State.setStream_saved (s : State) (k : Nat) (x : StreamCtl) : (s.setStream k x).saved = s.saved := rfl
@[simp] theorem State.setStream_swaps (s : State) (k : Nat) (x : StreamCtl) : (s.setStream k x).swaps = s.swaps := rfl
@[simp] theorem State.setStream_fns (s : State) (k : Nat) (x : StreamCtl) : (s.setStream k x).fns = s.fns := rfl
@[simp] theorem State.setStream_scpWrites (s : State) (k : Nat) (x : StreamCtl) : (s.setStream k x).scpWrites = s.scpWrites := rfl
@[simp] theorem State.setStream_scpResp (s : State) (k : Nat) (x : StreamCtl) : (s.setStream k x).scpResp = s.scpResp := rfl
@[simp] theorem State.setStream_flows (s : State) (k : Nat) (x : StreamCtl) : (s.setStream k x).flows = s.flows := rfl
@[simp] theorem State.setStream_uints (s : State) (k : Nat) (x : StreamCtl) : (s.setStream k x).uints = s.uints := rfl
@[simp] theorem State.setStream_uintOut (s : State) (k : Nat) (x : StreamCtl) : (s.setStream k x).uintOut = s.uintOut := rfl
@[simp] theorem State.setStream_sysReqs (s : State) (k : Nat) (x : StreamCtl) : (s.setStream k x).sysReqs = s.sysReqs := rfl
@[simp] theorem State.setStream_millis (s : State) (k : Nat) (x : StreamCtl) : (s.setStream k x).millis = s.millis := rfl
@[simp] theorem State.setStream_chores (s : State) (k : Nat) (x : StreamCtl) : (s.setStream k x).chores = s.chores := rfl
@[simp] theorem State.setStream_fused (s : State) (k : Nat) (x : StreamCtl) : (s.setStream k x).fused = s.fused := rfl
@[simp] theorem State.setStream_events (s : State) (k : Nat) (x : StreamCtl) : (s.setStream k x).events = s.events := rfl

/-! Fields of a thread after a completion. -/

@[simp] theorem Thread.step4_uid (t : Thread) : t.step4.uid = t.uid := rfl
@[simp] theorem Thread.step4_ctx (t : Thread) : t.step4.ctx = t.ctx := rfl
@[simp] theorem Thread.step4_cohort (t : Thread) : t.step4.cohort = t.cohort := rfl
@[simp] theorem Thread.step4_index (t : Thread) : t.step4.index = t.index := rfl
@[simp] theorem Thread.step4_csize (t : Thread) : t.step4.csize = t.csize := rfl
@[simp] theorem Thread.step4_slices (t : Thread) : t.step4.slices = t.slices := rfl
@[simp] theorem Thread.step4_prio (t : Thread) : t.step4.prio = t.prio := rfl
@[simp] theorem Thread.step4_role (t : Thread) : t.step4.role = t.role := rfl
@[simp] theorem Thread.step4_vregs (t : Thread) : t.step4.vregs = t.vregs := rfl
@[simp] theorem Thread.step4_tiles (t : Thread) : t.step4.tiles = t.tiles := rfl
@[simp] theorem Thread.step4_s (t : Thread) : t.step4.s = t.s := rfl
@[simp] theorem Thread.step4_v (t : Thread) : t.step4.v = t.v := rfl
@[simp] theorem Thread.step4_p (t : Thread) : t.step4.p = t.p := rfl
@[simp] theorem Thread.step4_y (t : Thread) : t.step4.y = t.y := rfl
@[simp] theorem Thread.step4_pc (t : Thread) : t.step4.pc = t.pc + 4 := rfl
@[simp] theorem Thread.step4_fpflags (t : Thread) : t.step4.fpflags = t.fpflags := rfl
@[simp] theorem Thread.step4_fpctl (t : Thread) : t.step4.fpctl = t.fpctl := rfl
@[simp] theorem Thread.step4_rngkey (t : Thread) : t.step4.rngkey = t.rngkey := rfl
@[simp] theorem Thread.step4_rngctr (t : Thread) : t.step4.rngctr = t.rngctr := rfl
@[simp] theorem Thread.step4_task (t : Thread) : t.step4.task = t.task := rfl
@[simp] theorem Thread.step4_winid (t : Thread) : t.step4.winid = t.winid := rfl
@[simp] theorem Thread.step4_stream (t : Thread) : t.step4.stream = t.stream := rfl
@[simp] theorem Thread.step4_sl (t : Thread) : t.step4.sl = t.sl := rfl
@[simp] theorem Thread.step4_blocks (t : Thread) : t.step4.blocks = t.blocks := rfl
@[simp] theorem Thread.step4_running (t : Thread) : t.step4.running = t.running := rfl
@[simp] theorem Thread.step4_ranges (t : Thread) : t.step4.ranges = t.ranges := rfl
@[simp] theorem Thread.step4_grant (t : Thread) : t.step4.grant = t.grant := rfl
@[simp] theorem Thread.step4_clean (t : Thread) : t.step4.clean = t.clean := rfl
@[simp] theorem Thread.step4_wdog (t : Thread) : t.step4.wdog = t.wdog := rfl
@[simp] theorem Thread.step4_portCopy (t : Thread) : t.step4.portCopy = t.portCopy := rfl
@[simp] theorem Thread.step4_wait (t : Thread) : t.step4.wait = none := rfl
@[simp] theorem Thread.step4_redBuf (t : Thread) : t.step4.redBuf = t.redBuf := rfl
@[simp] theorem Thread.step4_reserved (t : Thread) : t.step4.reserved = t.reserved := rfl
@[simp] theorem Thread.step4_emits (t : Thread) : t.step4.emits = t.emits := rfl
@[simp] theorem Thread.step4_detached (t : Thread) : t.step4.detached = t.detached := rfl
@[simp] theorem Thread.step4_ended (t : Thread) : t.step4.ended = t.ended := rfl
@[simp] theorem Thread.step4_faulted (t : Thread) : t.step4.faulted = t.faulted := rfl
@[simp] theorem Thread.step4_step (t : Thread) : t.step4.step = t.step := rfl
@[simp] theorem Thread.step4_piece (t : Thread) : t.step4.piece = t.piece := rfl
@[simp] theorem Thread.step4_ranged (t : Thread) : t.step4.ranged = t.ranged := rfl
@[simp] theorem Thread.step4_since (t : Thread) : t.step4.since = t.since := rfl
@[simp] theorem Thread.dirty_uid (t : Thread) : t.dirty.uid = t.uid := rfl
@[simp] theorem Thread.dirty_ctx (t : Thread) : t.dirty.ctx = t.ctx := rfl
@[simp] theorem Thread.dirty_cohort (t : Thread) : t.dirty.cohort = t.cohort := rfl
@[simp] theorem Thread.dirty_index (t : Thread) : t.dirty.index = t.index := rfl
@[simp] theorem Thread.dirty_csize (t : Thread) : t.dirty.csize = t.csize := rfl
@[simp] theorem Thread.dirty_slices (t : Thread) : t.dirty.slices = t.slices := rfl
@[simp] theorem Thread.dirty_prio (t : Thread) : t.dirty.prio = t.prio := rfl
@[simp] theorem Thread.dirty_role (t : Thread) : t.dirty.role = t.role := rfl
@[simp] theorem Thread.dirty_vregs (t : Thread) : t.dirty.vregs = t.vregs := rfl
@[simp] theorem Thread.dirty_tiles (t : Thread) : t.dirty.tiles = t.tiles := rfl
@[simp] theorem Thread.dirty_s (t : Thread) : t.dirty.s = t.s := rfl
@[simp] theorem Thread.dirty_v (t : Thread) : t.dirty.v = t.v := rfl
@[simp] theorem Thread.dirty_p (t : Thread) : t.dirty.p = t.p := rfl
@[simp] theorem Thread.dirty_y (t : Thread) : t.dirty.y = t.y := rfl
@[simp] theorem Thread.dirty_pc (t : Thread) : t.dirty.pc = t.pc := rfl
@[simp] theorem Thread.dirty_fpflags (t : Thread) : t.dirty.fpflags = t.fpflags := rfl
@[simp] theorem Thread.dirty_fpctl (t : Thread) : t.dirty.fpctl = t.fpctl := rfl
@[simp] theorem Thread.dirty_rngkey (t : Thread) : t.dirty.rngkey = t.rngkey := rfl
@[simp] theorem Thread.dirty_rngctr (t : Thread) : t.dirty.rngctr = t.rngctr := rfl
@[simp] theorem Thread.dirty_task (t : Thread) : t.dirty.task = t.task := rfl
@[simp] theorem Thread.dirty_winid (t : Thread) : t.dirty.winid = t.winid := rfl
@[simp] theorem Thread.dirty_stream (t : Thread) : t.dirty.stream = t.stream := rfl
@[simp] theorem Thread.dirty_sl (t : Thread) : t.dirty.sl = t.sl := rfl
@[simp] theorem Thread.dirty_blocks (t : Thread) : t.dirty.blocks = t.blocks := rfl
@[simp] theorem Thread.dirty_running (t : Thread) : t.dirty.running = t.running := rfl
@[simp] theorem Thread.dirty_ranges (t : Thread) : t.dirty.ranges = t.ranges := rfl
@[simp] theorem Thread.dirty_grant (t : Thread) : t.dirty.grant = t.grant := rfl
@[simp] theorem Thread.dirty_clean (t : Thread) : t.dirty.clean = false := rfl
@[simp] theorem Thread.dirty_wdog (t : Thread) : t.dirty.wdog = t.wdog := rfl
@[simp] theorem Thread.dirty_portCopy (t : Thread) : t.dirty.portCopy = t.portCopy := rfl
@[simp] theorem Thread.dirty_wait (t : Thread) : t.dirty.wait = t.wait := rfl
@[simp] theorem Thread.dirty_redBuf (t : Thread) : t.dirty.redBuf = t.redBuf := rfl
@[simp] theorem Thread.dirty_reserved (t : Thread) : t.dirty.reserved = t.reserved := rfl
@[simp] theorem Thread.dirty_emits (t : Thread) : t.dirty.emits = t.emits := rfl
@[simp] theorem Thread.dirty_detached (t : Thread) : t.dirty.detached = t.detached := rfl
@[simp] theorem Thread.dirty_ended (t : Thread) : t.dirty.ended = t.ended := rfl
@[simp] theorem Thread.dirty_faulted (t : Thread) : t.dirty.faulted = t.faulted := rfl
@[simp] theorem Thread.dirty_step (t : Thread) : t.dirty.step = t.step := rfl
@[simp] theorem Thread.dirty_piece (t : Thread) : t.dirty.piece = t.piece := rfl
@[simp] theorem Thread.dirty_ranged (t : Thread) : t.dirty.ranged = t.ranged := rfl
@[simp] theorem Thread.dirty_since (t : Thread) : t.dirty.since = t.since := rfl
@[simp] theorem Thread.orFlags_uid (t : Thread) (f : FFlags) : (t.orFlags f).uid = t.uid := rfl
@[simp] theorem Thread.orFlags_ctx (t : Thread) (f : FFlags) : (t.orFlags f).ctx = t.ctx := rfl
@[simp] theorem Thread.orFlags_cohort (t : Thread) (f : FFlags) : (t.orFlags f).cohort = t.cohort := rfl
@[simp] theorem Thread.orFlags_index (t : Thread) (f : FFlags) : (t.orFlags f).index = t.index := rfl
@[simp] theorem Thread.orFlags_csize (t : Thread) (f : FFlags) : (t.orFlags f).csize = t.csize := rfl
@[simp] theorem Thread.orFlags_slices (t : Thread) (f : FFlags) : (t.orFlags f).slices = t.slices := rfl
@[simp] theorem Thread.orFlags_prio (t : Thread) (f : FFlags) : (t.orFlags f).prio = t.prio := rfl
@[simp] theorem Thread.orFlags_role (t : Thread) (f : FFlags) : (t.orFlags f).role = t.role := rfl
@[simp] theorem Thread.orFlags_vregs (t : Thread) (f : FFlags) : (t.orFlags f).vregs = t.vregs := rfl
@[simp] theorem Thread.orFlags_tiles (t : Thread) (f : FFlags) : (t.orFlags f).tiles = t.tiles := rfl
@[simp] theorem Thread.orFlags_s (t : Thread) (f : FFlags) : (t.orFlags f).s = t.s := rfl
@[simp] theorem Thread.orFlags_v (t : Thread) (f : FFlags) : (t.orFlags f).v = t.v := rfl
@[simp] theorem Thread.orFlags_p (t : Thread) (f : FFlags) : (t.orFlags f).p = t.p := rfl
@[simp] theorem Thread.orFlags_y (t : Thread) (f : FFlags) : (t.orFlags f).y = t.y := rfl
@[simp] theorem Thread.orFlags_pc (t : Thread) (f : FFlags) : (t.orFlags f).pc = t.pc := rfl
@[simp] theorem Thread.orFlags_fpflags (t : Thread) (f : FFlags) : (t.orFlags f).fpflags = t.fpflags ||| f := rfl
@[simp] theorem Thread.orFlags_fpctl (t : Thread) (f : FFlags) : (t.orFlags f).fpctl = t.fpctl := rfl
@[simp] theorem Thread.orFlags_rngkey (t : Thread) (f : FFlags) : (t.orFlags f).rngkey = t.rngkey := rfl
@[simp] theorem Thread.orFlags_rngctr (t : Thread) (f : FFlags) : (t.orFlags f).rngctr = t.rngctr := rfl
@[simp] theorem Thread.orFlags_task (t : Thread) (f : FFlags) : (t.orFlags f).task = t.task := rfl
@[simp] theorem Thread.orFlags_winid (t : Thread) (f : FFlags) : (t.orFlags f).winid = t.winid := rfl
@[simp] theorem Thread.orFlags_stream (t : Thread) (f : FFlags) : (t.orFlags f).stream = t.stream := rfl
@[simp] theorem Thread.orFlags_sl (t : Thread) (f : FFlags) : (t.orFlags f).sl = t.sl := rfl
@[simp] theorem Thread.orFlags_blocks (t : Thread) (f : FFlags) : (t.orFlags f).blocks = t.blocks := rfl
@[simp] theorem Thread.orFlags_running (t : Thread) (f : FFlags) : (t.orFlags f).running = t.running := rfl
@[simp] theorem Thread.orFlags_ranges (t : Thread) (f : FFlags) : (t.orFlags f).ranges = t.ranges := rfl
@[simp] theorem Thread.orFlags_grant (t : Thread) (f : FFlags) : (t.orFlags f).grant = t.grant := rfl
@[simp] theorem Thread.orFlags_clean (t : Thread) (f : FFlags) : (t.orFlags f).clean = t.clean := rfl
@[simp] theorem Thread.orFlags_wdog (t : Thread) (f : FFlags) : (t.orFlags f).wdog = t.wdog := rfl
@[simp] theorem Thread.orFlags_portCopy (t : Thread) (f : FFlags) : (t.orFlags f).portCopy = t.portCopy := rfl
@[simp] theorem Thread.orFlags_wait (t : Thread) (f : FFlags) : (t.orFlags f).wait = t.wait := rfl
@[simp] theorem Thread.orFlags_redBuf (t : Thread) (f : FFlags) : (t.orFlags f).redBuf = t.redBuf := rfl
@[simp] theorem Thread.orFlags_reserved (t : Thread) (f : FFlags) : (t.orFlags f).reserved = t.reserved := rfl
@[simp] theorem Thread.orFlags_emits (t : Thread) (f : FFlags) : (t.orFlags f).emits = t.emits := rfl
@[simp] theorem Thread.orFlags_detached (t : Thread) (f : FFlags) : (t.orFlags f).detached = t.detached := rfl
@[simp] theorem Thread.orFlags_ended (t : Thread) (f : FFlags) : (t.orFlags f).ended = t.ended := rfl
@[simp] theorem Thread.orFlags_faulted (t : Thread) (f : FFlags) : (t.orFlags f).faulted = t.faulted := rfl
@[simp] theorem Thread.orFlags_step (t : Thread) (f : FFlags) : (t.orFlags f).step = t.step := rfl
@[simp] theorem Thread.orFlags_piece (t : Thread) (f : FFlags) : (t.orFlags f).piece = t.piece := rfl
@[simp] theorem Thread.orFlags_ranged (t : Thread) (f : FFlags) : (t.orFlags f).ranged = t.ranged := rfl
@[simp] theorem Thread.orFlags_since (t : Thread) (f : FFlags) : (t.orFlags f).since = t.since := rfl
@[simp] theorem Thread.setS_uid (t : Thread) (i : BitVec 6) (v : Word) : (t.setS i v).uid = t.uid := by
  unfold Thread.setS; split <;> rfl
@[simp] theorem Thread.setS_ctx (t : Thread) (i : BitVec 6) (v : Word) : (t.setS i v).ctx = t.ctx := by
  unfold Thread.setS; split <;> rfl
@[simp] theorem Thread.setS_cohort (t : Thread) (i : BitVec 6) (v : Word) : (t.setS i v).cohort = t.cohort := by
  unfold Thread.setS; split <;> rfl
@[simp] theorem Thread.setS_index (t : Thread) (i : BitVec 6) (v : Word) : (t.setS i v).index = t.index := by
  unfold Thread.setS; split <;> rfl
@[simp] theorem Thread.setS_csize (t : Thread) (i : BitVec 6) (v : Word) : (t.setS i v).csize = t.csize := by
  unfold Thread.setS; split <;> rfl
@[simp] theorem Thread.setS_slices (t : Thread) (i : BitVec 6) (v : Word) : (t.setS i v).slices = t.slices := by
  unfold Thread.setS; split <;> rfl
@[simp] theorem Thread.setS_prio (t : Thread) (i : BitVec 6) (v : Word) : (t.setS i v).prio = t.prio := by
  unfold Thread.setS; split <;> rfl
@[simp] theorem Thread.setS_role (t : Thread) (i : BitVec 6) (v : Word) : (t.setS i v).role = t.role := by
  unfold Thread.setS; split <;> rfl
@[simp] theorem Thread.setS_vregs (t : Thread) (i : BitVec 6) (v : Word) : (t.setS i v).vregs = t.vregs := by
  unfold Thread.setS; split <;> rfl
@[simp] theorem Thread.setS_tiles (t : Thread) (i : BitVec 6) (v : Word) : (t.setS i v).tiles = t.tiles := by
  unfold Thread.setS; split <;> rfl
@[simp] theorem Thread.setS_v (t : Thread) (i : BitVec 6) (v : Word) : (t.setS i v).v = t.v := by
  unfold Thread.setS; split <;> rfl
@[simp] theorem Thread.setS_p (t : Thread) (i : BitVec 6) (v : Word) : (t.setS i v).p = t.p := by
  unfold Thread.setS; split <;> rfl
@[simp] theorem Thread.setS_y (t : Thread) (i : BitVec 6) (v : Word) : (t.setS i v).y = t.y := by
  unfold Thread.setS; split <;> rfl
@[simp] theorem Thread.setS_pc (t : Thread) (i : BitVec 6) (v : Word) : (t.setS i v).pc = t.pc := by
  unfold Thread.setS; split <;> rfl
@[simp] theorem Thread.setS_fpflags (t : Thread) (i : BitVec 6) (v : Word) : (t.setS i v).fpflags = t.fpflags := by
  unfold Thread.setS; split <;> rfl
@[simp] theorem Thread.setS_fpctl (t : Thread) (i : BitVec 6) (v : Word) : (t.setS i v).fpctl = t.fpctl := by
  unfold Thread.setS; split <;> rfl
@[simp] theorem Thread.setS_rngkey (t : Thread) (i : BitVec 6) (v : Word) : (t.setS i v).rngkey = t.rngkey := by
  unfold Thread.setS; split <;> rfl
@[simp] theorem Thread.setS_rngctr (t : Thread) (i : BitVec 6) (v : Word) : (t.setS i v).rngctr = t.rngctr := by
  unfold Thread.setS; split <;> rfl
@[simp] theorem Thread.setS_task (t : Thread) (i : BitVec 6) (v : Word) : (t.setS i v).task = t.task := by
  unfold Thread.setS; split <;> rfl
@[simp] theorem Thread.setS_winid (t : Thread) (i : BitVec 6) (v : Word) : (t.setS i v).winid = t.winid := by
  unfold Thread.setS; split <;> rfl
@[simp] theorem Thread.setS_stream (t : Thread) (i : BitVec 6) (v : Word) : (t.setS i v).stream = t.stream := by
  unfold Thread.setS; split <;> rfl
@[simp] theorem Thread.setS_sl (t : Thread) (i : BitVec 6) (v : Word) : (t.setS i v).sl = t.sl := by
  unfold Thread.setS; split <;> rfl
@[simp] theorem Thread.setS_blocks (t : Thread) (i : BitVec 6) (v : Word) : (t.setS i v).blocks = t.blocks := by
  unfold Thread.setS; split <;> rfl
@[simp] theorem Thread.setS_running (t : Thread) (i : BitVec 6) (v : Word) : (t.setS i v).running = t.running := by
  unfold Thread.setS; split <;> rfl
@[simp] theorem Thread.setS_ranges (t : Thread) (i : BitVec 6) (v : Word) : (t.setS i v).ranges = t.ranges := by
  unfold Thread.setS; split <;> rfl
@[simp] theorem Thread.setS_grant (t : Thread) (i : BitVec 6) (v : Word) : (t.setS i v).grant = t.grant := by
  unfold Thread.setS; split <;> rfl
@[simp] theorem Thread.setS_clean (t : Thread) (i : BitVec 6) (v : Word) : (t.setS i v).clean = t.clean := by
  unfold Thread.setS; split <;> rfl
@[simp] theorem Thread.setS_wdog (t : Thread) (i : BitVec 6) (v : Word) : (t.setS i v).wdog = t.wdog := by
  unfold Thread.setS; split <;> rfl
@[simp] theorem Thread.setS_portCopy (t : Thread) (i : BitVec 6) (v : Word) : (t.setS i v).portCopy = t.portCopy := by
  unfold Thread.setS; split <;> rfl
@[simp] theorem Thread.setS_wait (t : Thread) (i : BitVec 6) (v : Word) : (t.setS i v).wait = t.wait := by
  unfold Thread.setS; split <;> rfl
@[simp] theorem Thread.setS_redBuf (t : Thread) (i : BitVec 6) (v : Word) : (t.setS i v).redBuf = t.redBuf := by
  unfold Thread.setS; split <;> rfl
@[simp] theorem Thread.setS_reserved (t : Thread) (i : BitVec 6) (v : Word) : (t.setS i v).reserved = t.reserved := by
  unfold Thread.setS; split <;> rfl
@[simp] theorem Thread.setS_emits (t : Thread) (i : BitVec 6) (v : Word) : (t.setS i v).emits = t.emits := by
  unfold Thread.setS; split <;> rfl
@[simp] theorem Thread.setS_detached (t : Thread) (i : BitVec 6) (v : Word) : (t.setS i v).detached = t.detached := by
  unfold Thread.setS; split <;> rfl
@[simp] theorem Thread.setS_ended (t : Thread) (i : BitVec 6) (v : Word) : (t.setS i v).ended = t.ended := by
  unfold Thread.setS; split <;> rfl
@[simp] theorem Thread.setS_faulted (t : Thread) (i : BitVec 6) (v : Word) : (t.setS i v).faulted = t.faulted := by
  unfold Thread.setS; split <;> rfl
@[simp] theorem Thread.setS_step (t : Thread) (i : BitVec 6) (v : Word) : (t.setS i v).step = t.step := by
  unfold Thread.setS; split <;> rfl
@[simp] theorem Thread.setS_piece (t : Thread) (i : BitVec 6) (v : Word) : (t.setS i v).piece = t.piece := by
  unfold Thread.setS; split <;> rfl
@[simp] theorem Thread.setS_ranged (t : Thread) (i : BitVec 6) (v : Word) : (t.setS i v).ranged = t.ranged := by
  unfold Thread.setS; split <;> rfl
@[simp] theorem Thread.setS_since (t : Thread) (i : BitVec 6) (v : Word) : (t.setS i v).since = t.since := by
  unfold Thread.setS; split <;> rfl
@[simp] theorem Thread.advance_uid (t : Thread) (g n : Nat) : (t.advance g n).uid = t.uid := rfl
@[simp] theorem Thread.advance_ctx (t : Thread) (g n : Nat) : (t.advance g n).ctx = t.ctx := rfl
@[simp] theorem Thread.advance_cohort (t : Thread) (g n : Nat) : (t.advance g n).cohort = t.cohort := rfl
@[simp] theorem Thread.advance_index (t : Thread) (g n : Nat) : (t.advance g n).index = t.index := rfl
@[simp] theorem Thread.advance_csize (t : Thread) (g n : Nat) : (t.advance g n).csize = t.csize := rfl
@[simp] theorem Thread.advance_slices (t : Thread) (g n : Nat) : (t.advance g n).slices = t.slices := rfl
@[simp] theorem Thread.advance_prio (t : Thread) (g n : Nat) : (t.advance g n).prio = t.prio := rfl
@[simp] theorem Thread.advance_role (t : Thread) (g n : Nat) : (t.advance g n).role = t.role := rfl
@[simp] theorem Thread.advance_vregs (t : Thread) (g n : Nat) : (t.advance g n).vregs = t.vregs := rfl
@[simp] theorem Thread.advance_tiles (t : Thread) (g n : Nat) : (t.advance g n).tiles = t.tiles := rfl
@[simp] theorem Thread.advance_s (t : Thread) (g n : Nat) : (t.advance g n).s = t.s := rfl
@[simp] theorem Thread.advance_v (t : Thread) (g n : Nat) : (t.advance g n).v = t.v := rfl
@[simp] theorem Thread.advance_p (t : Thread) (g n : Nat) : (t.advance g n).p = t.p := rfl
@[simp] theorem Thread.advance_y (t : Thread) (g n : Nat) : (t.advance g n).y = t.y := rfl
@[simp] theorem Thread.advance_pc (t : Thread) (g n : Nat) : (t.advance g n).pc = t.pc := rfl
@[simp] theorem Thread.advance_fpflags (t : Thread) (g n : Nat) : (t.advance g n).fpflags = t.fpflags := rfl
@[simp] theorem Thread.advance_fpctl (t : Thread) (g n : Nat) : (t.advance g n).fpctl = t.fpctl := rfl
@[simp] theorem Thread.advance_rngkey (t : Thread) (g n : Nat) : (t.advance g n).rngkey = t.rngkey := rfl
@[simp] theorem Thread.advance_rngctr (t : Thread) (g n : Nat) : (t.advance g n).rngctr = t.rngctr := rfl
@[simp] theorem Thread.advance_task (t : Thread) (g n : Nat) : (t.advance g n).task = t.task := rfl
@[simp] theorem Thread.advance_winid (t : Thread) (g n : Nat) : (t.advance g n).winid = t.winid := rfl
@[simp] theorem Thread.advance_stream (t : Thread) (g n : Nat) : (t.advance g n).stream = t.stream := rfl
@[simp] theorem Thread.advance_blocks (t : Thread) (g n : Nat) : (t.advance g n).blocks = t.blocks := rfl
@[simp] theorem Thread.advance_running (t : Thread) (g n : Nat) : (t.advance g n).running = t.running := rfl
@[simp] theorem Thread.advance_ranges (t : Thread) (g n : Nat) : (t.advance g n).ranges = t.ranges := rfl
@[simp] theorem Thread.advance_grant (t : Thread) (g n : Nat) : (t.advance g n).grant = t.grant := rfl
@[simp] theorem Thread.advance_clean (t : Thread) (g n : Nat) : (t.advance g n).clean = t.clean := rfl
@[simp] theorem Thread.advance_wdog (t : Thread) (g n : Nat) : (t.advance g n).wdog = t.wdog := rfl
@[simp] theorem Thread.advance_portCopy (t : Thread) (g n : Nat) : (t.advance g n).portCopy = t.portCopy := rfl
@[simp] theorem Thread.advance_wait (t : Thread) (g n : Nat) : (t.advance g n).wait = t.wait := rfl
@[simp] theorem Thread.advance_redBuf (t : Thread) (g n : Nat) : (t.advance g n).redBuf = t.redBuf := rfl
@[simp] theorem Thread.advance_reserved (t : Thread) (g n : Nat) : (t.advance g n).reserved = t.reserved := rfl
@[simp] theorem Thread.advance_emits (t : Thread) (g n : Nat) : (t.advance g n).emits = t.emits := rfl
@[simp] theorem Thread.advance_detached (t : Thread) (g n : Nat) : (t.advance g n).detached = t.detached := rfl
@[simp] theorem Thread.advance_ended (t : Thread) (g n : Nat) : (t.advance g n).ended = t.ended := rfl
@[simp] theorem Thread.advance_faulted (t : Thread) (g n : Nat) : (t.advance g n).faulted = t.faulted := rfl
@[simp] theorem Thread.advance_step (t : Thread) (g n : Nat) : (t.advance g n).step = t.step := rfl
@[simp] theorem Thread.advance_piece (t : Thread) (g n : Nat) : (t.advance g n).piece = t.piece := rfl
@[simp] theorem Thread.advance_ranged (t : Thread) (g n : Nat) : (t.advance g n).ranged = t.ranged := rfl
@[simp] theorem Thread.advance_since (t : Thread) (g n : Nat) : (t.advance g n).since = t.since := rfl
@[simp] theorem Thread.gangWait_uid (t : Thread) (g : Nat) (w : Option Wait) : (t.gangWait g w).uid = t.uid := rfl
@[simp] theorem Thread.gangWait_ctx (t : Thread) (g : Nat) (w : Option Wait) : (t.gangWait g w).ctx = t.ctx := rfl
@[simp] theorem Thread.gangWait_cohort (t : Thread) (g : Nat) (w : Option Wait) : (t.gangWait g w).cohort = t.cohort := rfl
@[simp] theorem Thread.gangWait_index (t : Thread) (g : Nat) (w : Option Wait) : (t.gangWait g w).index = t.index := rfl
@[simp] theorem Thread.gangWait_csize (t : Thread) (g : Nat) (w : Option Wait) : (t.gangWait g w).csize = t.csize := rfl
@[simp] theorem Thread.gangWait_slices (t : Thread) (g : Nat) (w : Option Wait) : (t.gangWait g w).slices = t.slices := rfl
@[simp] theorem Thread.gangWait_prio (t : Thread) (g : Nat) (w : Option Wait) : (t.gangWait g w).prio = t.prio := rfl
@[simp] theorem Thread.gangWait_role (t : Thread) (g : Nat) (w : Option Wait) : (t.gangWait g w).role = t.role := rfl
@[simp] theorem Thread.gangWait_vregs (t : Thread) (g : Nat) (w : Option Wait) : (t.gangWait g w).vregs = t.vregs := rfl
@[simp] theorem Thread.gangWait_tiles (t : Thread) (g : Nat) (w : Option Wait) : (t.gangWait g w).tiles = t.tiles := rfl
@[simp] theorem Thread.gangWait_s (t : Thread) (g : Nat) (w : Option Wait) : (t.gangWait g w).s = t.s := rfl
@[simp] theorem Thread.gangWait_v (t : Thread) (g : Nat) (w : Option Wait) : (t.gangWait g w).v = t.v := rfl
@[simp] theorem Thread.gangWait_p (t : Thread) (g : Nat) (w : Option Wait) : (t.gangWait g w).p = t.p := rfl
@[simp] theorem Thread.gangWait_y (t : Thread) (g : Nat) (w : Option Wait) : (t.gangWait g w).y = t.y := rfl
@[simp] theorem Thread.gangWait_pc (t : Thread) (g : Nat) (w : Option Wait) : (t.gangWait g w).pc = t.pc := rfl
@[simp] theorem Thread.gangWait_fpflags (t : Thread) (g : Nat) (w : Option Wait) : (t.gangWait g w).fpflags = t.fpflags := rfl
@[simp] theorem Thread.gangWait_fpctl (t : Thread) (g : Nat) (w : Option Wait) : (t.gangWait g w).fpctl = t.fpctl := rfl
@[simp] theorem Thread.gangWait_rngkey (t : Thread) (g : Nat) (w : Option Wait) : (t.gangWait g w).rngkey = t.rngkey := rfl
@[simp] theorem Thread.gangWait_rngctr (t : Thread) (g : Nat) (w : Option Wait) : (t.gangWait g w).rngctr = t.rngctr := rfl
@[simp] theorem Thread.gangWait_task (t : Thread) (g : Nat) (w : Option Wait) : (t.gangWait g w).task = t.task := rfl
@[simp] theorem Thread.gangWait_winid (t : Thread) (g : Nat) (w : Option Wait) : (t.gangWait g w).winid = t.winid := rfl
@[simp] theorem Thread.gangWait_stream (t : Thread) (g : Nat) (w : Option Wait) : (t.gangWait g w).stream = t.stream := rfl
@[simp] theorem Thread.gangWait_blocks (t : Thread) (g : Nat) (w : Option Wait) : (t.gangWait g w).blocks = t.blocks := rfl
@[simp] theorem Thread.gangWait_running (t : Thread) (g : Nat) (w : Option Wait) : (t.gangWait g w).running = t.running := rfl
@[simp] theorem Thread.gangWait_ranges (t : Thread) (g : Nat) (w : Option Wait) : (t.gangWait g w).ranges = t.ranges := rfl
@[simp] theorem Thread.gangWait_grant (t : Thread) (g : Nat) (w : Option Wait) : (t.gangWait g w).grant = t.grant := rfl
@[simp] theorem Thread.gangWait_clean (t : Thread) (g : Nat) (w : Option Wait) : (t.gangWait g w).clean = t.clean := rfl
@[simp] theorem Thread.gangWait_wdog (t : Thread) (g : Nat) (w : Option Wait) : (t.gangWait g w).wdog = t.wdog := rfl
@[simp] theorem Thread.gangWait_portCopy (t : Thread) (g : Nat) (w : Option Wait) : (t.gangWait g w).portCopy = t.portCopy := rfl
@[simp] theorem Thread.gangWait_wait (t : Thread) (g : Nat) (w : Option Wait) : (t.gangWait g w).wait = t.wait := rfl
@[simp] theorem Thread.gangWait_redBuf (t : Thread) (g : Nat) (w : Option Wait) : (t.gangWait g w).redBuf = t.redBuf := rfl
@[simp] theorem Thread.gangWait_reserved (t : Thread) (g : Nat) (w : Option Wait) : (t.gangWait g w).reserved = t.reserved := rfl
@[simp] theorem Thread.gangWait_emits (t : Thread) (g : Nat) (w : Option Wait) : (t.gangWait g w).emits = t.emits := rfl
@[simp] theorem Thread.gangWait_detached (t : Thread) (g : Nat) (w : Option Wait) : (t.gangWait g w).detached = t.detached := rfl
@[simp] theorem Thread.gangWait_ended (t : Thread) (g : Nat) (w : Option Wait) : (t.gangWait g w).ended = t.ended := rfl
@[simp] theorem Thread.gangWait_faulted (t : Thread) (g : Nat) (w : Option Wait) : (t.gangWait g w).faulted = t.faulted := rfl
@[simp] theorem Thread.gangWait_step (t : Thread) (g : Nat) (w : Option Wait) : (t.gangWait g w).step = t.step := rfl
@[simp] theorem Thread.gangWait_piece (t : Thread) (g : Nat) (w : Option Wait) : (t.gangWait g w).piece = t.piece := rfl
@[simp] theorem Thread.gangWait_ranged (t : Thread) (g : Nat) (w : Option Wait) : (t.gangWait g w).ranged = t.ranged := rfl
@[simp] theorem Thread.gangWait_since (t : Thread) (g : Nat) (w : Option Wait) : (t.gangWait g w).since = t.since := rfl

/-! Reading a scalar register after a write (R30). -/

theorem Thread.S_setS (t : Thread) (i j : BitVec 6) (v : Word) :
    (t.setS i v).S j = if j = 0 then 0 else if j = i then v else t.S j := by
  unfold Thread.S Thread.setS
  by_cases hj : j = 0
  · simp [hj]
  · by_cases hi : i = 0
    · have hj' : ¬ j = 0#6 := hj
      simp [hi, hj']
    · simp only [hj, hi, if_false, RegFile.get64, RegFile.set, look_put]
      by_cases e : j = i
      · simp [e]
      · have : ¬ j.toNat = i.toNat := fun h => e (BitVec.eq_of_toNat_eq h)
        simp [e, this]

@[simp] theorem Thread.S_step4 (t : Thread) (j : BitVec 6) : t.step4.S j = t.S j := rfl
@[simp] theorem Thread.S_dirty (t : Thread) (j : BitVec 6) : t.dirty.S j = t.S j := rfl

@[simp] theorem Thread.orFlags_zero (t : Thread) : t.orFlags 0#6 = t := by
  cases t; simp [Thread.orFlags]

/-! The issuing thread. -/

theorem issuer_eq_some {s : State} {t : Thread} :
    issuer s = some t ↔ look s.threads s.cur.tid = some t ∧ t.ended = false := by
  unfold issuer
  cases h : look s.threads s.cur.tid with
  | none => simp
  | some u =>
    by_cases e : u.ended <;> simp [e]
    · rintro rfl; exact e
    · rintro rfl; simpa using e

theorem onThread_of {s : State} {t : Thread} (h : issuer s = some t) (k : Nat → Thread → Out) :
    onThread s k = k s.cur.tid t := by
  simp [onThread, h]

@[simp] theorem setThread_setThread (s : State) (k : Nat) (t u : Thread) :
    (s.setThread k t).setThread k u = s.setThread k u := by
  simp [State.setThread, put_put]

@[simp] theorem look_setThread (s : State) (k : Nat) (t : Thread) : look (s.setThread k t).threads k = some t :=
  look_put_same _ _ _

end Sys2Proof.Machine
end

