-- ==== Sys2Proof/Laws/Touch.lean ====
section
/-! SUPPORT. Sys2Proof/Laws/Touch.lean: what the bookkeeping of an access can change (R159-R161, R175): the lines of L2, the
slices' queues, the caches and clocks of cores, the TLBs and the migration counts, and nothing else. -/

namespace Sys2Proof.Machine

/-- The second machine differs from the first in the lines of L2, the slices' queues, the cores, the TLBs, the walkers' caches and the
migration counts alone. -/
def Touches (s t : State) : Prop :=
  ∃ l2 slices cores tlbs walkers migCount,
    t = { s with l2 := l2, slices := slices, cores := cores, tlbs := tlbs, walkers := walkers, migCount := migCount }

theorem Touches.refl (s : State) : Touches s s := ⟨_, _, _, _, _, _, rfl⟩

theorem Touches.trans {s t u : State} (h : Touches s t) (k : Touches t u) : Touches s u := by
  obtain ⟨a, b, c, d, e, f, rfl⟩ := h
  obtain ⟨a', b', c', d', e', f', rfl⟩ := k
  exact ⟨a', b', c', d', e', f', rfl⟩

theorem Touches.cur {s t : State} (h : Touches s t) : t.cur = s.cur := by
  obtain ⟨_, _, _, _, _, _, rfl⟩ := h; rfl
theorem Touches.arg {s t : State} (h : Touches s t) : t.arg = s.arg := by
  obtain ⟨_, _, _, _, _, _, rfl⟩ := h; rfl
theorem Touches.agenda {s t : State} (h : Touches s t) : t.agenda = s.agenda := by
  obtain ⟨_, _, _, _, _, _, rfl⟩ := h; rfl
theorem Touches.later {s t : State} (h : Touches s t) : t.later = s.later := by
  obtain ⟨_, _, _, _, _, _, rfl⟩ := h; rfl
theorem Touches.freeCount {s t : State} (h : Touches s t) : t.freeCount = s.freeCount := by
  obtain ⟨_, _, _, _, _, _, rfl⟩ := h; rfl
theorem Touches.nextUid {s t : State} (h : Touches s t) : t.nextUid = s.nextUid := by
  obtain ⟨_, _, _, _, _, _, rfl⟩ := h; rfl
theorem Touches.nextAge {s t : State} (h : Touches s t) : t.nextAge = s.nextAge := by
  obtain ⟨_, _, _, _, _, _, rfl⟩ := h; rfl
theorem Touches.clk {s t : State} (h : Touches s t) : t.clk = s.clk := by
  obtain ⟨_, _, _, _, _, _, rfl⟩ := h; rfl
theorem Touches.ptsBase {s t : State} (h : Touches s t) : t.ptsBase = s.ptsBase := by
  obtain ⟨_, _, _, _, _, _, rfl⟩ := h; rfl
theorem Touches.ungated {s t : State} (h : Touches s t) : t.ungated = s.ungated := by
  obtain ⟨_, _, _, _, _, _, rfl⟩ := h; rfl
theorem Touches.gated {s t : State} (h : Touches s t) : t.gated = s.gated := by
  obtain ⟨_, _, _, _, _, _, rfl⟩ := h; rfl
theorem Touches.timeBase {s t : State} (h : Touches s t) : t.timeBase = s.timeBase := by
  obtain ⟨_, _, _, _, _, _, rfl⟩ := h; rfl
theorem Touches.clkBase {s t : State} (h : Touches s t) : t.clkBase = s.clkBase := by
  obtain ⟨_, _, _, _, _, _, rfl⟩ := h; rfl
theorem Touches.slew {s t : State} (h : Touches s t) : t.slew = s.slew := by
  obtain ⟨_, _, _, _, _, _, rfl⟩ := h; rfl
theorem Touches.timeSrc {s t : State} (h : Touches s t) : t.timeSrc = s.timeSrc := by
  obtain ⟨_, _, _, _, _, _, rfl⟩ := h; rfl
theorem Touches.pkg {s t : State} (h : Touches s t) : t.pkg = s.pkg := by
  obtain ⟨_, _, _, _, _, _, rfl⟩ := h; rfl
theorem Touches.run {s t : State} (h : Touches s t) : t.run = s.run := by
  obtain ⟨_, _, _, _, _, _, rfl⟩ := h; rfl
theorem Touches.devLevel {s t : State} (h : Touches s t) : t.devLevel = s.devLevel := by
  obtain ⟨_, _, _, _, _, _, rfl⟩ := h; rfl
theorem Touches.version {s t : State} (h : Touches s t) : t.version = s.version := by
  obtain ⟨_, _, _, _, _, _, rfl⟩ := h; rfl
theorem Touches.bootm {s t : State} (h : Touches s t) : t.bootm = s.bootm := by
  obtain ⟨_, _, _, _, _, _, rfl⟩ := h; rfl
theorem Touches.expected {s t : State} (h : Touches s t) : t.expected = s.expected := by
  obtain ⟨_, _, _, _, _, _, rfl⟩ := h; rfl
theorem Touches.identity {s t : State} (h : Touches s t) : t.identity = s.identity := by
  obtain ⟨_, _, _, _, _, _, rfl⟩ := h; rfl
theorem Touches.mem {s t : State} (h : Touches s t) : t.mem = s.mem := by
  obtain ⟨_, _, _, _, _, _, rfl⟩ := h; rfl
theorem Touches.poison {s t : State} (h : Touches s t) : t.poison = s.poison := by
  obtain ⟨_, _, _, _, _, _, rfl⟩ := h; rfl
theorem Touches.tables {s t : State} (h : Touches s t) : t.tables = s.tables := by
  obtain ⟨_, _, _, _, _, _, rfl⟩ := h; rfl
theorem Touches.pins {s t : State} (h : Touches s t) : t.pins = s.pins := by
  obtain ⟨_, _, _, _, _, _, rfl⟩ := h; rfl
theorem Touches.noMigrate {s t : State} (h : Touches s t) : t.noMigrate = s.noMigrate := by
  obtain ⟨_, _, _, _, _, _, rfl⟩ := h; rfl
theorem Touches.extents {s t : State} (h : Touches s t) : t.extents = s.extents := by
  obtain ⟨_, _, _, _, _, _, rfl⟩ := h; rfl
theorem Touches.queues {s t : State} (h : Touches s t) : t.queues = s.queues := by
  obtain ⟨_, _, _, _, _, _, rfl⟩ := h; rfl
theorem Touches.parts {s t : State} (h : Touches s t) : t.parts = s.parts := by
  obtain ⟨_, _, _, _, _, _, rfl⟩ := h; rfl
theorem Touches.ctxs {s t : State} (h : Touches s t) : t.ctxs = s.ctxs := by
  obtain ⟨_, _, _, _, _, _, rfl⟩ := h; rfl
theorem Touches.threads {s t : State} (h : Touches s t) : t.threads = s.threads := by
  obtain ⟨_, _, _, _, _, _, rfl⟩ := h; rfl
theorem Touches.cohorts {s t : State} (h : Touches s t) : t.cohorts = s.cohorts := by
  obtain ⟨_, _, _, _, _, _, rfl⟩ := h; rfl
theorem Touches.dies {s t : State} (h : Touches s t) : t.dies = s.dies := by
  obtain ⟨_, _, _, _, _, _, rfl⟩ := h; rfl
theorem Touches.chans {s t : State} (h : Touches s t) : t.chans = s.chans := by
  obtain ⟨_, _, _, _, _, _, rfl⟩ := h; rfl
theorem Touches.streams {s t : State} (h : Touches s t) : t.streams = s.streams := by
  obtain ⟨_, _, _, _, _, _, rfl⟩ := h; rfl
theorem Touches.windows {s t : State} (h : Touches s t) : t.windows = s.windows := by
  obtain ⟨_, _, _, _, _, _, rfl⟩ := h; rfl
theorem Touches.tasks {s t : State} (h : Touches s t) : t.tasks = s.tasks := by
  obtain ⟨_, _, _, _, _, _, rfl⟩ := h; rfl
theorem Touches.saved {s t : State} (h : Touches s t) : t.saved = s.saved := by
  obtain ⟨_, _, _, _, _, _, rfl⟩ := h; rfl
theorem Touches.swaps {s t : State} (h : Touches s t) : t.swaps = s.swaps := by
  obtain ⟨_, _, _, _, _, _, rfl⟩ := h; rfl
theorem Touches.fns {s t : State} (h : Touches s t) : t.fns = s.fns := by
  obtain ⟨_, _, _, _, _, _, rfl⟩ := h; rfl
theorem Touches.scpWrites {s t : State} (h : Touches s t) : t.scpWrites = s.scpWrites := by
  obtain ⟨_, _, _, _, _, _, rfl⟩ := h; rfl
theorem Touches.scpResp {s t : State} (h : Touches s t) : t.scpResp = s.scpResp := by
  obtain ⟨_, _, _, _, _, _, rfl⟩ := h; rfl
theorem Touches.flows {s t : State} (h : Touches s t) : t.flows = s.flows := by
  obtain ⟨_, _, _, _, _, _, rfl⟩ := h; rfl
theorem Touches.uints {s t : State} (h : Touches s t) : t.uints = s.uints := by
  obtain ⟨_, _, _, _, _, _, rfl⟩ := h; rfl
theorem Touches.uintOut {s t : State} (h : Touches s t) : t.uintOut = s.uintOut := by
  obtain ⟨_, _, _, _, _, _, rfl⟩ := h; rfl
theorem Touches.sysReqs {s t : State} (h : Touches s t) : t.sysReqs = s.sysReqs := by
  obtain ⟨_, _, _, _, _, _, rfl⟩ := h; rfl
theorem Touches.millis {s t : State} (h : Touches s t) : t.millis = s.millis := by
  obtain ⟨_, _, _, _, _, _, rfl⟩ := h; rfl
theorem Touches.chores {s t : State} (h : Touches s t) : t.chores = s.chores := by
  obtain ⟨_, _, _, _, _, _, rfl⟩ := h; rfl
theorem Touches.fused {s t : State} (h : Touches s t) : t.fused = s.fused := by
  obtain ⟨_, _, _, _, _, _, rfl⟩ := h; rfl
theorem Touches.events {s t : State} (h : Touches s t) : t.events = s.events := by
  obtain ⟨_, _, _, _, _, _, rfl⟩ := h; rfl

theorem State.touches_l2 (s : State) (m : SMap L2Line) : Touches s { s with l2 := m } := ⟨_, _, _, _, _, _, rfl⟩

theorem State.touches_setCore (s : State) (n : Nat) (c : CoreSt) : Touches s (s.setCore n c) := ⟨_, _, _, _, _, _, rfl⟩

theorem State.touches_tlbFill (s : State) (ch : Nat) (t : TlbEntry) : Touches s (s.tlbFill ch t) := ⟨_, _, _, _, _, _, rfl⟩

theorem State.touches_walkerFill (s : State) (ctx va ch : Nat) : Touches s (s.walkerFill ctx va ch) := by
  unfold State.walkerFill
  split
  · exact Touches.refl s
  · dsimp only
    split
    · exact Touches.refl s
    · exact ⟨_, _, _, _, _, _, rfl⟩

theorem State.touches_missCount (s : State) (ctx va ch die : Nat) : Touches s (s.missCount ctx va ch die) := by
  unfold State.missCount
  split
  · dsimp only
    have h : ∀ (p : Bool) (e : TlbEntry), Touches s (if p then s else (s.walkerFill ctx va ch).tlbFill ch e) := by
      intro p e
      split
      · exact Touches.refl s
      · exact (s.touches_walkerFill _ _ _).trans (State.touches_tlbFill _ _ _)
    split
    · exact (h _ _).trans ⟨_, _, _, _, _, _, rfl⟩
    · exact h _ _
  · exact Touches.refl s

theorem State.touches_enterLine (s : State) (ctx va pl die : Nat) (old : L2Line) :
    Touches s (s.enterLine ctx va pl die old) := by
  unfold State.enterLine
  dsimp only
  refine Touches.trans ?_ (State.touches_l2 _ _)
  split
  · exact (s.touches_missCount _ _ _ _).trans (State.touches_l2 _ _)
  · exact s.touches_missCount _ _ _ _

theorem State.touches_fillLine (s : State) (ctx va pa die : Nat) : Touches s (s.fillLine ctx va pa die) := by
  unfold State.fillLine
  dsimp only
  split
  · split
    · exact Touches.refl s
    · exact (s.touches_l2 _).trans (State.touches_enterLine _ _ _ _ _ _)
  · exact s.touches_enterLine _ _ _ _ _

theorem State.touches_ptsTo (s : State) (a : Asker) (n : Nat) : Touches s (s.ptsTo a n) := by
  unfold State.ptsTo
  split
  · exact s.touches_setCore _ _
  · exact Touches.refl s

theorem State.touches_l1Fill (s : State) (core : Nat) (n : L1Line) :
    Touches s (s.l1Fill core n) := by
  unfold State.l1Fill
  dsimp only
  split <;> exact s.touches_setCore _ _

theorem State.touches_leaveQueue (s : State) (ctx va : Nat) : Touches s (s.leaveQueue ctx va) := by
  unfold State.leaveQueue
  dsimp only
  split
  · split
    · exact ⟨_, _, _, _, _, _, rfl⟩
    · exact Touches.refl s
  · exact Touches.refl s

theorem State.touches_readTouch (s : State) (a : Asker) (ctx va : Nat) (m : BitVec 4) (pa : Nat) :
    Touches s (s.readTouch a ctx va m pa) := by
  unfold State.readTouch
  dsimp only
  refine ((s.touches_leaveQueue ctx va).trans (State.touches_fillLine _ ctx va pa a.die)).trans ?_
  generalize (s.leaveQueue ctx va).fillLine ctx va pa a.die = u
  split
  · cases a with
    | unit d => exact Touches.trans (u.touches_l2 _) (State.touches_ptsTo _ _ _)
    | core c =>
      dsimp only
      split
      · exact Touches.trans (u.touches_l2 _) (State.touches_ptsTo _ _ _)
      · exact Touches.trans (Touches.trans (u.touches_l2 _) (State.touches_ptsTo _ _ _)) (State.touches_l1Fill _ _ _)
  · exact Touches.refl u

theorem State.touches_writeTouch (s : State) (a : Asker) (ctx va pa : Nat) (b : Option (Nat × Nat)) :
    Touches s (s.writeTouch a ctx va pa b) := by
  unfold State.writeTouch
  dsimp only
  refine ((s.touches_leaveQueue ctx va).trans (State.touches_fillLine _ ctx va pa a.die)).trans ?_
  generalize (s.leaveQueue ctx va).fillLine ctx va pa a.die = u
  split
  · exact Touches.trans (u.touches_l2 _) (State.touches_ptsTo _ a _)
  · exact Touches.refl u

/-! Field by field. -/

@[simp] theorem State.readTouch_cur (s : State) (a : Asker) (ctx va : Nat) (m : BitVec 4) (pa : Nat) : (s.readTouch a ctx va m pa).cur = s.cur :=
  (s.touches_readTouch a ctx va m pa).cur
@[simp] theorem State.readTouch_arg (s : State) (a : Asker) (ctx va : Nat) (m : BitVec 4) (pa : Nat) : (s.readTouch a ctx va m pa).arg = s.arg :=
  (s.touches_readTouch a ctx va m pa).arg
@[simp] theorem State.readTouch_agenda (s : State) (a : Asker) (ctx va : Nat) (m : BitVec 4) (pa : Nat) : (s.readTouch a ctx va m pa).agenda = s.agenda :=
  (s.touches_readTouch a ctx va m pa).agenda
@[simp] theorem State.readTouch_later (s : State) (a : Asker) (ctx va : Nat) (m : BitVec 4) (pa : Nat) : (s.readTouch a ctx va m pa).later = s.later :=
  (s.touches_readTouch a ctx va m pa).later
@[simp] theorem State.readTouch_freeCount (s : State) (a : Asker) (ctx va : Nat) (m : BitVec 4) (pa : Nat) : (s.readTouch a ctx va m pa).freeCount = s.freeCount :=
  (s.touches_readTouch a ctx va m pa).freeCount
@[simp] theorem State.readTouch_nextUid (s : State) (a : Asker) (ctx va : Nat) (m : BitVec 4) (pa : Nat) : (s.readTouch a ctx va m pa).nextUid = s.nextUid :=
  (s.touches_readTouch a ctx va m pa).nextUid
@[simp] theorem State.readTouch_nextAge (s : State) (a : Asker) (ctx va : Nat) (m : BitVec 4) (pa : Nat) : (s.readTouch a ctx va m pa).nextAge = s.nextAge :=
  (s.touches_readTouch a ctx va m pa).nextAge
@[simp] theorem State.readTouch_clk (s : State) (a : Asker) (ctx va : Nat) (m : BitVec 4) (pa : Nat) : (s.readTouch a ctx va m pa).clk = s.clk :=
  (s.touches_readTouch a ctx va m pa).clk
@[simp] theorem State.readTouch_ptsBase (s : State) (a : Asker) (ctx va : Nat) (m : BitVec 4) (pa : Nat) : (s.readTouch a ctx va m pa).ptsBase = s.ptsBase :=
  (s.touches_readTouch a ctx va m pa).ptsBase
@[simp] theorem State.readTouch_ungated (s : State) (a : Asker) (ctx va : Nat) (m : BitVec 4) (pa : Nat) : (s.readTouch a ctx va m pa).ungated = s.ungated :=
  (s.touches_readTouch a ctx va m pa).ungated
@[simp] theorem State.readTouch_gated (s : State) (a : Asker) (ctx va : Nat) (m : BitVec 4) (pa : Nat) : (s.readTouch a ctx va m pa).gated = s.gated :=
  (s.touches_readTouch a ctx va m pa).gated
@[simp] theorem State.readTouch_timeBase (s : State) (a : Asker) (ctx va : Nat) (m : BitVec 4) (pa : Nat) : (s.readTouch a ctx va m pa).timeBase = s.timeBase :=
  (s.touches_readTouch a ctx va m pa).timeBase
@[simp] theorem State.readTouch_clkBase (s : State) (a : Asker) (ctx va : Nat) (m : BitVec 4) (pa : Nat) : (s.readTouch a ctx va m pa).clkBase = s.clkBase :=
  (s.touches_readTouch a ctx va m pa).clkBase
@[simp] theorem State.readTouch_slew (s : State) (a : Asker) (ctx va : Nat) (m : BitVec 4) (pa : Nat) : (s.readTouch a ctx va m pa).slew = s.slew :=
  (s.touches_readTouch a ctx va m pa).slew
@[simp] theorem State.readTouch_timeSrc (s : State) (a : Asker) (ctx va : Nat) (m : BitVec 4) (pa : Nat) : (s.readTouch a ctx va m pa).timeSrc = s.timeSrc :=
  (s.touches_readTouch a ctx va m pa).timeSrc
@[simp] theorem State.readTouch_pkg (s : State) (a : Asker) (ctx va : Nat) (m : BitVec 4) (pa : Nat) : (s.readTouch a ctx va m pa).pkg = s.pkg :=
  (s.touches_readTouch a ctx va m pa).pkg
@[simp] theorem State.readTouch_run (s : State) (a : Asker) (ctx va : Nat) (m : BitVec 4) (pa : Nat) : (s.readTouch a ctx va m pa).run = s.run :=
  (s.touches_readTouch a ctx va m pa).run
@[simp] theorem State.readTouch_devLevel (s : State) (a : Asker) (ctx va : Nat) (m : BitVec 4) (pa : Nat) : (s.readTouch a ctx va m pa).devLevel = s.devLevel :=
  (s.touches_readTouch a ctx va m pa).devLevel
@[simp] theorem State.readTouch_version (s : State) (a : Asker) (ctx va : Nat) (m : BitVec 4) (pa : Nat) : (s.readTouch a ctx va m pa).version = s.version :=
  (s.touches_readTouch a ctx va m pa).version
@[simp] theorem State.readTouch_bootm (s : State) (a : Asker) (ctx va : Nat) (m : BitVec 4) (pa : Nat) : (s.readTouch a ctx va m pa).bootm = s.bootm :=
  (s.touches_readTouch a ctx va m pa).bootm
@[simp] theorem State.readTouch_expected (s : State) (a : Asker) (ctx va : Nat) (m : BitVec 4) (pa : Nat) : (s.readTouch a ctx va m pa).expected = s.expected :=
  (s.touches_readTouch a ctx va m pa).expected
@[simp] theorem State.readTouch_identity (s : State) (a : Asker) (ctx va : Nat) (m : BitVec 4) (pa : Nat) : (s.readTouch a ctx va m pa).identity = s.identity :=
  (s.touches_readTouch a ctx va m pa).identity
@[simp] theorem State.readTouch_mem (s : State) (a : Asker) (ctx va : Nat) (m : BitVec 4) (pa : Nat) : (s.readTouch a ctx va m pa).mem = s.mem :=
  (s.touches_readTouch a ctx va m pa).mem
@[simp] theorem State.readTouch_poison (s : State) (a : Asker) (ctx va : Nat) (m : BitVec 4) (pa : Nat) : (s.readTouch a ctx va m pa).poison = s.poison :=
  (s.touches_readTouch a ctx va m pa).poison
@[simp] theorem State.readTouch_tables (s : State) (a : Asker) (ctx va : Nat) (m : BitVec 4) (pa : Nat) : (s.readTouch a ctx va m pa).tables = s.tables :=
  (s.touches_readTouch a ctx va m pa).tables
@[simp] theorem State.readTouch_pins (s : State) (a : Asker) (ctx va : Nat) (m : BitVec 4) (pa : Nat) : (s.readTouch a ctx va m pa).pins = s.pins :=
  (s.touches_readTouch a ctx va m pa).pins
@[simp] theorem State.readTouch_noMigrate (s : State) (a : Asker) (ctx va : Nat) (m : BitVec 4) (pa : Nat) : (s.readTouch a ctx va m pa).noMigrate = s.noMigrate :=
  (s.touches_readTouch a ctx va m pa).noMigrate
@[simp] theorem State.readTouch_extents (s : State) (a : Asker) (ctx va : Nat) (m : BitVec 4) (pa : Nat) : (s.readTouch a ctx va m pa).extents = s.extents :=
  (s.touches_readTouch a ctx va m pa).extents
@[simp] theorem State.readTouch_queues (s : State) (a : Asker) (ctx va : Nat) (m : BitVec 4) (pa : Nat) : (s.readTouch a ctx va m pa).queues = s.queues :=
  (s.touches_readTouch a ctx va m pa).queues
@[simp] theorem State.readTouch_parts (s : State) (a : Asker) (ctx va : Nat) (m : BitVec 4) (pa : Nat) : (s.readTouch a ctx va m pa).parts = s.parts :=
  (s.touches_readTouch a ctx va m pa).parts
@[simp] theorem State.readTouch_ctxs (s : State) (a : Asker) (ctx va : Nat) (m : BitVec 4) (pa : Nat) : (s.readTouch a ctx va m pa).ctxs = s.ctxs :=
  (s.touches_readTouch a ctx va m pa).ctxs
@[simp] theorem State.readTouch_threads (s : State) (a : Asker) (ctx va : Nat) (m : BitVec 4) (pa : Nat) : (s.readTouch a ctx va m pa).threads = s.threads :=
  (s.touches_readTouch a ctx va m pa).threads
@[simp] theorem State.readTouch_cohorts (s : State) (a : Asker) (ctx va : Nat) (m : BitVec 4) (pa : Nat) : (s.readTouch a ctx va m pa).cohorts = s.cohorts :=
  (s.touches_readTouch a ctx va m pa).cohorts
@[simp] theorem State.readTouch_dies (s : State) (a : Asker) (ctx va : Nat) (m : BitVec 4) (pa : Nat) : (s.readTouch a ctx va m pa).dies = s.dies :=
  (s.touches_readTouch a ctx va m pa).dies
@[simp] theorem State.readTouch_chans (s : State) (a : Asker) (ctx va : Nat) (m : BitVec 4) (pa : Nat) : (s.readTouch a ctx va m pa).chans = s.chans :=
  (s.touches_readTouch a ctx va m pa).chans
@[simp] theorem State.readTouch_streams (s : State) (a : Asker) (ctx va : Nat) (m : BitVec 4) (pa : Nat) : (s.readTouch a ctx va m pa).streams = s.streams :=
  (s.touches_readTouch a ctx va m pa).streams
@[simp] theorem State.readTouch_windows (s : State) (a : Asker) (ctx va : Nat) (m : BitVec 4) (pa : Nat) : (s.readTouch a ctx va m pa).windows = s.windows :=
  (s.touches_readTouch a ctx va m pa).windows
@[simp] theorem State.readTouch_tasks (s : State) (a : Asker) (ctx va : Nat) (m : BitVec 4) (pa : Nat) : (s.readTouch a ctx va m pa).tasks = s.tasks :=
  (s.touches_readTouch a ctx va m pa).tasks
@[simp] theorem State.readTouch_saved (s : State) (a : Asker) (ctx va : Nat) (m : BitVec 4) (pa : Nat) : (s.readTouch a ctx va m pa).saved = s.saved :=
  (s.touches_readTouch a ctx va m pa).saved
@[simp] theorem State.readTouch_swaps (s : State) (a : Asker) (ctx va : Nat) (m : BitVec 4) (pa : Nat) : (s.readTouch a ctx va m pa).swaps = s.swaps :=
  (s.touches_readTouch a ctx va m pa).swaps
@[simp] theorem State.readTouch_fns (s : State) (a : Asker) (ctx va : Nat) (m : BitVec 4) (pa : Nat) : (s.readTouch a ctx va m pa).fns = s.fns :=
  (s.touches_readTouch a ctx va m pa).fns
@[simp] theorem State.readTouch_scpWrites (s : State) (a : Asker) (ctx va : Nat) (m : BitVec 4) (pa : Nat) : (s.readTouch a ctx va m pa).scpWrites = s.scpWrites :=
  (s.touches_readTouch a ctx va m pa).scpWrites
@[simp] theorem State.readTouch_scpResp (s : State) (a : Asker) (ctx va : Nat) (m : BitVec 4) (pa : Nat) : (s.readTouch a ctx va m pa).scpResp = s.scpResp :=
  (s.touches_readTouch a ctx va m pa).scpResp
@[simp] theorem State.readTouch_flows (s : State) (a : Asker) (ctx va : Nat) (m : BitVec 4) (pa : Nat) : (s.readTouch a ctx va m pa).flows = s.flows :=
  (s.touches_readTouch a ctx va m pa).flows
@[simp] theorem State.readTouch_uints (s : State) (a : Asker) (ctx va : Nat) (m : BitVec 4) (pa : Nat) : (s.readTouch a ctx va m pa).uints = s.uints :=
  (s.touches_readTouch a ctx va m pa).uints
@[simp] theorem State.readTouch_uintOut (s : State) (a : Asker) (ctx va : Nat) (m : BitVec 4) (pa : Nat) : (s.readTouch a ctx va m pa).uintOut = s.uintOut :=
  (s.touches_readTouch a ctx va m pa).uintOut
@[simp] theorem State.readTouch_sysReqs (s : State) (a : Asker) (ctx va : Nat) (m : BitVec 4) (pa : Nat) : (s.readTouch a ctx va m pa).sysReqs = s.sysReqs :=
  (s.touches_readTouch a ctx va m pa).sysReqs
@[simp] theorem State.readTouch_millis (s : State) (a : Asker) (ctx va : Nat) (m : BitVec 4) (pa : Nat) : (s.readTouch a ctx va m pa).millis = s.millis :=
  (s.touches_readTouch a ctx va m pa).millis
@[simp] theorem State.readTouch_chores (s : State) (a : Asker) (ctx va : Nat) (m : BitVec 4) (pa : Nat) : (s.readTouch a ctx va m pa).chores = s.chores :=
  (s.touches_readTouch a ctx va m pa).chores
@[simp] theorem State.readTouch_fused (s : State) (a : Asker) (ctx va : Nat) (m : BitVec 4) (pa : Nat) : (s.readTouch a ctx va m pa).fused = s.fused :=
  (s.touches_readTouch a ctx va m pa).fused
@[simp] theorem State.readTouch_events (s : State) (a : Asker) (ctx va : Nat) (m : BitVec 4) (pa : Nat) : (s.readTouch a ctx va m pa).events = s.events :=
  (s.touches_readTouch a ctx va m pa).events
@[simp] theorem State.writeTouch_cur (s : State) (a : Asker) (ctx va pa : Nat) (b : Option (Nat × Nat)) : (s.writeTouch a ctx va pa b).cur = s.cur :=
  (s.touches_writeTouch a ctx va pa b).cur
@[simp] theorem State.writeTouch_arg (s : State) (a : Asker) (ctx va pa : Nat) (b : Option (Nat × Nat)) : (s.writeTouch a ctx va pa b).arg = s.arg :=
  (s.touches_writeTouch a ctx va pa b).arg
@[simp] theorem State.writeTouch_agenda (s : State) (a : Asker) (ctx va pa : Nat) (b : Option (Nat × Nat)) : (s.writeTouch a ctx va pa b).agenda = s.agenda :=
  (s.touches_writeTouch a ctx va pa b).agenda
@[simp] theorem State.writeTouch_later (s : State) (a : Asker) (ctx va pa : Nat) (b : Option (Nat × Nat)) : (s.writeTouch a ctx va pa b).later = s.later :=
  (s.touches_writeTouch a ctx va pa b).later
@[simp] theorem State.writeTouch_freeCount (s : State) (a : Asker) (ctx va pa : Nat) (b : Option (Nat × Nat)) : (s.writeTouch a ctx va pa b).freeCount = s.freeCount :=
  (s.touches_writeTouch a ctx va pa b).freeCount
@[simp] theorem State.writeTouch_nextUid (s : State) (a : Asker) (ctx va pa : Nat) (b : Option (Nat × Nat)) : (s.writeTouch a ctx va pa b).nextUid = s.nextUid :=
  (s.touches_writeTouch a ctx va pa b).nextUid
@[simp] theorem State.writeTouch_nextAge (s : State) (a : Asker) (ctx va pa : Nat) (b : Option (Nat × Nat)) : (s.writeTouch a ctx va pa b).nextAge = s.nextAge :=
  (s.touches_writeTouch a ctx va pa b).nextAge
@[simp] theorem State.writeTouch_clk (s : State) (a : Asker) (ctx va pa : Nat) (b : Option (Nat × Nat)) : (s.writeTouch a ctx va pa b).clk = s.clk :=
  (s.touches_writeTouch a ctx va pa b).clk
@[simp] theorem State.writeTouch_ptsBase (s : State) (a : Asker) (ctx va pa : Nat) (b : Option (Nat × Nat)) : (s.writeTouch a ctx va pa b).ptsBase = s.ptsBase :=
  (s.touches_writeTouch a ctx va pa b).ptsBase
@[simp] theorem State.writeTouch_ungated (s : State) (a : Asker) (ctx va pa : Nat) (b : Option (Nat × Nat)) : (s.writeTouch a ctx va pa b).ungated = s.ungated :=
  (s.touches_writeTouch a ctx va pa b).ungated
@[simp] theorem State.writeTouch_gated (s : State) (a : Asker) (ctx va pa : Nat) (b : Option (Nat × Nat)) : (s.writeTouch a ctx va pa b).gated = s.gated :=
  (s.touches_writeTouch a ctx va pa b).gated
@[simp] theorem State.writeTouch_timeBase (s : State) (a : Asker) (ctx va pa : Nat) (b : Option (Nat × Nat)) : (s.writeTouch a ctx va pa b).timeBase = s.timeBase :=
  (s.touches_writeTouch a ctx va pa b).timeBase
@[simp] theorem State.writeTouch_clkBase (s : State) (a : Asker) (ctx va pa : Nat) (b : Option (Nat × Nat)) : (s.writeTouch a ctx va pa b).clkBase = s.clkBase :=
  (s.touches_writeTouch a ctx va pa b).clkBase
@[simp] theorem State.writeTouch_slew (s : State) (a : Asker) (ctx va pa : Nat) (b : Option (Nat × Nat)) : (s.writeTouch a ctx va pa b).slew = s.slew :=
  (s.touches_writeTouch a ctx va pa b).slew
@[simp] theorem State.writeTouch_timeSrc (s : State) (a : Asker) (ctx va pa : Nat) (b : Option (Nat × Nat)) : (s.writeTouch a ctx va pa b).timeSrc = s.timeSrc :=
  (s.touches_writeTouch a ctx va pa b).timeSrc
@[simp] theorem State.writeTouch_pkg (s : State) (a : Asker) (ctx va pa : Nat) (b : Option (Nat × Nat)) : (s.writeTouch a ctx va pa b).pkg = s.pkg :=
  (s.touches_writeTouch a ctx va pa b).pkg
@[simp] theorem State.writeTouch_run (s : State) (a : Asker) (ctx va pa : Nat) (b : Option (Nat × Nat)) : (s.writeTouch a ctx va pa b).run = s.run :=
  (s.touches_writeTouch a ctx va pa b).run
@[simp] theorem State.writeTouch_devLevel (s : State) (a : Asker) (ctx va pa : Nat) (b : Option (Nat × Nat)) : (s.writeTouch a ctx va pa b).devLevel = s.devLevel :=
  (s.touches_writeTouch a ctx va pa b).devLevel
@[simp] theorem State.writeTouch_version (s : State) (a : Asker) (ctx va pa : Nat) (b : Option (Nat × Nat)) : (s.writeTouch a ctx va pa b).version = s.version :=
  (s.touches_writeTouch a ctx va pa b).version
@[simp] theorem State.writeTouch_bootm (s : State) (a : Asker) (ctx va pa : Nat) (b : Option (Nat × Nat)) : (s.writeTouch a ctx va pa b).bootm = s.bootm :=
  (s.touches_writeTouch a ctx va pa b).bootm
@[simp] theorem State.writeTouch_expected (s : State) (a : Asker) (ctx va pa : Nat) (b : Option (Nat × Nat)) : (s.writeTouch a ctx va pa b).expected = s.expected :=
  (s.touches_writeTouch a ctx va pa b).expected
@[simp] theorem State.writeTouch_identity (s : State) (a : Asker) (ctx va pa : Nat) (b : Option (Nat × Nat)) : (s.writeTouch a ctx va pa b).identity = s.identity :=
  (s.touches_writeTouch a ctx va pa b).identity
@[simp] theorem State.writeTouch_mem (s : State) (a : Asker) (ctx va pa : Nat) (b : Option (Nat × Nat)) : (s.writeTouch a ctx va pa b).mem = s.mem :=
  (s.touches_writeTouch a ctx va pa b).mem
@[simp] theorem State.writeTouch_poison (s : State) (a : Asker) (ctx va pa : Nat) (b : Option (Nat × Nat)) : (s.writeTouch a ctx va pa b).poison = s.poison :=
  (s.touches_writeTouch a ctx va pa b).poison
@[simp] theorem State.writeTouch_tables (s : State) (a : Asker) (ctx va pa : Nat) (b : Option (Nat × Nat)) : (s.writeTouch a ctx va pa b).tables = s.tables :=
  (s.touches_writeTouch a ctx va pa b).tables
@[simp] theorem State.writeTouch_pins (s : State) (a : Asker) (ctx va pa : Nat) (b : Option (Nat × Nat)) : (s.writeTouch a ctx va pa b).pins = s.pins :=
  (s.touches_writeTouch a ctx va pa b).pins
@[simp] theorem State.writeTouch_noMigrate (s : State) (a : Asker) (ctx va pa : Nat) (b : Option (Nat × Nat)) : (s.writeTouch a ctx va pa b).noMigrate = s.noMigrate :=
  (s.touches_writeTouch a ctx va pa b).noMigrate
@[simp] theorem State.writeTouch_extents (s : State) (a : Asker) (ctx va pa : Nat) (b : Option (Nat × Nat)) : (s.writeTouch a ctx va pa b).extents = s.extents :=
  (s.touches_writeTouch a ctx va pa b).extents
@[simp] theorem State.writeTouch_queues (s : State) (a : Asker) (ctx va pa : Nat) (b : Option (Nat × Nat)) : (s.writeTouch a ctx va pa b).queues = s.queues :=
  (s.touches_writeTouch a ctx va pa b).queues
@[simp] theorem State.writeTouch_parts (s : State) (a : Asker) (ctx va pa : Nat) (b : Option (Nat × Nat)) : (s.writeTouch a ctx va pa b).parts = s.parts :=
  (s.touches_writeTouch a ctx va pa b).parts
@[simp] theorem State.writeTouch_ctxs (s : State) (a : Asker) (ctx va pa : Nat) (b : Option (Nat × Nat)) : (s.writeTouch a ctx va pa b).ctxs = s.ctxs :=
  (s.touches_writeTouch a ctx va pa b).ctxs
@[simp] theorem State.writeTouch_threads (s : State) (a : Asker) (ctx va pa : Nat) (b : Option (Nat × Nat)) : (s.writeTouch a ctx va pa b).threads = s.threads :=
  (s.touches_writeTouch a ctx va pa b).threads
@[simp] theorem State.writeTouch_cohorts (s : State) (a : Asker) (ctx va pa : Nat) (b : Option (Nat × Nat)) : (s.writeTouch a ctx va pa b).cohorts = s.cohorts :=
  (s.touches_writeTouch a ctx va pa b).cohorts
@[simp] theorem State.writeTouch_dies (s : State) (a : Asker) (ctx va pa : Nat) (b : Option (Nat × Nat)) : (s.writeTouch a ctx va pa b).dies = s.dies :=
  (s.touches_writeTouch a ctx va pa b).dies
@[simp] theorem State.writeTouch_chans (s : State) (a : Asker) (ctx va pa : Nat) (b : Option (Nat × Nat)) : (s.writeTouch a ctx va pa b).chans = s.chans :=
  (s.touches_writeTouch a ctx va pa b).chans
@[simp] theorem State.writeTouch_streams (s : State) (a : Asker) (ctx va pa : Nat) (b : Option (Nat × Nat)) : (s.writeTouch a ctx va pa b).streams = s.streams :=
  (s.touches_writeTouch a ctx va pa b).streams
@[simp] theorem State.writeTouch_windows (s : State) (a : Asker) (ctx va pa : Nat) (b : Option (Nat × Nat)) : (s.writeTouch a ctx va pa b).windows = s.windows :=
  (s.touches_writeTouch a ctx va pa b).windows
@[simp] theorem State.writeTouch_tasks (s : State) (a : Asker) (ctx va pa : Nat) (b : Option (Nat × Nat)) : (s.writeTouch a ctx va pa b).tasks = s.tasks :=
  (s.touches_writeTouch a ctx va pa b).tasks
@[simp] theorem State.writeTouch_saved (s : State) (a : Asker) (ctx va pa : Nat) (b : Option (Nat × Nat)) : (s.writeTouch a ctx va pa b).saved = s.saved :=
  (s.touches_writeTouch a ctx va pa b).saved
@[simp] theorem State.writeTouch_swaps (s : State) (a : Asker) (ctx va pa : Nat) (b : Option (Nat × Nat)) : (s.writeTouch a ctx va pa b).swaps = s.swaps :=
  (s.touches_writeTouch a ctx va pa b).swaps
@[simp] theorem State.writeTouch_fns (s : State) (a : Asker) (ctx va pa : Nat) (b : Option (Nat × Nat)) : (s.writeTouch a ctx va pa b).fns = s.fns :=
  (s.touches_writeTouch a ctx va pa b).fns
@[simp] theorem State.writeTouch_scpWrites (s : State) (a : Asker) (ctx va pa : Nat) (b : Option (Nat × Nat)) : (s.writeTouch a ctx va pa b).scpWrites = s.scpWrites :=
  (s.touches_writeTouch a ctx va pa b).scpWrites
@[simp] theorem State.writeTouch_scpResp (s : State) (a : Asker) (ctx va pa : Nat) (b : Option (Nat × Nat)) : (s.writeTouch a ctx va pa b).scpResp = s.scpResp :=
  (s.touches_writeTouch a ctx va pa b).scpResp
@[simp] theorem State.writeTouch_flows (s : State) (a : Asker) (ctx va pa : Nat) (b : Option (Nat × Nat)) : (s.writeTouch a ctx va pa b).flows = s.flows :=
  (s.touches_writeTouch a ctx va pa b).flows
@[simp] theorem State.writeTouch_uints (s : State) (a : Asker) (ctx va pa : Nat) (b : Option (Nat × Nat)) : (s.writeTouch a ctx va pa b).uints = s.uints :=
  (s.touches_writeTouch a ctx va pa b).uints
@[simp] theorem State.writeTouch_uintOut (s : State) (a : Asker) (ctx va pa : Nat) (b : Option (Nat × Nat)) : (s.writeTouch a ctx va pa b).uintOut = s.uintOut :=
  (s.touches_writeTouch a ctx va pa b).uintOut
@[simp] theorem State.writeTouch_sysReqs (s : State) (a : Asker) (ctx va pa : Nat) (b : Option (Nat × Nat)) : (s.writeTouch a ctx va pa b).sysReqs = s.sysReqs :=
  (s.touches_writeTouch a ctx va pa b).sysReqs
@[simp] theorem State.writeTouch_millis (s : State) (a : Asker) (ctx va pa : Nat) (b : Option (Nat × Nat)) : (s.writeTouch a ctx va pa b).millis = s.millis :=
  (s.touches_writeTouch a ctx va pa b).millis
@[simp] theorem State.writeTouch_chores (s : State) (a : Asker) (ctx va pa : Nat) (b : Option (Nat × Nat)) : (s.writeTouch a ctx va pa b).chores = s.chores :=
  (s.touches_writeTouch a ctx va pa b).chores
@[simp] theorem State.writeTouch_fused (s : State) (a : Asker) (ctx va pa : Nat) (b : Option (Nat × Nat)) : (s.writeTouch a ctx va pa b).fused = s.fused :=
  (s.touches_writeTouch a ctx va pa b).fused
@[simp] theorem State.writeTouch_events (s : State) (a : Asker) (ctx va pa : Nat) (b : Option (Nat × Nat)) : (s.writeTouch a ctx va pa b).events = s.events :=
  (s.touches_writeTouch a ctx va pa b).events
@[simp] theorem State.ptsTo_cur (s : State) (a : Asker) (n : Nat) : (s.ptsTo a n).cur = s.cur :=
  (s.touches_ptsTo a n).cur
@[simp] theorem State.ptsTo_arg (s : State) (a : Asker) (n : Nat) : (s.ptsTo a n).arg = s.arg :=
  (s.touches_ptsTo a n).arg
@[simp] theorem State.ptsTo_agenda (s : State) (a : Asker) (n : Nat) : (s.ptsTo a n).agenda = s.agenda :=
  (s.touches_ptsTo a n).agenda
@[simp] theorem State.ptsTo_later (s : State) (a : Asker) (n : Nat) : (s.ptsTo a n).later = s.later :=
  (s.touches_ptsTo a n).later
@[simp] theorem State.ptsTo_freeCount (s : State) (a : Asker) (n : Nat) : (s.ptsTo a n).freeCount = s.freeCount :=
  (s.touches_ptsTo a n).freeCount
@[simp] theorem State.ptsTo_nextUid (s : State) (a : Asker) (n : Nat) : (s.ptsTo a n).nextUid = s.nextUid :=
  (s.touches_ptsTo a n).nextUid
@[simp] theorem State.ptsTo_nextAge (s : State) (a : Asker) (n : Nat) : (s.ptsTo a n).nextAge = s.nextAge :=
  (s.touches_ptsTo a n).nextAge
@[simp] theorem State.ptsTo_clk (s : State) (a : Asker) (n : Nat) : (s.ptsTo a n).clk = s.clk :=
  (s.touches_ptsTo a n).clk
@[simp] theorem State.ptsTo_ptsBase (s : State) (a : Asker) (n : Nat) : (s.ptsTo a n).ptsBase = s.ptsBase :=
  (s.touches_ptsTo a n).ptsBase
@[simp] theorem State.ptsTo_ungated (s : State) (a : Asker) (n : Nat) : (s.ptsTo a n).ungated = s.ungated :=
  (s.touches_ptsTo a n).ungated
@[simp] theorem State.ptsTo_gated (s : State) (a : Asker) (n : Nat) : (s.ptsTo a n).gated = s.gated :=
  (s.touches_ptsTo a n).gated
@[simp] theorem State.ptsTo_timeBase (s : State) (a : Asker) (n : Nat) : (s.ptsTo a n).timeBase = s.timeBase :=
  (s.touches_ptsTo a n).timeBase
@[simp] theorem State.ptsTo_clkBase (s : State) (a : Asker) (n : Nat) : (s.ptsTo a n).clkBase = s.clkBase :=
  (s.touches_ptsTo a n).clkBase
@[simp] theorem State.ptsTo_slew (s : State) (a : Asker) (n : Nat) : (s.ptsTo a n).slew = s.slew :=
  (s.touches_ptsTo a n).slew
@[simp] theorem State.ptsTo_timeSrc (s : State) (a : Asker) (n : Nat) : (s.ptsTo a n).timeSrc = s.timeSrc :=
  (s.touches_ptsTo a n).timeSrc
@[simp] theorem State.ptsTo_pkg (s : State) (a : Asker) (n : Nat) : (s.ptsTo a n).pkg = s.pkg :=
  (s.touches_ptsTo a n).pkg
@[simp] theorem State.ptsTo_run (s : State) (a : Asker) (n : Nat) : (s.ptsTo a n).run = s.run :=
  (s.touches_ptsTo a n).run
@[simp] theorem State.ptsTo_devLevel (s : State) (a : Asker) (n : Nat) : (s.ptsTo a n).devLevel = s.devLevel :=
  (s.touches_ptsTo a n).devLevel
@[simp] theorem State.ptsTo_version (s : State) (a : Asker) (n : Nat) : (s.ptsTo a n).version = s.version :=
  (s.touches_ptsTo a n).version
@[simp] theorem State.ptsTo_bootm (s : State) (a : Asker) (n : Nat) : (s.ptsTo a n).bootm = s.bootm :=
  (s.touches_ptsTo a n).bootm
@[simp] theorem State.ptsTo_expected (s : State) (a : Asker) (n : Nat) : (s.ptsTo a n).expected = s.expected :=
  (s.touches_ptsTo a n).expected
@[simp] theorem State.ptsTo_identity (s : State) (a : Asker) (n : Nat) : (s.ptsTo a n).identity = s.identity :=
  (s.touches_ptsTo a n).identity
@[simp] theorem State.ptsTo_mem (s : State) (a : Asker) (n : Nat) : (s.ptsTo a n).mem = s.mem :=
  (s.touches_ptsTo a n).mem
@[simp] theorem State.ptsTo_poison (s : State) (a : Asker) (n : Nat) : (s.ptsTo a n).poison = s.poison :=
  (s.touches_ptsTo a n).poison
@[simp] theorem State.ptsTo_tables (s : State) (a : Asker) (n : Nat) : (s.ptsTo a n).tables = s.tables :=
  (s.touches_ptsTo a n).tables
@[simp] theorem State.ptsTo_pins (s : State) (a : Asker) (n : Nat) : (s.ptsTo a n).pins = s.pins :=
  (s.touches_ptsTo a n).pins
@[simp] theorem State.ptsTo_noMigrate (s : State) (a : Asker) (n : Nat) : (s.ptsTo a n).noMigrate = s.noMigrate :=
  (s.touches_ptsTo a n).noMigrate
@[simp] theorem State.ptsTo_extents (s : State) (a : Asker) (n : Nat) : (s.ptsTo a n).extents = s.extents :=
  (s.touches_ptsTo a n).extents
@[simp] theorem State.ptsTo_queues (s : State) (a : Asker) (n : Nat) : (s.ptsTo a n).queues = s.queues :=
  (s.touches_ptsTo a n).queues
@[simp] theorem State.ptsTo_parts (s : State) (a : Asker) (n : Nat) : (s.ptsTo a n).parts = s.parts :=
  (s.touches_ptsTo a n).parts
@[simp] theorem State.ptsTo_ctxs (s : State) (a : Asker) (n : Nat) : (s.ptsTo a n).ctxs = s.ctxs :=
  (s.touches_ptsTo a n).ctxs
@[simp] theorem State.ptsTo_threads (s : State) (a : Asker) (n : Nat) : (s.ptsTo a n).threads = s.threads :=
  (s.touches_ptsTo a n).threads
@[simp] theorem State.ptsTo_cohorts (s : State) (a : Asker) (n : Nat) : (s.ptsTo a n).cohorts = s.cohorts :=
  (s.touches_ptsTo a n).cohorts
@[simp] theorem State.ptsTo_dies (s : State) (a : Asker) (n : Nat) : (s.ptsTo a n).dies = s.dies :=
  (s.touches_ptsTo a n).dies
@[simp] theorem State.ptsTo_chans (s : State) (a : Asker) (n : Nat) : (s.ptsTo a n).chans = s.chans :=
  (s.touches_ptsTo a n).chans
@[simp] theorem State.ptsTo_streams (s : State) (a : Asker) (n : Nat) : (s.ptsTo a n).streams = s.streams :=
  (s.touches_ptsTo a n).streams
@[simp] theorem State.ptsTo_windows (s : State) (a : Asker) (n : Nat) : (s.ptsTo a n).windows = s.windows :=
  (s.touches_ptsTo a n).windows
@[simp] theorem State.ptsTo_tasks (s : State) (a : Asker) (n : Nat) : (s.ptsTo a n).tasks = s.tasks :=
  (s.touches_ptsTo a n).tasks
@[simp] theorem State.ptsTo_saved (s : State) (a : Asker) (n : Nat) : (s.ptsTo a n).saved = s.saved :=
  (s.touches_ptsTo a n).saved
@[simp] theorem State.ptsTo_swaps (s : State) (a : Asker) (n : Nat) : (s.ptsTo a n).swaps = s.swaps :=
  (s.touches_ptsTo a n).swaps
@[simp] theorem State.ptsTo_fns (s : State) (a : Asker) (n : Nat) : (s.ptsTo a n).fns = s.fns :=
  (s.touches_ptsTo a n).fns
@[simp] theorem State.ptsTo_scpWrites (s : State) (a : Asker) (n : Nat) : (s.ptsTo a n).scpWrites = s.scpWrites :=
  (s.touches_ptsTo a n).scpWrites
@[simp] theorem State.ptsTo_scpResp (s : State) (a : Asker) (n : Nat) : (s.ptsTo a n).scpResp = s.scpResp :=
  (s.touches_ptsTo a n).scpResp
@[simp] theorem State.ptsTo_flows (s : State) (a : Asker) (n : Nat) : (s.ptsTo a n).flows = s.flows :=
  (s.touches_ptsTo a n).flows
@[simp] theorem State.ptsTo_uints (s : State) (a : Asker) (n : Nat) : (s.ptsTo a n).uints = s.uints :=
  (s.touches_ptsTo a n).uints
@[simp] theorem State.ptsTo_uintOut (s : State) (a : Asker) (n : Nat) : (s.ptsTo a n).uintOut = s.uintOut :=
  (s.touches_ptsTo a n).uintOut
@[simp] theorem State.ptsTo_sysReqs (s : State) (a : Asker) (n : Nat) : (s.ptsTo a n).sysReqs = s.sysReqs :=
  (s.touches_ptsTo a n).sysReqs
@[simp] theorem State.ptsTo_millis (s : State) (a : Asker) (n : Nat) : (s.ptsTo a n).millis = s.millis :=
  (s.touches_ptsTo a n).millis
@[simp] theorem State.ptsTo_chores (s : State) (a : Asker) (n : Nat) : (s.ptsTo a n).chores = s.chores :=
  (s.touches_ptsTo a n).chores
@[simp] theorem State.ptsTo_fused (s : State) (a : Asker) (n : Nat) : (s.ptsTo a n).fused = s.fused :=
  (s.touches_ptsTo a n).fused
@[simp] theorem State.ptsTo_events (s : State) (a : Asker) (n : Nat) : (s.ptsTo a n).events = s.events :=
  (s.touches_ptsTo a n).events
@[simp] theorem State.l1Fill_cur (s : State) (core : Nat) (n : L1Line) : (s.l1Fill core n).cur = s.cur :=
  (s.touches_l1Fill core n).cur
@[simp] theorem State.l1Fill_arg (s : State) (core : Nat) (n : L1Line) : (s.l1Fill core n).arg = s.arg :=
  (s.touches_l1Fill core n).arg
@[simp] theorem State.l1Fill_agenda (s : State) (core : Nat) (n : L1Line) : (s.l1Fill core n).agenda = s.agenda :=
  (s.touches_l1Fill core n).agenda
@[simp] theorem State.l1Fill_later (s : State) (core : Nat) (n : L1Line) : (s.l1Fill core n).later = s.later :=
  (s.touches_l1Fill core n).later
@[simp] theorem State.l1Fill_freeCount (s : State) (core : Nat) (n : L1Line) : (s.l1Fill core n).freeCount = s.freeCount :=
  (s.touches_l1Fill core n).freeCount
@[simp] theorem State.l1Fill_nextUid (s : State) (core : Nat) (n : L1Line) : (s.l1Fill core n).nextUid = s.nextUid :=
  (s.touches_l1Fill core n).nextUid
@[simp] theorem State.l1Fill_nextAge (s : State) (core : Nat) (n : L1Line) : (s.l1Fill core n).nextAge = s.nextAge :=
  (s.touches_l1Fill core n).nextAge
@[simp] theorem State.l1Fill_clk (s : State) (core : Nat) (n : L1Line) : (s.l1Fill core n).clk = s.clk :=
  (s.touches_l1Fill core n).clk
@[simp] theorem State.l1Fill_ptsBase (s : State) (core : Nat) (n : L1Line) : (s.l1Fill core n).ptsBase = s.ptsBase :=
  (s.touches_l1Fill core n).ptsBase
@[simp] theorem State.l1Fill_ungated (s : State) (core : Nat) (n : L1Line) : (s.l1Fill core n).ungated = s.ungated :=
  (s.touches_l1Fill core n).ungated
@[simp] theorem State.l1Fill_gated (s : State) (core : Nat) (n : L1Line) : (s.l1Fill core n).gated = s.gated :=
  (s.touches_l1Fill core n).gated
@[simp] theorem State.l1Fill_timeBase (s : State) (core : Nat) (n : L1Line) : (s.l1Fill core n).timeBase = s.timeBase :=
  (s.touches_l1Fill core n).timeBase
@[simp] theorem State.l1Fill_clkBase (s : State) (core : Nat) (n : L1Line) : (s.l1Fill core n).clkBase = s.clkBase :=
  (s.touches_l1Fill core n).clkBase
@[simp] theorem State.l1Fill_slew (s : State) (core : Nat) (n : L1Line) : (s.l1Fill core n).slew = s.slew :=
  (s.touches_l1Fill core n).slew
@[simp] theorem State.l1Fill_timeSrc (s : State) (core : Nat) (n : L1Line) : (s.l1Fill core n).timeSrc = s.timeSrc :=
  (s.touches_l1Fill core n).timeSrc
@[simp] theorem State.l1Fill_pkg (s : State) (core : Nat) (n : L1Line) : (s.l1Fill core n).pkg = s.pkg :=
  (s.touches_l1Fill core n).pkg
@[simp] theorem State.l1Fill_run (s : State) (core : Nat) (n : L1Line) : (s.l1Fill core n).run = s.run :=
  (s.touches_l1Fill core n).run
@[simp] theorem State.l1Fill_devLevel (s : State) (core : Nat) (n : L1Line) : (s.l1Fill core n).devLevel = s.devLevel :=
  (s.touches_l1Fill core n).devLevel
@[simp] theorem State.l1Fill_version (s : State) (core : Nat) (n : L1Line) : (s.l1Fill core n).version = s.version :=
  (s.touches_l1Fill core n).version
@[simp] theorem State.l1Fill_bootm (s : State) (core : Nat) (n : L1Line) : (s.l1Fill core n).bootm = s.bootm :=
  (s.touches_l1Fill core n).bootm
@[simp] theorem State.l1Fill_expected (s : State) (core : Nat) (n : L1Line) : (s.l1Fill core n).expected = s.expected :=
  (s.touches_l1Fill core n).expected
@[simp] theorem State.l1Fill_identity (s : State) (core : Nat) (n : L1Line) : (s.l1Fill core n).identity = s.identity :=
  (s.touches_l1Fill core n).identity
@[simp] theorem State.l1Fill_mem (s : State) (core : Nat) (n : L1Line) : (s.l1Fill core n).mem = s.mem :=
  (s.touches_l1Fill core n).mem
@[simp] theorem State.l1Fill_poison (s : State) (core : Nat) (n : L1Line) : (s.l1Fill core n).poison = s.poison :=
  (s.touches_l1Fill core n).poison
@[simp] theorem State.l1Fill_tables (s : State) (core : Nat) (n : L1Line) : (s.l1Fill core n).tables = s.tables :=
  (s.touches_l1Fill core n).tables
@[simp] theorem State.l1Fill_pins (s : State) (core : Nat) (n : L1Line) : (s.l1Fill core n).pins = s.pins :=
  (s.touches_l1Fill core n).pins
@[simp] theorem State.l1Fill_noMigrate (s : State) (core : Nat) (n : L1Line) : (s.l1Fill core n).noMigrate = s.noMigrate :=
  (s.touches_l1Fill core n).noMigrate
@[simp] theorem State.l1Fill_extents (s : State) (core : Nat) (n : L1Line) : (s.l1Fill core n).extents = s.extents :=
  (s.touches_l1Fill core n).extents
@[simp] theorem State.l1Fill_queues (s : State) (core : Nat) (n : L1Line) : (s.l1Fill core n).queues = s.queues :=
  (s.touches_l1Fill core n).queues
@[simp] theorem State.l1Fill_parts (s : State) (core : Nat) (n : L1Line) : (s.l1Fill core n).parts = s.parts :=
  (s.touches_l1Fill core n).parts
@[simp] theorem State.l1Fill_ctxs (s : State) (core : Nat) (n : L1Line) : (s.l1Fill core n).ctxs = s.ctxs :=
  (s.touches_l1Fill core n).ctxs
@[simp] theorem State.l1Fill_threads (s : State) (core : Nat) (n : L1Line) : (s.l1Fill core n).threads = s.threads :=
  (s.touches_l1Fill core n).threads
@[simp] theorem State.l1Fill_cohorts (s : State) (core : Nat) (n : L1Line) : (s.l1Fill core n).cohorts = s.cohorts :=
  (s.touches_l1Fill core n).cohorts
@[simp] theorem State.l1Fill_dies (s : State) (core : Nat) (n : L1Line) : (s.l1Fill core n).dies = s.dies :=
  (s.touches_l1Fill core n).dies
@[simp] theorem State.l1Fill_chans (s : State) (core : Nat) (n : L1Line) : (s.l1Fill core n).chans = s.chans :=
  (s.touches_l1Fill core n).chans
@[simp] theorem State.l1Fill_streams (s : State) (core : Nat) (n : L1Line) : (s.l1Fill core n).streams = s.streams :=
  (s.touches_l1Fill core n).streams
@[simp] theorem State.l1Fill_windows (s : State) (core : Nat) (n : L1Line) : (s.l1Fill core n).windows = s.windows :=
  (s.touches_l1Fill core n).windows
@[simp] theorem State.l1Fill_tasks (s : State) (core : Nat) (n : L1Line) : (s.l1Fill core n).tasks = s.tasks :=
  (s.touches_l1Fill core n).tasks
@[simp] theorem State.l1Fill_saved (s : State) (core : Nat) (n : L1Line) : (s.l1Fill core n).saved = s.saved :=
  (s.touches_l1Fill core n).saved
@[simp] theorem State.l1Fill_swaps (s : State) (core : Nat) (n : L1Line) : (s.l1Fill core n).swaps = s.swaps :=
  (s.touches_l1Fill core n).swaps
@[simp] theorem State.l1Fill_fns (s : State) (core : Nat) (n : L1Line) : (s.l1Fill core n).fns = s.fns :=
  (s.touches_l1Fill core n).fns
@[simp] theorem State.l1Fill_scpWrites (s : State) (core : Nat) (n : L1Line) : (s.l1Fill core n).scpWrites = s.scpWrites :=
  (s.touches_l1Fill core n).scpWrites
@[simp] theorem State.l1Fill_scpResp (s : State) (core : Nat) (n : L1Line) : (s.l1Fill core n).scpResp = s.scpResp :=
  (s.touches_l1Fill core n).scpResp
@[simp] theorem State.l1Fill_flows (s : State) (core : Nat) (n : L1Line) : (s.l1Fill core n).flows = s.flows :=
  (s.touches_l1Fill core n).flows
@[simp] theorem State.l1Fill_uints (s : State) (core : Nat) (n : L1Line) : (s.l1Fill core n).uints = s.uints :=
  (s.touches_l1Fill core n).uints
@[simp] theorem State.l1Fill_uintOut (s : State) (core : Nat) (n : L1Line) : (s.l1Fill core n).uintOut = s.uintOut :=
  (s.touches_l1Fill core n).uintOut
@[simp] theorem State.l1Fill_sysReqs (s : State) (core : Nat) (n : L1Line) : (s.l1Fill core n).sysReqs = s.sysReqs :=
  (s.touches_l1Fill core n).sysReqs
@[simp] theorem State.l1Fill_millis (s : State) (core : Nat) (n : L1Line) : (s.l1Fill core n).millis = s.millis :=
  (s.touches_l1Fill core n).millis
@[simp] theorem State.l1Fill_chores (s : State) (core : Nat) (n : L1Line) : (s.l1Fill core n).chores = s.chores :=
  (s.touches_l1Fill core n).chores
@[simp] theorem State.l1Fill_fused (s : State) (core : Nat) (n : L1Line) : (s.l1Fill core n).fused = s.fused :=
  (s.touches_l1Fill core n).fused
@[simp] theorem State.l1Fill_events (s : State) (core : Nat) (n : L1Line) : (s.l1Fill core n).events = s.events :=
  (s.touches_l1Fill core n).events
@[simp] theorem State.fillLine_cur (s : State) (ctx va pa die : Nat) : (s.fillLine ctx va pa die).cur = s.cur :=
  (s.touches_fillLine ctx va pa die).cur
@[simp] theorem State.fillLine_arg (s : State) (ctx va pa die : Nat) : (s.fillLine ctx va pa die).arg = s.arg :=
  (s.touches_fillLine ctx va pa die).arg
@[simp] theorem State.fillLine_agenda (s : State) (ctx va pa die : Nat) : (s.fillLine ctx va pa die).agenda = s.agenda :=
  (s.touches_fillLine ctx va pa die).agenda
@[simp] theorem State.fillLine_later (s : State) (ctx va pa die : Nat) : (s.fillLine ctx va pa die).later = s.later :=
  (s.touches_fillLine ctx va pa die).later
@[simp] theorem State.fillLine_freeCount (s : State) (ctx va pa die : Nat) : (s.fillLine ctx va pa die).freeCount = s.freeCount :=
  (s.touches_fillLine ctx va pa die).freeCount
@[simp] theorem State.fillLine_nextUid (s : State) (ctx va pa die : Nat) : (s.fillLine ctx va pa die).nextUid = s.nextUid :=
  (s.touches_fillLine ctx va pa die).nextUid
@[simp] theorem State.fillLine_nextAge (s : State) (ctx va pa die : Nat) : (s.fillLine ctx va pa die).nextAge = s.nextAge :=
  (s.touches_fillLine ctx va pa die).nextAge
@[simp] theorem State.fillLine_clk (s : State) (ctx va pa die : Nat) : (s.fillLine ctx va pa die).clk = s.clk :=
  (s.touches_fillLine ctx va pa die).clk
@[simp] theorem State.fillLine_ptsBase (s : State) (ctx va pa die : Nat) : (s.fillLine ctx va pa die).ptsBase = s.ptsBase :=
  (s.touches_fillLine ctx va pa die).ptsBase
@[simp] theorem State.fillLine_ungated (s : State) (ctx va pa die : Nat) : (s.fillLine ctx va pa die).ungated = s.ungated :=
  (s.touches_fillLine ctx va pa die).ungated
@[simp] theorem State.fillLine_gated (s : State) (ctx va pa die : Nat) : (s.fillLine ctx va pa die).gated = s.gated :=
  (s.touches_fillLine ctx va pa die).gated
@[simp] theorem State.fillLine_timeBase (s : State) (ctx va pa die : Nat) : (s.fillLine ctx va pa die).timeBase = s.timeBase :=
  (s.touches_fillLine ctx va pa die).timeBase
@[simp] theorem State.fillLine_clkBase (s : State) (ctx va pa die : Nat) : (s.fillLine ctx va pa die).clkBase = s.clkBase :=
  (s.touches_fillLine ctx va pa die).clkBase
@[simp] theorem State.fillLine_slew (s : State) (ctx va pa die : Nat) : (s.fillLine ctx va pa die).slew = s.slew :=
  (s.touches_fillLine ctx va pa die).slew
@[simp] theorem State.fillLine_timeSrc (s : State) (ctx va pa die : Nat) : (s.fillLine ctx va pa die).timeSrc = s.timeSrc :=
  (s.touches_fillLine ctx va pa die).timeSrc
@[simp] theorem State.fillLine_pkg (s : State) (ctx va pa die : Nat) : (s.fillLine ctx va pa die).pkg = s.pkg :=
  (s.touches_fillLine ctx va pa die).pkg
@[simp] theorem State.fillLine_run (s : State) (ctx va pa die : Nat) : (s.fillLine ctx va pa die).run = s.run :=
  (s.touches_fillLine ctx va pa die).run
@[simp] theorem State.fillLine_devLevel (s : State) (ctx va pa die : Nat) : (s.fillLine ctx va pa die).devLevel = s.devLevel :=
  (s.touches_fillLine ctx va pa die).devLevel
@[simp] theorem State.fillLine_version (s : State) (ctx va pa die : Nat) : (s.fillLine ctx va pa die).version = s.version :=
  (s.touches_fillLine ctx va pa die).version
@[simp] theorem State.fillLine_bootm (s : State) (ctx va pa die : Nat) : (s.fillLine ctx va pa die).bootm = s.bootm :=
  (s.touches_fillLine ctx va pa die).bootm
@[simp] theorem State.fillLine_expected (s : State) (ctx va pa die : Nat) : (s.fillLine ctx va pa die).expected = s.expected :=
  (s.touches_fillLine ctx va pa die).expected
@[simp] theorem State.fillLine_identity (s : State) (ctx va pa die : Nat) : (s.fillLine ctx va pa die).identity = s.identity :=
  (s.touches_fillLine ctx va pa die).identity
@[simp] theorem State.fillLine_mem (s : State) (ctx va pa die : Nat) : (s.fillLine ctx va pa die).mem = s.mem :=
  (s.touches_fillLine ctx va pa die).mem
@[simp] theorem State.fillLine_poison (s : State) (ctx va pa die : Nat) : (s.fillLine ctx va pa die).poison = s.poison :=
  (s.touches_fillLine ctx va pa die).poison
@[simp] theorem State.fillLine_tables (s : State) (ctx va pa die : Nat) : (s.fillLine ctx va pa die).tables = s.tables :=
  (s.touches_fillLine ctx va pa die).tables
@[simp] theorem State.fillLine_pins (s : State) (ctx va pa die : Nat) : (s.fillLine ctx va pa die).pins = s.pins :=
  (s.touches_fillLine ctx va pa die).pins
@[simp] theorem State.fillLine_noMigrate (s : State) (ctx va pa die : Nat) : (s.fillLine ctx va pa die).noMigrate = s.noMigrate :=
  (s.touches_fillLine ctx va pa die).noMigrate
@[simp] theorem State.fillLine_extents (s : State) (ctx va pa die : Nat) : (s.fillLine ctx va pa die).extents = s.extents :=
  (s.touches_fillLine ctx va pa die).extents
@[simp] theorem State.fillLine_queues (s : State) (ctx va pa die : Nat) : (s.fillLine ctx va pa die).queues = s.queues :=
  (s.touches_fillLine ctx va pa die).queues
@[simp] theorem State.fillLine_parts (s : State) (ctx va pa die : Nat) : (s.fillLine ctx va pa die).parts = s.parts :=
  (s.touches_fillLine ctx va pa die).parts
@[simp] theorem State.fillLine_ctxs (s : State) (ctx va pa die : Nat) : (s.fillLine ctx va pa die).ctxs = s.ctxs :=
  (s.touches_fillLine ctx va pa die).ctxs
@[simp] theorem State.fillLine_threads (s : State) (ctx va pa die : Nat) : (s.fillLine ctx va pa die).threads = s.threads :=
  (s.touches_fillLine ctx va pa die).threads
@[simp] theorem State.fillLine_cohorts (s : State) (ctx va pa die : Nat) : (s.fillLine ctx va pa die).cohorts = s.cohorts :=
  (s.touches_fillLine ctx va pa die).cohorts
@[simp] theorem State.fillLine_dies (s : State) (ctx va pa die : Nat) : (s.fillLine ctx va pa die).dies = s.dies :=
  (s.touches_fillLine ctx va pa die).dies
@[simp] theorem State.fillLine_chans (s : State) (ctx va pa die : Nat) : (s.fillLine ctx va pa die).chans = s.chans :=
  (s.touches_fillLine ctx va pa die).chans
@[simp] theorem State.fillLine_streams (s : State) (ctx va pa die : Nat) : (s.fillLine ctx va pa die).streams = s.streams :=
  (s.touches_fillLine ctx va pa die).streams
@[simp] theorem State.fillLine_windows (s : State) (ctx va pa die : Nat) : (s.fillLine ctx va pa die).windows = s.windows :=
  (s.touches_fillLine ctx va pa die).windows
@[simp] theorem State.fillLine_tasks (s : State) (ctx va pa die : Nat) : (s.fillLine ctx va pa die).tasks = s.tasks :=
  (s.touches_fillLine ctx va pa die).tasks
@[simp] theorem State.fillLine_saved (s : State) (ctx va pa die : Nat) : (s.fillLine ctx va pa die).saved = s.saved :=
  (s.touches_fillLine ctx va pa die).saved
@[simp] theorem State.fillLine_swaps (s : State) (ctx va pa die : Nat) : (s.fillLine ctx va pa die).swaps = s.swaps :=
  (s.touches_fillLine ctx va pa die).swaps
@[simp] theorem State.fillLine_fns (s : State) (ctx va pa die : Nat) : (s.fillLine ctx va pa die).fns = s.fns :=
  (s.touches_fillLine ctx va pa die).fns
@[simp] theorem State.fillLine_scpWrites (s : State) (ctx va pa die : Nat) : (s.fillLine ctx va pa die).scpWrites = s.scpWrites :=
  (s.touches_fillLine ctx va pa die).scpWrites
@[simp] theorem State.fillLine_scpResp (s : State) (ctx va pa die : Nat) : (s.fillLine ctx va pa die).scpResp = s.scpResp :=
  (s.touches_fillLine ctx va pa die).scpResp
@[simp] theorem State.fillLine_flows (s : State) (ctx va pa die : Nat) : (s.fillLine ctx va pa die).flows = s.flows :=
  (s.touches_fillLine ctx va pa die).flows
@[simp] theorem State.fillLine_uints (s : State) (ctx va pa die : Nat) : (s.fillLine ctx va pa die).uints = s.uints :=
  (s.touches_fillLine ctx va pa die).uints
@[simp] theorem State.fillLine_uintOut (s : State) (ctx va pa die : Nat) : (s.fillLine ctx va pa die).uintOut = s.uintOut :=
  (s.touches_fillLine ctx va pa die).uintOut
@[simp] theorem State.fillLine_sysReqs (s : State) (ctx va pa die : Nat) : (s.fillLine ctx va pa die).sysReqs = s.sysReqs :=
  (s.touches_fillLine ctx va pa die).sysReqs
@[simp] theorem State.fillLine_millis (s : State) (ctx va pa die : Nat) : (s.fillLine ctx va pa die).millis = s.millis :=
  (s.touches_fillLine ctx va pa die).millis
@[simp] theorem State.fillLine_chores (s : State) (ctx va pa die : Nat) : (s.fillLine ctx va pa die).chores = s.chores :=
  (s.touches_fillLine ctx va pa die).chores
@[simp] theorem State.fillLine_fused (s : State) (ctx va pa die : Nat) : (s.fillLine ctx va pa die).fused = s.fused :=
  (s.touches_fillLine ctx va pa die).fused
@[simp] theorem State.fillLine_events (s : State) (ctx va pa die : Nat) : (s.fillLine ctx va pa die).events = s.events :=
  (s.touches_fillLine ctx va pa die).events

end Sys2Proof.Machine
end

