-- ==== Sys2Proof/Laws/Access.lean ====
section
/-! SUPPORT. Sys2Proof/Laws/Access.lean: one lemma for each shared operation of an instruction: an access that lies in one
line (R160, R175, R190), a release (R182, R216), how a scalar and a lane instruction complete (R86, R94), and what a
waiting instruction leaves. -/

namespace Sys2Proof.Machine

/-- An access in one line is one piece. -/
theorem chunks_one (va n : Nat) (h0 : 0 < n) (h : va % 128 + n ≤ 128) : chunks va n = [{ va, n }] := by
  have hm : min n (128 - va % 128) = n := by omega
  unfold chunks
  cases hf : n / 128 + 1 with
  | zero => omega
  | succ f =>
    show (if n = 0 then [] else _) = _
    rw [if_neg (by omega)]
    simp only [hm, Nat.sub_self]
    rw [hf]
    simp [chunksAux]

theorem State.reach_byte {s : State} {ctx va pa : Nat} (hp : s.place ctx va = .byte pa) (hw : s.mustWait ctx va pa = false) :
    s.reach ctx va = .ok pa := by
  simp [State.reach, hp, hw]

/-- A load in one line takes what its source gives, a line of the L1 or the home (R160, R175). -/
theorem State.readBytes_one {s : State} {a : Asker} {ctx va n : Nat} {src : Source} (h0 : 0 < n) (h : va % 128 + n ≤ 128)
    (hs : s.source a ctx va (sectorMask va n) = .ok src) (hq : s.spoiled n src = false) :
    s.readBytes a ctx va n = .ok (s.given va n src, s.loaded a ctx va (sectorMask va n) src) := by
  simp [State.readBytes, chunks_one va n h0 h, accAll, hs, hq]

/-- Where the L1 has no line for it, a load goes to the home. -/
theorem State.source_home {s : State} {a : Asker} {ctx va pa : Nat} {m : BitVec 4} (hl : s.l1Line a ctx (va / 128) m = none)
    (hp : s.place ctx va = .byte pa) (hw : s.mustWait ctx va pa = false) : s.source a ctx va m = .ok (.home pa) := by
  simp [State.source, hl, State.reach_byte hp hw]

theorem State.writeBytes_one {s : State} {a : Asker} {ctx va pa : Nat} {bs : List Byte} (h0 : 0 < bs.length)
    (h : va % 128 + bs.length ≤ 128) (hp : s.place ctx va = .byte pa) (hw : s.mustWait ctx va pa = false) :
    s.writeBytes a ctx va bs = .ok (s.writeChunk a ctx va pa none bs) := by
  simp [State.writeBytes, State.writeAfter, chunks_one va bs.length h0 h, State.reachAll, accAll, State.reach_byte hp hw,
    State.writeChunks]

/-- A thread that has posted no reduction to the bytes it accesses has none to perform first (R182), and goes on where nothing
is held at its core's issue port (R160). -/
theorem State.ownFirst_none {s : State} {tid : Nat} {t : Thread} {va n : Nat} (hp : s.portHeld (coreOf tid) = false)
    (h : (s.postedBy t.uid).all (fun r => !s.redMeets va n r) = true) : s.ownFirst tid t va n = some s := by
  have e : (s.postedBy t.uid).filter (s.redMeets va n) = [] := by
    rw [List.filter_eq_nil_iff]
    intro r hr
    have := (List.all_eq_true.mp h) r hr
    simpa using this
  simp [State.ownFirst, hp, e, State.performAll]

/-- A thread with nothing posted or in flight is released at once (R182, R216). -/
theorem State.release_quiet {s : State} {uid : Nat} (h : s.postedBy uid = [])
    (he : s.enginesDone uid = true) (hr : s.remoteReds uid = false) : s.release uid = (s, true) := by
  simp [State.release, h, State.performAll, he, hr]

/-- A live thread changed in place. -/
theorem State.onLive_of {s : State} {tid : Nat} {t : Thread} (h : look s.threads tid = some t) (he : t.ended = false)
    (f : Thread → Thread) : s.onLive tid f = s.setThread tid (f t) := by
  simp [State.onLive, h, he]

/-- No flag raised: the completion is the thread as it stands (R79). -/
theorem State.trapAfter_zero {s : State} {tid : Nat} {t : Thread} (h : look s.threads tid = some t) (f : FArg)
    (he : t.ended = false) : s.trapAfter tid 0 f = s.setThread tid t := by
  have hz : (0 : FFlags) &&& t.fpctl.setWidth 6 = 0 := by simp
  simp [State.trapAfter, h, he]

/-- Flags raised that are not enabled: they are ORed in and nothing else happens (R35, R79). -/
theorem State.trapAfter_quiet {s : State} {tid : Nat} {t : Thread} {fl : FFlags} (h : look s.threads tid = some t) (f : FArg)
    (he : t.ended = false) (hz : fl &&& t.fpctl.setWidth 6 = 0) : s.trapAfter tid fl f = s.setThread tid (t.orFlags fl) := by
  simp [State.trapAfter, h, he, hz]

/-- A scalar instruction's value written (R86). -/
theorem State.finish_of {s : State} {tid : Nat} {t : Thread} (h : look s.threads tid = some t) (he : t.ended = false)
    (d : BitVec 6) (v : Word) : s.finish tid d v = s.setThread tid ((t.setS d v).step4) :=
  State.onLive_of h he _

/-- A lane instruction that raises no flag completes (R94). -/
theorem laneDone_plain {s : State} {tid : Nat} {t0 t : Thread} {g : Nat} (he : t.ended = false) :
    laneDone s tid t0 t g [] = .next (s.setThread tid (t.advance g s.cur.len)) := by
  have h : look (s.setThread tid (t.advance g s.cur.len)).threads tid = some (t.advance g s.cur.len) := look_setThread _ _ _
  have e : (t.advance g s.cur.len).ended = false := he
  simp only [laneDone, orAll, List.foldl_nil]
  rw [State.trapAfter_zero h _ e, setThread_setThread]

/-- A lane instruction on the machine its accesses left completes with no flag (R94). -/
theorem laneDoneOn_plain {s : State} {tid : Nat} {t0 t : Thread} {g : Nat} (h : look s.threads tid = some t)
    (f : Thread → Thread) (he : t.ended = false) (hf : (f t).ended = false) :
    laneDoneOn s tid t0 g [] f = .next (s.setThread tid ((f t).advance g s.cur.len)) := by
  have e : ((f t).advance g s.cur.len).ended = false := hf
  simp only [laneDoneOn, orAll, List.foldl_nil, State.onLive_of h he]
  rw [State.trapAfter_zero (look_setThread _ _ _) _ e, setThread_setThread]

/-- A lane instruction of a gang that may issue, with every register it names held (R32, R94). -/
theorem onGang_of {s : State} {t : Thread} {g : Nat} {op fn : BitVec 8} {o : LaneOps} (h : issuer s = some t)
    (hp : s.cur.party = .gang g) (hg : (t.gangSlices g).isEmpty = false) (hn : namesBeyond op fn o t = false)
    (k : Nat → Thread → Nat → List Nat → Out) : onGang s op fn o k = k s.cur.tid t g (t.activeLanes g o) := by
  simp [onGang, onGangFirst, h, hp, hg, hn]

@[simp] theorem Thread.writeTy_ended (t : Thread) (ty : BitVec 4) (c : BitVec 8) (r : List (Nat × Nat)) :
    (t.writeTy ty c r).ended = t.ended := by
  unfold Thread.writeTy Thread.writeLanes
  dsimp only
  split
  · split <;> rfl
  · rfl

@[simp] theorem Thread.writeN32_ended (t : Thread) (c : BitVec 8) (r : List (Nat × Nat)) :
    (t.writeN32 c r).ended = t.ended := by
  unfold Thread.writeN32 Thread.writeLanes
  dsimp only
  split
  · split <;> rfl
  · rfl

@[simp] theorem Thread.writePred_ended (t : Thread) (c : BitVec 8) (r : List (Nat × Bool)) :
    (t.writePred c r).ended = t.ended := by
  unfold Thread.writePred
  split <;> rfl

/-! Memory as an access leaves it. -/

theorem State.writeChunk_mem (s : State) (a : Asker) (ctx va pa : Nat) (b : Option (Nat × Nat)) (bs : List Byte) :
    (s.writeChunk a ctx va pa b bs).mem = Mem.writeBytes s.mem pa bs := by
  simp [State.writeChunk, State.unpoison]

theorem State.writeChunk_threads (s : State) (a : Asker) (ctx va pa : Nat) (b : Option (Nat × Nat)) (bs : List Byte) :
    (s.writeChunk a ctx va pa b bs).threads = s.threads := by
  simp [State.writeChunk, State.unpoison]

end Sys2Proof.Machine
end

