-- ==== Sys2Proof/Safety.lean ====
section
/-! DEFINITION. Sys2Proof/Safety.lean: what counts as a safe state and a safe step, and the words the statements use for an
instruction that completes, in the terms of the model. -/

namespace Sys2Proof.Machine

/-- Memory is in its canonical form: addresses strictly rising, no byte listed that an unlisted one reads as. -/
def State.canonical (s : State) : Prop := Mem.wf s.mem = true

/-- A step that goes on. -/
def stepsTo (s t : State) : Prop := step s = .next t

/-- The byte of memory at a physical key, as the model reads it. -/
def State.byteAt (s : State) (pa : Nat) : Byte := Mem.read s.mem pa

/-- The thread `t` issues a scalar instruction: it is the live thread that `cur` names. -/
def Issues (s : State) (t : Thread) : Prop := issuer s = some t

/-- Instruction `i` completes with the issuing thread replaced and nothing else changed. -/
def Becomes (s : State) (i : Instr) (t : Thread) : Prop := exec i s = .next (s.setThread s.cur.tid t)

/-- Instruction `i` completes on a machine that its accesses have left as `u`, with the issuing thread replaced. -/
def BecomesOn (s u : State) (i : Instr) (t : Thread) : Prop := exec i s = .next (u.setThread s.cur.tid t)

/-- Scalar instruction `i` writes `v` to register d, moves the PC past its word, and changes nothing else (R30, R86). -/
def GivesS (s : State) (t : Thread) (i : Instr) (d : BitVec 6) (v : Word) : Prop := Becomes s i ((t.setS d v).step4)

/-- Scalar instruction `i` continues at an address and changes nothing else. -/
def JumpsTo (s : State) (t : Thread) (i : Instr) (pc : Word) : Prop := Becomes s i { t with pc, wait := none }

/-- Scalar instruction `i` takes a fault (R385, R386), and has no other effect. -/
def Faults (s : State) (t : Thread) (i : Instr) (code : Nat) (addr info : Word) : Prop :=
  exec i s = .next (s.fault s.cur.tid (scalarF t code addr info))

/-- A gang of the thread `t` issues a lane instruction of opcode and function, every register and tile it names held. -/
structure GangIssues (s : State) (t : Thread) (g : Nat) (op fn : BitVec 8) (o : LaneOps) : Prop where
  issues : issuer s = some t
  party  : s.cur.party = .gang g
  slices : (t.gangSlices g).isEmpty = false
  held   : namesBeyond op fn o t = false

/-- Lane instruction `i` completes with the thread as given, its gang past the stored bytes, and nothing else changed. -/
def GangBecomes (s : State) (i : Instr) (g : Nat) (t : Thread) : Prop := Becomes s i (t.advance g s.cur.len)

/-- Lane instruction `i` writes f L to D of every active lane L at type TY, and changes nothing else (R94, R45). -/
def GivesLanes (s : State) (t : Thread) (g : Nat) (i : Instr) (o : LaneOps) (f : Nat → Nat) : Prop :=
  GangBecomes s i g (t.writeTy o.ty o.d ((t.activeLanes g o).map (fun l => (l, f l))))

/-- Lane instruction `i` writes bit L of predicate D for every active lane L, and changes nothing else (R94, R31). -/
def GivesPred (s : State) (t : Thread) (g : Nat) (i : Instr) (o : LaneOps) (f : Nat → Bool) : Prop :=
  GangBecomes s i g (t.writePred o.d ((t.activeLanes g o).map (fun l => (l, f l))))

/-- A memory access of the thread to n bytes at va has nothing before it: the thread's store buffer has room (R205), nothing is
held at its core's issue port (R160), and the thread has posted no reduction to those bytes (R182). -/
structure Unblocked (s : State) (t : Thread) (va : Word) (n : Nat) : Prop where
  port  : s.portHeld (coreOf s.cur.tid) = false
  room  : t.redBuf.length < Config.storeBuffer
  first : (s.postedBy t.uid).all (fun r => !s.redMeets va.toNat n r) = true

/-- An access of n bytes at va leads to byte pa of memory now: the page is mapped there, nothing makes the access wait at its
home (R161, R178, R183), and nothing is before it. -/
structure LeadsTo (s : State) (t : Thread) (va : Word) (n pa : Nat) : Prop extends Unblocked s t va n where
  place : s.place t.ctx va.toNat = .byte pa
  goes  : s.mustWait t.ctx va.toNat pa = false

/-- A load of n bytes at va takes them from a source now, a line of its core's L1 or the home (R160), and they are not
poisoned. -/
structure LoadsFrom (s : State) (t : Thread) (va : Word) (n : Nat) (src : Source) : Prop extends Unblocked s t va n where
  source : s.source (.core (coreOf s.cur.tid)) t.ctx va.toNat (sectorMask va.toNat n) = .ok src
  sound  : s.spoiled n src = false

/-- A memory instruction of the thread can leave its core: the store buffer has room (R205), nothing is held at the issue port
(R160), and no port is held for a rebase (R178). -/
structure PortFree (s : State) (t : Thread) : Prop where
  room  : t.redBuf.length < Config.storeBuffer
  port  : s.portHeld (coreOf s.cur.tid) = false
  ports : s.ptsFull = false

/-- Lane instruction `i` completes with the thread as given on a machine that its accesses have left as `u`. -/
def GangBecomesOn (s u : State) (i : Instr) (g : Nat) (t : Thread) : Prop := BecomesOn s u i (t.advance g s.cur.len)

/-- Lane instruction `i` completes with its results in `t'` and the flags its lanes raised ORed in; an enabled flag then
faults with FP_TRAP, the results and flags standing (R35, R79). -/
def GangRaises (s : State) (t : Thread) (g : Nat) (i : Instr) (t' : Thread) (fls : List (Nat × FFlags)) : Prop :=
  let fl := orAll fls
  let en := fl &&& t.fpctl.setWidth 6
  let u := s.setThread s.cur.tid ((t'.advance g s.cur.len).orFlags fl)
  (en = 0 → exec i s = .next u)
  ∧ (en ≠ 0 → exec i s
      = .next (u.fault s.cur.tid { gangF t g 0x15 (trapLane t fls) 0 0 with info := en.setWidth 64 }))

/-- Lane instruction `i` takes a fault (R385, R386) in a lane, and has no other effect. -/
def GangFaults (s : State) (t : Thread) (g : Nat) (i : Instr) (code lane : Nat) (addr info : Word) : Prop :=
  exec i s = .next (s.fault s.cur.tid (gangF t g code lane addr info))

/-- The lanes' accesses of n bytes of one kind begin now (R201): each passes its check and names a byte of memory, those of one
line side by side there, with nothing before it, and the turn performs as many line requests as there are. -/
structure LanesBegin (s : State) (t : Thread) (g : Nat) (ls : List Nat) (n : Nat) (k : Kind) (va : Nat → Word) (pa : Nat → Nat) :
    Prop where
  check : ∀ l ∈ ls, s.check t (va l) n k true = none
  free  : ∀ l ∈ ls, Unblocked s t (va l) n
  place : ∀ l ∈ ls, s.place t.ctx (va l).toNat = .byte (pa l)
  alike : ∀ l ∈ ls, ∀ i ∈ ls, (va l).toNat / 128 = (va i).toNat / 128 →
    pa l + (va i).toNat % 128 = pa i + (va l).toNat % 128
  room  : t.redBuf.length < Config.storeBuffer
  fresh : t.sentBefore (.gang g) = (0, [])
  whole : s.cur.lines = none

/-- The line requests of the lanes' accesses by `f`, each one access of its own, performed in turn, leave the machine as `u` with
what they returned by lane (R201, R203). -/
def LanesDo (s u : State) (f : State → List LaneAt → LineOut) (ls : List Nat) (va : Nat → Word)
    (got : List (Nat × Nat × FFlags)) : Prop :=
  ∃ m, runLines f none s (lineRequests (ls.map (fun l => (l, va l)))) = (u, m, got, none)

/-- The lanes' accesses fall in one line, and nothing makes an access to it wait at its home (R161, R178, R183). -/
structure LanesMeet (s : State) (t : Thread) (ls : List Nat) (va : Nat → Word) (pa : Nat → Nat) (line : Nat) : Prop where
  line : ∀ l ∈ ls, (va l).toNat / 128 = line
  goes : ∀ l ∈ ls, s.mustWait t.ctx (va l).toNat (pa l) = false

/-- What the line requests of the lanes returned, by lane. -/
def byLane (got : List (Nat × Nat × FFlags)) : List (Nat × Nat × FFlags) := sortBy (fun a b => decide (a.1 ≤ b.1)) got

/-- A matrix instruction of a gang that the engine can take now (R125, R135): an active lane, fewer than eight operations
of the thread in flight, in a cohort. -/
structure MatrixIssues (s : State) (t : Thread) (g : Nat) (fn : BitVec 8) (o : LaneOps) (c : Cohort) : Prop where
  gang   : GangIssues s t g 0x80 fn o
  active : t.activeLanes g o ≠ []
  room   : (s.mxPending s.cur.tid t.uid).length < 8
  cohort : look s.cohorts t.cohort = some c

/-- Matrix instruction `i` is accepted, on a machine that its accesses have left as `u`, behind the operations of its core
(R135) as an operation of a kind with its records, owned lines and times (R136), `lines` the slices of the lines it stores;
the gang goes on and nothing else changes. -/
def AcceptsOn (s u : State) (t : Thread) (g : Nat) (i : Instr) (o : LaneOps) (recs owned lines : List Nat) (kind : MxKind)
    (t' : Thread) : Prop :=
  let n := coreOf s.cur.tid
  let c := u.coreAt n
  let op : MxOp := { age := u.nextAge, party := .gang g, time := u.mxTime n t.ctx t.slices recs kind lines, uid := t.uid,
                     tid := s.cur.tid, cohort := t.cohort, ctx := t.ctx, slices := t.slices, lanes := t.activeLanes g o,
                     ranges := t.ranges, recs, owned, kind, owed := false }
  GangBecomesOn s { u.setCore n { c with mx := c.mx ++ [op] } with nextAge := u.nextAge + 1 } i g t'

/-- Matrix instruction `i`, which touches no line of global memory, is accepted so. -/
def Accepts (s : State) (t : Thread) (g : Nat) (i : Instr) (o : LaneOps) (recs owned : List Nat) (kind : MxKind)
    (t' : Thread) : Prop :=
  AcceptsOn s s t g i o recs owned [] kind t'

/-- A release of the issuing thread has nothing to wait for (R182, R216): nothing is posted or in flight. -/
structure Quiet (s : State) (t : Thread) : Prop where
  posted  : s.postedBy t.uid = []
  engines : s.enginesDone t.uid = true
  remote  : s.remoteReds t.uid = false

/-- A queue address that names a bound queue of this package which admits the thread (R208, R211, R221). -/
structure Names (s : State) (t : Thread) (a : Word) (r : QRef) (q : Queue) : Prop where
  here   : s.remoteHandle t a = none
  ref    : s.queueRef t a 64 = .inr r
  bound  : s.queueAt r = some q
  admits : s.queuePriv s.cur.tid t r = false

/-- A queue's home takes an operation that pushes or pops n elements now: nothing is held at the core's issue port (R160), and
every line it needs can be accessed (R161, R178, R183, R215). -/
structure Takes (s : State) (r : QRef) (push : Bool) (n : Nat) : Prop where
  port : s.portHeld (coreOf s.cur.tid) = false
  free : s.queueBusy r push n = false

/-- The move of an agenda that names a party, with so many line requests of a memory instruction at most (log 3). -/
def Ready.move (r : Ready) (lines : Option Nat) : Move :=
  match r.gang, lines with
  | none, _ => .scalar r.tid
  | some g, none => .lane r.tid g
  | some g, some n => .lines r.tid g n

/-- The turn of a step comes to a party, whose unit's rotation (R255, R300) leaves the machine as `u`: the agenda names the
party, or it is the machine's own choice of an odd clk (log 3). -/
def ComesTo (s u : State) (r : Ready) (lines : Option Nat) : Prop :=
  ∃ v : State, u = v.issued r
    ∧ ((∃ (rest : List Move) (t : Thread), s.agenda = r.move lines :: rest
          ∧ look s.threads r.tid = some t ∧ t.ended = false
          ∧ ({ s with agenda := rest } : State).issueOn (coreOf r.tid) r.gang.isSome = some (r, v))
      ∨ (lines = none ∧ s.agenda = [] ∧ s.later = [] ∧ s.clk % 2 = 1
          ∧ s.issueAny (s.clk / 2 % 2 == 1) s.coreOrder = some (r, v)))

/-- The event's meaning leaves the machine as it is. -/
def Skips (s : State) (i : Instr) : Prop := exec i s = .next s

end Sys2Proof.Machine
end

