-- ==== Sys2Proof/WellFormed.lean ====
section
/-! DEFINITION. Sys2Proof/WellFormed.lean: which instructions the hardware can hold (R29, R40, R41). The rules themselves
stand in Decode.lean beside the decoder that enforces them. -/

namespace Sys2Proof

/-- An instruction in a stored form is well formed: a scalar word's fields are free, a lane word keeps every rule of
expansion (R29). -/
def wellFormed (form : LaneForm) (i : Instr) : Bool :=
  match laneCode i with
  | some (op, fn, o) => (expandError form op fn o).isNone
  | none => true

end Sys2Proof
end

