-- ==== Sys2Proof/Certificates/Slice0/Obligations.lean ====
section
/-! DEFINITION. Sys2Proof/Certificates/Slice0/Obligations.lean: the statements of this model for the provers, from the
numbered rules of the spec. -/

open Sys2Proof
open Sys2Proof.Machine

/-! Encoding. -/

/-- A few words written out from the encodings of the spec (R21, R24, R37, R38, R91, R92) decode to what they stand for. -/
def Obligations.WordsDecode : Prop :=
  decodeScalar 0x28000010#32 = some (.call 0x10)
  ∧ decodeScalar 0x2C0BC000#32 = some (.jrJr 47)
  ∧ decodeScalar 0xA4500000#32 = some (.timeRdtime 5)
  ∧ decodeScalar 0x00000014#32 = some (.intClz 0 0)
  ∧ decodeScalar 0x00000114#32 = none
  ∧ decodeLane [0x00, 0x01, 0x02, 0x03] = .ok (.viAdd { LaneOps.zero with d := 1, a := 2, b := 3, c := 1 }, .short)
  ∧ decodeLane [0x61, 0, 0, 0] = .error .shortIndex

/-- Every scalar word has one meaning, and every scalar instruction one word (R21, R37, R40): decoding what is encoded
gives it back, and encoding what is decoded gives the word back. -/
def Obligations.ScalarRoundTrip : Prop :=
  (∀ (i : Instr) (w : BitVec 32), encodeScalar i = some w → decodeScalar w = some i)
  ∧ (∀ (i : Instr) (w : BitVec 32), decodeScalar w = some i → encodeScalar i = some w)

/-- Every well-formed lane instruction, in every stored form that can hold it, is read back whole from its stored bytes,
whatever bytes follow (R24-R29, R41). -/
def Obligations.LaneRoundTrip : Prop :=
  ∀ (form : LaneForm) (i : Instr), (laneCode i).isSome = true → wellFormed form i = true →
    ∃ bs : List Byte, encodeLane form i = some bs ∧ bs.length = form.bytes
      ∧ ∀ more : List Byte, decodeLane (bs ++ more) = .ok (i, form)

/-! Memory and reset. -/

/-- After the bytes bs are written at a, memory reads bs there and what it held elsewhere; a number is stored little-endian,
n bytes written and read giving it modulo 256^n (R2). -/
def Obligations.MemoryReadsBack : Prop :=
  (∀ (m : List Host.Cell) (a : Nat) (bs : List Byte),
    Mem.readBytes (Mem.writeBytes m a bs) a bs.length = bs
    ∧ ∀ j : Nat, (j < a ∨ a + bs.length ≤ j) → Mem.read (Mem.writeBytes m a bs) j = Mem.read m j)
  ∧ (∀ (m : List Host.Cell) (a n v : Nat), Mem.readN (Mem.writeN m a n v) a n = v % 256 ^ n)

/-- The machine after boot (R419, R373): memory lists nothing and so every byte reads 0, no thread, cohort, window, task
or bound queue stands, no context, and partition 0 holds every quad and channels 0 to 511.
That a host byte reads 0 is the model's choice (log 6). -/
def Obligations.ResetState : Prop :=
  State.reset.canonical
  ∧ (∀ pa : Nat, State.reset.byteAt pa = 0)
  ∧ State.reset.poison = [] ∧ State.reset.l2 = [] ∧ State.reset.tlbs = []
  ∧ State.reset.threads = [] ∧ State.reset.cohorts = [] ∧ State.reset.windows = [] ∧ State.reset.tasks = []
  ∧ State.reset.queues = [] ∧ State.reset.ctxs = [] ∧ State.reset.saved = []
  ∧ (∀ k : Nat, (State.reset.taskAt k).st = .free ∧ (State.reset.taskAt k).gen = 0)
  ∧ (∀ c : Nat, State.reset.chanAt c = Channel.fresh)
  ∧ (State.reset.partAt 0).quads = BitVec.allOnes 96 ∧ (State.reset.partAt 0).chbase = 0
  ∧ (State.reset.partAt 0).chlog = 9

/-- Memory stays in its canonical form at every step of the machine, whatever acts: an instruction, an engine, the host. -/
def Obligations.MemoryStaysCanonical : Prop :=
  ∀ s t : State, s.canonical → stepsTo s t → t.canonical

/-! A step runs the decoded instruction. -/

/-- When the turn comes to a thread's scalar sequencer, the thread may go on, and the word fetched at its PC decodes to i,
the step is i on the machine the fetch left, with the clocks one clk later.
The agenda and the clk of a step are the model's (log 3, log 4). -/
def Obligations.StepRunsScalar : Prop :=
  ∀ (s u s1 : State) (r : Ready) (t : Thread) (w : BitVec 32) (i : Instr),
    ComesTo s u r none → r.gang = none → look u.threads r.tid = some t → t.ended = false →
    u.mayGoOn r.tid t.ctx t.wait = true → reissues t.wait = true →
    u.fetchScalar r.tid t = .ok (w, s1) → decodeScalar w = some i →
    step s = (match exec i { s1 with cur := { tid := r.tid, party := .scalar, len := 4 } } with
      | .next u => .next (u.advance 1)
      | .fault f => .fault f
      | .refused r => .refused r)

/-- When the turn comes to a gang that may issue, and the bytes fetched at its lane PC decode to i in some stored form,
the step is i on the machine the fetch left, with the clocks one clk later; where the agenda says so, a memory instruction
performs at most so many of its line requests (R201).
The agenda, the turn of a party and the clk of a step are the model's choices (log 3, log 4). -/
def Obligations.StepRunsLane : Prop :=
  ∀ (s u s1 : State) (r : Ready) (g : Nat) (lines : Option Nat) (t : Thread) (bs : List Byte) (i : Instr) (f : LaneForm),
    ComesTo s u r lines → r.gang = some g → look u.threads r.tid = some t → t.ended = false →
    u.mayGoOn r.tid t.ctx (t.gangWaits g) = true → t.gangReady g = true → u.gated = false →
    u.fetchLane r.tid t (t.gangPc g) = .ok (bs, s1) → decodeLane bs = .ok (i, f) →
    step s = (match exec i { s1 with cur := { tid := r.tid, party := .gang g, len := f.bytes, lines } } with
      | .next u => .next (u.advance 1)
      | .fault x => .fault x
      | .refused r => .refused r)

/-! Scalar arithmetic and control flow. -/

/-- Every INT and immediate instruction, constant and immediate shift writes the value of R87, R89 or R22 to d, moves the PC
past its word and changes nothing else: no other register, no flag, no memory. -/
def Obligations.ScalarArithmetic : Prop :=
  (∀ (s : State) (t : Thread), Issues s t → ∀ d a b : BitVec 6,
    let A : Word := t.S a
    let B : Word := t.S b
    let gives : Instr → Word → Prop := fun i v => GivesS s t i d v
    gives (.intAdd d a b) (wordI (A.toInt + B.toInt))
    ∧ gives (.intSub d a b) (wordI (A.toInt - B.toInt))
    ∧ gives (.intMul d a b) (wordI (A.toInt * B.toInt))
    ∧ gives (.intMulh d a b) (wordI (A.toInt * B.toInt / 2 ^ 64))
    ∧ gives (.intMulhn d a b) (word (A.toNat * B.toNat / 2 ^ 64))
    ∧ gives (.intDiv d a b) (if B = 0 then BitVec.allOnes 64 else wordI (A.toInt.tdiv B.toInt))
    ∧ gives (.intDivn d a b) (if B = 0 then BitVec.allOnes 64 else word (A.toNat / B.toNat))
    ∧ gives (.intRem d a b) (if B = 0 then A else wordI (A.toInt.tmod B.toInt))
    ∧ gives (.intRemn d a b) (if B = 0 then A else word (A.toNat % B.toNat))
    ∧ gives (.intAnd d a b) (A &&& B)
    ∧ gives (.intOr d a b) (A ||| B)
    ∧ gives (.intXor d a b) (A ^^^ B)
    ∧ gives (.intAndn d a b) (A &&& ~~~B)
    ∧ gives (.intShl d a b) (if B.toNat < 64 then word (A.toNat * 2 ^ B.toNat) else 0)
    ∧ gives (.intShr d a b) (if B.toNat < 64 then word (A.toNat / 2 ^ B.toNat) else 0)
    ∧ gives (.intSar d a b) (wordI (A.toInt / 2 ^ min B.toNat 63))
    ∧ gives (.intMin d a b) (wordI (min A.toInt B.toInt))
    ∧ gives (.intMax d a b) (wordI (max A.toInt B.toInt))
    ∧ gives (.intMinn d a b) (word (min A.toNat B.toNat))
    ∧ gives (.intMaxn d a b) (word (max A.toNat B.toNat))
    ∧ gives (.intClz d a) (word ((List.range 64).takeWhile (fun i => !A.getMsbD i)).length)
    ∧ gives (.intCtz d a) (word ((List.range 64).takeWhile (fun i => !A.getLsbD i)).length)
    ∧ gives (.intPopc d a) (word ((List.range 64).countP (fun i => A.getLsbD i)))
    ∧ gives (.intEq d a b) (if A = B then 1 else 0)
    ∧ gives (.intNe d a b) (if A = B then 0 else 1)
    ∧ gives (.intLt d a b) (if A.toInt < B.toInt then 1 else 0)
    ∧ gives (.intLtn d a b) (if A.toNat < B.toNat then 1 else 0)
    ∧ gives (.intLe d a b) (if A.toInt ≤ B.toInt then 1 else 0)
    ∧ gives (.intLen d a b) (if A.toNat ≤ B.toNat then 1 else 0)
    ∧ gives (.intSel d a b) (if t.S d = 0 then B else A))
  ∧ (∀ (s : State) (t : Thread), Issues s t → ∀ (d a n : BitVec 6) (i : BitVec 14) (j : BitVec 20),
    let A : Word := t.S a
    let gives : Instr → Word → Prop := fun x v => GivesS s t x d v
    gives (.addi d a i) (wordI (A.toInt + i.toInt))
    ∧ gives (.andi d a i) (A &&& wordI i.toInt)
    ∧ gives (.ori d a i) (A ||| word i.toNat)
    ∧ gives (.xori d a i) (A ^^^ word i.toNat)
    ∧ gives (.shiShl d a n) (word (A.toNat * 2 ^ n.toNat))
    ∧ gives (.shiShr d a n) (word (A.toNat / 2 ^ n.toNat))
    ∧ gives (.shiSar d a n) (wordI (A.toInt / 2 ^ n.toNat))
    ∧ gives (.li d j) (wordI j.toInt)
    ∧ gives (.lih d j) (word ((t.S d).toNat * 2 ^ 20 + j.toNat)))

/-- s0 reads as zero and discards writes, every other scalar register keeps what is written, and a write touches no
other (R30). -/
def Obligations.ScalarRegisters : Prop :=
  ∀ (t : Thread) (d j : BitVec 6) (v : Word),
    t.S 0 = 0 ∧ (t.setS 0 v) = t
    ∧ (d ≠ 0 → (t.setS d v).S d = v)
    ∧ (j ≠ d → (t.setS d v).S j = t.S j)
    ∧ (t.setS d v).pc = t.pc ∧ (t.setS d v).fpflags = t.fpflags ∧ (t.setS d v).v = t.v

/-- Every conditional branch reads x = sext(S(a), 64), continues at its target where its condition holds and at the next word
otherwise (R90). JMP and CALL continue at PC + 4·sext(off, 26), CALL after writing s47; JR continues at S(a), read before
the link is written, and with a misaligned target faults with MISALIGN and leaves s47 (R91, R92). Nothing else changes.
The words of JMP, CALL and JR are those of R91 and R92. -/
def Obligations.ControlFlow : Prop :=
  (∀ (s : State) (t : Thread), Issues s t → ∀ (a : BitVec 6) (o : BitVec 16),
    let x : Int := (t.S a).toInt
    let go : Instr → Prop → Prop := fun i c =>
      (c → JumpsTo s t i (wordI (t.pc.toInt + 4 * o.toInt))) ∧ (¬ c → JumpsTo s t i (t.pc + 4))
    go (.bcEq0 a o) (x = 0) ∧ go (.bcNe0 a o) (x ≠ 0) ∧ go (.bcLt0 a o) (x < 0)
    ∧ go (.bcGe0 a o) (x ≥ 0) ∧ go (.bcLe0 a o) (x ≤ 0) ∧ go (.bcGt0 a o) (x > 0))
  ∧ (∀ (s : State) (t : Thread), Issues s t → ∀ (a : BitVec 6) (o : BitVec 26),
    let target : Word := wordI (t.pc.toInt + 4 * o.toInt)
    JumpsTo s t (.jmp o) target
    ∧ JumpsTo s (t.setS 47 (t.pc + 4)) (.call o) target
    ∧ ((t.S a).toNat % 4 = 0 →
        JumpsTo s t (.jrJr a) (t.S a) ∧ JumpsTo s (t.setS 47 (t.pc + 4)) (.jrJrl a) (t.S a))
    ∧ ((t.S a).toNat % 4 ≠ 0 → Faults s t (.jrJr a) 0x04 (t.S a) 0 ∧ Faults s t (.jrJrl a) 0x04 (t.S a) 0))
  ∧ (∀ (a : BitVec 6) (o : BitVec 26),
    decodeScalar (0x09#6 ++ o) = some (.jmp o) ∧ decodeScalar (0x0A#6 ++ o) = some (.call o)
    ∧ decodeScalar (0x0B#6 ++ 0#6 ++ a ++ 0#6 ++ 0x00#8) = some (.jrJr a)
    ∧ decodeScalar (0x0B#6 ++ 0#6 ++ a ++ 0#6 ++ 0x01#8) = some (.jrJrl a)
    ∧ decodeScalar 0x28000010#32 = some (.call 0x10) ∧ decodeScalar 0x2C0BC000#32 = some (.jrJr 47))

/-! Special registers and time. -/

/-- `sr.get` writes the zero-extended value of each of the registers that R34 lists, and of any other number faults with
ILL_SCALAR; the time reads give TIME, TICK and PTS (R331, R332). `sr.set` writes FPFLAGS, FPCTL, RNGKEY and RNGCTR, ignoring the
bits above their widths, and of any other number faults with ILL_SCALAR (R34, R35). Nothing else changes. -/
def Obligations.SpecialRegisters : Prop :=
  (∀ (s : State) (t : Thread), Issues s t → ∀ d h l : BitVec 6,
    let n := h.toNat * 64 + l.toNat
    let core := s.cur.tid / 32
    let reads : Nat → Word → Prop := fun m v => n = m → GivesS s t (.srGet d h l) d v
    reads 0x000 (word (s.cur.tid % 32)) ∧ reads 0x001 (word t.slices) ∧ reads 0x002 (word t.role.toNat)
    ∧ reads 0x003 (word (t.cohort % 32)) ∧ reads 0x004 (word t.csize) ∧ reads 0x008 (word core) ∧ reads 0x009 (word (core / 4))
    ∧ reads 0x00A (word (core / 96)) ∧ reads 0x00B (word s.pkg.toNat) ∧ reads 0x00C (word (t.ctx / 64))
    ∧ reads 0x00D (word (t.ctx % 64)) ∧ (∀ c, look s.ctxs t.ctx = some c → reads 0x00E (word c.asid.toNat)
      ∧ reads 0x060 (word c.evstep.toNat))
    ∧ reads 0x010 t.winid ∧ reads 0x011 t.stream ∧ reads 0x012 t.task ∧ reads 0x020 (word t.fpflags.toNat)
    ∧ reads 0x021 (word t.fpctl.toNat) ∧ reads 0x028 t.rngkey ∧ reads 0x029 t.rngctr ∧ reads 0x030 (s.ptsRead s.cur.tid)
    ∧ reads 0x031 (word s.time) ∧ reads 0x032 (word (s.clk / 24)) ∧ reads 0x033 (word s.ungated)
    ∧ reads 0x040 (s.coreAt core).poolword ∧ reads 0x041 (word t.vregs) ∧ reads 0x042 (word t.tiles.length)
    ∧ (∀ c, look s.cohorts t.cohort = some c → reads 0x043 (word c.spbase) ∧ reads 0x044 (word c.spsize))
    ∧ reads 0x050 (word t.prio) ∧ reads 0x058 (word t.blocks.length)
    ∧ (n ∉ [0x000, 0x001, 0x002, 0x003, 0x004, 0x008, 0x009, 0x00A, 0x00B, 0x00C, 0x00D, 0x00E, 0x010, 0x011, 0x012, 0x020, 0x021,
          0x028, 0x029, 0x030, 0x031, 0x032, 0x033, 0x040, 0x041, 0x042, 0x043, 0x044, 0x050, 0x058, 0x060] →
        Faults s t (.srGet d h l) 0x01 0 0)
    ∧ GivesS s t (.timeRdtime d) d (word s.time)
    ∧ GivesS s t (.timeRdtick d) d (word s.tick)
    ∧ GivesS s t (.timeRdpts d) d (s.ptsRead s.cur.tid)
    ∧ decodeScalar (0x29#6 ++ d ++ 0#12 ++ 0x00#8) = some (.timeRdtime d)
    ∧ decodeScalar (0x29#6 ++ d ++ 0#12 ++ 0x01#8) = some (.timeRdtick d)
    ∧ decodeScalar (0x29#6 ++ d ++ 0#12 ++ 0x02#8) = some (.timeRdpts d) ∧ decodeScalar 0xA4500000#32 = some (.timeRdtime 5))
  ∧ (∀ (s : State) (t : Thread), Issues s t → ∀ d h l : BitVec 6,
    let n := h.toNat * 64 + l.toNat
    (n = 0x020 → Becomes s (.srSet d h l) { t.step4 with fpflags := BitVec.ofNat 6 (t.S d).toNat })
    ∧ (n = 0x021 → Becomes s (.srSet d h l) { t.step4 with fpctl := BitVec.ofNat 5 (t.S d).toNat })
    ∧ (n = 0x028 → Becomes s (.srSet d h l) { t.step4 with rngkey := t.S d })
    ∧ (n = 0x029 → Becomes s (.srSet d h l) { t.step4 with rngctr := t.S d })
    ∧ (n ≠ 0x020 ∧ n ≠ 0x021 ∧ n ≠ 0x028 ∧ n ≠ 0x029 → Faults s t (.srSet d h l) 0x01 0 0))

/-! Scalar memory accesses. -/

/-- A scalar load whose check passes writes the bytes its source gives, its core's L1 or the home, which are not poisoned, to d,
zero- or sign-extended from its width, little-endian, and changes no memory and no other register; the home gives
memory's bytes; a scalar store writes the low
bytes of S(d) to exactly the bytes its address leads to, every other byte, register and flag as before (R2, R189, R190).
That an access is performed as it issues is the model's reading (log 5). -/
def Obligations.ScalarLoadsStores : Prop :=
  (∀ (s : State) (t : Thread), Issues s t → ∀ (d a : BitVec 6) (o : BitVec 11) (src : Source),
    let at_ : Nat → Word := fun sz => wordI ((t.S a).toInt + o.toInt * 2 ^ sz)
    let loads : Instr → Nat → (Nat → Word) → Prop := fun i sz ext =>
      s.check t (at_ sz) (2 ^ sz) .read true = none → LoadsFrom s t (at_ sz) (2 ^ sz) src →
      ∃ u : State, BecomesOn s u i ((t.setS d (ext (leNat (s.given (at_ sz).toNat (2 ^ sz) src)))).step4)
        ∧ u.mem = s.mem ∧ u.threads = s.threads ∧ u.cohorts = s.cohorts ∧ u.ctxs = s.ctxs ∧ u.queues = s.queues
        ∧ ∀ pa, src = .home pa → leNat (s.given (at_ sz).toNat (2 ^ sz) src) = Mem.readN s.mem pa (2 ^ sz)
    loads (.ldN8 d a o) 0 word ∧ loads (.ldN16 d a o) 1 word ∧ loads (.ldN32 d a o) 2 word ∧ loads (.ldN64 d a o) 3 word
    ∧ loads (.ldI8 d a o) 0 (fun x => (BitVec.ofNat 8 x).signExtend 64)
    ∧ loads (.ldI16 d a o) 1 (fun x => (BitVec.ofNat 16 x).signExtend 64)
    ∧ loads (.ldI32 d a o) 2 (fun x => (BitVec.ofNat 32 x).signExtend 64))
  ∧ (∀ (s : State) (t : Thread), Issues s t → ∀ (d a : BitVec 6) (o : BitVec 11) (pa : Nat),
    let at_ : Nat → Word := fun sz => wordI ((t.S a).toInt + o.toInt * 2 ^ sz)
    let stores : Instr → Nat → Prop := fun i sz =>
      s.check t (at_ sz) (2 ^ sz) .write true = none → LeadsTo s t (at_ sz) (2 ^ sz) pa →
      ∃ u : State, BecomesOn s u i t.dirty.step4 ∧ u.threads = s.threads ∧ u.cohorts = s.cohorts ∧ u.ctxs = s.ctxs
        ∧ Mem.readN u.mem pa (2 ^ sz) = (t.S d).toNat % 2 ^ (8 * 2 ^ sz)
        ∧ ∀ j : Nat, (j < pa ∨ pa + 2 ^ sz ≤ j) → u.byteAt j = s.byteAt j
    stores (.stN8 d a o) 0 ∧ stores (.stN16 d a o) 1 ∧ stores (.stN32 d a o) 2 ∧ stores (.stN64 d a o) 3)

/-- A scalar load or store that fails its check takes that fault and changes no register and no memory beside what the
fault itself does; a misaligned address is MISALIGN, an address with a bit of 63:57 set is RANGE before it, bytes in no
declared range that allows the access are RANGE (R42, R45, R155, R190). -/
def Obligations.ScalarAccessFaults : Prop :=
  ∀ (s : State) (t : Thread), Issues s t → ∀ (d a : BitVec 6) (o : BitVec 11) (f : Nat),
    let at_ : Nat → Word := fun sz => wordI ((t.S a).toInt + o.toInt * 2 ^ sz)
    let fails : Instr → Nat → Kind → Prop := fun i sz k =>
      s.check t (at_ sz) (2 ^ sz) k true = some f → Faults s t i f (at_ sz) 0
    fails (.ldN8 d a o) 0 .read ∧ fails (.ldI8 d a o) 0 .read ∧ fails (.ldN16 d a o) 1 .read ∧ fails (.ldI16 d a o) 1 .read
    ∧ fails (.ldN32 d a o) 2 .read ∧ fails (.ldI32 d a o) 2 .read ∧ fails (.ldN64 d a o) 3 .read
    ∧ fails (.stN8 d a o) 0 .write ∧ fails (.stN16 d a o) 1 .write ∧ fails (.stN32 d a o) 2 .write
    ∧ fails (.stN64 d a o) 3 .write
    ∧ ∀ (va : Word) (n : Nat) (k : Kind),
        (2 ^ 57 ≤ va.toNat → s.check t va n k true = some 0x05)
        ∧ (va.toNat < 2 ^ 57 → va.toNat % n ≠ 0 → s.check t va n k true = some 0x04)
        ∧ (va.toNat < 2 ^ 57 → va.toNat % n = 0 →
            (∀ r ∈ t.ranges, ¬ (r.allows k = true ∧ r.base ≤ va.toNat ∧ va.toNat + n ≤ r.base + r.len)) →
            s.check t va n k true = some 0x05)

/-- A returning atomic whose check passes reads the location, writes the value of R192 to it and the old value to d, in
one access; bytes elsewhere are as before. The compare-and-swap reads its comparand from d before d is written. -/
def Obligations.ScalarAtomics : Prop :=
  ∀ (s : State) (t : Thread), Issues s t → ∀ (d a b : BitVec 6) (pa : Nat),
    s.check t (t.S a) 8 .atomic true = none → LeadsTo s t (t.S a) 8 pa → s.poisoned pa 8 = false →
    let M : Word := word (Mem.readN s.mem pa 8)
    let B : Word := t.S b
    let atom : Instr → Word → Prop := fun i v =>
      ∃ u : State, BecomesOn s u i ((t.setS d M).dirty.step4) ∧ u.threads = s.threads ∧ u.cohorts = s.cohorts
        ∧ Mem.readN u.mem pa 8 = v.toNat ∧ ∀ j : Nat, (j < pa ∨ pa + 8 ≤ j) → u.byteAt j = s.byteAt j
    atom (.atomAdd d a b) (M + B) ∧ atom (.atomAnd d a b) (M &&& B) ∧ atom (.atomOr d a b) (M ||| B)
    ∧ atom (.atomXor d a b) (M ^^^ B) ∧ atom (.atomMin d a b) (wordI (min M.toInt B.toInt))
    ∧ atom (.atomMax d a b) (wordI (max M.toInt B.toInt)) ∧ atom (.atomMinn d a b) (word (min M.toNat B.toNat))
    ∧ atom (.atomMaxn d a b) (word (max M.toNat B.toNat)) ∧ atom (.atomSwap d a b) B
    ∧ atom (.atomCas d a b) (if M = t.S d then B else M)

/-- The floating-point and fixed-point atomics (R84, R85, R192): the location takes the rounded sum, or the 128-bit sum, d
takes the old value, the old integer part, or the rounded accumulator; the flags raised are ORed into FPFLAGS where none
is enabled to trap. -/
def Obligations.FloatAtomics : Prop :=
  ∀ (s : State) (t : Thread), Issues s t → ∀ (d a b : BitVec 6) (pa : Nat),
    let atom : Instr → Nat → Word → Nat → FFlags → Prop := fun i n give new fl =>
      s.check t (t.S a) n .atomic true = none → LeadsTo s t (t.S a) n pa → s.poisoned pa n = false →
      fl &&& t.fpctl.setWidth 6 = 0 →
      ∃ u : State, BecomesOn s u i (((t.dirty.setS d give).step4).orFlags fl) ∧ u.threads = s.threads
        ∧ Mem.readN u.mem pa n = new % 2 ^ (8 * n) ∧ ∀ j : Nat, (j < pa ∨ pa + n ≤ j) → u.byteAt j = s.byteAt j
    let x := (t.S b).toNat
    let old : Nat → Nat := Mem.readN s.mem pa
    let c := fxConvert (Fmt.f64.value x)
    atom (.atomFadd32 d a b) 4 (word (old 4)) (addF .f32 (old 4) (x % 2 ^ 32)).1 (addF .f32 (old 4) (x % 2 ^ 32)).2
    ∧ atom (.atomFadd64 d a b) 8 (word (old 8)) (addF .f64 (old 8) x).1 (addF .f64 (old 8) x).2
    ∧ atom (.atomFxadd d a b) 16 (word (old 16 / 2 ^ 64)) ((old 16 + wrap c.1 128) % 2 ^ 128) c.2
    ∧ (b.toNat ≤ 1 → s.check t (t.S a) 16 .read true = none → LeadsTo s t (t.S a) 16 pa → s.poisoned pa 16 = false →
        let rd := fxRead (if b = 0 then .f64 else .f32) (old 16)
        rd.2 &&& t.fpctl.setWidth 6 = 0 → ∃ u : State, u.mem = s.mem ∧ u.threads = s.threads
          ∧ BecomesOn s u (.atomFxread d a b) (((t.setS d (word rd.1)).step4).orFlags rd.2))

/-- A non-returning reduction whose check passes is posted: it joins the thread's store buffer with its operation, address,
size and operand and the thread and PC that issued it, the PC moves on, and no memory and no register changes (R181, R193).
Performed at its home, where no control block stands, each of the eleven changes its location to M op x in one access, and no
other byte.
What performs when is the model's reading (log 12). -/
def Obligations.ScalarReductions : Prop :=
  (∀ (s : State) (t : Thread), Issues s t → t.redBuf.length < 32 → ∀ a b : BitVec 6,
    let posts : Instr → Nat → Nat → Nat → FFlags → Prop := fun i op n x fl =>
      s.check t (t.S a) n .atomic true = none → fl &&& t.fpctl.setWidth 6 = 0 →
      let r : Red := { uid := t.uid, core := coreOf s.cur.tid, slot := s.cur.tid % 32, lane := 0xFF, party := .scalar, pc := t.pc,
                       task := t.task, winid := t.winid, ctx := t.ctx, addr := (t.S a).toNat, op := op, bytes := n,
                       value := BitVec.ofNat 128 x, owed := false }
      Becomes s i (({ t.dirty.step4 with redBuf := t.redBuf ++ [r] } : Thread).orFlags fl)
    let B := (t.S b).toNat
    let c := fxConvert (Fmt.f64.value B)
    posts (.redAdd a b) 0 8 B 0 ∧ posts (.redAnd a b) 1 8 B 0 ∧ posts (.redOr a b) 2 8 B 0 ∧ posts (.redXor a b) 3 8 B 0
    ∧ posts (.redMin a b) 4 8 B 0 ∧ posts (.redMax a b) 5 8 B 0 ∧ posts (.redMinn a b) 6 8 B 0 ∧ posts (.redMaxn a b) 7 8 B 0
    ∧ posts (.redFadd32 a b) 10 4 (B % 2 ^ 32) 0 ∧ posts (.redFadd64 a b) 10 8 B 0
    ∧ posts (.redFxadd a b) 12 16 (wrap c.1 128) c.2)
  ∧ (∀ (s : State) (r : Red) (pa : Nat), s.place r.ctx r.addr = .byte pa → s.mustWait r.ctx r.addr pa = false →
    s.hitsQcb pa r.bytes = false → s.poisoned pa r.bytes = false → 0 < r.bytes →
    let M := Mem.readN s.mem pa r.bytes
    let w := 8 * r.bytes
    let x := r.value.toNat
    x < 2 ^ w → ∃ u : State, s.performRed r = some u ∧ u.threads = s.threads
      ∧ (∀ j : Nat, (j < pa ∨ pa + r.bytes ≤ j) → u.byteAt j = s.byteAt j)
      ∧ (let new := Mem.readN u.mem pa r.bytes
         (r.op = 0 ∨ r.op = 12 → new = (M + x) % 2 ^ w)
         ∧ (r.op = 1 → new = Nat.land M x) ∧ (r.op = 2 → new = Nat.lor M x) ∧ (r.op = 3 → new = Nat.xor M x)
         ∧ (r.op = 4 → new = if sext x w < sext M w then x else M) ∧ (r.op = 5 → new = if sext M w < sext x w then x else M)
         ∧ (r.op = 6 → new = min M x) ∧ (r.op = 7 → new = max M x)
         ∧ (r.op = 10 → new = (addF (if w = 32 then .f32 else .f64) M x).1 % 2 ^ w)))

/-! Fences, caches, configuration. -/

/-- A fence whose scope covers nothing still posted or in flight completes at once, and one of scope 0 always; otherwise it
performs the covered reductions first (R180, R194). A prefetch is a hint: outside the declared ranges it only moves the PC
on; inside them it joins its slice's queue where that has room, and it changes no byte of memory (R196). `cache.evict`
drops the line from its slice, memory keeping its bytes (R197); `cache.evstep` advances EVSTEP by S(a) modulo 2^32 and
returns it (R198); `conf.evset` sets a region's schedule word (R166, R199).
That a fence performs the reductions it covers in its own step is the model's reading (log 12). -/
def Obligations.FencesAndCaches : Prop :=
  (∀ (s : State) (t : Thread), Issues s t → ∀ sc : BitVec 6,
    (31 < sc.toNat → Faults s t (.fenceFence sc) 0x01 0 0)
    ∧ (sc.toNat ≤ 31 → Quiet s t → Becomes s (.fenceFence sc) t.step4)
    ∧ (sc = 0 → Becomes s (.fenceFence sc) t.step4)
    ∧ (sc = 6 → ∀ u : State,
        let mine := (s.postedBy t.uid).filter (fun r => r.party == .scalar)
        s.performAll mine = (u, true) → (∀ r ∈ mine, (s.redHome r).isSome = true) →
        u.enginesDone t.uid = true → u.remoteReds t.uid = false →
        exec (.fenceFence sc) s = .next (u.onLive s.cur.tid Thread.step4)))
  ∧ ((∀ (s : State) (t : Thread), Issues s t → ∀ a l : BitVec 6,
    PortFree s t → (1 < l.toNat → Faults s t (.cachePref a l) 0x01 0 0)
    ∧ (l.toNat ≤ 1 → inRanges t.ranges (t.S a).toNat 1 .read = false → Becomes s (.cachePref a l) t.step4)
    ∧ (l.toNat ≤ 1 → inRanges t.ranges (t.S a).toNat 1 .read = true → t.sentBefore .scalar = (0, []) → ∀ pa : Nat,
        let va := (t.S a).toNat / 128 * 128
        s.place t.ctx va = .byte pa → s.poisoned (pa / 128 * 128) 128 = false →
        (s.sliceAt (s.homeOf t.ctx va)).reqs.length < 16 →
        ∃ u : State, BecomesOn s u (.cachePref a l) t.step4 ∧ u.mem = s.mem ∧ u.threads = s.threads
          ∧ ∃ r : MemReq, r.ctx = t.ctx ∧ r.vline = (t.S a).toNat / 128 ∧ r.sectors = sectorMask (t.S a).toNat 1
            ∧ r.l1 = decide (l = 0) ∧ (u.sliceAt (s.homeOf t.ctx va)).reqs = (s.sliceAt (s.homeOf t.ctx va)).reqs ++ [r]))
  ∧ (∀ (s : State) (t : Thread), Issues s t → ∀ d a b : BitVec 6,
    (∀ pa : Nat, let va := t.S a &&& ~~~127#64
      s.check t va 1 .read false = none → s.place t.ctx va.toNat = .byte pa → s.ownedByte pa = false → PortFree s t →
      ∃ u : State, BecomesOn s u (.cacheEvict a) t.step4 ∧ u.mem = s.mem ∧ u.threads = s.threads
        ∧ look u.l2 (pa / 128) = none)
    ∧ (∀ c : Ctx, look s.ctxs t.ctx = some c → PortFree s t →
        let e := c.evstep + (t.S a).setWidth 32
        BecomesOn s (s.setCtx t.ctx { c with evstep := e }) (.cacheEvstep d a) (((t.setS d (e.setWidth 64)).dirty).step4))
    ∧ (∀ c : Ctx, look s.ctxs t.ctx = some c → PortFree s t → (t.S a).toNat < 64 → (t.S b).toNat < 2 ^ 34 →
        BecomesOn s (s.setCtx t.ctx { c with sched := put c.sched (t.S a).toNat (t.S b) }) (.confEvset a b) t.dirty.step4)
    ∧ (t.redBuf.length < 32 → 64 ≤ (t.S a).toNat ∨ 2 ^ 34 ≤ (t.S b).toNat → Faults s t (.confEvset a b) 0x01 0 0)))

/-- `conf.opset` replaces an operator entry above 7 with a legal word, leaves entries 0 to 7 as they are, and faults with
PRIV for those without privilege, with OPSEL for an illegal word; `conf.scset` writes a scope entry above 6 from its 64
bytes, limited to the partition's cores, leaves entries 0 to 6 as they are for a privileged context, and faults with PRIV
for them without privilege; so does `sys.halt` (R39, R117, R179, R333). -/
def Obligations.Configuration : Prop :=
  ∀ (s : State) (t : Thread), Issues s t → ∀ (a b : BitVec 6) (c : Ctx), look s.ctxs t.ctx = some c →
    let w := t.S a
    let e := w.toNat % 16
    (e < 8 → c.priv = false → Faults s t (.confOpset a) 0x14 0 0)
    ∧ ((e < 8 → c.priv = true) → opWordOk w = false → Faults s t (.confOpset a) 0x0E 0 0)
    ∧ (8 ≤ e → opWordOk w = true →
        BecomesOn s (s.setCtx t.ctx { c with optab := put c.optab e w }) (.confOpset a) t.dirty.step4)
    ∧ (e < 8 → c.priv = true → opWordOk w = true → Becomes s (.confOpset a) t.dirty.step4)
    ∧ (31 < w.toNat → Faults s t (.confScset a b) 0x01 0 0)
    ∧ (w.toNat < 7 → c.priv = false → Faults s t (.confScset a b) 0x14 0 0)
    ∧ (c.priv = false → Faults s t .sysHalt 0x14 0 0)
    ∧ (c.priv = true → BecomesOn s (s.setCtx t.ctx { c with halted := true }) .sysHalt t.step4)
    ∧ (w.toNat < 7 → c.priv = true → s.check t (t.S b) 64 .read true = none → ∀ (bs : List Byte) (s1 : State),
        s.loadT s.cur.tid t (t.S b).toNat 64 = .ok (bs, s1) → leAt bs 0x30 1 ≤ 1 → leAt bs 0x31 15 = 0 →
        look s1.threads s.cur.tid = some t → BecomesOn s s1 (.confScset a b) t.dirty.step4)
    ∧ (7 ≤ w.toNat → w.toNat ≤ 31 → s.check t (t.S b) 64 .read true = none → ∀ (bs : List Byte) (s1 : State),
        s.loadT s.cur.tid t (t.S b).toNat 64 = .ok (bs, s1) → leAt bs 0x30 1 ≤ 1 → leAt bs 0x31 15 = 0 →
        look s1.ctxs t.ctx = some c → look s1.threads s.cur.tid = some t →
        let sc : Scope := { cores := BitVec.ofNat 384 (leAt bs 0 48) &&& (s1.partAt (partOfCtx t.ctx)).coreMask,
                            host := leAt bs 0x30 1 == 1 }
        BecomesOn s (s1.setCtx t.ctx { c with scopes := put c.scopes w.toNat sc }) (.confScset a b) t.dirty.step4)

/-! Lane blocks and pools. -/

/-- `lane.lrun` queues a block at an aligned entry inside the object's lane section with S(b) to S(b+7) as its arguments,
unless eight are queued, when it waits; `lane.lwait` completes once at most n blocks are left, and what the completed blocks
have posted counts as the scalar sequencer's from then on; `lane.lres` returns a block result (R195, R257, R258, R311). -/
def Obligations.LaneBlockQueue : Prop :=
  ∀ (s : State) (t : Thread), Issues s t → ∀ (d a b : BitVec 6) (x : Section), s.laneSection t = some x →
    (b.toNat ≤ 56 → (t.S a).toNat % 4 = 0 → (t.S a).toNat < x.size →
      (t.blocks.length < 8 → Becomes s (.laneLrun a b)
        { t.step4 with blocks := t.blocks ++ [{ entry := (t.S a).setWidth 32, args := t.blockArgs b }] })
      ∧ (8 ≤ t.blocks.length → Becomes s (.laneLrun a b) { t with wait := some .again }))
    ∧ (b.toNat ≤ 56 → (t.S a).toNat % 4 ≠ 0 → Faults s t (.laneLrun a b) 0x04 (t.S a) 0)
    ∧ (b.toNat ≤ 56 → (t.S a).toNat % 4 = 0 → x.size ≤ (t.S a).toNat → Faults s t (.laneLrun a b) 0x05 (t.S a) 0)
    ∧ (b.toNat ≤ 7 → (t.blocks.length ≤ b.toNat → ∃ u : State, u.mem = s.mem
            ∧ (∀ j, j ≠ s.cur.tid → look u.threads j = look s.threads j)
            ∧ BecomesOn s u (.laneLwait b) { t.step4 with redBuf := t.redBuf.map (fun r =>
                if r.uid == t.uid && r.party == Party.past then { r with party := .scalar } else r) })
        ∧ (b.toNat < t.blocks.length → Becomes s (.laneLwait b) { t with wait := some .again }))
    ∧ (b.toNat ≤ 7 → GivesS s t (.laneLres d b) d (t.y.get64 b.toNat))

/-- The register and tile pools (R261, R312): a give hands the thread's highest units to its cohort and a claim that
stands first takes as many when they are there, each returning what the thread then holds; POOL beyond what it holds or
may hold.
What the claimed registers hold is a free value (log 2) and not stated. -/
def Obligations.RegisterPools : Prop :=
  ∀ (s : State) (t : Thread) (c : Cohort), Issues s t → look s.cohorts t.cohort = some c → ∀ d k : BitVec 6,
    let n := k.toNat
    let m := t.tiles.length
    (n ≠ 0 → t.vregs < 8 * n + 8 → Faults s t (.poolGive d k) 0x0F 0 0)
    ∧ (n ≠ 0 → 8 * n + 8 ≤ t.vregs → t.blocks = [] →
        BecomesOn s (s.setCohort t.cohort { c with freeUnits := c.freeUnits + t.slices * n }) (.poolGive d k)
          ((({ t with vregs := t.vregs - 8 * n, vpoison := t.vpoison.filter (fun x => decide (x % 124 * 2 < t.vregs - 8 * n)) }
            : Thread).setS d (word (t.vregs - 8 * n))).step4))
    ∧ (n ≠ 0 → 248 < t.vregs + 8 * n → Faults s t (.poolClaim d k) 0x0F 0 0)
    ∧ (n ≠ 0 → t.vregs + 8 * n ≤ 248 → c.claimFirst s.cur.tid false = true → t.slices * n ≤ c.freeUnits →
        ∃ (u : State) (t' : Thread), BecomesOn s u (.poolClaim d k) t' ∧ t'.vregs = t.vregs + 8 * n
          ∧ (d ≠ 0 → t'.S d = word (t.vregs + 8 * n)) ∧ t'.pc = t.pc + 4 ∧ u.mem = s.mem
          ∧ (look u.cohorts t.cohort).map (fun x => x.freeUnits) = some (c.freeUnits - t.slices * n))
    ∧ (n ≠ 0 → m < n → Faults s t (.poolTgive d k) 0x0F 0 0)
    ∧ (n ≠ 0 → n ≤ m → t.blocks = [] → (upFrom (m - n) n).any (s.tileBusy s.cur.tid t.uid) = false →
        BecomesOn s (s.setCohort t.cohort { c with
            poolTiles := c.poolTiles ++ (t.tiles.drop (m - n)).reverse.map (fun x => { x with tag := t.slices }) })
          (.poolTgive d k) ((({ t with tiles := t.tiles.take (m - n) } : Thread).setS d (word (m - n))).step4))
    ∧ (n ≠ 0 → 8 < m + n → Faults s t (.poolTclaim d k) 0x0F 0 0)
    ∧ (n ≠ 0 → m + n ≤ 8 → c.claimFirst s.cur.tid true = true → (takeTiles t.slices n c.poolTiles).1.length = n →
        ∃ (u : State) (t' : Thread), BecomesOn s u (.poolTclaim d k) t'
          ∧ t'.tiles = t.tiles ++ (takeTiles t.slices n c.poolTiles).1 ∧ t'.pc = t.pc + 4 ∧ u.mem = s.mem
          ∧ (d ≠ 0 → t'.S d = word (m + n)))

/-! Queues. -/

/-- What a push, a reservation, a commit and a pop do to a queue's block (R215, R218, R225), as the home computes it. A push
into a queue with nothing reserved takes position TAIL, TAIL and PUSHES advance by one, FREE falls by one; behind a reserved
position it takes TAIL + RESV, as a reservation does, RESV rises, and TAIL and PUSHES stay. A commit of the first n positions
moves TAIL and PUSHES past them, and RESV falls by n. SEQ of a stream counts what PUSHES counts. A pop of n elements takes
those from HEAD on, HEAD and FREE rise by n, and TAIL, RESV and PUSHES stay. -/
def Obligations.QueueAccounts : Prop :=
  (∀ (q : Queue) (b : List Byte), b.length = q.size → 1 ≤ qFree b → qResv b < 64 → ∀ committed : Bool,
    let pushes : List Byte → Nat := fun b => leAt b 0x2C 4
    let seq : List Byte → Nat := fun b => leAt b 0x60 8
    let x := takePos q b committed
    x.1 = (qTail b + qResv b) % 2 ^ 32 ∧ qFree x.2.2 = qFree b - 1 ∧ qHead x.2.2 = qHead b ∧ qCap x.2.2 = qCap b
    ∧ x.2.2.length = b.length
    ∧ (qResv b = 0 → q.commit = [] → committed = true →
        x.2.1 = q ∧ qTail x.2.2 = (qTail b + 1) % 2 ^ 32 ∧ qResv x.2.2 = 0 ∧ pushes x.2.2 = (pushes b + 1) % 2 ^ 32
        ∧ (q.stream = true → seq x.2.2 = (seq b + 1) % 2 ^ 64))
    ∧ ((q.commit = [] ∧ committed = false ∨ ∃ l, q.commit = false :: l) →
        x.2.1 = { q with commit := q.commit ++ [committed] } ∧ qTail x.2.2 = qTail b ∧ qResv x.2.2 = qResv b + 1
        ∧ pushes x.2.2 = pushes b ∧ (q.stream = true → seq x.2.2 = seq b)))
  ∧ (∀ (n : Nat) (l : List Bool) (b : List Byte), 64 ≤ b.length → n ≤ qResv b → l.head? ≠ some true →
      let y := passPrefix (List.replicate n true ++ l) b
      y.2 = l ∧ qTail y.1 = (qTail b + n) % 2 ^ 32 ∧ qResv y.1 = qResv b - n ∧ leAt y.1 0x2C 4 = (leAt b 0x2C 4 + n) % 2 ^ 32
      ∧ qHead y.1 = qHead b ∧ qFree y.1 = qFree b ∧ (128 ≤ b.length → leAt y.1 0x60 8 = (leAt b 0x60 8 + n) % 2 ^ 64))
  ∧ (∀ (s : State) (r : QRef) (q : Queue) (n : Nat) (b : List Byte), 64 ≤ b.length → qFree b + n < 2 ^ 32 →
      let y := s.popAll r q n b
      qHead y.2.1 = (qHead b + n) % 2 ^ 32 ∧ qFree y.2.1 = qFree b + n ∧ qTail y.2.1 = qTail b ∧ qResv y.2.1 = qResv b
      ∧ leAt y.2.1 0x2C 4 = leAt b 0x2C 4 ∧ y.2.2.map (fun e => e.1) = (List.range n).map (fun i => (qHead b + i) % 2 ^ 32))

/-- `queue.qpush` and `queue.qtrypush` (R215-R221): the element is loaded, once, the release waited for, and the home pushes it:
d takes the position, as it does in an intact open queue with room and nobody waiting. A queue that fails its check there is
QCB_CORRUPT; a closed one ends a push with QUEUE_CLOSED and
answers a try with −1; a full one makes a push wait in the queue's list and answers a try with −2.
The step in which a home serves its waiters is the model's reading (log 25). -/
def Obligations.QueuePushes : Prop :=
  ∀ (s s1 s2 : State) (t t' : Thread) (d a b : BitVec 6) (r : QRef) (q : Queue) (bs : List Byte),
    Issues s t → Names s t (t.S a) r q →
    ((t.wait = some (.loaded bs) ∧ s1 = s)
      ∨ ((∀ e, t.wait ≠ some (.loaded e)) ∧ s.bufferCheck t (t.S b) (qEsize (s.qcbBytes r q.size)) .read = none
        ∧ s.bufferLoad s.cur.tid t (t.S b) (qEsize (s.qcbBytes r q.size)) = .ok (bs, s1))) →
    s1.release t.uid = (s2, true) → Takes s2 r true 1 →
    let h := s2.homePush r (.core (coreOf s.cur.tid)) [bs]
    let u := h.s.applyEnds h.ended
    let v := s2.touchQcb r q (.core (coreOf s.cur.tid))
    let k := v.qcbBytes r q.size
    look u.threads s.cur.tid = some t' → t'.ended = false →
    (s2.queueAt r = some q → s2.causes r q = 0 → qClosed k = false → q.pushers = [] → canPush k 1 = true →
      v.slotsReady r q k (qTail k + qResv k) 1 = true → h.ans = .many [(qTail k + qResv k) % 2 ^ 32] [] false)
    ∧ (∀ p ps es z, h.ans = .many (p :: ps) es z →
      BecomesOn s u (.queueQpush d a b) (((t'.setS d (word p)).dirty).step4)
      ∧ BecomesOn s u (.queueQtrypush d a b) (((t'.setS d (word p)).dirty).step4))
    ∧ (∀ m, h.ans = .corrupt m →
        exec (.queueQpush d a b) s = .next (u.fault s.cur.tid (scalarF t 0x08 (t.S a) (word m)))
        ∧ exec (.queueQtrypush d a b) s = .next (u.fault s.cur.tid (scalarF t 0x08 (t.S a) (word m))))
    ∧ (h.ans = .closed →
        exec (.queueQpush d a b) s = .next (u.fault s.cur.tid (scalarF t 0x0A (t.S a) 0))
        ∧ BecomesOn s u (.queueQtrypush d a b) ((t'.setS d (BitVec.allOnes 64)).step4))
    ∧ (h.ans = .blocked →
        exec (.queueQpush d a b) s = .next ((u.joinWait r true { who := .thread s.cur.tid .scalar, op := .push d bs }).onLive
          s.cur.tid (fun t => t.dirty.block .scalar (.queue r.key)))
        ∧ BecomesOn s u (.queueQtrypush d a b) ((t'.setS d (BitVec.allOnes 64 - 1)).step4))

/-- `queue.qpop`, `queue.qtrypop` and `queue.qpeek` (R215, R217, R221): the element the home gives, which an intact queue that
holds one gives to the first that asks, is stored in the buffer and d takes its position, as is one that a home gave to a
pop that waited; a closed and empty queue gives −1; an empty open one makes a pop wait in the queue's list and
answers the others with −2. -/
def Obligations.QueuePops : Prop :=
  ∀ (s s2 : State) (t t' : Thread) (d a b : BitVec 6) (r : QRef) (q : Queue),
    Issues s t →
    (∀ d' e' p x, t.wait = some (.deliver d' e' p x false) → s.bufferStore s.cur.tid t e' x = .ok s2 →
      look s2.threads s.cur.tid = some t' → t'.ended = false →
      BecomesOn s s2 (.queueQpop d a b) (((t'.setS d' p).dirty).step4))
    ∧ ((∀ d' e' p x z, t.wait ≠ some (.deliver d' e' p x z)) → Names s t (t.S a) r q → Takes s r false 1 →
        s.engineOnly r = false →
    s.bufferCheck t (t.S b) (qEsize (s.qcbBytes r q.size)) .write = none →
    s.bufferFree t (t.S b) (qEsize (s.qcbBytes r q.size)) = .ok () →
    let h := s.homePop r (.core (coreOf s.cur.tid)) 1
    let k := s.homePeek r (.core (coreOf s.cur.tid))
    let u := h.s.applyEnds h.ended
    let v := k.s.applyEnds k.ended
    let z := s.touchQcb r q (.core (coreOf s.cur.tid))
    let blk := z.qcbBytes r q.size
    (s.causes r q = 0 → 1 ≤ qLen blk → (q.poppers = [] ∨ qClosed blk = true) → z.slotsReady r q blk (qHead blk) 1 = true →
      let e := (z.slotReady r q blk (qHead blk)).1.readSlot r q blk (qHead blk)
      h.ans = .many [qHead blk] [e.1] e.2.1 ∧ k.ans = .popped (qHead blk) e.1 e.2.1)
    ∧ (∀ p ps x xs, h.ans = .many (p :: ps) (x :: xs) false → u.bufferStore s.cur.tid t (t.S b) x = .ok s2 →
      look s2.threads s.cur.tid = some t' → t'.ended = false →
      BecomesOn s s2 (.queueQpop d a b) (((t'.setS d (word p)).dirty).step4)
      ∧ BecomesOn s s2 (.queueQtrypop d a b) (((t'.setS d (word p)).dirty).step4))
    ∧ (∀ p x, k.ans = .popped p x false → v.bufferStore s.cur.tid t (t.S b) x = .ok s2 →
        look s2.threads s.cur.tid = some t' → t'.ended = false →
        BecomesOn s s2 (.queueQpeek d a b) (((t'.setS d (word p)).dirty).step4))
    ∧ (h.ans = .closed → look u.threads s.cur.tid = some t' → t'.ended = false →
        BecomesOn s u (.queueQpop d a b) (((t'.setS d (BitVec.allOnes 64)).dirty).step4)
        ∧ BecomesOn s u (.queueQtrypop d a b) ((t'.setS d (BitVec.allOnes 64)).step4))
    ∧ (h.ans = .blocked → look u.threads s.cur.tid = some t' → t'.ended = false →
        exec (.queueQpop d a b) s = .next ((u.joinWait r false { who := .thread s.cur.tid .scalar, op := .pop d (t.S b) }).onLive
          s.cur.tid (fun t => t.dirty.block .scalar (.queue r.key)))
        ∧ BecomesOn s u (.queueQtrypop d a b) ((t'.setS d (BitVec.allOnes 64 - 1)).step4)))

/-- The other queue instructions (R212, R214, R218-R220): `queue.qinit` binds a block that meets the requirements;
`queue.qlen` reads TAIL − HEAD, FREE, RESV or CAP; `queue.qcheck` gives 0 for an intact queue and 0x100 for a line that is
not bound; `queue.qres` returns the position its home reserved; `queue.qcom` commits one after its release, with
OPERAND_RANGE for a position not reserved; `queue.qclose` closes; `queue.qdrain` waits until the queue is empty. A queue
that is draining, empty, with nothing reserved, no waiter and no freeze unbinds, and every thread whose drain waits on it
goes on (R219); one that is not stays as it is. -/
def Obligations.QueueControl : Prop :=
  (∀ (s : State) (t : Thread), Issues s t → ∀ (d a b n : BitVec 6) (r : QRef) (q : Queue),
    let core : Asker := .core (coreOf s.cur.tid)
    let tid := s.cur.tid
    (∀ (s1 : State), n.toNat ≤ 1 → (n = 1 → (t.S a).toNat % 128 = 0) →
      s.queueRef t (t.S a) (if n = 1 then 128 else 64) = .inr r →
      (∀ pa, r = .global pa → s.hitsQcb pa (if n = 1 then 128 else 64) = false) →
      (∀ ck off, r = .scratch ck off → ∀ c, look s.cohorts ck = some c → c.hitsQcb off (if n = 1 then 128 else 64) = false) →
      s.ringOwned r t.ctx (match r with | .global _ => (t.S a).toNat | .scratch _ off => off) (if n = 1 then 128 else 64) = false →
      s.portHeld (coreOf tid) = false →
      s.homeBind r { stream := n == 1, va := t.S a, ctx := t.ctx, core := coreOf tid, uid := t.uid, bind := 0, commit := [],
                     pushers := [], poppers := [], frozen := none } core = (0, s1) →
      exec (.queueQinit a n) s = .next (s1.onLive tid (fun t => t.dirty.step4)))
    ∧ (Names s t (t.S a) r q → Takes s r true 0 → s.causes r q = 0 →
        let b64 := s.qcbBytes r q.size
        (n.toNat ≤ 3 → BecomesOn s (s.touchQcb r q core) (.queueQlen d a n)
          ((t.setS d (word (if n = 0 then (qTail b64 + 2 ^ 32 - qHead b64 % 2 ^ 32) % 2 ^ 32
            else if n = 1 then qFree b64 else if n = 2 then qResv b64 else qCap b64))).step4))
        ∧ GivesS s t (.queueQcheck d a) d 0
        ∧ (let h := s.homeReserve r core
           let k := (s.touchQcb r q core).qcbBytes r q.size
           (qClosed k = false → q.pushers = [] → canPush k 1 = true → h.ans = .pos ((qTail k + qResv k) % 2 ^ 32))
           ∧ (∀ p, h.ans = .pos p → exec (.queueQres d a) s = .next (h.s.onLive tid (fun t =>
             { (t.setS d (word p)).dirty.step4 with reserved := t.reserved ++ [(r.key, q.bind, p)] })))
           ∧ (h.ans = .closed → exec (.queueQres d a) s = .next (h.s.fault tid (scalarF t 0x0A (t.S a) 0))))
        ∧ (∀ s2 : State, s.release t.uid = (s2, true) → Takes s2 r true 0 →
           let h := s2.homeCommit r core (t.S b)
           let u := h.s.applyEnds h.ended
           let k := (s2.touchQcb r q core).qcbBytes r q.size
           let i := posSub (t.S b).toNat (qTail k)
           (s2.queueAt r = some q → s2.causes r q = 0 →
              (((t.S b).toNat < 2 ^ 32 ∧ i < qResv k ∧ nth q.commit i true = false) → h.ans = .pos i)
              ∧ (¬ ((t.S b).toNat < 2 ^ 32 ∧ i < qResv k ∧ nth q.commit i true = false) → h.ans = .badPos))
           ∧ (∀ i, h.ans = .pos i → exec (.queueQcom a b) s
             = .next ((u.unreserve r.key (t.S b).toNat).onLive tid (fun t => t.dirty.step4)))
           ∧ (h.ans = .badPos → exec (.queueQcom a b) s = .next (u.fault tid (scalarF t 0x0D 0 0))))
        ∧ (let h := s.homeClose r core false
           exec (.queueQclose a) s = .next ((h.s.applyEnds h.ended).onLive tid (fun t => t.dirty.step4)))
        ∧ (let h := s.homeClose r core true
           let u := (h.s.applyEnds h.ended).onLive tid (fun t => t.dirty.block .scalar (drainWait r))
           exec (.queueQdrain a) s = .next (u.drainDone r)))
    ∧ (s.queueRef t (t.S a) 64 = .inr r → s.queueAt r = none →
        BecomesOn s s (.queueQcheck d a) (((t.setS d 0x100).dirty).step4)))
  ∧ (∀ (s : State) (pa : Nat) (q : Queue), s.queueAt (.global pa) = some q →
    let b := s.qcbBytes (.global pa) 64
    let done := qDraining b && qLen b == 0 && qResv b == 0 && q.pushers.isEmpty && q.poppers.isEmpty && q.frozen == none
    (done = false → s.drainDone (.global pa) = s)
    ∧ (done = true → (s.drainDone (.global pa)).queueAt (.global pa) = none
        ∧ (s.drainDone (.global pa)).mem = s.mem
        ∧ ∀ (tid : Nat) (t : Thread), sorted s.threads = true → look s.threads tid = some t →
            t.wait = some (.drain pa none) →
            look (s.drainDone (.global pa)).threads tid = some t.step4))

/-! Copy engine commands. -/

/-- `copy.cstart` of a record the engine owns, with its checks passed and room on the channel, starts a chain there, which
asks for the record's destination lines, and returns its ticket; a bad field is OPERAND_RANGE, a full channel holds the
thread, as does a line that the check cannot read yet (R183), and a record not owned only takes a ticket; `copy.cstat` reads the
channel's state, 0 when idle; `copy.cabort` stops the context's chains it names (R244-R247).
What an aborted record has written is the model's reading (log 13) and not stated. -/
def Obligations.CopyCommands : Prop :=
  ∀ (s : State) (t : Thread), Issues s t → ∀ d a b : BitVec 6,
    let ck := chanKey s.cur.tid (t.S a).toNat
    (15 < (t.S a).toNat → Faults s t (.copyCstart d a b) 0x0D 0 0 ∧ Faults s t (.copyCstat d a) 0x0D 0 0
      ∧ Faults s t (.copyCabort a b) 0x0D 0 0)
    ∧ ((t.S a).toNat ≤ 15 → GivesS s t (.copyCstat d a) d (word (s.chanWord ck t.ctx))
        ∧ ((s.chanAt ck).chains = [] → s.chanWord ck t.ctx = 0))
    ∧ ((t.S a).toNat ≤ 15 → (t.S b = BitVec.allOnes 64 ∨ ∀ h ∈ (s.chanAt ck).chains, word h.ticket = t.S b → h.ctx = t.ctx) →
        exec (.copyCabort a b) s = .next ((s.abortChains ck (fun h => h.ctx == t.ctx
          && (t.S b == wMinus1 || word h.ticket == t.S b))).onLive s.cur.tid Thread.step4))
    ∧ ((t.S a).toNat ≤ 15 → s.check t (t.S b) 64 .write true = none → ∀ (raw : List Byte) (s1 : State),
        s.loadT s.cur.tid t (t.S b).toNat 64 = .ok (raw, s1) → look s1.threads s.cur.tid = some t →
        let f : CFor := { ctx := t.ctx, cuid := (look s1.cohorts t.cohort).elim 0 (fun c => c.uid), ranges := t.ranges }
        let ext := s1.extBytes t.ctx raw
        let room := (s1.chanAt ck).chains.length < 5
        (crOwn raw = false → room →
          BecomesOn s (s1.setChan ck { s1.chanAt ck with ticket := (s1.chanAt ck).ticket + 1, linebuf := [] }) (.copyCstart d a b)
            (((t.setS d (word (s1.chanAt ck).ticket)).dirty).step4))
        ∧ (s1.headWaits f raw = true → exec (.copyCstart d a b) s = .next (s1.hold s.cur.tid .scalar .stall))
        ∧ (crOwn raw = true → needsExt raw = false → recordOk raw = true → s1.extentFault f raw ext = none →
            s1.headFault f raw = none)
        ∧ (crOwn raw = true → recordOk raw = false → exec (.copyCstart d a b) s
            = .next (s1.fault s.cur.tid (scalarF t 0x0D 0 0)))
        ∧ (crOwn raw = true → s1.headWaits f raw = false → s1.headFault f raw = none → room → ∃ u : State,
            BecomesOn s u (.copyCstart d a b) (((t.setS d (word (s1.chanAt ck).ticket)).dirty).step4)
            ∧ (u.chanAt ck).ticket = (s1.chanAt ck).ticket + 1
            ∧ ∃ h : Chain, (u.chanAt ck).chains = (s1.chanAt ck).chains ++ [h] ∧ h.ticket = (s1.chanAt ck).ticket
              ∧ h.at_ = t.S b ∧ h.ctx = t.ctx ∧ h.uid = t.uid ∧ h.ranges = t.ranges ∧ h.pre = s1.destLines f raw ext
              ∧ h.stamped = h.pre.filter (fun l => !s1.ownsLine l))
        ∧ (s1.headWaits f raw = false → s1.headFault f raw = none → ¬ room →
            exec (.copyCstart d a b) s = .next (s1.hold s.cur.tid .scalar .again)))

/-! Tasks, windows, waits and services. -/

/-- The task instructions (R286-R295, R328-R330): `task.spawn` of a legal packet, after its release and with a free slot,
returns the handle of the slot that takes it, and one that waits has kept the packet it copied; `task.note` sends one decrement
to the handle's die; `task.rnext` returns the cursor of a range task's piece and moves it by the grain, or −1 at the end;
`task.tquery` reads a slot's state; `task.done` detaches the thread from its task at once, what it has posted still owed to it.
A handle of another partition is PRIV. -/
def Obligations.TaskInstructions : Prop :=
  ∀ (s s1 s2 : State) (t : Thread), Issues s t → ∀ d a : BitVec 6,
    let tid := s.cur.tid
    let h := t.S a
    (hPart h ≠ partOfCtx t.ctx → Faults s t (.taskNote a) 0x14 h 0 ∧ Faults s t (.taskTquery d a) 0x14 h 0)
    ∧ (hPart h = partOfCtx t.ctx → h.toNat < 2 ^ 38 → Quiet s t →
        BecomesOn s (s.sendDecrement h false) (.taskNote a) t.dirty.step4
        ∧ ((s.sendDecrement h false).dieAt (h.toNat % 4)).decs = (s.dieAt (h.toNat % 4)).decs ++ [(h, false)])
    ∧ (hPart h = partOfCtx t.ctx → h.toNat < 2 ^ 38 → GivesS s t (.taskTquery d a) d (word (s.taskWord h)))
    ∧ (t.ranged = false → Faults s t (.taskRnext d) 0x0D 0 0)
    ∧ (∀ p : Piece, t.ranged = true → (s.taskAt (hKey t.task)).gen.toNat = hGen t.task →
        (s.taskAt (hKey t.task)).pieces[t.piece]? = some p →
        (p.hi ≤ p.cur → Becomes s (.taskRnext d) (((t.setS d (BitVec.allOnes 64)).dirty).step4))
        ∧ (p.cur < p.hi → ∃ u : State, BecomesOn s u (.taskRnext d) (((t.setS d (wordI p.cur)).dirty).step4)
            ∧ u.mem = s.mem ∧ u.threads = s.threads
            ∧ (u.taskAt (hKey t.task)).pieces = setNth (s.taskAt (hKey t.task)).pieces t.piece
                { p with cur := p.cur + pkGrain (s.taskAt (hKey t.task)).packet }))
    ∧ (t.step = none → t.detached = false → ∃ u : State, exec .taskDone s = .next u ∧ u.mem = s.mem
        ∧ look u.threads tid = some { t.step4 with
            detached := true, redBuf := t.redBuf.map (fun r => if r.uid = t.uid then { r with owed := true } else r) })
    ∧ (t.step.isSome = true ∨ t.detached = true → Faults s t .taskDone 0x0D 0 0)
    ∧ (∀ (w0 b : List Byte) (n slot : Nat) (z : State), (∀ b' w, t.wait ≠ some (.spawn b' w)) → h.toNat % 8 = 0 →
        s.check t h 8 .read false = none →
        s.loadT tid t h.toNat 8 = .ok (w0, s1) → pkLen (leNat w0) = some n → s1.check t h n .read false = none →
        s1.loadT tid t h.toNat n = .ok (b, s2) → packetOk b = true → s2.release t.uid = (z, true) →
        z.freeSlot (dieOfCore (coreOf tid)) = some slot →
        let r := z.acceptPacket (dieOfCore (coreOf tid)) slot t.ctx b h (pkPrio b) none
        exec (.taskSpawn d a) s = .next (r.2.onLive tid (fun t => ((t.setS d r.1).dirty).step4)))
    ∧ (∀ (b : List Byte) (w : Bool) (slot : Nat) (z : State), t.wait = some (.spawn b w) → s.release t.uid = (z, true) →
        z.freeSlot (dieOfCore (coreOf tid)) = some slot →
        let r := z.acceptPacket (dieOfCore (coreOf tid)) slot t.ctx b h (pkPrio b) none
        exec (.taskSpawn d a) s = .next (r.2.onLive tid (fun t => ((t.setS d r.1).dirty).step4)))

/-- The conditions of `sync.wait` (R315, R316): a wait that passes its checks returns the mask of its satisfied conditions
as soon as any is, or with ALL once all are, 0 at a timeout of 0, and otherwise blocks; one issued again after a save keeps
the deadline it had (R334). -/
def Obligations.SyncWaits : Prop :=
  ∀ (s : State) (t : Thread), Issues s t → ∀ d a b : BitVec 6, s.syncCheck s.cur.tid t a b = none →
    let n := (t.S b).toNat % 2 ^ 48
    let fresh := if n = 2 ^ 48 - 1 then none else some (s.tick + n)
    let deadline := match t.wait with | some (.resync k) => k | _ => fresh
    let m := s.condMask s.cur.tid t (t.conds a)
    (∀ m', s.syncEval s.cur.tid t a b deadline = .returns m' →
      exec (.syncWait d a b) s = .next (s.syncReturn s.cur.tid d (t.conds a) m'))
    ∧ (s.syncEval s.cur.tid t a b deadline = .waits →
        Becomes s (.syncWait d a b) { t with wait := some (.sync d a b deadline) })
    ∧ ((t.conds a).all (fun c => (s.condCorrupt t c).isNone) = true →
        let all := (t.S b).getLsbD 63
        let met : Prop := (all = false ∧ m ≠ 0) ∨ (all = true ∧ m = wantMask (t.conds a))
        (met → s.syncEval s.cur.tid t a b fresh = .returns m)
        ∧ (¬ met → n = 0 → s.syncEval s.cur.tid t a b fresh = .returns 0)
        ∧ (¬ met → n ≠ 0 → s.syncEval s.cur.tid t a b fresh = .waits))

/-- The barriers (R317-R319), in a cohort's registers and in memory: an arrival at a barrier returns the phase it arrives in,
latches its count, and ends the phase when the arrivals reach it, and with WAIT stays blocked until the phase it arrived in has
ended; a count that differs from the latched one is BARRIER_COUNT; `sync.binit` sets an
idle barrier and faults with OPERAND_RANGE while an arrival stands; `sync.bphase` reads it. A memory object's SCOPE that
does not admit the core is PRIV. -/
def Obligations.CohortBarriers : Prop :=
  ∀ (s : State) (t : Thread) (c : Cohort), Issues s t → look s.cohorts t.cohort = some c → ∀ d a b : BitVec 6,
    barOk (t.S a) = true →
    let k := barName (t.S a)
    let l := c.barAt k
    let n : BitVec 16 := BitVec.ofNat 16 (t.S b).toNat
    let tid := s.cur.tid
    let waits := (t.S b).getLsbD 16
    (barMem (t.S a) = false → (n ≠ 0 → (t.S b).toNat < 2 ^ 17 → Quiet s t →
      (l.count ≠ 0 ∧ l.count ≠ n → Faults s t (.syncArrive d a b) 0x0B (word k) (word (l.count.toNat * 2 ^ 16 + n.toNat)))
      ∧ (l.count = 0 ∨ l.count = n →
          let last := n.toNat ≤ (l.arrived + 1).toNat
          let after : Barrier := if last then { phase := l.phase + 1, count := 0, arrived := 0 }
            else { phase := l.phase, count := n, arrived := l.arrived + 1 }
          let t' := (t.setS d (word l.phase.toNat)).dirty
          BecomesOn s (s.setCohort t.cohort { c with bars := put c.bars k after }) (.syncArrive d a b)
            (if waits = true ∧ ¬ last then { t' with wait := some (.phase (t.S a) l.phase) } else t'.step4)))
    ∧ ((t.S b).toNat < 2 ^ 16 →
        (l.arrived ≠ 0 → Faults s t (.syncBinit a b) 0x0D 0 0)
        ∧ (l.arrived = 0 → BecomesOn s
            (s.setCohort t.cohort { c with bars := put c.bars k ⟨n, 0, 0⟩ }) (.syncBinit a b) t.step4))
    ∧ GivesS s t (.syncBphase d a) d
        (word (l.phase.toNat + 2 ^ 16 * l.arrived.toNat + 2 ^ 32 * l.count.toNat)))
  ∧ (barMem (t.S a) = true →
    (∀ bs s1, s.check t (word k) 16 .read true = none → s.loadHomeT tid t k 16 = .ok (bs, s1) → look s1.threads tid = some t →
      BecomesOn s s1 (.syncBphase d a) ((t.setS d ((barrierOf bs).state (barrierScope bs))).step4))
    ∧ (∀ bs s1, (t.S b).toNat < 2 ^ 21 → s.check t (word k) 16 .write true = none → s.loadHomeT tid t k 16 = .ok (bs, s1) →
        ((barrierOf bs).arrived ≠ 0 → exec (.syncBinit a b) s = .next (s1.fault tid (scalarF t 0x0D 0 0)))
        ∧ ((barrierOf bs).arrived = 0 → ∀ s2, s1.storeT tid t k
            (leBytes 2 ((t.S b).toNat % 2 ^ 16) ++ leBytes 4 0 ++ leBytes 1 ((t.S b).toNat / 2 ^ 16)) = .ok s2 →
            look s2.threads tid = some t → BecomesOn s s2 (.syncBinit a b) t.dirty.step4))
    ∧ (∀ pa, n ≠ 0 → (t.S b).toNat < 2 ^ 17 → s.check t (word k) 16 .atomic true = none → s.place t.ctx k = .byte pa →
        s.mustWait t.ctx k pa = false → s.poisoned pa 16 = false →
        let o := s.peekBytes t.ctx k 16
        let m := barrierOf o
        (s.barrierAdmits t.ctx (coreOf tid) (barrierScope o) = false → Faults s t (.syncArrive d a b) 0x14 (word k) 0)
        ∧ (s.barrierAdmits t.ctx (coreOf tid) (barrierScope o) = true → Quiet s t → s.portHeld (coreOf tid) = false →
          (m.count ≠ 0 ∧ m.count ≠ n → Faults s t (.syncArrive d a b) 0x0B (word k) (word (m.count.toNat * 2 ^ 16 + n.toNat)))
          ∧ (m.count = 0 ∨ m.count = n → ∀ old s2, s.arriveMem (.core (coreOf tid)) t.ctx k (some n) = .ok (old, s2) →
              look s2.threads tid = some t →
              let t' := (t.setS d (word old.phase.toNat)).dirty
              let ended := phaseReached (s2.phaseOf t (t.S a)) (old.phase + 1)
              BecomesOn s s2 (.syncArrive d a b) (if waits = true ∧ (s2.barPeer t (t.S a)).isNone ∧ ended = false
                then { t' with wait := some (.phase (t.S a) old.phase) } else t'.step4)))))

/-- The service instructions (R364-R366, R393-R397): `sys.sys` sends its request to the Milliner that serves its core and waits,
or with a slice mask returns 0 and holds those slices; `sys.trap` ends its thread with TRAP and S(a) in INFO; `sys.uint` sends a
user interrupt through a valid entry, numbered in its order; `sys.end` of a task thread ends it; `sys.halt` freezes a privileged
context and is PRIV without privilege.
What a service answers is an operand of its event (log 17). -/
def Obligations.ServiceInstructions : Prop :=
  ∀ (s : State) (t : Thread) (c : Ctx), Issues s t → look s.ctxs t.ctx = some c → ∀ d a b : BitVec 6,
    let tid := s.cur.tid
    let m := (t.S a).toNat / 2 ^ 16
    let r : SysReq := { milli := 16 * (coreOf tid / 96) + coreOf tid % 16, tid := tid, uid := t.uid, slice := 8,
                        svc := (t.S a).setWidth 16, mask := 0, block := t.S b, d := d, pc := t.pc }
    ((t.S a).toNat < 2 ^ 24 → m < 2 ^ t.slices → s.check t (t.S b) 128 .read true = none →
      s.check t (t.S b) 128 .write true = none → Quiet s t →
      (m = 0 → BecomesOn s ({ s with sysReqs := s.sysReqs ++ [r] } : State) (.sysSys d a b)
          { t.dirty with wait := some .sys })
      ∧ (m ≠ 0 → ∃ u : State, BecomesOn s u (.sysSys d a b)
            { ((t.setS d 0).dirty).step4 with
              sl := t.sl.zipIdx.map (fun x => if m.testBit x.2 then { x.1 with held := true } else x.1) }
          ∧ u.mem = s.mem ∧ u.sysReqs.map (fun r => r.slice)
              = s.sysReqs.map (fun r => r.slice) ++ (upFrom 0 t.slices).filter (fun i => m.testBit i)))
    ∧ Faults s t (.sysTrap a) 0x11 0 (t.S a)
    ∧ (∀ u : UintEntry, look c.uints (t.S a).toNat = some u → (t.S a).toNat ≤ 63 → u.flags.getLsbD 0 = true →
        let z := s.setCtx t.ctx { c with uints := put c.uints (t.S a).toNat { u with sent := u.sent + 1 } }
        let n : UintMsg := { ctx := t.ctx, entry := (t.S a).toNat, data := t.S b, seq := u.sent }
        BecomesOn s ({ z with uints := z.uints ++ [n] } : State) (.sysUint a b) t.dirty.step4)
    ∧ (look c.uints (t.S a).toNat = none → Faults s t (.sysUint a b) 0x0D 0 0)
    ∧ (t.step = none → exec .sysEnd s = .next ((s.sampleLast tid t.cohort).endThread tid false))
    ∧ (c.priv = true → BecomesOn s (s.setCtx t.ctx { c with halted := true }) .sysHalt t.step4)
    ∧ (c.priv = false → Faults s t .sysHalt 0x14 0 0)

/-- A thread that ends (R260, R386, R396) stands ended, waits for nothing, runs no lane block, and holds no grant,
reservation or emission; its registers, and memory, are as they were, no request of its own is with a Milliner, and every
position it had reserved is still to be committed by its home, or by its window (R218). -/
def Obligations.EndOfThread : Prop :=
  ∀ (s : State) (tid : Nat) (t : Thread) (faulted : Bool), look s.threads tid = some t → t.ended = false →
    let x := s.endThread tid faulted
    x.mem = s.mem ∧ x.ctxs = s.ctxs ∧ x.sysReqs = s.sysReqs.filter (fun r => r.uid != t.uid)
    ∧ (t.step = none → ∀ r ∈ t.reserved, Chore.commit r.1 r.2.1 r.2.2 ∈ x.chores)
    ∧ (∀ st w, t.step = some st → look s.windows st.win = some w →
        (look x.windows st.win).map (fun w => w.reserved) = some t.reserved)
    ∧ ∃ t' : Thread, look x.threads tid = some t' ∧ t'.ended = true ∧ t'.faulted = faulted ∧ t'.wait = none
      ∧ t'.blocks = [] ∧ t'.running = false ∧ t'.grant = [] ∧ t'.reserved = [] ∧ t'.emits = []
      ∧ t'.s = t.s ∧ t'.v = t.v ∧ t'.pc = t.pc ∧ ∀ j, j ≠ tid → look x.threads j = look s.threads j

/-- The window instructions (R265-R273, R320-R326) on a bound stream that admits the thread. `win.wmark` pushes a
watermark record, `win.wemit` of a task thread pushes its element as `queue.qpush` would, the one it loaded at issue where it
has waited, and of a window step holds it; `win.wclose` places the closes in the key's order and returns the number of windows;
`win.wstate` returns the number of windows that have committed a step and stores the records of the first MAX of them by START;
`win.wbind` binds a spec, or unbinds one with no window and no record left; `win.park` of a window step parks it, and of a task
thread faults.
That `win.wclose` counts pane windows too, and that `win.wstate` counts pane windows and no window that is still opening, are the
model's readings (log 22). -/
def Obligations.WindowInstructions : Prop :=
  ∀ (s s1 : State) (t : Thread) (d a b : BitVec 6) (pa : Nat) (q : Queue), Issues s t →
    let tid := s.cur.tid
    let bk := s.qcbBytes (.global pa) 128
    (t.step = none → Faults s t .winPark 0x0D 0 0)
    ∧ (∀ st, t.step = some st → exec .winPark s = .next (s.parkStep tid t st) ∧ exec .sysEnd s = .next (s.parkStep tid t st))
    ∧ ((∀ off, spaceOf (t.S a) ≠ some (.scratch off)) → Names s t (t.S a) (.global pa) q → q.stream = true →
        Takes s (.global pa) true 0 → s.causes (.global pa) q = 0 →
        ((t.S b).toNat < 2 ^ 63 → exec (.winWmark d a b) s = streamPush s tid t d (t.S a) pa
          (padBytes (leBytes 8 0 ++ leBytes 8 (2 ^ 63 + (t.S b).toNat)) (qEsize bk)))
        ∧ (2 ^ 63 ≤ (t.S b).toNat → Faults s t (.winWmark d a b) 0x0D 0 0)
        ∧ (Quiet s t → look s.streams pa = none → BecomesOn s s (.winWclose d a b) (((t.setS d 0).dirty).step4))
        ∧ (∀ ctl, Quiet s t → look s.streams pa = some ctl → ∃ u : State, BecomesOn s u (.winWclose d a b)
            (((t.setS d (word (s.openWindows pa (t.S b) true ++ s.openWindows pa (t.S b) false).length)).dirty).step4)
            ∧ u.mem = s.mem ∧ u.threads = s.threads
            ∧ (look u.streams pa).map (fun c => c.steps.length) = some (ctl.steps.length + 1))
        ∧ (∀ bs, t.step = none → t.wait = some (.loaded bs) → exec (.winWemit d a b) s = streamPush s tid t d (t.S a) pa bs)
        ∧ (∀ bs, (∀ bs', t.wait ≠ some (.loaded bs')) → s.bufferCheck t (t.S b) (qEsize bk) .read = none →
            s.bufferLoad tid t (t.S b) (qEsize bk) = .ok (bs, s1) → look s1.threads tid = some t →
            (t.step = none → exec (.winWemit d a b) s = streamPush s1 tid t d (t.S a) pa bs)
            ∧ (t.step.isSome = true → t.emits.length < 8 → qClosed bk = false →
                BecomesOn s s1 (.winWemit d a b) { (t.setS d (word t.emits.length)).step4 with
                  emits := t.emits ++ [(t.S a, bs)] }))
        ∧ (t.S b = 0 → s.check t 0 128 .read false = none → s.windows.any (fun w => w.2.stream == pa) = false →
            qHead bk = qTail bk →
            ∃ u : State, exec (.winWbind d a b) s = .next u ∧ look u.streams pa = none
              ∧ look u.threads tid = some t.dirty.step4)
        ∧ (∀ spec, t.S b ≠ 0 → (t.S b).toNat % 128 = 0 → s.check t (t.S b) 128 .read false = none → leAt bk 0x50 8 = 0 →
            s.loadT tid t (t.S b).toNat 128 = .ok (spec, s1) → wsOk spec = true → t.S d = 0 → look s1.threads tid = some t →
            ∃ u : State, exec (.winWbind d a b) s = .next u ∧ look u.threads tid = some t.dirty.step4
              ∧ (look u.streams pa).map (fun c => (c.spec, c.taken, c.steps.length)) = some (spec, qHead bk, 0)))
    ∧ (∀ blk, (t.S a).toNat % 8 = 0 → s.check t (t.S a) 32 .read false = none →
        s.loadT tid t (t.S a).toNat 32 = .ok (blk, s1) → look s1.threads tid = some t →
        (∀ off, spaceOf (wordAt blk 0) ≠ some (.scratch off)) → s1.cur = s.cur →
        Names s1 t (wordAt blk 0) (.global pa) q → q.stream = true → Takes s1 (.global pa) true 0 →
        s1.causes (.global pa) q = 0 → leAt blk 20 12 = 0 → (t.S b).toNat % 256 = 0 → leAt blk 16 4 ≤ 64 →
        let open_ := sortBy (fun a b => decide (a.2.start ≤ b.2.start))
          ((s1.openWindows pa (wordAt blk 8) true ++ s1.openWindows pa (wordAt blk 8) false).filter
            (fun w => w.2.phase != .opening))
        let n := min (leAt blk 16 4) open_.length
        let t' := ((t.setS d (word open_.length)).dirty).step4
        (n = 0 → BecomesOn s s1 (.winWstate d a b) t')
        ∧ (∀ s2 ctl, n ≠ 0 → s1.check t (t.S b) (256 * n) .write false = none → look s1.streams pa = some ctl →
            s1.storeT tid t (t.S b).toNat ((open_.take n).flatMap (fun w => w.2.record ctl.va)) = .ok s2 →
            look s2.threads tid = some t → BecomesOn s s2 (.winWstate d a b) t'))
    ∧ (∀ (e : List Byte) (s2 : State) (p : Nat) (ps : List Nat) (es : List (List Byte)) (z : Bool) (t' : Thread),
        s.release t.uid = (s2, true) → Takes s2 (.global pa) true 1 →
        let h := s2.homePush (.global pa) (.core (coreOf tid)) [e]
        h.ans = .many (p :: ps) es z → look (h.s.applyEnds h.ended).threads tid = some t' → t'.ended = false →
        streamPush s tid t d (t.S a) pa e
          = .next ((h.s.applyEnds h.ended).setThread tid (((t'.setS d (word p)).dirty).step4)))

/-! Lane instructions. -/

/-- LaneWrite and LaneRead (R31, R45): a lane's register takes the low bits of its type, zero-extended, and a 64-bit type
the register after it too; no other register of any lane changes. A code from 0xF8 names a block result, written from the
highest lane; p0 discards writes, another predicate takes a bit in each of the lanes given and keeps the others. -/
def Obligations.LaneRegisters : Prop :=
  ∀ (t : Thread) (ty : BitVec 4) (code : BitVec 8) (res : List (Nat × Nat)), (res.map Prod.fst).Nodup →
    let w := tyWidth ty
    let u := t.writeTy ty code res
    (code.toNat < 0xF8 →
      (∀ l x, (l, x) ∈ res → u.laneRead l code w = x % 2 ^ w)
      ∧ (∀ k, (∀ l x, (l, x) ∈ res → k ≠ vKey l code.toNat ∧ (w = 64 → k ≠ vKey l (code.toNat + 1))) → u.v.get32 k = t.v.get32 k)
      ∧ u.y = t.y)
    ∧ (0xF8 ≤ code.toNat → u.v = t.v ∧ ∀ l x, res.getLast? = some (l, x) →
        u.y.get64 (code.toNat - 0xF8) = if ty.toNat ≤ 2 then wordI (sext x w) else word (x % 2 ^ w))
    ∧ u.s = t.s ∧ u.p = t.p ∧ u.sl = t.sl ∧ u.fpflags = t.fpflags
    ∧ ∀ (pc : BitVec 8) (bs : List (Nat × Bool)), (bs.map Prod.fst).Nodup → (∀ l b, (l, b) ∈ bs → l < 32) →
        (pc = 0 → t.writePred pc bs = t)
        ∧ (pc ≠ 0 → (∀ l b, (l, b) ∈ bs → (t.writePred pc bs).pred l pc.toNat = b)
            ∧ (∀ l, l < 32 → (∀ b, (l, b) ∉ bs) → (t.writePred pc bs).pred l pc.toNat = t.pred l pc.toNat)
            ∧ ∀ k, k ≠ pc.toNat → (t.writePred pc bs).p.get32 k = t.p.get32 k)

/-- Every VI instruction that writes a register gives each active lane the value of R96 at its type and changes nothing
else. -/
def Obligations.LaneIntegerArithmetic : Prop :=
  ∀ (s : State) (t : Thread) (g : Nat) (o : LaneOps),
    let w := tyWidth o.ty
    let A : Nat → Nat := fun l => t.laneRead l o.a w % 2 ^ w
    let B : Nat → Nat := fun l => t.laneRead l o.b w % 2 ^ w
    let C : Nat → Nat := fun l => t.laneRead l o.c w % 2 ^ w
    let n : Nat → Nat := fun l => t.laneRead l o.b w % 2 ^ 32
    let hat : Nat → Int := fun x => if o.ty.toNat ≤ 3 then sext x w else x
    let gives : BitVec 8 → (LaneOps → Instr) → (Nat → Nat) → Prop := fun fn i f =>
      GangIssues s t g 0x10 fn o → GivesLanes s t g (i o) o f
    gives 0x00 .viAdd (fun l => wrap (A l + B l) w)
    ∧ gives 0x01 .viSub (fun l => wrap ((A l : Int) - B l) w)
    ∧ gives 0x02 .viMul (fun l => wrap (A l * B l) w)
    ∧ gives 0x03 .viMulh (fun l => wrap (sext (A l) w * sext (B l) w / ((2 ^ w : Nat) : Int)) w)
    ∧ gives 0x04 .viMulhn (fun l => A l * B l / 2 ^ w)
    ∧ gives 0x05 .viMad (fun l => wrap (A l * B l + C l) w)
    ∧ gives 0x06 .viAnd (fun l => A l &&& B l)
    ∧ gives 0x07 .viOr (fun l => A l ||| B l)
    ∧ gives 0x08 .viXor (fun l => A l ^^^ B l)
    ∧ gives 0x09 .viAndn (fun l => A l &&& (2 ^ w - 1 - B l))
    ∧ gives 0x0A .viShl (fun l => if n l < w then wrap (A l * 2 ^ n l) w else 0)
    ∧ gives 0x0B .viShr (fun l => if n l < w then A l / 2 ^ n l else 0)
    ∧ gives 0x0C .viSar (fun l => wrap (sext (A l) w / ((2 ^ min (n l) (w - 1) : Nat) : Int)) w)
    ∧ gives 0x0D .viMin (fun l => wrap (min (sext (A l) w) (sext (B l) w)) w)
    ∧ gives 0x0E .viMax (fun l => wrap (max (sext (A l) w) (sext (B l) w)) w)
    ∧ gives 0x0F .viMinn (fun l => min (A l) (B l))
    ∧ gives 0x10 .viMaxn (fun l => max (A l) (B l))
    ∧ gives 0x11 .viAbs (fun l => wrap (hat (A l)).natAbs w)
    ∧ gives 0x12 .viClz (fun l => ((List.range w).takeWhile (fun i => !(A l).testBit (w - 1 - i))).length)
    ∧ gives 0x13 .viPopc (fun l => (List.range w).countP (fun i => (A l).testBit i))
    ∧ gives 0x14 .viAddsat (fun l => wrap (satTy (hat (A l) + hat (B l)) o.ty.toNat) w)
    ∧ gives 0x15 .viSubsat (fun l => wrap (satTy (hat (A l) - hat (B l)) o.ty.toNat) w)
    ∧ gives 0x1C .viSel (fun l => if t.pred l o.c.toNat then A l else B l)
    ∧ gives 0x1D .viMov A
    ∧ gives 0x1E .viLi (fun _ => wrap (if o.ty.toNat ≤ 3 then o.im.toInt else o.im.toNat) w)
    ∧ gives 0x1F .viIota (fun l => wrap ((l : Int) + o.im.toInt) w)

/-- Every compare, predicate and class instruction gives each active lane the bit of R96, R99 or R109, and changes
nothing else; `vf.class` gives the class mask of R99. -/
def Obligations.LanePredicates : Prop :=
  ∀ (s : State) (t : Thread) (g : Nat) (o : LaneOps),
    let w := tyWidth o.ty
    let A : Nat → Nat := fun l => t.laneRead l o.a w % 2 ^ w
    let B : Nat → Nat := fun l => t.laneRead l o.b w % 2 ^ w
    let f : Fmt := Fmt.ofTy o.ty.toNat
    let x : Nat → FVal := fun l => f.value (A l)
    let y : Nat → FVal := fun l => f.value (B l)
    let p : Nat → Bool := fun l => t.pred l o.a.toNat
    let q : Nat → Bool := fun l => t.pred l o.b.toNat
    let gives : BitVec 8 → BitVec 8 → (LaneOps → Instr) → (Nat → Bool) → Prop := fun op fn i f =>
      GangIssues s t g op fn o → GivesPred s t g (i o) o f
    gives 0x10 0x16 .viCmpeq (fun l => decide (A l = B l)) ∧ gives 0x10 0x17 .viCmpne (fun l => decide (A l ≠ B l))
    ∧ gives 0x10 0x18 .viCmplt (fun l => decide (sext (A l) w < sext (B l) w))
    ∧ gives 0x10 0x19 .viCmpltn (fun l => decide (A l < B l))
    ∧ gives 0x10 0x1A .viCmple (fun l => decide (sext (A l) w ≤ sext (B l) w))
    ∧ gives 0x10 0x1B .viCmplen (fun l => decide (A l ≤ B l))
    ∧ gives 0x20 0x10 .vfCmpeq (fun l => (x l).feq (y l)) ∧ gives 0x20 0x11 .vfCmplt (fun l => (x l).lt (y l))
    ∧ gives 0x20 0x12 .vfCmple (fun l => (x l).lt (y l) || (x l).feq (y l))
    ∧ gives 0x20 0x13 .vfCmpun (fun l => decide (x l = .nan ∨ y l = .nan))
    ∧ gives 0x50 0x00 .vpPand (fun l => p l && q l) ∧ gives 0x50 0x01 .vpPor (fun l => p l || q l)
    ∧ gives 0x50 0x02 .vpPxor (fun l => xor (p l) (q l)) ∧ gives 0x50 0x03 .vpPnot (fun l => !p l)
    ∧ gives 0x50 0x04 .vpPmov p ∧ gives 0x50 0x05 .vpPset (fun l => o.im.getLsbD l)
    ∧ (GangIssues s t g 0x20 0x14 o → GangBecomes s (.vfClass o) g
        (t.writeN32 o.d ((t.activeLanes g o).map (fun l => (l, 2 ^ classBit f (A l))))))
    ∧ ∀ l, (x l = .nan → (x l).feq (y l) = false ∧ (x l).lt (y l) = false ∧ classBit f (A l) = 8)

/-- Every VF instruction gives each active lane its function of R98 and R99 at the mode its field names, one rounding of
the exact result, in both halves of a packed form, ORs the flags raised and traps on an enabled one (R79, R97-R99).
That `vf.exp2` and `vf.log2` round the exact power and logarithm once is presumed (log 11), and the sign of an exact zero sum of
two positive zeros under RD is the model's reading (log 20). -/
def Obligations.LaneFloats : Prop :=
  ∀ (s : State) (t : Thread) (g : Nat) (o : LaneOps),
    let w := tyWidth o.ty
    let F := Fmt.ofTy o.ty.toNat
    let m := RMode.ofCode o.md.toNat
    let one : FVal := .fin false 1 0
    let ls := t.activeLanes g o
    let vf : BitVec 8 → (LaneOps → Instr) → (Nat → Nat → Nat → Nat × FFlags) → Prop := fun fn i f =>
      GangIssues s t g 0x20 fn o →
      let A : Nat → Nat := fun l => t.laneRead l o.a w
      let B : Nat → Nat := fun l => t.laneRead l o.b w
      let C : Nat → Nat := fun l => t.laneRead l o.c w
      let single : Nat → Nat × FFlags := fun l => f (A l % 2 ^ w) (B l % 2 ^ w) (C l % 2 ^ w)
      let lo : Nat → Nat × FFlags := fun l => f (A l % 2 ^ 16) (B l % 2 ^ 16) (C l % 2 ^ 16)
      let hi : Nat → Nat × FFlags := fun l => f (A l / 2 ^ 16) (B l / 2 ^ 16) (C l / 2 ^ 16)
      (o.md.getLsbD 2 = false →
        GangRaises s t g (i o) (t.writeTy o.ty o.d (ls.map (fun l => (l, (single l).1)))) (ls.map (fun l => (l, (single l).2))))
      ∧ (o.md.getLsbD 2 = true →
        GangRaises s t g (i o) (t.writeN32 o.d (ls.map (fun l => (l, (lo l).1 + 2 ^ 16 * (hi l).1))))
          (ls.map (fun l => (l, (lo l).2 ||| (hi l).2))))
    let rounded : FVal × FFlags → Nat × FFlags := fun x => ((roundF F m x.1).1, (roundF F m x.1).2 ||| x.2)
    let signed : Nat → Bool → Nat × FFlags := fun a neg =>
      (if F.value a = .nan then canonNaN F else F.signBit neg + a % 2 ^ (F.ew + F.fw), 0)
    vf 0x00 .vfAdd (fun a b _ => rounded ((F.value a).add m (F.value b)))
    ∧ vf 0x01 .vfSub (fun a b _ => rounded ((F.value a).add m (F.value b).negate))
    ∧ vf 0x02 .vfMul (fun a b _ => rounded ((F.value a).mul (F.value b)))
    ∧ vf 0x03 .vfFma (fun a b c => rounded ((F.value a).fma m (F.value b) (F.value c)))
    ∧ vf 0x04 .vfFms (fun a b c => rounded ((F.value a).fma m (F.value b) (F.value c).negate))
    ∧ vf 0x05 .vfMin (fun a b _ => (encodeF F ((F.value a).pick false (F.value b)), 0))
    ∧ vf 0x06 .vfMax (fun a b _ => (encodeF F ((F.value a).pick true (F.value b)), 0))
    ∧ vf 0x07 .vfDiv (fun a b _ => rounded ((F.value a).div (F.value b)))
    ∧ vf 0x08 .vfSqrt (fun a _ _ => rounded (F.value a).sqrt)
    ∧ vf 0x09 .vfRcp (fun a _ _ => rounded (one.div (F.value a)))
    ∧ vf 0x0A .vfRsq (fun a _ _ => rounded (F.value a).rsqrt)
    ∧ vf 0x0B .vfExp2 (fun a _ _ => rounded (F.value a).exp2)
    ∧ vf 0x0C .vfLog2 (fun a _ _ => rounded (F.value a).log2)
    ∧ vf 0x0D .vfAbs (fun a _ _ => signed a false)
    ∧ vf 0x0E .vfNeg (fun a _ _ => signed a (!vfNeg F a))
    ∧ vf 0x0F .vfCopysign (fun a b _ => signed a (vfNeg F b))
    ∧ vf 0x15 .vfMov (fun a _ _ => signed a (vfNeg F a))
    ∧ (GangIssues s t g 0x20 0x16 o → GivesLanes s t g (.vfLi o) o (fun _ =>
        if o.ty = 11 then encodeF .f64 (Fmt.f32.value o.im.toNat)
        else (signed (o.im.toNat % 2 ^ F.width) (vfNeg F o.im.toNat)).1))

/-- The VC instructions (R77, R100-R104): `vc.cvt` rounds or saturates the source's value at TY; `vc.cvts` rounds each
element with its own random bits and RNGCTR moves on by one; `vc.qnpack` packs eight codes nearest to x/s, and
`vc.qnunpack` gives level times scale; `vc.pack` and `vc.unpack` move elements between registers.
That `vc.pack` extends its block with zeros for every TY is the model's reading (log 20). -/
def Obligations.LaneConversions : Prop :=
  ∀ (s : State) (t : Thread) (g : Nat) (o : LaneOps),
    let ls := t.activeLanes g o
    let src := o.md.extractLsb' 0 4
    let m := RMode.ofCode (o.md.toNat / 16)
    let w := tyWidth o.ty
    let sw := tyWidth src
    let V : Nat → FVal := fun l => valueTy src.toNat (t.laneRead l o.a sw % 2 ^ sw)
    let cvt : Nat → Nat × FFlags := fun l => roundTy o.ty.toNat m (V l)
    (GangIssues s t g 0x30 0x00 o → GangRaises s t g (.vcCvt o)
      (t.writeTy o.ty o.d (ls.map (fun l => (l, (cvt l).1)))) (ls.map (fun l => (l, (cvt l).2))))
    ∧ (GangIssues s t g 0x30 0x01 o → GangRaises s t g (.vcCvts o)
        { t.writeN32 o.d (ls.map (fun l => (l, (cvtsLane t o l).1))) with rngctr := t.rngctr + 1 }
        (ls.map (fun l => (l, (cvtsLane t o l).2))))
    ∧ (GangIssues s t g 0x30 0x02 o → GangRaises s t g (.vcQnpack o)
        (t.writeN32 o.d (ls.map (fun l => (l, (qnpackLane t o l).1)))) (ls.map (fun l => (l, (qnpackLane t o l).2))))
    ∧ (GangIssues s t g 0x30 0x03 o →
        let e : Nat → List (Nat × FFlags) := fun l => (upFrom 0 8).map (fun j =>
          vfRound (Fmt.ofTy o.ty.toNat) m ((qnLevel (t.laneRead l o.a 32 / 16 ^ j)).mul (Fmt.f32.value (t.laneRead l o.b 32))))
        GangRaises s t g (.vcQnunpack o) (t.writeRun w o.d (ls.map (fun l => (l, (e l).map Prod.fst))))
          (ls.map (fun l => (l, (e l).foldl (fun x y => x ||| y.2) 0))))
    ∧ (GangIssues s t g 0x30 0x04 o → GangBecomes s (.vcPack o) g
        (t.writeN32 o.d (ls.map (fun l => (l, packElems w ((upFrom 0 (32 / w)).map (fun j =>
          t.laneRead l (o.a + BitVec.ofNat 8 j) 32)))))))
    ∧ (GangIssues s t g 0x30 0x05 o → GangBecomes s (.vcUnpack o) g
        (t.writeRun 32 o.d (ls.map (fun l => (l, (upFrom 0 (32 / w)).map (fun j =>
          let e := t.laneRead l o.a 32 / 2 ^ (w * j) % 2 ^ w
          if o.ty.toNat ≤ 3 then wrap (sext e w) 32 else e))))))
    ∧ ∀ (f : Fmt) (u : Nat), roundSR f .nan u = (canonNaN f, (roundF f .rne .nan).2)
        ∧ (∀ neg e, roundSR f (.fin neg 0 e) u = (f.signBit neg, 0))

/-- The VX instructions (R105-R108): a permute gives a lane A of its source lane, or its own A where that is outside the
gang; a scan and a reduction combine the active lanes in ascending order; a vote and a ballot read a predicate of every
active lane. A scan starts from A of the lowest lane, a NaN as the type's canonical NaN. -/
def Obligations.LaneCrossings : Prop :=
  ∀ (s : State) (t : Thread) (g : Nat) (o : LaneOps),
    let ls := t.activeLanes g o
    let w := tyWidth o.ty
    let A : Nat → Nat := fun l => t.laneRead l o.a w % 2 ^ w
    let permute : BitVec 8 → (LaneOps → Instr) → (Nat → Int) → Prop := fun fn i src =>
      GangIssues s t g 0x40 fn o →
        GivesLanes s t g (i o) o (fun l => A (if 0 ≤ src l ∧ (src l).toNat ∈ t.gangLanes g then (src l).toNat else l))
    let oper := o.md.toNat % 8
    let p : Nat → Bool := fun l => t.pred l o.a.toNat
    let acc := vxAccs t o ls
    permute 0x00 .vxShfl (fun l => t.laneRead l o.b 32) ∧ permute 0x01 .vxShup (fun l => l - o.im.toNat)
    ∧ permute 0x02 .vxShdn (fun l => l + o.im.toNat) ∧ permute 0x03 .vxShxor (fun l => (l ^^^ o.im.toNat : Nat))
    ∧ permute 0x04 .vxBcast (fun _ => o.im.toNat)
    ∧ (acc.map (fun x => x.1) = ls
        ∧ ∀ k l x f, acc[k]? = some (l, x, f) → (k = 0 → x = vxStart o.ty.toNat (A l) ∧ f = 0)
          ∧ (∀ l' x' f', acc[k + 1]? = some (l', x', f') →
              x' = (vxCombine o.ty.toNat oper x (A l')).1 ∧ f' = (vxCombine o.ty.toNat oper x (A l')).2))
    ∧ (GangIssues s t g 0x40 0x05 o →
        (o.md.getLsbD 3 = false → GangRaises s t g (.vxScan o)
          (t.writeTy o.ty o.d (acc.map (fun x => (x.1, x.2.1)))) (acc.map (fun x => (x.1, x.2.2))))
        ∧ (o.md.getLsbD 3 = true → GangRaises s t g (.vxScan o)
          (t.writeTy o.ty o.d (ls.zip (vxIdentity o.ty.toNat oper :: acc.map (fun x => x.2.1))))
            (acc.map (fun x => (x.1, x.2.2)))))
    ∧ (GangIssues s t g 0x40 0x06 o → ∀ l x f, acc.getLast? = some (l, x, f) → GangRaises s t g (.vxRed o)
        (t.writeTy o.ty o.d (ls.map (fun i => (i, x)))) (acc.map (fun y => (y.1, y.2.2))))
    ∧ (GangIssues s t g 0x40 0x07 o → GivesPred s t g (.vxVote o) o (fun _ =>
        if o.md.toNat % 4 = 0 then ls.all p else if o.md.toNat % 4 = 1 then ls.any p else ls.all p || !ls.any p))
    ∧ (GangIssues s t g 0x40 0x08 o → GangBecomes s (.vxBallot o) g
        (t.writeN32 o.d (ls.map (fun l => (l, (ls.map (fun i => if p i then 2 ^ i else 0)).sum)))))

/-- An LB instruction of a gang (R255, R256, R302): each of its slices takes its own outcome, the others stay, and the gang
parts where lane PCs differ; a slice whose push would be a 25th token makes it fault with TOKEN_DEPTH, and nothing else
happens. That the lane of that fault is the lowest of the slice is the model's reading (log 20). -/
def Obligations.LaneBranches : Prop :=
  ∀ (s : State) (t : Thread) (g : Nat) (o : LaneOps), Issues s t → s.cur.party = .gang g →
    (t.gangSlices g).isEmpty = false →
    let gs := t.gangSlices g
    let n := s.cur.len
    let does : Instr → (Nat → Slice → Option Slice) → Prop := fun i f =>
      (∀ sl : List Slice, sl.length = t.sl.length →
        (∀ (j : Nat) (x : Slice), t.sl[j]? = some x → sl[j]? = if j ∈ gs then f j x else some x) →
        (∀ (j : Nat) (x : Slice), t.sl[j]? = some x → j ∈ gs → (f j x).isSome = true) →
        Becomes s i { t with sl := regangDone (partGang gs sl) })
      ∧ (∀ (j : Nat) (x : Slice), t.sl[j]? = some x → j ∈ gs → f j x = none →
          (∀ (k : Nat) (y : Slice), k < j → t.sl[k]? = some y → k ∈ gs → (f k y).isSome = true) →
          GangFaults s t g i 0x0C (4 * j + ctz 4 x.mask.toNat) 0 0)
    let next : Slice → BitVec 32 := fun x => x.lpc + BitVec.ofNat 32 n
    does (.lbBrc o) (fun j x => brcSlice x (t.cond4 j o) o.im n)
    ∧ does (.lbBrk o) (fun j x => brkSlice x (t.cond4 j o) o.im n)
    ∧ does (.lbCont o) (fun j x => contSlice x (t.cond4 j o) o.im n)
    ∧ does (.lbJmp o) (fun _ x => jmpSlice x o.im n)
    ∧ does .lbJoin (fun _ x => some (joinSlice x n))
    ∧ does .lbRegang (fun _ x => some { x with st := .atRegang, skip := n, wait := none })
    ∧ does .lbLend (fun _ x => some { x with st := .ended, stack := [], mask := 0xF, wait := none })
    ∧ does .lbNop (fun _ x => some { x with lpc := next x, wait := none })

/-- The outcome of a branch on one slice whose MASK is the level of its stack and not empty (R303-R307): all lanes or none
leave the stack; some push an IF token with the lanes that are to branch; on a back edge those that do not go back exit the
loop's token, which FindLoop finds or inserts; a break or a continue of some lanes takes them out of the loop or sets them aside
for its next turn, and of the last ones ends it or begins that turn; a jump at the else point begins the ELSE part, and any other
only moves the lane PC, as a join at no token's point does; a join at the top token's point pops it, with the IF below an ELSE.
Every outcome's MASK is the level of its stack and not empty, and its stack has at most 24 tokens. -/
def Obligations.BranchOutcomes : Prop :=
  (∀ (x y : Slice) (c : BitVec 4) (im : BitVec 32) (n : Nat), x.mask = level x.stack → x.mask ≠ 0 → x.stack.length ≤ 24 →
    brcSlice x c im n = some y ∨ brkSlice x c im n = some y ∨ contSlice x c im n = some y ∨ jmpSlice x im n = some y
      ∨ joinSlice x n = y →
    y.mask = level y.stack ∧ y.mask ≠ 0 ∧ y.stack.length ≤ 24)
  ∧ (∀ (j : BitVec 32) (lo hi : List Token) (k : Token) (f : Token → Token), hi.all (fun h => h.kind != .loopTok) = true →
      k.kind = .loopTok → k.join = j → findLoop j (lo ++ k :: hi) f = some (lo ++ f k :: hi))
  ∧ (∀ (j : BitVec 32) (lo hi : List Token) (f : Token → Token),
      (∀ (l' h' : List Token) (k : Token), lo ++ hi = l' ++ k :: h' → h'.all (fun h => h.kind != .loopTok) = true →
        k.kind = .loopTok → k.join ≠ j) →
      hi.all (fun h => decide (h.join < j)) = true → (∀ k, lo.getLast? = some k → j ≤ k.join) →
      ((lo ++ hi).length < 24 → findLoop j (lo ++ hi) f
        = some (lo ++ f { kind := .loopTok, pending := 0, exited := 0, join := j } :: hi))
      ∧ (24 ≤ (lo ++ hi).length → findLoop j (lo ++ hi) f = none))
  ∧ ∀ (x : Slice) (c : BitVec 4) (im : BitVec 32) (n : Nat), x.mask = level x.stack → x.mask ≠ 0 →
      let next := x.lpc + BitVec.ofNat 32 n
      let goes : BitVec 32 → Slice := fun pc => { x with lpc := pc, wait := none }
      (0 < im.toInt → x.mask &&& ~~~c = 0 → brcSlice x c im n = some (goes (x.lpc + im)))
      ∧ (0 < im.toInt → x.mask &&& c = 0 → brcSlice x c im n = some (goes next))
      ∧ (0 < im.toInt → x.mask &&& ~~~c ≠ 0 → x.mask &&& c ≠ 0 → x.stack.length < 24 →
          brcSlice x c im n = some { goes next with
            mask := x.mask &&& ~~~c
            stack := x.stack ++ [{ kind := .ifTok, pending := x.mask &&& c, exited := 0, join := x.lpc + im }] })
      ∧ (0 < im.toInt → x.mask &&& ~~~c ≠ 0 → x.mask &&& c ≠ 0 → 24 ≤ x.stack.length → brcSlice x c im n = none)
      ∧ (im.toInt ≤ 0 → topLoop next x.stack = false → x.mask &&& ~~~c = 0 → brcSlice x c im n = some (goes (x.lpc + im)))
      ∧ (im.toInt ≤ 0 → topLoop next x.stack = false → x.mask &&& c = 0 → brcSlice x c im n = some (goes next))
      ∧ (im.toInt ≤ 0 → topLoop next x.stack = false → x.mask &&& ~~~c ≠ 0 → x.mask &&& c ≠ 0 →
          let r := findLoop next x.stack (fun k => { k with exited := k.exited ||| (x.mask &&& ~~~c) })
          (r = none → brcSlice x c im n = none)
          ∧ ∀ st, r = some st → level st ≠ 0 →
              brcSlice x c im n = some { goes (x.lpc + im) with stack := st, mask := level st })
      ∧ (∀ st k, im.toInt ≤ 0 → x.stack = st ++ [k] → k.kind = .loopTok → k.join = next →
          let back := st ++ [{ k with pending := 0 }]
          (level back &&& ~~~c = 0 → level back ≠ 0 →
            brcSlice x c im n = some { goes (x.lpc + im) with stack := back, mask := level back })
          ∧ (level back &&& c = 0 → level back ≠ 0 → level st ≠ 0 →
              brcSlice x c im n = some { goes next with stack := st, mask := level st })
          ∧ (level back &&& ~~~c ≠ 0 → level back &&& c ≠ 0 →
              let on := st ++ [{ k with pending := 0, exited := k.exited ||| (level back &&& ~~~c) }]
              level on ≠ 0 → brcSlice x c im n = some { goes (x.lpc + im) with stack := on, mask := level on }))
      ∧ (x.mask &&& c = 0 → brkSlice x c im n = some (goes next) ∧ contSlice x c im n = some (goes next))
      ∧ (x.mask &&& c ≠ 0 →
          let p := loopPos (x.lpc + im) x.stack
          let k := tokenAt x.stack p (x.lpc + im)
          let lanes := level (x.stack.take p.1) &&& ~~~k.exited
          let keep := if p.2 then p.1 + 1 else p.1
          let stays := findLoop (x.lpc + im) x.stack (fun k => { k with exited := k.exited ||| (x.mask &&& c) })
          let waits := findLoop (x.lpc + im) x.stack (fun k => { k with pending := k.pending ||| (x.mask &&& c) })
          let turn := lanes &&& ~~~(x.mask &&& c) &&& ~~~k.pending = 0
            ∧ (x.stack.drop keep).all (fun k => k.kind == .loopTok) = true
          (lanes &&& ~~~(x.mask &&& c) = 0 → level (x.stack.take p.1) ≠ 0 → brkSlice x c im n
            = some { goes (x.lpc + im) with stack := x.stack.take p.1, mask := level (x.stack.take p.1) })
          ∧ (lanes &&& ~~~(x.mask &&& c) ≠ 0 → (stays = none → brkSlice x c im n = none)
              ∧ ∀ st, stays = some st → level st ≠ 0 →
                  brkSlice x c im n = some { goes next with stack := st, mask := level st })
          ∧ (turn → level (x.stack.take keep) ≠ 0 → contSlice x c im n
              = some { goes (x.lpc + im - 12) with stack := x.stack.take keep, mask := level (x.stack.take keep) })
          ∧ (¬ turn → (waits = none → contSlice x c im n = none)
              ∧ ∀ st, waits = some st → level st ≠ 0 →
                  contSlice x c im n = some { goes next with stack := st, mask := level st }))
      ∧ ((∀ k, x.stack.getLast? = some k → k.kind = .ifTok → k.join ≠ next) → jmpSlice x im n = some (goes (x.lpc + im)))
      ∧ (∀ st k, x.stack = st ++ [k] → k.kind = .ifTok → k.join = next →
          (24 ≤ x.stack.length → jmpSlice x im n = none)
          ∧ (x.stack.length < 24 → level st &&& k.pending ≠ 0 → jmpSlice x im n = some { goes next with
              stack := x.stack ++ [{ kind := .elseTok, pending := 0, exited := 0, join := x.lpc + im }]
              mask := level st &&& k.pending }))
      ∧ ((∀ k, x.stack.getLast? = some k → k.join ≠ x.lpc) → joinSlice x n = goes next)
      ∧ (∀ st k, x.stack = st ++ [k] → k.join = x.lpc → k.kind ≠ .elseTok →
          joinSlice x n = { goes next with stack := st, mask := level st })
      ∧ (∀ st i k, x.stack = st ++ [i, k] → k.join = x.lpc → k.kind = .elseTok →
          joinSlice x n = { goes next with stack := st, mask := level st })

/-! Lane memory. -/

/-- The lane loads and stores of R201: base, consecutive or indexed, and scratchpad. A global access is one line request after
another, each one access of its own, which complete where none must wait, as those of one line do where nothing holds it; then
every lane has the raw bytes its line request returned, those of memory where the L1 holds no copy of the line, or has stored its
operand there; bytes outside those of the lanes are as before, and so is every other register. Where two lanes store to the same
bytes nothing is said of those bytes here. -/
def Obligations.LaneLoadsStores : Prop :=
  ∀ (s : State) (t : Thread) (g : Nat) (o : LaneOps) (pa : Nat → Nat),
    let ls := t.activeLanes g o
    let n := tyWidth o.ty / 8
    let base : Word := word (t.uniform ls o.a 64) + o.im.signExtend 64
    let row : Nat → Word := fun l => base + word (n * l)
    let idx : Nat → Word := fun l => base + (BitVec.ofNat 32 (t.laneRead l o.b 32)).signExtend 64 <<< (o.md.toNat % 4)
    let loads : BitVec 8 → Instr → (Nat → Word) → Prop := fun fn i va =>
      GangIssues s t g 0x70 fn o → LanesBegin s t g ls n .read va pa →
      let f := loadLine (coreOf s.cur.tid) t.ctx n true (fun x => (x, 0))
      (∀ u got, LanesDo s u f ls va got →
        GangBecomesOn s u i g (t.writeTy o.ty o.d ((byLane got).map (fun r => (r.1, r.2.1))))
        ∧ (byLane got).map Prod.fst = ls ∧ u.mem = s.mem ∧ u.threads = s.threads ∧ u.cohorts = s.cohorts)
      ∧ (∀ line, LanesMeet s t ls va pa line → (∀ l ∈ ls, s.poisoned (pa l) n = false) →
          (s.coreAt (coreOf s.cur.tid)).l1.all (fun e => e.vline != line || e.asid != s.asidOf t.ctx) = true →
          ∃ u, LanesDo s u f ls va (ls.map (fun l => (l, Mem.readN s.mem (pa l) n, 0))))
    let stores : BitVec 8 → Instr → (Nat → Word) → BitVec 8 → Prop := fun fn i va code =>
      GangIssues s t g 0x70 fn o → LanesBegin s t g ls n .write va pa →
      let f := storeLine s.cur.tid t n (fun l => t.operand l code o.ty)
      (∀ u got, LanesDo s u f ls va got →
        GangBecomesOn s u i g t.dirty ∧ u.threads = s.threads ∧ u.cohorts = s.cohorts
        ∧ (∀ j, (∀ l ∈ ls, j < pa l ∨ pa l + n ≤ j) → u.byteAt j = s.byteAt j)
        ∧ ∀ l ∈ ls, (∀ i ∈ ls, i ≠ l → pa i + n ≤ pa l ∨ pa l + n ≤ pa i) →
            Mem.readN u.mem (pa l) n = t.laneRead l code (8 * n) % 2 ^ (8 * n))
      ∧ (∀ line, LanesMeet s t ls va pa line → ∃ u got, LanesDo s u f ls va got)
    0 < n → t.redBuf.length < Config.storeBuffer →
    loads 0x00 (.vmLd o) row ∧ loads 0x02 (.vmLdx o) idx ∧ stores 0x01 (.vmSt o) row o.b ∧ stores 0x03 (.vmStx o) idx o.c
    ∧ ∀ c : Cohort, look s.cohorts t.cohort = some c →
        let off : Nat → Int := fun l => (t.laneRead l o.a 32 : Int) + o.im.toInt
        (∀ l ∈ ls, 0 ≤ off l ∧ off l + n ≤ c.spsize ∧ off l % n = 0 ∧ s.scratchOwned c (off l).toNat n = false) →
        (GangIssues s t g 0x70 0x04 o → (∀ l ∈ ls, c.poisoned (off l).toNat n = false) →
          GivesLanes s t g (.vmSld o) o (fun l => c.scratch.readN (off l).toNat n))
        ∧ (GangIssues s t g 0x70 0x05 o → (∀ l ∈ ls, c.hitsQcb (off l).toNat n = false) →
            ∃ c' : Cohort, GangBecomesOn s (s.setCohort t.cohort c') (.vmSst o) g t.dirty
              ∧ { c' with scratch := c.scratch, spoison := c.spoison } = c
              ∧ (∀ j, (∀ l ∈ ls, j < (off l).toNat ∨ (off l).toNat + n ≤ j) → c'.scratch.get8 j = c.scratch.get8 j)
              ∧ ∀ l ∈ ls, (∀ i ∈ ls, i ≠ l → off i ≠ off l) →
                  c'.scratch.readN (off l).toNat n = t.laneRead l o.b (8 * n) % 2 ^ (8 * n))

/-- `vm.atom` (R202, R203): line request by line request, a lane whose bytes no other active lane names reads its location, which
takes the operation's value, and receives the old one; bytes outside those of the lanes are as before; an fxread changes none.
The requests of one line complete where nothing holds it. `vm.red` posts one reduction of each active lane in ascending order,
and `vm.pref` changes no memory and no register (R193, R196). -/
def Obligations.LaneAtomics : Prop :=
  ∀ (s : State) (t : Thread) (g : Nat) (o : LaneOps) (pa : Nat → Nat),
    let ls := t.activeLanes g o
    let n := tyWidth o.ty / 8
    let op := o.md.toNat / 4
    let base : Word := word (t.uniform ls o.a 64) + o.im.signExtend 64
    let va : Nat → Word := fun l => base + (BitVec.ofNat 32 (t.laneRead l o.b 32)).signExtend 64 <<< (o.md.toNat % 4)
    t.redBuf.length < Config.storeBuffer →
    (0 < n → op ≤ 10 → GangIssues s t g 0x70 0x06 o → LanesBegin s t g ls n .atomic va pa →
      let f := atomLine (coreOf s.cur.tid) t o
      (∀ line, LanesMeet s t ls va pa line → (∀ l ∈ ls, s.poisoned (pa l) n = false) → ∃ u got, LanesDo s u f ls va got)
      ∧ ∀ u got, LanesDo s u f ls va got →
        let r := byLane got
        r.map Prod.fst = ls
        ∧ (orAll (r.map (fun x => (x.1, x.2.2))) &&& t.fpctl.setWidth 6 = 0 →
            BecomesOn s u (.vmAtom o) ((((t.writeTy o.ty o.d (r.map (fun x => (x.1, x.2.1)))).dirty).advance g s.cur.len).orFlags
              (orAll (r.map (fun x => (x.1, x.2.2))))))
        ∧ u.threads = s.threads ∧ u.cohorts = s.cohorts
        ∧ (∀ j, (∀ l ∈ ls, j < pa l ∨ pa l + n ≤ j) → u.byteAt j = s.byteAt j)
        ∧ ∀ l ∈ ls, (∀ i ∈ ls, i ≠ l → pa i + n ≤ pa l ∨ pa l + n ≤ pa i) → op ≤ 9 →
            let old := Mem.readN s.mem (pa l) n
            (l, old, 0) ∈ r
            ∧ Mem.readN u.mem (pa l) n = (atomNew op (8 * n) old (t.operand l o.c o.ty) (vmComparand t o l)).1)
    ∧ (op = 11 → GangIssues s t g 0x70 0x06 o → LanesBegin s t g ls 16 .read va pa →
        let give := fxRead (Fmt.ofTy o.ty.toNat)
        let f := loadLine (coreOf s.cur.tid) t.ctx 16 false give
        (∀ line, LanesMeet s t ls va pa line → (∀ l ∈ ls, s.poisoned (pa l) 16 = false) → ∃ u got, LanesDo s u f ls va got)
        ∧ ∀ u got, LanesDo s u f ls va got → u.mem = s.mem ∧ u.threads = s.threads ∧
          let r : List (Nat × Nat × FFlags) := ls.map (fun l => (l, give (Mem.readN s.mem (pa l) 16)))
          (orAll (r.map (fun x => (x.1, x.2.2))) &&& t.fpctl.setWidth 6 = 0 →
            BecomesOn s u (.vmAtom o) (((t.writeTy o.ty o.d (r.map (fun x => (x.1, x.2.1)))).advance g s.cur.len).orFlags
              (orAll (r.map (fun x => (x.1, x.2.2)))))))
    ∧ (GangIssues s t g 0x70 0x07 o → t.redBuf.length + ls.length ≤ Config.storeBuffer →
        let bytes := if op = 12 then 16 else n
        (∀ l ∈ ls, s.check t (va l) bytes .atomic true = none) →
        let x : Nat → Nat × FFlags := fun l =>
          if op = 12 then fxAddend (Fmt.ofTy o.ty.toNat) (t.operand l o.c o.ty) else (t.operand l o.c o.ty, 0)
        let r : Nat → Red := fun l =>
          { uid := t.uid, core := coreOf s.cur.tid, slot := s.cur.tid % 32, lane := l, party := .gang g,
            pc := lanePc (t.gangPc g), task := t.task, winid := t.winid, ctx := t.ctx, addr := (va l).toNat, op, bytes,
            value := BitVec.ofNat 128 (x l).1, owed := false }
        GangRaises s t g (.vmRed o) { t.dirty with redBuf := t.redBuf ++ ls.map r } (ls.map (fun l => (l, (x l).2))))
    ∧ (GangIssues s t g 0x70 0x08 o → PortFree s t →
        ((∀ l ∈ ls, inRanges t.ranges (va l).toNat 1 .read = false) → GangBecomes s (.vmPref o) g t)
        ∧ (∀ u n, t.sentBefore (.gang g) = (0, []) →
            s.sendPrefs s.cur.tid t true (prefLines t.ranges (vmIndexed t ls o)) = (u, n, true) →
            GangBecomesOn s u (.vmPref o) g t ∧ u.mem = s.mem ∧ u.threads = s.threads))

/-- The lanes of one address (R82, R192, R203): integer lanes act in ascending order, each receiving what the one before left; a
float add of one lane alone is an atomic of R192, the location plus its operand; of several lanes they sum in order from +0, the
first lane receives the location, another the location plus the sum of those before it, and the location takes the sum of all.
That a lane alone does not sum from +0, and the flags of a group, are the model's readings (log 20); of the flags nothing is
stated. -/
def Obligations.AtomicAggregation : Prop :=
  ∀ (ty : BitVec 4) (op m : Nat) (ls : List (Nat × Nat × Nat)) (l x c : Nat),
    let w := tyWidth ty
    (op ≤ 9 →
      atomGroup op ty m [(l, x, c)] = ([(l, m, 0)], (atomNew op w m x c).1)
      ∧ (let r := atomGroup op ty (atomNew op w m x c).1 ls
         atomGroup op ty m ((l, x, c) :: ls) = ((l, m, 0) :: r.1, r.2)))
    ∧ (op = 0 → m < 2 ^ w → (atomGroup op ty m ls).2 = (m + (ls.map (fun y => y.2.1)).sum) % 2 ^ w)
    ∧ (let f := Fmt.ofTy ty.toNat
       let P : Nat → Nat := fun i => (ls.take i).foldl (fun p y => (addF f p y.2.1).1) 0
       let r := atomGroup 10 ty m ls
       r.1.map (fun y => y.1) = ls.map (fun y => y.1)
       ∧ (ls.length = 1 → r.1.map (fun y => y.2.1) = [m] ∧ ∀ y ∈ ls, r.2 = (addF f m y.2.1).1)
       ∧ (2 ≤ ls.length → r.2 = (addF f m (P ls.length)).1
          ∧ ∀ i y, r.1[i]? = some y → y.2.1 = if i = 0 then m else (addF f m (P i)).1))

/-! The matrix engine and the selection unit. -/

/-- What each MX instruction does when it is taken (R125-R134): the record is made or ended, or an operation joins those of
the core with the operands read then; `mx.mrd` with no earlier writer of its tile gives its cells, and `mx.mnote` of a
tile that no operation names delivers its decrement at once.
The order of the checks beside R129 is the model's reading (log 21). -/
def Obligations.MatrixAcceptance : Prop :=
  ∀ (s : State) (t : Thread) (g : Nat) (o : LaneOps) (c : Cohort),
    let ls := t.activeLanes g o
    let r : Resv := { w0 := word (t.uniform ls o.a 64), w1 := word (t.uniform ls o.b 64), live := true }
    let n := s.recsHeld (coreOf s.cur.tid)
    let idle : List MxOp := (s.coreAt (coreOf s.cur.tid)).mx
    let a32 := t.uniform ls o.a 32
    let b32 := t.uniform ls o.b 32
    let base := word (t.uniform ls o.c 64)
    let rb := rowBytesOf o.ty.toNat
    let ra := c.liveRec o.a.toNat
    let rg := c.liveRec o.c.toNat
    let bb := c.liveRec o.b.toNat
    let last := 16 * t.slices - 1
    (MatrixIssues s t g 0x00 o c → resvCheck s t c o.d.toNat r = none → n.1 < 16 →
      n.2 + (if r.loc then 0 else r.len) ≤ Config.operandBytes →
      GangBecomesOn s (s.setCohort t.cohort { c with recs := put c.recs o.d.toNat r }) (.mxMres o) g t)
    ∧ (MatrixIssues s t g 0x01 o c → (c.liveRec o.d.toNat).isSome = true →
        idle.all (fun x => !(x.cohort == t.cohort && x.recs.contains o.d.toNat)) = true →
        GangBecomesOn s (s.setCohort t.cohort { c with recs := del c.recs o.d.toNat }) (.mxMfree o) g t)
    ∧ (MatrixIssues s t g 0x01 o c → (c.liveRec o.d.toNat).isSome = true →
        ∃ u : State, GangBecomesOn s u (.mxMfree o) g t ∧ u.mem = s.mem ∧ u.threads = s.threads
          ∧ ∃ c', look u.cohorts t.cohort = some c' ∧ c'.scratch = c.scratch ∧ c'.operand = c.operand)
    ∧ (MatrixIssues s t g 0x02 o c → ∀ x, c.liveRec o.d.toNat = some x → x.loc = false → b32 ≠ 0 → a32 + b32 ≤ c.spsize →
        o.im.toNat + b32 ≤ x.len → a32 % 32 = 0 → b32 % 32 = 0 → o.im.toNat % 32 = 0 →
        Accepts s t g (.mxMfill o) o [o.d.toNat] [] (.mfill o.d.toNat a32 b32 (x.off + o.im.toNat)) t)
    ∧ (MatrixIssues s t g 0x03 o c → ∀ x y e, mmaCheck s t c o ra bb false (fun r => r.rowFits last (mxK o)
          && r.extraFits last (mxK o) c.spsize) = .inr (x, y, e) →
        Accepts s t g (.mxMma o) o [o.a.toNat, o.b.toNat] [] (.mma o.d.toNat x y e (mxZ o) (mxK o)) t)
    ∧ (MatrixIssues s t g 0x04 o c → ∀ x y e, mmaCheck s t c o rg bb true (fun _ => true) = .inr (x, y, e) →
        (∀ l ∈ ls, ∀ i ∈ runWords t l o.a, i = 0xFFFFFFFF#32
          ∨ (x.rowFits i.toNat (mxK o) = true ∧ x.extraFits i.toNat (mxK o) c.spsize = true)) →
        Accepts s t g (.mxMmag o) o [o.c.toNat, o.b.toNat] []
          (.mmag o.d.toNat x y e (mxZ o) (mxK o) (ls.flatMap (fun l => runWords t l o.a))) t)
    ∧ (∀ e, s.entryOf t.ctx (mxSel o) = some e → e.hasClass (entryClass e o.ty.toNat) = true →
        (MatrixIssues s t g 0x05 o c → Accepts s t g (.mxMzero o) o [] []
          (.mzero o.d.toNat (BitVec.ofNat 32 (e.identity (entryClass e o.ty.toNat)))) t)
        ∧ (MatrixIssues s t g 0x0A o c → Accepts s t g (.mxMrow o) o [] []
            (.mrow o.d.toNat e (o.ty == 8) (ls.flatMap (fun l => runWords t l o.a))) t))
    ∧ (o.im.toNat % 128 + 2 ^ (o.md.toNat % 4) ≤ 128 →
        let col := o.im.toNat % 128
        let k := 2 ^ (o.md.toNat % 4)
        (MatrixIssues s t g 0x06 o c → (s.mxPending s.cur.tid t.uid).all (fun x => !x.kind.writesTile o.a.toNat) = true →
          GangBecomes s (.mxMrd o) g (t.writeRun 32 o.d (ls.map (fun l => (l, (upFrom 0 (4 * k)).map (fun x =>
            ((t.tileAt o.a.toNat).cells.get32 (cellKey (4 * l + x % 4) (col + x / 4))).toNat))))))
        ∧ (MatrixIssues s t g 0x07 o c → Accepts s t g (.mxMwr o) o [] []
            (.mwr o.d.toNat col k (ls.flatMap (fun l => (upFrom 0 (4 * k)).map (fun x => BitVec.ofNat 32 (t.run4 l o.a x))))) t))
    ∧ (MatrixIssues s t g 0x08 o c → b32 + 16 * t.slices * rb ≤ c.spsize → b32 % 128 = 0 →
        c.hitsQcb b32 (16 * t.slices * rb) = false → (∀ x ∈ lanesRows ls, s.scratchOwned c (b32 + x * rb) rb = false) →
        ∃ owned, Accepts s t g (.mxMst o) o [] owned (.mst o.a.toNat o.ty.toNat b32) t.dirty)
    ∧ (MatrixIssues s t g 0x09 o c → base.toNat % 128 = 0 →
        let rows := mstxRows ls (ls.flatMap (fun l => runWords t l o.b)) base rb
        (∀ x ∈ rows, s.rowCheck t x.2.2 rb = none) →
        (∀ x ∈ rows, ∀ va ∈ rowLines x.2.2 rb, ∃ p, s.reach t.ctx va = .ok p) →
        let places := (rows.flatMap (fun x => rowLines x.2.2 rb)).filterMap (fun va =>
          match s.reach t.ctx va with | .ok pa => some (va, pa) | _ => none)
        let u := places.foldl (fun s x => s.writeTouch (.core (coreOf s.cur.tid)) t.ctx x.1 x.2 none) s
        u.mem = s.mem ∧ AcceptsOn s u t g (.mxMstx o) o [] (places.map (fun x => x.2 / 128)).eraseDups
          (places.map (fun x => u.homeOf t.ctx x.1))
          (.mstx o.a.toNat o.ty.toNat base (ls.flatMap (fun l => runWords t l o.b))) t.dirty)
    ∧ (MatrixIssues s t g 0x0B o c → let h := word (t.uniform ls o.b 64)
        (hPart h ≠ partOfCtx t.ctx → GangFaults s t g (.mxMnote o) 0x14 (ls.headD 0xFF) h 0)
        ∧ (hPart h = partOfCtx t.ctx →
          (s.mxPending s.cur.tid t.uid).all (fun x => !x.kind.tiles.contains o.a.toNat) = true →
          GangBecomesOn s (s.sendDecrement h false) (.mxMnote o) g t.dirty)
        ∧ (hPart h = partOfCtx t.ctx →
          (s.mxPending s.cur.tid t.uid).any (fun x => x.kind.tiles.contains o.a.toNat) = true →
          Accepts s t g (.mxMnote o) o [] [] (.mnote o.a.toNat h) t.dirty))

/-- What a retired tile operation leaves (R114-R120, R128-R133): of a zeroing, a multiplication, with the row of A that an index
names where it gathers, or a row operation, the cells of its rows take the operation's values and every other cell of the tile
stays; a write of registers changes only its columns; a fill copies scratchpad bytes to operand space and changes no other byte
of it; a store leaves its rows at TY, rounded to nearest even where TY is narrower, and changes no other byte of the scratchpad,
or of memory.
The scale rows are the model's reading (log 21). -/
def Obligations.MatrixResults : Prop :=
  ∀ (s : State) (op : MxOp) (t : Thread) (c : Cohort), look s.threads op.tid = some t → t.uid = op.uid → t.ended = false →
    look s.cohorts op.cohort = some c →
    op.lanes.Nodup →
    let rows := lanesRows op.lanes
    let cellAt : Nat → Nat → Nat → Nat := fun n row col => ((t.tileAt n).cells.get32 (cellKey row col)).toNat
    let stored : Nat → Nat → Nat := fun ty x =>
      if ty = 0 then x else (roundF (Fmt.ofTy ty) .rne (Fmt.f32.value x)).1 % 2 ^ 16
    let leaves : Nat → (Nat → Nat → Nat) → FFlags → Prop := fun n f fl =>
      n < t.tiles.length →
      ∃ u : State, s.mxPerform op = some u ∧ u.mem = s.mem ∧ u.cohorts = s.cohorts
        ∧ ∃ tile : Tile, look u.threads op.tid = some (({ t with tiles := setNth t.tiles n tile } : Thread).orFlags fl)
          ∧ (∀ row ∈ rows, ∀ col, col < 128 → tile.cells.get32 (cellKey row col) = BitVec.ofNat 32 (f row col))
          ∧ ∀ k, (∀ row ∈ rows, ∀ col, col < 128 → k ≠ cellKey row col) → tile.cells.get32 k = (t.tileAt n).cells.get32 k
    (∀ n v, op.kind = .mzero n v → leaves n (fun _ _ => v.toNat) 0)
    ∧ (∀ n ra rb e z k, op.kind = .mma n ra rb e z k → c.mulPoisoned ra rb k rows = false →
        let m : MxSides := { a := ra, b := rb, dataA := if ra.loc then c.scratch else c.operand, dataB := c.operand,
                             scratch := c.scratch }
        ∃ fl, leaves n (fun row col => (m.cell e z k (cellAt n row col) (some row) col).1) fl)
    ∧ (∀ n ra rb e z k idx, op.kind = .mmag n ra rb e z k idx → idx.length = rows.length →
        let from_ : Nat → Option Nat := fun row => ((rows.zip idx).find? (fun x => x.1 == row)).bind (fun x =>
          if x.2 = 0xFFFFFFFF#32 then none else some x.2.toNat)
        c.mulPoisoned ra rb k (rows.filterMap from_) = false →
        let m : MxSides := { a := ra, b := rb, dataA := if ra.loc then c.scratch else c.operand, dataB := c.operand,
                             scratch := c.scratch }
        ∃ fl, leaves n (fun row col => (m.cell e z k (cellAt n row col) (from_ row) col).1) fl)
    ∧ (∀ n e f32 factors, op.kind = .mrow n e f32 factors → factors.length = rows.length →
        let factor : Nat → Nat := fun row => ((rows.zip factors).find? (fun x => x.1 == row)).elim 0 (fun x => x.2.toNat)
        ∃ fl, leaves n (fun row col =>
          (combineCell e (entryClass e (if f32 then 8 else 0)) (factor row) (cellAt n row col)).1) fl)
    ∧ (∀ n col k vals, op.kind = .mwr n col k vals → col + k ≤ 128 → vals.length = 4 * k * op.lanes.length →
        n < t.tiles.length → ∃ u : State, s.mxPerform op = some u ∧ u.mem = s.mem ∧ u.cohorts = s.cohorts
          ∧ ∃ tile : Tile, look u.threads op.tid = some { t with tiles := setNth t.tiles n tile }
            ∧ (∀ row ∈ rows, ∀ j, col ≤ j → j < col + k → tile.cells.get32 (cellKey row j)
                = (vals[4 * k * op.lanes.idxOf (row / 4) + 4 * (j - col) + row % 4]?).getD 0)
            ∧ ∀ i, (∀ row ∈ rows, ∀ j, col ≤ j → j < col + k → i ≠ cellKey row j) →
                tile.cells.get32 i = (t.tileAt n).cells.get32 i)
    ∧ (∀ n ty off, op.kind = .mst n ty off →
        let rb := rowBytesOf ty
        let w := rb / 128
        ∃ (u : State) (fl : FFlags) (c' : Cohort), s.mxPerform op = some u ∧ u.mem = s.mem
          ∧ look u.threads op.tid = some (t.orFlags fl)
          ∧ look u.cohorts op.cohort = some c' ∧ c'.operand = c.operand
          ∧ (∀ row ∈ rows, ∀ col, col < 128 → c'.scratch.readN (off + row * rb + w * col) w = stored ty (cellAt n row col))
          ∧ ∀ j, (∀ row ∈ rows, j < off + row * rb ∨ off + row * rb + rb ≤ j) → c'.scratch.get8 j = c.scratch.get8 j)
    ∧ (∀ n ty base idx, op.kind = .mstx n ty base idx → base.toNat % 128 = 0 →
        let rb := rowBytesOf ty
        let w := rb / 128
        let rs := mstxRows op.lanes idx base rb
        let lines := rs.flatMap (fun x => rowLines x.2.2 rb)
        ∀ pa : Nat → Nat, (∀ v ∈ lines, s.place op.ctx v = .byte (pa v) ∧ pa v % 128 = 0) →
        (∀ v ∈ lines, ∀ v' ∈ lines, v ≠ v' → pa v ≠ pa v') →
        (rs.length ≤ 1 → (∀ v ∈ lines, s.mustWait op.ctx v (pa v) = false) → (s.mxPerform op).isSome = true)
        ∧ ∀ u, s.mxPerform op = some u → u.cohorts = s.cohorts ∧ (∃ fl, look u.threads op.tid = some (t.orFlags fl))
          ∧ (∀ x ∈ rs, (∀ y ∈ rs, y ≠ x → y.2.2 ≠ x.2.2) → ∀ col, col < 128 →
              Mem.readN u.mem (pa (x.2.2 + w * col / 128 * 128) + w * col % 128) w = stored ty (cellAt n x.1 col))
          ∧ ∀ j, (∀ v ∈ lines, j < pa v ∨ pa v + 128 ≤ j) → u.byteAt j = s.byteAt j)
    ∧ (∀ n src len dst, op.kind = .mfill n src len dst → anyPoison c.spoison src len = false →
        ∃ u : State, s.mxPerform op = some u ∧ u.mem = s.mem ∧ u.threads = s.threads
          ∧ ∃ c' : Cohort, look u.cohorts op.cohort = some c' ∧ c'.scratch = c.scratch
            ∧ (∀ j, j < len → c'.operand.get8 (dst + j) = c.scratch.get8 (src + j))
            ∧ ∀ j, (j < dst ∨ dst + len ≤ j) → c'.operand.get8 j = c.operand.get8 j)
    ∧ (∀ z k old j e (m : MxSides), m.cell e z k old none j = (if z then e.identity (classOf m.a.ty) else old, 0))

/-- The SL instructions (R140-R151): one that passes its checks joins its unit with its operands read, and its gang waits;
its retirement performs it. `sl.rng` gives each lane its four words.
That a selection is computed as it retires, of the words its unit has read by then, is the model's reading (log 10). -/
def Obligations.Selection : Prop :=
  ∀ (s : State) (t : Thread) (g : Nat) (o : LaneOps) (c : Cohort), look s.cohorts t.cohort = some c →
    let ls := t.activeLanes g o
    let n := coreOf s.cur.tid
    let core := s.coreAt n
    let src := t.uniform ls o.a 32
    let nb := t.uniform ls o.b 64
    let blank : SlOp :=
      { ends := 0, seen := [], done := [], uid := t.uid, tid := s.cur.tid, cohort := t.cohort, gang := g, lanes := ls,
        fn := 0, o, len := s.cur.len, blocks := [], src := 0, n := 0, base := 0, dst := 0 }
    let joins : Instr → SlOp → Thread → Prop := fun i op t' =>
      BecomesOn s (s.setCore n { core with slq := core.slq ++ [op] }) i (t'.gangWait g (some .select))
    let accepts : Nat → Instr → Prop := fun fn i =>
      GangIssues s t g 0x90 (BitVec.ofNat 8 fn) o → ls ≠ [] →
      let dst := if fn < 2 then t.uniform ls o.c 32 else 0
      slCheck c fn o src (nb % 2 ^ 32) dst = none →
      joins i { blank with ends := s.slEnds n fn o (nb % 2 ^ 32), fn := fn, src := src, n := nb % 2 ^ 32,
                           base := nb / 2 ^ 32, dst := dst }
        (if fn < 2 then t.dirty else t)
    accepts 0 (.slTopk o) ∧ accepts 1 (.slSmax o) ∧ accepts 2 (.slSamp o)
    ∧ (GangIssues s t g 0x90 3 o → (∀ l ∈ ls, t.laneRead l o.a 32 ≠ 0xFFFFFFFF) →
        joins (.slRng o) { blank with ends := s.slEnds n 3 o 0, fn := 3, blocks := ls.map (fun l => (l, t.laneRead l o.a 32)) } t)
    ∧ (∀ op, op.fn = 3 → look s.threads op.tid = some t → t.ended = false → t.uid = op.uid →
        s.slPerform op = s.setThread op.tid ((t.writeRun 32 op.o.d (rngWords t op.blocks)).advance op.gang op.len))

/-- What `sl.topk` leaves (R144): min(k, n) elements, from the highest rank down, a NaN ranking below every value and ties
going to the lower index; each is an element of the source with its index, a NaN as the canonical one, and every element
of the source that is left out ranks below them all. -/
def Obligations.TopkRanks : Prop :=
  ∀ (k : Nat) (xs : List SlItem),
    (topkPairs k xs).length = min k xs.length
    ∧ (topkPairs k xs).Pairwise (fun x y => ranksAbove x y = true)
    ∧ (∀ x ∈ topkPairs k xs, ∃ y ∈ xs, y.2 = x.2 ∧ (x.1 = y.1 ∨ (Fmt.f32.value y.1 = .nan ∧ x.1 = canonNaN .f32)))
    ∧ ∀ y ∈ xs, (∃ x ∈ topkPairs k xs, y.2 = x.2 ∧ (x.1 = y.1 ∨ (Fmt.f32.value y.1 = .nan ∧ x.1 = canonNaN .f32)))
        ∨ ∀ x ∈ topkPairs k xs, ranksAbove x y = true

/-- `lq.qpushv` and `lq.qpopv` (R222, R223) of a queue that admits the gang's party: with no active lane nothing but the
lane PC moves; a push of the active lanes' elements that the home takes gives the lanes their positions; a pop gives them
its elements; a closed queue is QUEUE_CLOSED for a push. -/
def Obligations.LaneQueueOperations : Prop :=
  ∀ (s : State) (t t' : Thread) (g : Nat) (o : LaneOps) (r : QRef) (q : Queue),
    let ls := t.activeLanes g o
    let a := word (t.uniform ls o.a 64)
    let b := s.qcbBytes r q.size
    let n := qEsize b / 4
    (ls = [] → (GangIssues s t g 0xA0 0x00 o → GangBecomes s (.lqQpushv o) g t)
      ∧ (GangIssues s t g 0xA0 0x01 o → GangBecomes s (.lqQpopv o) g t))
    ∧ (GangIssues s t g 0xA0 0x00 o → ls ≠ [] → Names s t a r q → Takes s r true 0 → s.causes r q = 0 →
        lqCheck t o.b.toNat n ls.length (qCap b) = none →
        (qClosed b = true → GangFaults s t g (.lqQpushv o) 0x0A 0xFF a 0)
        ∧ (qClosed b = false → Quiet s t → Takes s r true ls.length →
            let h := s.homePush r (.core (coreOf s.cur.tid)) (ls.map (fun l => laneElem t l o.b.toNat n))
            let u := h.s.applyEnds h.ended
            look u.threads s.cur.tid = some t' → t'.ended = false → ∀ ps es z, h.ans = .many ps es z →
            GangBecomesOn s u (.lqQpushv o) g (t'.pushvDeliver o ls ps).dirty))
    ∧ (GangIssues s t g 0xA0 0x01 o → ls ≠ [] → Names s t a r q → t.gangPoisoned g = false → s.engineOnly r = false →
        Takes s r true 0 → s.causes r q = 0 → lqCheck t o.d.toNat n ls.length (qCap b) = none → Takes s r false ls.length →
        let h := s.homePop r (.core (coreOf s.cur.tid)) ls.length
        let u := h.s.applyEnds h.ended
        look u.threads s.cur.tid = some t' → t'.ended = false →
        (∀ ps es, h.ans = .many ps es false → GangBecomesOn s u (.lqQpopv o) g (t'.popvDeliver o ls es).dirty)
        ∧ (h.ans = .closed → GangBecomesOn s u (.lqQpopv o) g (t'.popvDeliver o ls []).dirty))

/-! Events: the steps that no instruction takes itself. Operands stand in `arg` (log 16). -/

/-- Lane blocks and the engines of a core (R135, R142, R257, R258): LANE_BLOCK_START starts the first queued block as one
gang at its entry, LANE_BLOCK_END ends one that has ended on every slice, what its gangs posted no longer theirs (R195);
MX_RETIRE performs an operation that no earlier one holds back and delivers the notes it lets go: those that no kept operation
before them of their thread names the tile of; SL_RETIRE the oldest selection, or, with `bound`, one word of scratchpad that it
reads or writes before it retires.
In what order the operations of a core that are free of each other retire is the model's reading (log 10). -/
def Obligations.BlocksAndEngines : Prop :=
  ∀ s : State, let n := s.arg.obj
    let c := s.coreAt n
    (∀ t b rest, look s.threads n = some t → t.ended = false → s.mayIssue n t.ctx = true →
      (t.running = false → t.blocks = b :: rest →
        exec .laneBlockStart s = .next (s.setThread n { t with
          running := true
          sl := t.sl.map (fun x => { x with
            lpc := b.entry, mask := 0xF, gang := 0, st := .issuing, stack := [], wait := none, since := s.clk }) }))
      ∧ (t.running = true → (∀ x ∈ t.sl, x.st = .ended) → ∃ u : State, exec .laneBlockEnd s = .next u ∧ u.mem = s.mem
        ∧ (∀ j, j ≠ n → look u.threads j = look s.threads j)
        ∧ look u.threads n = some { t with
            running := false, blocks := t.blocks.tail, sl := t.sl.map (fun x => { x with st := .idle })
            redBuf := t.redBuf.map (fun r =>
              if r.uid == t.uid && r.party != .scalar then { r with party := Party.past } else r) }))
    ∧ (c.mx = [] → Skips s .mxRetire) ∧ (c.slq = [] → Skips s .slRetire)
    ∧ (∀ op r u, (s.mxFree n).filter (fun o => s.arg.obj2 == 0 || o.age + 1 == s.arg.obj2) = op :: r → s.mxLeave n op = some u →
        let d := dueNotes [] (u.coreAt n).mx
        exec .mxRetire s = .next ((d.2.foldl (fun v h => v.sendDecrement h false)
          (u.setCore n { u.coreAt n with mx := d.1 })).freeRecs n op.cohort))
    ∧ (∀ (before : List MxOp) (op : MxOp),
        let d := dueNotes [] before
        let named : Nat → Bool := fun k => d.1.any (fun x => x.uid == op.uid && x.kind.tiles.contains k)
        (∀ k h, op.kind = .mnote k h → named k = false → dueNotes [] (before ++ [op]) = (d.1, d.2 ++ [h]))
        ∧ ((∀ k h, op.kind = .mnote k h → named k = true) → dueNotes [] (before ++ [op]) = (d.1 ++ [op], d.2)))
    ∧ (∀ op r, c.slq = op :: r → s.arg.bound = none → s.slFree op = true →
        exec .slRetire s = .next ((s.setCore n { c with slq := r }).slPerform op))
    ∧ (∀ op r w, c.slq = op :: r → s.arg.bound = some w → ∃ u : State, exec .slRetire s = .next u ∧ u.mem = s.mem
        ∧ u.threads = s.threads ∧ (u.coreAt n).slq.tail = r ∧ (u.coreAt n).slq.length = c.slq.length)

/-- The memory hierarchy's own steps (R160, R161, R175, R178, R181, R205): a slice takes its oldest request, performs a prefetch
that hits and moves a miss to its miss buffer if that has room; one that has lost its party, or whose line an engine has come to
own, leaves; a party's access that hits, or whose fill has come, is performed in its party's next turn, and no other access gets
past it; an answer raises its core's PTS; the rebase puts every clock and stamp at 0; the combiner takes a posted reduction,
where no request is held at the core's port, and performs one at its home. None but the last changes memory.
The combiner's order is the model's reading (log 12), a clk of the clocks its choice (log 4, log 8). -/
def Obligations.MemoryEvents : Prop :=
  ∀ s : State, let n := s.arg.obj
    let q := s.sliceAt n
    let c := s.coreAt n
    let d := s.dieAt (dieOfCore n)
    (∀ r rest, q.reqs = r :: rest →
      let taken : State := { s with slices := put s.slices n { q with reqs := rest } }
      (s.reqGone r = true → exec .l2ServeRequest s = .next taken)
      ∧ (s.reqGone r = false →
          (s.reqHits r = true → r.who = none → exec .l2ServeRequest s = .next (taken.serveReq r))
          ∧ (s.reqHits r = true → r.who.isSome = true → Skips s .l2ServeRequest)
          ∧ (s.reqHits r = false → q.misses.length < Config.missBuffer → exec .l2ServeRequest s
            = .next { s with slices := put s.slices n { reqs := rest, misses := q.misses ++ [r] } })
          ∧ (s.reqHits r = false → Config.missBuffer ≤ q.misses.length → Skips s .l2ServeRequest)))
    ∧ (∀ r rest, q.misses = r :: rest →
      let taken : State := { s with slices := put s.slices n { q with misses := rest } }
      (s.reqGone r = true → exec .l2MissFill s = .next taken)
      ∧ (s.reqGone r = false → r.who = none → exec .l2MissFill s = .next (taken.serveReq r))
      ∧ (s.reqGone r = false → r.who.isSome = true → Skips s .l2MissFill))
    ∧ (∀ ctx va pa, (s.sliceAt (s.homeOf ctx va)).ahead (s.isOwn (va / 128)) ≠ [] → s.mustWait ctx va pa = true)
    ∧ (∀ r, (s.serveReq r).mem = s.mem ∧ (s.serveReq r).threads = s.threads)
    ∧ (∀ m rest, c.responses = m :: rest → ∃ u : State, exec .memoryResponse s = .next u ∧ u.mem = s.mem
        ∧ u.threads = s.threads ∧ (u.coreAt n).responses = rest ∧ m.t ≤ u.pts n ∧ s.pts n ≤ u.pts n)
    ∧ (s.ptsFull = true → s.portsIdle = true → ∃ u : State, exec .ptsRebase s = .next u ∧ u.ptsBase = s.clk
        ∧ u.mem = s.mem ∧ u.threads = s.threads ∧ (∀ x ∈ u.cores, x.2.pts = 0 ∧ x.2.l1 = [])
        ∧ (∀ x ∈ u.saved, x.2.pts = 0) ∧ ∀ x ∈ u.l2, x.2.wts = 0 ∧ x.2.rts = 0)
    ∧ (d.combiner.length < Config.combinerSize → s.requestHeld n = false →
        (∀ r rest, c.posted = r :: rest → exec .reductionCombinerAccept s
          = .next ((s.setCore n { c with posted := rest }).setDie (dieOfCore n) { d with combiner := d.combiner ++ [r] }))
        ∧ (∀ tid t r rest, c.posted = [] → s.redThread n = some (tid, t) → t.redBuf = r :: rest →
            exec .reductionCombinerAccept s = .next ((s.setThread tid { t with redBuf := rest }).setDie (dieOfCore n)
              { d with combiner := d.combiner ++ [r] })))
    ∧ (s.requestHeld n = true → Skips s .reductionCombinerAccept)
    ∧ (∀ r rest u, (s.dieAt n).combiner = r :: rest →
        (s.setDie n { s.dieAt n with combiner := rest }).performRed r = some u → exec .reductionPerform s = .next u)

/-- The copy engine's own steps on a channel (R232, R238-R243, R249): with no chain nothing happens; a chain takes its next
record; a record that runs has its bytes moved, and one with every byte moved and every segment replayed ends with its
code; one into a cohort that is saved stays where it is, and ends ABORTED where that cohort has ended; one whose end has begun
goes on with it; a record that waits for a queue slot takes it with the position, and one that waits at a page goes on once the
page is resident; a listed segment is replayed once its pages are there and its lines can be owned, and the record fails with
FIXFAIL where one cannot be.
In what pieces a record's bytes are moved is the model's reading (log 13). -/
def Obligations.CopyEvents : Prop :=
  ∀ s : State, let ck := s.arg.obj
    (s.headChain ck = none → Skips s .copyTakeRecord ∧ Skips s .copyRecordComplete ∧ Skips s .qputRetry
      ∧ Skips s .copyFixupReplay ∧ Skips s .copyPageResident)
    ∧ (∀ h, s.headChain ck = some h → h.taken = none → s.partRuns (partOfCtx h.ctx) = true →
        exec .copyTakeRecord s = .next (s.reachRecord ck h))
    ∧ (∀ h, h.at_ = 0 → s.reachRecord ck h = s.endChain ck)
    ∧ (∀ h r, s.headChain ck = some h → h.taken = some r →
        let here := cohortDest r.raw = false ∨ (s.cohortBy h.cohort).isSome = true
        (h.st = .running → r.ending = none → (r.left ≠ [] ∨ r.fixes.length = r.fixed) → here →
          exec .copyRecordComplete s = .next (s.performRecord ck h r s.arg.obj2))
        ∧ (∀ e, r.ending = some e → exec .copyRecordComplete s = .next (s.finishRecord ck h r e))
        ∧ (¬ here → r.ending = none → (s.isSaved h.cohort = true → Skips s .copyRecordComplete)
            ∧ (s.isSaved h.cohort = false → exec .copyRecordComplete s = .next (s.endRecord ck h r 0x07 0 0)))
        ∧ (∀ n, crAction r.raw ≠ 4 → crKind r.raw = 5 ∨ (s.chanAt ck).linebuf = [] → r.left = [] → r.fixes.length = r.fixed →
            r.acks = 0 → s.performRecord ck h r n = s.endRecord ck h r r.doneCode 0 0)
        ∧ (h.st = .waitSlot → s.partRuns (partOfCtx h.ctx) = true → crAction r.raw = 4 → crFixlist r.raw = 0 →
            (∀ p bind u, s.qputReserve ck h r.raw = .pos p bind u →
              exec .qputRetry s = .next (u.holdRecord ck h { r with qpos := some p, qbind := bind }))
            ∧ (∀ u, s.qputReserve ck h r.raw = .wait u → exec .qputRetry s
                = .next (u.setChain ck { h with taken := some r, pre := [], st := .waitSlot }))
            ∧ (∀ code m u, s.qputReserve ck h r.raw = .bad code m u → exec .qputRetry s
                = .next (u.endRecord ck h r code (crTarget r.raw) (word m))))
        ∧ (h.st = .waitPage → s.chainGoes h = true →
            (s.waitsAt h = none → exec .copyPageResident s = .next (s.pageBack ck h))
            ∧ (∀ va, s.waitsAt h = some va →
              let x := s.fixPage h.ctx va
              (x.2 = true → exec .copyPageResident s = .next (x.1.pageBack ck h))
              ∧ (x.2 = false → exec .copyPageResident s = .next x.1)))
        ∧ (∀ g, h.st = .running → r.ending = none → r.left = [] → r.fixes[r.fixed]? = some g → here →
            let x := s.fixSeg h.ctx g
            let remote := crKind r.raw == 7
            let z := if remote then (x.1, r) else x.1.ownMore h r (g.moves.map (fun m => (m.dst, m.n)))
            let h' : Chain := { h with taken := some z.2 }
            let y := State.doMoves ck h' remote (crLen r.raw) g.moves z.1
            let r' : CopyRec := { z.2 with bad := r.bad || y.bad, acks := r.acks + y.acks, fixed := r.fixed + 1 }
            (x.2 = false → exec .copyFixupReplay s = .next (x.1.endRecord ck h r 0x0A 0 0))
            ∧ (x.2 = true → crAction r.raw = 4 → exec .copyFixupReplay s
                = .next (x.1.setChain ck { h with taken := some { r with fixed := r.fixed + 1 } }))
            ∧ (x.2 = true → crAction r.raw ≠ 4 → x.1.canOwn h r g.moves = false → exec .copyFixupReplay s = .next x.1)
            ∧ (x.2 = true → crAction r.raw ≠ 4 → x.1.canOwn h r g.moves = true → y.down = false → y.left = [] →
                exec .copyFixupReplay s
                = .next (if r.fixes.length = r.fixed + 1 then y.s.movesDone ck h' r'
                    else y.s.setChain ck { h' with taken := some r' }))))

/-- The Carder's own steps (R268-R280, R322, R418): a key's step that is ready is delivered to its window as a placement
request of its die; a key with none only has its order resolved; a new window is born with the partition's next identifier, no
record counted and a carry of zeros; a full Hatbox is reported once; a window that has idled is demoted one tier; the wheel
marks what expires; a held emission is pushed, or waits.
A stream that is held back (R379, R397, R412) has none of them.
The order of a key's steps where the rules leave it open is the model's reading (log 22). -/
def Obligations.CarderEvents : Prop :=
  ∀ s : State, let stream := s.arg.obj
    let key := s.arg.word
    let z := s.resolved stream key
    (∀ r ctl u, s.stepReady stream key = some r → r.reason = .openR → look z.streams stream = some ctl →
      let part := partOfCtx ctl.ctx
      z.tierFull part (z.dieOfKey part key) 2 = false → z.roomIn part (z.dieOfKey part key) 2 0 = some u →
      ∃ (v : State) (w : Window), exec .windowStepOpen s = .next v
        ∧ look v.windows (part * 2 ^ 64 + (u.partAt part).winNext) = some w
        ∧ w.winid = word (u.partAt part).winNext ∧ w.key = r.key ∧ w.count = 0 ∧ w.carry = List.replicate 16 0
        ∧ w.phase = .opening ∧ (v.partAt part).winNext = (u.partAt part).winNext + 1 ∧ v.mem = u.mem)
    ∧ (∀ r ctl, s.stepReady stream key = some r → r.reason = .openR → look z.streams stream = some ctl →
        let die := z.dieOfKey (partOfCtx ctl.ctx) key
        (z.tierFull (partOfCtx ctl.ctx) die 2 = true → ctl.full.any (fun x => x.1 == key) = false →
          exec .windowStepOpen s = .next ((z.setStream stream
            { ctl with full := ctl.full ++ [(key, z.time)] }).sendStall 2 ctl.ctx
            die key ctl.va))
        ∧ (z.tierFull (partOfCtx ctl.ctx) die 2 = false → z.roomIn (partOfCtx ctl.ctx) die 2 0 = none →
            exec .windowStepOpen s = .next z))
    ∧ (∀ r ctl wk w, s.stepReady stream key = some r → look z.streams stream = some ctl → z.windowOf stream r = some (wk, w) →
        let posts : Instr → WinPhase → Prop := fun i ph => exec i s = .next
          (((z.promote (.window wk) (partOfCtx w.ctx) w.tier w.key).setWindow wk { w with
            tier := 0, phase := ph, replays := min r.replays 255 }).postStep stream ctl wk r)
        (r.reason = .record ∨ r.reason = .pane → posts .windowStepRecord .step)
        ∧ (r.reason = .merge → posts .windowStepMerge .merging)
        ∧ (r.reason = .close → posts .windowStepClose .closing)
        ∧ (r.reason = .expire → ∀ c0, look s.streams stream = some c0 → wsEntry c0.spec .expire false ≠ 0 →
            posts .windowStepExpire .expiring))
    ∧ (s.stepReady stream key = none → Skips s .windowStepOpen ∧ exec .windowStepRecord s = .next z
        ∧ exec .windowStepMerge s = .next z ∧ exec .windowStepClose s = .next z ∧ exec .windowStepExpire s = .next z)
    ∧ (s.streamRuns stream = true → exec .windowTimeTrigger s = .next (s.placeCloses stream))
    ∧ (s.streamRuns stream = false → Skips s .carderTakeRecord ∧ Skips s .windowStepOpen ∧ Skips s .windowStepRecord
        ∧ Skips s .windowStepMerge ∧ Skips s .windowStepClose ∧ Skips s .windowStepExpire ∧ Skips s .windowTimeTrigger
        ∧ Skips s .hatboxFullRepeat)
    ∧ (∀ ctl q, look s.streams stream = some ctl → s.queueAt (.global stream) = some q → s.takeReady stream = true →
        (s.causes (.global stream) q ≠ 0 →
          let h := s.freeze (.global stream) q (s.causes (.global stream) q)
          exec .carderTakeRecord s = .next ((h.s.applyEnds h.ended).carderRecord (s.homeOf q.ctx q.va.toNat / 128) q.ctx 0x08 q.va
            (word (s.causes (.global stream) q))))
        ∧ (s.causes (.global stream) q = 0 →
            let b := s.qcbBytes (.global stream) 128
            let x := (s.slotReady (.global stream) q b ctl.taken).1.readSlot (.global stream) q b ctl.taken
            let sr : StreamRec := { pos := ctl.taken, seq := leAt b 0x60 8 - posSub (qTail b) ctl.taken,
                                    addr := slotAddr b ctl.taken, bytes := x.1 }
            let c : StreamCtl := { ctl with taken := (ctl.taken + 1) % 2 ^ 32 }
            let u := x.2.2.setStream stream c
            let die := u.dieOfKey (partOfCtx c.ctx) sr.key
            (x.2.1 = false → exec .carderTakeRecord s = .next (u.classify stream die c sr))
            ∧ (x.2.1 = true → exec .carderTakeRecord s
                = .next ((u.carderRecord die c.ctx 0x07 q.va 0).retire stream sr.pos))))
    ∧ (∀ ctl w, look s.streams stream = some ctl → s.ctxRuns ctl.ctx = true → s.arg.obj2 ≠ 0 →
        look s.windows s.arg.obj2 = some w →
        w.stream = stream → w.key = key → w.fires s.time = true → (look ctl.keys key.toNat).any (fun k => k.firing) = false →
        ∃ u : State, exec .wheelFire s = .next u ∧ u.mem = s.mem ∧ u.threads = s.threads
          ∧ ∃ w', look u.windows s.arg.obj2 = some w' ∧ w'.firing = true)
    ∧ (∀ w u v, stream ≠ 0 → look s.windows stream = some w → s.demoteDue w = true →
        s.roomIn (partOfCtx w.ctx) (s.dieOfKey (partOfCtx w.ctx) w.key) (1 - w.tier) (w.tier + 1) = some u →
        u.setTier (.window stream) (w.tier + 1) = some v → exec .hatboxDemote s = .next v)
    ∧ (∀ ctl k u v, stream = 0 → look s.streams s.arg.obj2 = some ctl → look ctl.keys key.toNat = some k →
        s.ctxRuns ctl.ctx = true →
        (s.partAt (partOfCtx ctl.ctx)).idleOver k.tier k.lastCommit s.time = true →
        s.roomIn (partOfCtx ctl.ctx) (s.dieOfKey (partOfCtx ctl.ctx) key) (1 - k.tier) (k.tier + 1) = some u →
        u.setTier (.entry s.arg.obj2 key.toNat) (k.tier + 1) = some v → exec .hatboxDemote s = .next v)
    ∧ (∀ ctl, look s.streams stream = some ctl → s.fullDue ctl key = true → ∃ u : State, exec .hatboxFullRepeat s = .next u
        ∧ u.mem = s.mem ∧ u.windows = s.windows ∧ ∃ m, u.events = s.events ++ [m])
    ∧ (∀ e va r, s.nextEmit stream = some e → spaceOf e.2.2.1 = some (.global va) →
        let s1 := s.setDie stream { s.dieAt stream with emits := (s.dieAt stream).emits.erase e }
        s.globalRef e.2.1 va = some r → s.queueBusy r true 1 = false → engineScope (s.qcbBytes r 64) = true →
        let h := s1.homePush r (.unit stream) [e.2.2.2]
        let u := h.s.applyEnds h.ended
        (∀ ps es p, h.ans = .many ps es p → exec .carderEmitPush s = .next u)
        ∧ (h.ans = .blocked → exec .carderEmitPush s
            = .next (u.joinWait r true { who := .carder stream, op := .emit e.1 e.2.1 e.2.2.2 }))
        ∧ (h.ans = .closed → exec .carderEmitPush s = .next (u.carderRecord stream e.2.1 0x0A e.2.2.1 0))
        ∧ (∀ m, h.ans = .corrupt m → exec .carderEmitPush s
            = .next (u.carderRecord stream e.2.1 0x08 e.2.2.1 (word m))))

/-- The task engine's own steps (R286-R297): it takes a packet of a submission queue into the die with most room; it
performs decrements in order, but none of a partition under quarantine or counted by a census (R379, R412); it asks for a ready
task's cohorts, one request for each piece; it completes a task whose threads have ended and whose effects are done; it splits
the largest running piece at a multiple of its grain; and it releases, or skips, a time-triggered task.
Ties beyond the rules' are the model's reading (log 23). -/
def Obligations.TaskEngineEvents : Prop :=
  ∀ s : State, let k := s.arg.obj
    let n := s.arg.obj2
    (∀ r die c, s.submitRef k = some r → s.spawnDie (partOfCtx k) = some die → look s.ctxs k = some c →
      s.ctxRuns k = true → s.queueBusy r false 1 = false →
      let home := s.homeOf k c.submitQ.toNat / 128
      let h := s.homePop r (.unit home) 1
      let u := h.s.applyEnds h.ended
      ∀ p ps e es poison, h.ans = .many (p :: ps) (e :: es) poison →
        (poison = true → exec .taskEnginePop s = .next (u.dropPacket home k 0x07 c.submitQ (word p)))
        ∧ (poison = false → packetIn e = none →
            exec .taskEnginePop s = .next (u.dropPacket home k 0x0D c.submitQ (word p)))
        ∧ (∀ b slot, poison = false → packetIn e = some b → u.freeSlot die = some slot →
            exec .taskEnginePop s = .next (u.acceptPacket die slot k b 0 (pkPrio b) none).2))
    ∧ (s.ctxRuns k = false → Skips s .taskEnginePop)
    ∧ ((∀ e ∈ (s.dieAt k).decs, s.partServes (hPart e.1) = false) → Skips s .taskDecrement)
    ∧ (∀ e r, (s.dieAt k).decs = e :: r → s.partServes (hPart e.1) = true →
        exec .taskDecrement s = .next (State.decrAll eventFuel (s.setDie k { s.dieAt k with decs := r }) [e]))
    ∧ (s.launchReady k = true → ∃ u : State, exec .taskLaunch s = .next u ∧ u.mem = s.mem ∧ u.tasks = s.tasks
        ∧ u.threads = s.threads
        ∧ (u.dieAt (k / 65536)).reqs.length = (s.dieAt (k / 65536)).reqs.length + (s.taskAt k).pieces.length)
    ∧ (s.launchReady k = false → s.countUnread k = true → exec .taskLaunch s
        = .next (State.decrAll eventFuel (s.makeReady k).1 (s.makeReady k).2))
    ∧ (s.launchReady k = false → s.countUnread k = false → Skips s .taskLaunch)
    ∧ (s.completeReady k = true →
        let x := s.finishTask k (s.taskAt k).bad
        exec .taskComplete s = .next (State.decrAll eventFuel x.1 x.2)
        ∧ (x.1.taskAt k).st = (if (s.taskAt k).bad then .failed else .done) ∧ (x.1.taskAt k).threads = 0)
    ∧ (s.completeReady k = false → Skips s .taskComplete)
    ∧ (∀ part j i p g, s.partServing k = some part → s.noneReady part = true → s.splitChoice part = some (j, i, p, g) →
        let mid := p.cur + (p.hi - p.cur) / 2 / g * g
        ∃ u : State, exec .rangeSplit s = .next u ∧ u.mem = s.mem ∧ u.threads = s.threads
          ∧ (u.taskAt j).pieces = setNth (s.taskAt j).pieces i { p with hi := mid }
              ++ [{ lo := mid, cur := mid, hi := p.hi, live := true }]
          ∧ (0 < g → 2 * g ≤ p.hi - p.cur → p.cur + g ≤ mid ∧ mid + g ≤ p.hi))
    ∧ (s.releaseDue k n = false → Skips s .ttRelease)
    ∧ (∀ t, s.ttAt k n = some t → s.releaseDue k n = true →
        let s1 := s.resident t.ctx t.templ.toNat 256
        let later : TTSlot := { t with nextRel := t.nextRel + t.period }
        let die0 := s1.homeOf t.ctx t.templ.toNat / 128
        ∀ w0 s2 len b s3 die slot, s1.readBytes (.unit die0) t.ctx t.templ.toNat 8 = .ok (w0, s2) → pkLen (leNat w0) = some len →
          s2.readBytes (.unit die0) t.ctx t.templ.toNat len = .ok (b, s3) → packetOk b = true → s3.spawnDie k = some die →
          s3.freeSlot die = some slot →
          let y := (s3.setTT k n later).acceptPacket die slot t.ctx b t.templ t.prio (some n)
          exec .ttRelease s = .next (y.2.setTT k n { later with last := some y.1 }))
    ∧ (∀ t, s.ttAt k n = some t → s.skipDue k n = true → exec .ttReleaseSkip s = .next (s.setTT k n { t with
        nextRel := t.nextRel + t.period
        overrun := if t.overrun = BitVec.allOnes 32 then t.overrun else t.overrun + 1
        sticky := true }))

/-- The dispatcher (R260, R298, R299, R398-R405): it places the first waiting request that fits, or restores a saved cohort;
a request that starves closes the best core to others, and then has the smallest set of cohorts pre-empted; a pre-emption
drains, saves or flushes; of a cohort to be saved the blocked instructions are withdrawn, and it leaves its core once its
operations have retired and the peers its threads wait at have given theirs up, what it has posted going on by itself; a cohort
that has ended gives up its room; a partition's cores are swapped out and in.
Choices beyond the rules' are the model's readings (log 23, log 24). -/
def Obligations.PlacementEvents : Prop :=
  ∀ s : State, let d := s.arg.obj
    let die := s.arg.obj2
    (∀ r u, s.nextPlaced d = some (r, u) →
      (r.restores = false → exec .placement s = .next u ∧ Skips s .cohortRestore)
      ∧ (r.restores = true → exec .cohortRestore s = .next u ∧ Skips s .placement))
    ∧ (s.nextPlaced d = none → ∀ r, (s.queueOf d).find? (s.stallsNow d) = some r → exec .placement s = .next (s.stall d r))
    ∧ (∀ (core : Nat) (r : Request) (regs : SMap Word) (rs : List Range) (grant : List Nat) (w : Bool)
        (fill : Nat → Thread → Thread), let y := s.launch core r regs rs grant w fill
        y.1.mem = s.mem ∧ look y.1.cohorts y.2 = some (s.newCohort core r (s.freeTids core r.csize) w)
        ∧ ∀ tid i, (tid, i) ∈ (s.freeTids core r.csize).zipIdx → look s.threads tid = none
          ∧ ∃ fc uid, look y.1.threads tid
              = some (fill i (Thread.newborn fc uid r.ctx y.2 r regs rs grant (s.portCount r.ctx) s.clk)))
    ∧ (∀ r, s.reqBy d die = some r →
        (s.stallDue r = true → exec .placementStallRepeat s = .next (s.stall d r))
        ∧ (s.stallDue r = false → Skips s .placementStallRepeat)
        ∧ (∀ n, s.starveDue d r = true → s.bestCore d r = none → s.starveCore d r = some n →
            exec .starveTimeout s = .next (s.setCore n { s.coreAt n with closing := some r.id }))
        ∧ (s.bestCore d r ≠ none → Skips s .starveTimeout ∧ Skips s .evictTimeout)
        ∧ (∀ ck l, s.evictDue r = true → s.bestCore d r = none → s.evictSet d r 32 1 = some (ck :: l) →
            let q : PreReq := { bound := some (s.boundOf r).1, req := r.id, since := s.ungated, who := s.requester r }
            let u := (ck :: l).foldl (fun s x => s.askPreempt x q) s
            exec .evictTimeout s = .next (u.setCore (ck / 32) { u.coreAt (ck / 32) with closing := some r.id })))
    ∧ (∀ c, look s.cohorts d = some c → s.coreRuns (d / 32) c.ctx = true →
        (∀ q rest, c.pend = q :: rest → c.drain = none → c.saving = none →
          (s.preChoice d c q = .drain → exec .preemptRequest s = .next (s.setCohort d { c with pend := rest, drain := some q }))
          ∧ (s.preChoice d c q = .save → exec .preemptRequest s = .next (s.setCohort d { c with pend := rest, saving := some q }))
          ∧ (s.preChoice d c q = .flush → exec .preemptRequest s = .next ((s.setCohort d { c with pend := rest }).flush d))
          ∧ (s.preChoice d c q = .late → exec .preemptRequest s
              = .next (s.setCohort d { c with pend := rest, saving := some q, missed := true }))
          ∧ (q.bound = none → s.preChoice d c q = .save))
        ∧ (s.drainOver c = true → exec .drainBoundExpire s
            = .next (s.setCohort d { c with drain := none, saving := c.drain, missed := true }))
        ∧ (s.saveAsked c = false → Skips s .cohortSave)
        ∧ (s.saveAsked c = true → s.withdrawDue d = true → exec .cohortSave s = .next (s.withdrawAll d))
        ∧ (s.saveAsked c = true → s.withdrawDue d = false →
            (s.saveReady d = true → ∃ u : State, exec .cohortSave s = .next u
              ∧ look u.cohorts d = none ∧ (∀ x ∈ u.threads, x.2.cohort ≠ d)
              ∧ (u.coreAt (d / 32)).posted = (s.coreAt (d / 32)).posted ++ (s.membersOf d).flatMap (fun m => m.2.redBuf))
            ∧ (s.saveReady d = false → s.unasked d = true → exec .cohortSave s = .next (s.askAll d))
            ∧ (s.saveReady d = false → s.unasked d = false → Skips s .cohortSave))
        ∧ (s.freeReady d c = true → exec .cohortFree s = .next { s with
            cohorts := del s.cohorts d, threads := s.threads.filter (fun t => t.2.cohort != d) })
        ∧ (s.freeReady d c = false → Skips s .cohortFree))
    ∧ ((look s.swaps (d * 4 + die)).isSome = true → Skips s .partitionSwapOut
        ∧ ∃ u : State, exec .partitionSwapIn s = .next u ∧ look u.swaps (d * 4 + die) = none ∧ u.mem = s.mem
          ∧ u.threads = s.threads ∧ ∀ n ∈ s.coresOn d die, (u.coreAt n).swapped = false)
    ∧ (look s.swaps (d * 4 + die) = none → Skips s .partitionSwapIn
        ∧ ((s.partAt d).batt = true → s.battUse die = 0 → (∀ c ∈ s.cohortsOn d die, s.saveReady c.1 = true) →
            ∃ u : State, exec .partitionSwapOut s = .next u ∧ (look u.swaps (d * 4 + die)).isSome = true)
        ∧ ((s.partAt d).batt = false → exec .partitionSwapOut s
            = .next { (s.cohortsOn d die).foldl (fun s c =>
                s.askPreempt c.1 { bound := none, req := 0, since := s.ungated }) s with swaps := put s.swaps (d * 4 + die) 0 }))

/-- The ends of waits and the words that are no instruction (R40, R41, R316, R390, R393): a watchdog that has run out faults
its thread; a wait returns the mask of its conditions, or 0 at its deadline; an arrival's wait ends once its phase has
passed, which a peer is asked about; a scalar response is written to the register
of its `sys.sys`, and an undefined service is SYS_BAD; a word that is no instruction is ILL_SCALAR or ILL_LANE. -/
def Obligations.ThreadEvents : Prop :=
  ∀ (s : State) (t : Thread), let k := s.arg.obj
    (Issues s t → exec .nonInstructionScalar s = .next (s.fault s.cur.tid (scalarF t 0x01 0 0))
      ∧ ∀ g : Nat, s.cur.party = .gang g → exec .nonInstructionLane s = .next (s.fault s.cur.tid (gangF t g 0x02 0xFF 0 0)))
    ∧ (look s.threads k = some t →
        (s.wdogOver t = true → s.coreRuns (coreOf k) t.ctx = true → exec .watchdog s = .next (s.fault k (scalarF t 0x12 0 0)))
        ∧ (s.wdogOver t = false → Skips s .watchdog)
        ∧ (s.mayIssue k t.ctx = false → Skips s .waitSatisfied ∧ Skips s .waitTimeout)
        ∧ (∀ d a b dl, s.mayIssue k t.ctx = true → t.wait = some (.sync d a b dl) →
            (∀ m, s.syncEval k t a b dl = .returns m →
              (m ≠ 0 → exec .waitSatisfied s = .next (s.syncReturn k d (t.conds a) m))
              ∧ (∀ n, dl = some n → n ≤ s.tick → exec .waitTimeout s = .next (s.syncReturn k d (t.conds a) m)))
            ∧ (s.syncEval k t a b dl = .waits → Skips s .waitSatisfied ∧ Skips s .waitTimeout)
            ∧ (∀ a' m, s.syncEval k t a b dl = .corrupt a' m →
                exec .waitSatisfied s = .next (s.fault k (scalarF t 0x08 a' (word m)))))
        ∧ (∀ w p, s.mayIssue k t.ctx = true → t.wait = some (.phase w p) → t.ended = false → s.barPeer t w = none →
            (phaseReached (s.phaseOf t w) (p + 1) = true → exec .waitSatisfied s = .next (s.setThread k t.step4))
            ∧ (phaseReached (s.phaseOf t w) (p + 1) = false → Skips s .waitSatisfied))
        ∧ (∀ w p h, s.mayIssue k t.ctx = true → t.wait = some (.phase w p) → s.barPeer t w = some h →
            (s.asksPhase t.uid = true → Skips s .waitSatisfied)
            ∧ (s.asksPhase t.uid = false → exec .waitSatisfied s = s.askPhase k t h w p)))
    ∧ (∀ r, s.sysReqs[k]? = some r → look s.threads r.tid = some t → t.uid = r.uid → t.ended = false →
        let u : State := { s with sysReqs := s.sysReqs.erase r }
        (s.arg.flag = true → exec .sysResponse s
          = .next (u.fault r.tid { scalarF t 0x10 0 (r.svc.setWidth 64) with pc := r.pc }))
        ∧ (s.arg.flag = false → r.slice = 8 →
            exec .sysResponse s = .next (u.setThread r.tid ((t.setS r.d s.arg.word).step4))))

/-- Gating, errors and alarms (R16, R378-R380, R414-R416): gating an awake device stops lane issue with one RAS record; an
uncorrectable error poisons its sector and changes no byte of memory, a corrected one is counted; an alarm is recorded
before its actions, as the last record of a log; a partition's level becomes the greater of the old one and the new, and
falls only by the clear of level 1; a host request takes in each partition at least the level of its ALARMPOL.
The default levels of the sensors, the request that raises them, the numbers of the sources and the log that takes the record of
an alarm are the model's choices (log 27). -/
def Obligations.AlarmsAndErrors : Prop :=
  ∀ s : State, let k := s.arg.obj
    let awake := s.run ≠ .halted
    (awake → s.gated = false → exec .issueGatingStart s = .next (State.addRas { s with gated := true } 5 0 0 255 0 []))
    ∧ (s.gated = true → Skips s .issueGatingStart)
    ∧ exec .issueGatingEnd s = .next { s with gated := false }
    ∧ (awake → let fused : Nat → Nat → Nat := fun i d => max d ((look s.fused i).getD 0)
        exec .alarmVolt s = .next (s.alarm 0 none (fused 0 3)) ∧ exec .alarmClock s = .next (s.alarm 1 none (fused 1 3))
        ∧ exec .alarmTemp s = .next (s.alarm 2 none (fused 2 1)) ∧ exec .alarmMesh s = .next (s.alarm 3 none (fused 3 3)))
    ∧ (s.run = .halted → Skips s .alarmVolt ∧ Skips s .alarmClock ∧ Skips s .alarmTemp ∧ Skips s .alarmMesh)
    ∧ (∀ src scope, (s.alarm src scope 3).run = .halted ∧ (s.alarm src scope 3).identity = false)
    ∧ (∀ part level, ((s.alarmPart part level).partAt part).level = max (s.partAt part).level level)
    ∧ (∀ src scope level, let t := s.alarmRecord src scope level
        (level < 3 → s.alarm src scope level = scope.elim (t.alarmDevice level) (fun p => t.alarmPart p level))
        ∧ (t.dieAt 0).ras.getLast? = some ⟨3, 0, 0, scope.getD 255, 0, [word src, word level], s.time, (s.dieAt 0).rasCount⟩
        ∧ ∀ p, (t.partAt p).level = (s.partAt p).level)
    ∧ (awake → s.privRep k = true → exec .alarmPrivrep s
        = .next ((s.setPart k { s.partAt k with privAt := [] }).alarm 5 (some k) ((s.partAt k).polLevel 1)))
    ∧ (s.privRep k = false → Skips s .alarmPrivrep)
    ∧ (awake → s.arg.flag = false →
        (k = 0 → s.arg.obj2 = 255 → exec .doeAlarmRequest s = .next (s.alarmRequest (min s.arg.obj3 3)))
        ∧ (s.arg.obj2 ≠ 255 → (k = 0 ∨ k = s.arg.obj2) → (look s.parts s.arg.obj2).isSome = true →
            exec .doeAlarmRequest s
              = .next (s.alarm 6 (some s.arg.obj2) (max (min s.arg.obj3 3) ((s.partAt s.arg.obj2).polLevel 2))))
        ∧ (k ≠ 0 → k ≠ s.arg.obj2 → Skips s .doeAlarmRequest))
    ∧ (awake → s.arg.flag = true →
        (k = 0 → s.arg.obj2 < 4 → exec .doeAlarmRequest s = .next { s with
          fused := put s.fused s.arg.obj2 (max (min s.arg.obj3 3) ((look s.fused s.arg.obj2).getD 0)) })
        ∧ (k ≠ 0 → Skips s .doeAlarmRequest))
    ∧ (∀ level, (3 ≤ level ∨ ∃ p ∈ s.parts, 3 ≤ p.2.polLevel 2) → s.alarmRequest level = s.alarm 6 none 3)
    ∧ (∀ level, level < 3 → (∀ p ∈ s.parts, p.2.polLevel 2 ≤ level) →
        s.alarmRequest level = (s.alarmRecord 6 none level).alarmDevice level)
    ∧ (awake → k = 0 → (s.partAt s.arg.obj2).level = 1 → exec .doeAlarmClear s
        = .next (s.setPart s.arg.obj2 { s.partAt s.arg.obj2 with level := 0 }))
    ∧ ((s.partAt s.arg.obj2).level ≠ 1 → Skips s .doeAlarmClear)
    ∧ (∀ x, awake → s.eccThere s.arg.place = true → s.arg.place = .hbm x ∨ s.arg.place = .l2 x → ∃ u : State,
        exec .eccUncorrected s = .next u
        ∧ x ∈ u.poison ∧ u.mem = s.mem ∧ u.threads = s.threads)
    ∧ (let x := s.countEcc (s.eccDie s.arg.place) (eccRow s.arg.place) 0
       awake → s.eccThere s.arg.place = true → x.1 % 1024 ≠ 0 → exec .eccCorrected s = .next x.2 ∧ x.2.mem = s.mem
           ∧ x.2.threads = s.threads)

/-- The mailbox (R359, R360, R367): a request rung while the mailbox is idle is answered 0, 1 or 2 as it is done, refused or
malformed; one that waits, as every request of a partition that a census holds does, is taken up again later; the answer clears
BUSY, sets DONE and sends vector 0; a doorbell rung while BUSY sets OVR; a 1 written to a MBOXST bit clears it; a port write
changes VALUE and COUNT at once, or waits for the port's line; bytes written to MBOXREQ stand there, and every other write of
BAR0 is ignored; PATHSYNC answers once every earlier coherent-port write is performed.
The payloads' layout is the model's choice (log 14). -/
def Obligations.MailboxEvents : Prop :=
  ∀ s : State, let r := s.arg.req
    let busy := (s.fnAt r.fn).mboxst.getLsbD 0
    let answers : Instr → Nat → State → (State → MboxReq → MboxAns) → Prop := fun i code z act =>
      (s.run = .running → s.arg.flag = busy → s.fnServes r.fn = true →
        let y := if s.arg.flag then z else z.ring r code
        let waits : Prop := exec i s = .next { y with later := y.later ++ [.event i { y.arg with flag := true }] }
        (s.counted r.fn = false →
          (∀ u, act y r = .done u → exec i s = .next (u.respond r 0))
          ∧ (act y r = .refused → exec i s = .next (y.respond r 1))
          ∧ (act y r = .malformed → exec i s = .next (y.respond r 2))
          ∧ (act y r = .wait → waits))
        ∧ (s.counted r.fn = true → waits))
      ∧ (s.run = .running → s.arg.flag = false → busy = true → exec i s = .next (z.ringBusy r.fn))
      ∧ (s.run = .running → s.arg.flag = true → busy = false → exec i s = .next z)
      ∧ (s.run = .recovery → s.arg.flag = false → busy = false → exec i s = .next ((s.ring r code).respond r 1))
    answers .mboxCreateContext 1 s createContext ∧ answers .mboxEndContext 2 s.stopContext endContext
    ∧ answers .mboxWriteLeaf 3 s writeLeaves ∧ answers .mboxClearLeaf 4 s clearLeaves
    ∧ answers .mboxWriteTtSlot 5 s writeTtSlot ∧ answers .mboxMapUserPort 6 s mapPort
    ∧ answers .mboxWriteUintEntry 7 s writeUintEntry ∧ answers .mboxWritePartition 8 s.closeCore writePartition
    ∧ (let code := s.arg.obj % 2 ^ 16
       ((code = 0 ∨ 8 < code) → answers .mboxBadRequest code s (fun _ _ => .malformed))
       ∧ (code = 8 → r.fn ≠ 0 → answers .mboxBadRequest code s (fun _ _ => .refused)))
    ∧ (∀ (q : MboxReq) (code : Nat), let f := (s.respond q code).fnAt q.fn
        f.mboxst.getLsbD 0 = false ∧ f.mboxst.getLsbD 1 = true ∧ f.msix0 = (s.fnAt q.fn).msix0 + 1)
    ∧ (s.run ≠ .halted →
        ((s.fnAt s.arg.obj).mboxst.getLsbD 0 = true → ∃ u : State, exec .mboxDoorbellBusy s = .next u
          ∧ (u.fnAt s.arg.obj).mboxst = (s.fnAt s.arg.obj).mboxst ||| 4 ∧ u.mem = s.mem)
        ∧ exec .mboxstWrite s = .next (s.setFn s.arg.obj { s.fnAt s.arg.obj with
            mboxst := (s.fnAt s.arg.obj).mboxst &&& ~~~(s.arg.word.setWidth 3) })
        ∧ (s.later.any waitingWrite = false →
            exec .pathsyncRead s = .next { s with scpResp := [word ((look s.scpWrites s.arg.obj).getD 0)] })
        ∧ (s.later.any waitingWrite = true →
            exec .pathsyncRead s = .next { s with later := s.later ++ [.event .pathsyncRead s.arg] }))
    ∧ (∀ c, let k := s.arg.obj
        let takes : Prop := if s.arg.flag = true then ∃ va, c.portPage = some va ∧ s.scpTakes k va 8 = true
          else s.run = .running ∧ (s.partAt (partOfCtx k)).level = 0
        look s.ctxs k = some c →
        (takes → s.counted (partOfCtx k) = false → s.portWaits k c = false → s.behind .userPortWrite = false →
          ∃ u : State, exec .userPortWrite s = .next u ∧ Mem.readN u.mem (portKey k) 8 = s.arg.word.toNat
            ∧ u.portCount k = s.portCount k + 1 ∧ u.threads = s.threads
            ∧ u.scpWrites = if s.arg.flag then put s.scpWrites (partOfCtx k) ((look s.scpWrites (partOfCtx k)).getD 0 + 1)
                else s.scpWrites)
        ∧ (takes → s.counted (partOfCtx k) = true ∨ s.portWaits k c = true ∨ s.behind .userPortWrite = true →
            exec .userPortWrite s = .next (s.postpone .userPortWrite))
        ∧ (¬takes → Skips s .userPortWrite))
    ∧ (let off := s.arg.obj2
       let bs := s.arg.bytes
       ((off < 0x100 ∨ 0x200 < off + bs.length) → Skips s .bar0WriteOther)
       ∧ (s.run ≠ .halted → 0x100 ≤ off → off + bs.length ≤ 0x200 → exec .bar0WriteOther s
          = .next (s.setFn s.arg.obj { s.fnAt s.arg.obj with
              mboxreq := patchBytes (padBytes (s.fnAt s.arg.obj).mboxreq 256) (off - 0x100) bs })))
    ∧ (∀ fn off, 0x1000 ≤ off → off < 0x2000 → (look s.ctxs (fn * 64 + (off - 0x1000) / 64)).isSome = true →
        s.bar0Byte fn off = Mem.read s.mem (portKey (fn * 64 + (off - 0x1000) / 64) + off % 64))

/-- The coherent port, host memory and user interrupts (R183, R184, R354-R357, R361, R362, R366): a read gives the bytes, a
write replaces exactly its own, outside the exposed windows nothing is answered; what comes later to a line waits behind what
waits for it; host queue operations are the home's; a host store invalidates the slices' copies first; an extent's release
unmaps it and is acknowledged; a migrated page's entry names its new frame; an interrupt is delivered where its thread runs and
takes it, and else waits in its ring, or for room there.
An access outside the windows is answered with no word, a migrated page's aliases move with it: the model's choices
(log 28, log 30). -/
def Obligations.HostEvents : Prop :=
  ∀ s : State, let ctx := s.arg.obj
    let va := s.arg.word.toNat
    let n := s.arg.obj2
    let free : Instr → Prop := fun i => s.behind i = false ∧ s.counted (partOfCtx ctx) = false
    (∀ pa, 0 < n → va % 128 + n ≤ 128 → s.arg.flag = false → s.scpTakes ctx va n = true → s.place ctx va = .byte pa →
      isHost pa = false → s.mustWait ctx va pa = false → free .scpAccess → s.poisoned pa n = false →
      ∃ u : State, exec .scpAccess s = .next u ∧ u.scpResp = bytesWords (Mem.readBytes s.mem pa n) ∧ u.mem = s.mem
        ∧ u.threads = s.threads)
    ∧ (∀ pa, let bs := s.arg.bytes
        0 < bs.length → va % 128 + bs.length ≤ 128 → s.arg.flag = true → s.scpTakes ctx va bs.length = true →
        s.place ctx va = .byte pa → isHost pa = false → s.mustWait ctx va pa = false → free .scpAccess →
        ∃ u : State, exec .scpAccess s = .next u ∧ u.scpResp = [0] ∧ u.threads = s.threads
          ∧ Mem.readBytes u.mem pa bs.length = bs
          ∧ ∀ j, (j < pa ∨ pa + bs.length ≤ j) → u.byteAt j = s.byteAt j)
    ∧ (∀ pa, let len := if s.arg.flag then s.arg.bytes.length else n
        0 < len → va % 128 + len ≤ 128 → s.scpTakes ctx va len = true → s.place ctx va = .byte pa → isHost pa = false →
        s.mustWait ctx va pa = true ∨ s.behind .scpAccess = true ∨ s.counted (partOfCtx ctx) = true →
        exec .scpAccess s = .next (s.postpone .scpAccess))
    ∧ (s.scpTakes ctx va n = false → s.arg.flag = false → exec .scpAccess s = .next { s with scpResp := [] })
    ∧ (s.hostQueue ctx va = none → exec .scpQpush s = .next (s.hostNone ctx)
        ∧ exec .scpQtrypop s = .next (s.hostNone ctx) ∧ exec .scpQlen s = .next (s.hostNone ctx)
        ∧ (s.hostNone ctx).scpResp = [] ∧ (s.hostNone ctx).mem = s.mem ∧ (s.hostNone ctx).threads = s.threads)
    ∧ (∀ r, s.hostQueue ctx va = some r →
        let a : Asker := (s.queueAt r).elim (.unit 0) (s.homeUnit r)
        (s.queueBusy r true 1 = false → free .scpQpush → s.later.any waitingWrite = false →
         let h := s.homePush r a [padBytes s.arg.bytes (qEsize (s.qcbBytes r 64))]
         ∀ p ps es z, h.ans = .many (p :: ps) es z →
           exec .scpQpush s = .next { s.homeActed r h with scpResp := [word p] })
        ∧ (∀ q, s.queueAt r = some q → s.engineOnly r = false → s.queueBusy r false 1 = false → free .scpQtrypop →
            let h := s.homePop r a 1
            ∀ p ps e es z, h.ans = .many (p :: ps) (e :: es) z →
              exec .scpQtrypop s = .next { s.homeActed r h with scpResp := word p :: bytesWords e })
        ∧ (s.queueBusy r true 0 = false → free .scpQlen →
           let h := s.homeLen r a 0
           ∀ m, h.ans = .pos m → exec .scpQlen s = .next { s.homeActed r h with scpResp := [word m] }))
    ∧ (s.hostOwned va s.arg.bytes.length = true ∨ s.behind .scpSnoop = true →
        exec .scpSnoop s = .next (s.postpone .scpSnoop))
    ∧ (s.hostOwned va s.arg.bytes.length = false → s.behind .scpSnoop = false → ∃ u : State, exec .scpSnoop s = .next u
        ∧ Mem.readBytes u.mem (hostKey va) s.arg.bytes.length = s.arg.bytes ∧ u.threads = s.threads
        ∧ ∀ j, (j < hostKey va ∨ hostKey va + s.arg.bytes.length ≤ j) → u.byteAt j = s.byteAt j)
    ∧ (let e : Extent := { base := ctx, size := n, migratable := s.arg.flag, released := false }
       exec .extentMarkMigratable s = .next { s with extents := put s.extents ctx e })
    ∧ (s.run ≠ .halted →
        ((∀ l ∈ (s.unmapExtent ctx n).hostLines ctx n, (s.unmapExtent ctx n).ownsLine l.1 = false) →
          ∃ u : State, exec .hostExtentRelease s = .next u
            ∧ (look u.extents ctx).map (fun e => (e.migratable, e.released)) = some (false, true))
        ∧ ∃ u : State, exec .hostForcedRelease s = .next u
            ∧ (look u.extents ctx).map (fun e => (e.migratable, e.released)) = some (false, true))
    ∧ (s.migrates ctx va = none → Skips s .pageMigrate)
    ∧ (∀ e size f p, s.migrates ctx va = some (e, size) → (s.partAt (partOfCtx ctx)).takeFrame size = some (f, p) →
        let part := partOfCtx ctx
        let pa := hostKey (leafFrame e * 2 ^ 16)
        (s.poisoned pa size = true → exec .pageMigrate s = .next (s.abandon ctx (pageBase va size) e)
          ∧ (s.abandon ctx (pageBase va size) e).migrates ctx va = none)
        ∧ (s.poisoned pa size = false → n = 0 → ∃ u : State, exec .pageMigrate s = .next u
          ∧ (∀ x ∈ s.aliases part e size, ∃ y ∈ s.aliases part e size, y.2.addr = x.2.addr
              ∧ look u.tables (tableKey part x.2.addr) = some (leafMoved y.2.entry f))
          ∧ ((∀ q ∈ s.queues, q.1 < pa ∨ pa + size ≤ q.1) → u.threads = s.threads)))
    ∧ (s.run = .running → ∀ m u, s.uintReady [] s.uints = some m → s.uintEntry m = some u →
        let t : State := { s with uints := s.uints.erase m }
        (s.hostRuns u = true → m.refused = false → s.arg.flag = false → exec .uintDeliver s
          = .next { t with uintOut := t.uintOut ++ [[u.target, u.vector.setWidth 64, m.data]] })
        ∧ (s.hostRuns u = false ∨ m.refused = true ∨ s.arg.flag = true →
            (s.ringRoom u = true → exec .uintDeliver s = .next (t.pend m u))
            ∧ (s.ringRoom u = false → exec .uintDeliver s
                = .next { s with uints := s.uints.map (fun x => if x = m then { m with refused := true } else x) })))
    ∧ (∀ c u, look s.ctxs ctx = some c → look c.uints n = some u →
        s.hostOwned u.pendq.toNat 8 = false → s.behind .pendingRingHeadAdvance = false → ∃ v : State,
        exec .pendingRingHeadAdvance s = .next v
          ∧ Mem.readN v.mem (hostKey u.pendq.toNat) 8 = s.arg.word.toNat ∧ v.threads = s.threads
          ∧ ∀ j, (j < hostKey u.pendq.toNat ∨ hostKey u.pendq.toNat + 8 ≤ j) → v.byteAt j = s.byteAt j)

/-- Power-up, measurement, inspection and census (R382-R384, R408-R412, R419): the ROM boots an image it accepts and stays in
recovery for another; a read of inspection space reads its words one access at a time, answers them together and changes
nothing else; a census stops the partition's cores, reports when its engines are quiet, and is resumed.
Secrets and measurements of the package are free values (log 18). -/
def Obligations.ManagementEvents : Prop :=
  ∀ s : State, let k := s.arg.obj
    let m := s.arg.img
    (BootImageOk m = true → exec .powerUp s = .next (s.powerOn.boot m))
    ∧ (BootImageOk m = false → ∃ u : State, exec .powerUp s = .next u ∧ u.run = .recovery ∧ u.threads = [] ∧ u.ctxs = [])
    ∧ (s.expected = none → (s.boot m).run = .running ∧ (s.boot m).version = m.version ∧ (s.boot m).bootm = bootMeasure m
        ∧ ((s.boot m).partAt 0).partm = bootMeasure m)
    ∧ (BootImageOk m = true → m.pubkey.length = 64 ∧ sha256 m.pubkey = fusedKeyDigest ∧ m.sigOk = true
        ∧ Config.minVersion.toNat ≤ m.version.toNat)
    ∧ (s.run = .recovery → BootImageOk m = true → exec .doeRecoveryImage s = .next (s.boot m))
    ∧ (s.run ≠ .recovery → Skips s .doeRecoveryImage)
    ∧ (s.run = .running → s.identity = true → s.fnServes k = true → exec .doeAttest s
        = .next (s.setFn k { s.fnAt k with doeResp := s.report k s.arg.bytes }))
    ∧ (s.run = .running → s.fnServes k = true → (s.partAt k).key.isSome = true → exec .spdmSession s
        = .next (s.setFn k { s.fnAt k with spdm := true }))
    ∧ ((s.partAt k).key = none → Skips s .spdmSession)
    ∧ (s.run = .running → (look s.parts k).isSome = true → k ≠ 255 → exec .expectedMeasurementInstall s
        = .next ((s.setPart k { s.partAt k with expected := some s.arg.big }).measure k))
    ∧ (s.run = .running → k = 255 → s.bootm = s.arg.big →
        exec .expectedMeasurementInstall s = .next { s with expected := some s.arg.big })
    ∧ (∀ c, look s.ctxs k = some c → s.run = .running → (s.partAt (partOfCtx k)).accepts s.arg.sec = true →
        launchesAgree s.arg.sec.launches c.launches = true → ∃ u : State, exec .sectionMarkedLoaded s = .next u
          ∧ (c.sections.any (fun y => y.obj == s.arg.sec.obj) = true → (look u.ctxs k).map (fun x => x.sections) = some
              (c.sections ++ [⟨s.arg.sec.base.toNat, s.arg.sec.size, s.arg.sec.lane, s.arg.sec.obj⟩])))
    ∧ (∀ c, look s.ctxs k = some c → (s.partAt (partOfCtx k)).accepts s.arg.sec = false
          ∨ launchesAgree s.arg.sec.launches c.launches = false → Skips s .sectionMarkedLoaded)
    ∧ (s.run = .running → (look s.parts k).isSome = true → (s.partAt k).census = 0 → ∃ u : State,
        exec .doeCensus s = .next u ∧ (u.partAt k).census = 1)
    ∧ (s.censusReady k = true → exec .censusDone s
        = .next ((s.setPart k { s.partAt k with census := 2 }).doe k (leBytes 8 1)))
    ∧ (s.run ≠ .halted → (look s.parts k).isSome = true → exec .doeCensusResume s
        = .next (s.setPart k { s.partAt k with census := 0 }))
    ∧ (s.run ≠ .halted → let f := s.fnAt k
        (∀ a, f.insp = none → s.arg.flag = false → inspAddr s.arg.word = some a → inspAllowed k a = true → 1 ≤ s.arg.obj2 →
          s.arg.obj2 ≤ 512 → exec .doeInspectRead s = .next (s.setFn k { f with insp := some ⟨s.arg.word, s.arg.obj2, []⟩ }))
        ∧ (f.insp = none → s.arg.flag = false → (∀ a, inspAddr s.arg.word = some a → inspAllowed k a = false ∨ s.arg.obj2 = 0
            ∨ 512 < s.arg.obj2) → exec .doeInspectRead s = .next (s.setFn k { f with doeResp := [] }))
        ∧ (∀ r a, f.insp = some r → s.arg.flag = true → inspAddr r.addr = some a →
            let got := r.got ++ [s.inspectWord a r.got.length]
            (1 < r.left → exec .doeInspectRead s
              = .next (s.setFn k { f with insp := some { r with left := r.left - 1, got := got } }))
            ∧ (r.left = 1 → ∃ u : State, exec .doeInspectRead s = .next u ∧ (u.fnAt k).doeResp = wordsBytes got
                ∧ (u.fnAt k).insp = none ∧ u.mem = s.mem ∧ u.threads = s.threads)))
    ∧ (∀ a x, inspAddr s.arg.word = some a → (s.directory (a.index / 65536))[a.index % 65536]? = some x → s.run = .running →
        a.cls = 0x09 → inspAllowed k a = true → partOfCtx x.2.ctx = a.part → x.2.frozen ≠ none →
        exec .doeQueueUnbind s = .next (s.unbind x.1))

/-- Peer packages and device time (R224, R318, R368-R371): a flow that is down, or has no key, brings nothing; a peer's
reduction, push, count or copy is performed at its home and answered, or waits there for an engine; an arrival at a pod
barrier counts unless its count is not the barrier's; a flow that goes down fails what waits on it; an answer completes the
operation it names; time moves forward by a step of more than 1 ms and is slewed otherwise, and never moves back.
The words of a message are the model's (log 31); a flow brings reductions and pieces of copies in the order they were asked
(log 19). -/
def Obligations.NetworkEvents : Prop :=
  ∀ s : State, let k := s.arg.obj
    let f := s.flowAt k
    let p := netParty s.arg.net
    let fk := netFlow s.arg
    let open_ := s.run = .running ∧ (s.flowAt fk).down = false ∧ (s.flowAt fk).key.isSome = true
      ∧ (look s.ctxs p.2).isSome = true ∧ (s.partAt (partOfCtx p.2)).level = 0 ∧ s.later.any (aheadOn fk) = false
      ∧ s.counted (partOfCtx p.2) = false ∧ s.handleOurs s.arg.big.toNat p.2 = true
    let does : Option State → Prop := fun x => exec .netRemoteOp s = .next (x.getD (s.postpone .netRemoteOp))
    ((s.flowAt fk).down = true ∨ (s.flowAt fk).key = none → Skips s .netRemoteOp)
    ∧ (s.run = .running → (s.flowAt fk).down = false → (s.flowAt fk).key.isSome = true →
        (s.later.any (aheadOn fk) = true ∨ s.counted (partOfCtx p.2) = true →
          exec .netRemoteOp s = .next (s.postpone .netRemoteOp))
        ∧ (s.later.any (aheadOn fk) = false → s.counted (partOfCtx p.2) = false →
            s.handleOurs s.arg.big.toNat p.2 = false → exec .netRemoteOp s = .next (s.reply fk (refusal 0x05 0))))
    ∧ (∀ pkg ctx a op n v, s.arg.net = .red pkg ctx a op n v → open_ → does (s.netRed fk ctx a op n v))
    ∧ (∀ pkg ctx a bs bad, s.arg.net = .copy pkg ctx a bs bad → open_ → does (s.netCopy fk ctx a bs bad))
    ∧ (∀ pkg ctx q es w, s.arg.net = .qpush pkg ctx q es w → open_ → does (s.netPush fk ctx q es w))
    ∧ (∀ pkg ctx q sel, s.arg.net = .qlen pkg ctx q sel → open_ → does (s.netLen fk ctx q sel.toNat))
    ∧ (∀ pkg ctx q i, s.arg.net = .withdraw pkg ctx q i → open_ → exec .netRemoteOp s = .next (s.netWithdraw fk ctx q i))
    ∧ (∀ pkg ctx a v, s.arg.net = .phase pkg ctx a v → open_ → does (s.netPhase fk ctx a.toNat v))
    ∧ (∀ ctx (a : Word) op n v pa, n ≠ 0 → a.toNat % n = 0 → s.overlapsQcb ctx a.toNat n = false →
        s.place ctx a.toNat = .byte pa →
        s.mustWait ctx a.toNat pa = false → s.poisoned pa n = false → ∃ u : State, s.netRed fk ctx a op n v = some u
          ∧ Mem.readN u.mem pa n = (atomNew op (8 * n) (Mem.readN s.mem pa n) v.toNat 0).1 % 256 ^ n
          ∧ ∀ j, (j < pa ∨ pa + n ≤ j) → u.byteAt j = s.byteAt j)
    ∧ (s.run ≠ .halted → f.down = false → f.waiting = [] → f.reds = [] → f.copies = [] → exec .netFlowDown s
        = .next ((s.setFlow k { f with down := true, waiting := [], reds := [], copies := [] }).addRas 9 0 (flowDie k)
            (if flowIn k then f.part else 255) 0 [word f.pkg, word f.part]))
    ∧ (f.down = true → Skips s .netFlowDown ∧ Skips s .netRemoteResponse)
    ∧ (s.run ≠ .halted → f.down = false →
        (∀ w, s.arg.obj2 = 0 → f.waiting[s.arg.bound.getD 0]? = some w →
          let u := s.setFlow k { f with waiting := f.waiting.eraseIdx (s.arg.bound.getD 0) }
          (s.arg.flag = true → exec .netRemoteResponse s = .next (u.netFail w s.arg.obj3 s.arg.word))
          ∧ (s.arg.flag = false → s.arg.flag2 = true → exec .netRemoteResponse s = .next (u.netBack w))
          ∧ (s.arg.flag = false → s.arg.flag2 = false → exec .netRemoteResponse s = .next (u.netAnswer k w s.arg.word)))
        ∧ (∀ r rs, s.arg.obj2 = 1 → f.reds = r :: rs → s.arg.flag = false → exec .netRemoteResponse s
          = .next (s.setFlow k { f with reds := rs })))
    ∧ (let va := s.arg.word.toNat
       let bf := podFlow s.arg
       let n : BitVec 16 := s.arg.word2.setWidth 16
       s.run = .running → (s.flowAt bf).down = false → (s.flowAt bf).key.isSome = true → (look s.ctxs k).isSome = true →
       (s.partAt (partOfCtx k)).level = 0 → s.handleOurs s.arg.big.toNat k = true →
       (s.later.any (aheadOn bf) = true → exec .podBarrierMessage s = .next (s.postpone .podBarrierMessage))
       ∧ (s.later.any (aheadOn bf) = false → s.counted (partOfCtx k) = false → s.objectWaits k va = false →
          ∀ l, s.podBarrier k va = some l →
        (∀ x, arriveMany (s.homeUnitOf k va) k va (if n = 0 then none else some n) s.arg.obj2 s = .ok x →
          exec .podBarrierMessage s = .next (x.2.reply bf (arrivalReply l n x.1)))
        ∧ (s.arg.obj2 = 1 → l.count ≠ 0 → n ≠ 0 → n ≠ l.count → exec .podBarrierMessage s
          = .next (s.reply bf (refusal 0x0B (word (l.count.toNat * 2 ^ 16 + n.toNat)))))
        ∧ (s.arg.obj2 = 1 → l.count = 0 ∨ n = 0 ∨ n = l.count → ∀ x,
            s.arriveMem (s.homeUnitOf k va) k va (if n = 0 then none else some n) = .ok x →
            exec .podBarrierMessage s = .next (x.2.reply bf [x.1.phase.setWidth 64]))))
    ∧ (s.run ≠ .halted → exec .flowKeyInstall s = .next (s.setFlow k { f with key := some s.arg.obj2 }))
    ∧ (s.arg.src ≠ .none → exec .timeSourceSelect s = .next { s with timeSrc := s.arg.src })
    ∧ (s.arg.src = .none → ∃ u : State, exec .timeSourceSelect s = .next u ∧ u.timeSrc = .none ∧ u.time = s.time ∧ u.slew = 0)
    ∧ (s.timeSrc ≠ .none → ∃ u : State, exec .timeSync s = .next u ∧ s.time ≤ u.time
        ∧ (1000000 < s.arg.offset → u.time = s.time + s.arg.offset.toNat)
        ∧ (s.arg.offset ≤ 1000000 → u.time = s.time))
    ∧ (s.timeSrc = .none → Skips s .timeSync)
end

