-- ==== Sys2Proof/Tests/Slice0.lean ====
section
/-! SUPPORT. Sys2Proof/Tests/Slice0.lean: words written out from the spec's encodings, ill-formed terms the checks refuse,
one-step tests from the spec's worked values, and for every statement with hypotheses a state that meets them. -/

namespace Sys2Proof.Tests

open Sys2Proof.Machine

set_option Elab.async false

/-- Fields of a lane word predicated on !p3 (R23). -/
def ops (ty d a b c md im : Nat) : LaneOps :=
  { ty := BitVec.ofNat 4 ty, ps := 3, pn := true, d := BitVec.ofNat 8 d, a := BitVec.ofNat 8 a, b := BitVec.ofNat 8 b,
    c := BitVec.ofNat 8 c, md := BitVec.ofNat 6 md, im := BitVec.ofNat 32 im }

/-- Fields of a lane word with no predicate (R23). -/
def plain (ty d a b c md im : Nat) : LaneOps := { ops ty d a b c md im with ps := 0, pn := false }

/-- Words of INT written out from R21, R22 and R37: d 5, a 17, b 42. -/
theorem test_words_int :
    ([0x00546A00, 0x00546A01, 0x00546A02, 0x00546A03, 0x00546A04, 0x00546A05, 0x00546A06, 0x00546A07,
      0x00546A08, 0x00546A09, 0x00546A0A, 0x00546A0B, 0x00546A0C, 0x00546A0D, 0x00546A0E, 0x00546A0F,
      0x00546A10, 0x00546A11, 0x00546A12, 0x00546A13, 0x00544014, 0x00544015, 0x00544016, 0x00546A17,
      0x00546A18, 0x00546A19, 0x00546A1A, 0x00546A1B, 0x00546A1C, 0x00546A1D] : List (BitVec 32)).map decodeScalar
    = ([.intAdd 5 17 42, .intSub 5 17 42, .intMul 5 17 42, .intMulh 5 17 42,
      .intMulhn 5 17 42, .intDiv 5 17 42, .intDivn 5 17 42, .intRem 5 17 42,
      .intRemn 5 17 42, .intAnd 5 17 42, .intOr 5 17 42, .intXor 5 17 42,
      .intAndn 5 17 42, .intShl 5 17 42, .intShr 5 17 42, .intSar 5 17 42,
      .intMin 5 17 42, .intMax 5 17 42, .intMinn 5 17 42, .intMaxn 5 17 42,
      .intClz 5 17, .intCtz 5 17, .intPopc 5 17, .intEq 5 17 42,
      .intNe 5 17 42, .intLt 5 17 42, .intLtn 5 17 42, .intLe 5 17 42,
      .intLen 5 17 42, .intSel 5 17 42] : List Instr).map some := by
  decide

/-- Words of ADDI, ANDI, ORI, XORI, SHI, LI, LIH written out from R21, R22 and R37: d 5, a 17, b 42. -/
theorem test_words_immediate :
    ([0x04546ABC, 0x08546ABC, 0x0C546ABC, 0x10546ABC, 0x1454402A, 0x1454502A, 0x1454602A, 0x185ABCDE,
      0x1C5ABCDE] : List (BitVec 32)).map decodeScalar
    = ([.addi 5 17 0x2ABC, .andi 5 17 0x2ABC, .ori 5 17 0x2ABC, .xori 5 17 0x2ABC,
      .shiShl 5 17 42, .shiShr 5 17 42, .shiSar 5 17 42, .li 5 0xABCDE,
      .lih 5 0xABCDE] : List Instr).map some := by
  decide

/-- Words of BC, JMP, CALL, JR written out from R21, R22 and R37: d 5, a 17, b 42. -/
theorem test_words_control :
    ([0x2011BEEF, 0x2051BEEF, 0x2091BEEF, 0x20D1BEEF, 0x2111BEEF, 0x2151BEEF, 0x26ABCDEF, 0x2AABCDEF,
      0x2C044000, 0x2C044001] : List (BitVec 32)).map decodeScalar
    = ([.bcEq0 17 0xBEEF, .bcNe0 17 0xBEEF, .bcLt0 17 0xBEEF, .bcGe0 17 0xBEEF,
      .bcLe0 17 0xBEEF, .bcGt0 17 0xBEEF, .jmp 0x2ABCDEF, .call 0x2ABCDEF,
      .jrJr 17, .jrJrl 17] : List Instr).map some := by
  decide

/-- Words of LD, ST written out from R21, R22 and R37: d 5, a 17, b 42. -/
theorem test_words_load_store :
    ([0x405445AB, 0x40544DAB, 0x405455AB, 0x40545DAB, 0x405465AB, 0x40546DAB, 0x405475AB, 0x445445AB,
      0x445455AB, 0x445465AB, 0x445475AB] : List (BitVec 32)).map decodeScalar
    = ([.ldN8 5 17 0x5AB, .ldI8 5 17 0x5AB, .ldN16 5 17 0x5AB, .ldI16 5 17 0x5AB,
      .ldN32 5 17 0x5AB, .ldI32 5 17 0x5AB, .ldN64 5 17 0x5AB, .stN8 5 17 0x5AB,
      .stN16 5 17 0x5AB, .stN32 5 17 0x5AB, .stN64 5 17 0x5AB] : List Instr).map some := by
  decide

/-- Words of ATOM, RED written out from R21, R22 and R37: d 5, a 17, b 42. -/
theorem test_words_atomics :
    ([0x48546A00, 0x48546A01, 0x48546A02, 0x48546A03, 0x48546A04, 0x48546A05, 0x48546A06, 0x48546A07,
      0x48546A08, 0x48546A09, 0x48546A0A, 0x48546A0B, 0x48546A0C, 0x48546A0D, 0x4C046A00, 0x4C046A01,
      0x4C046A02, 0x4C046A03, 0x4C046A04, 0x4C046A05, 0x4C046A06, 0x4C046A07, 0x4C046A08, 0x4C046A09,
      0x4C046A0A] : List (BitVec 32)).map decodeScalar
    = ([.atomAdd 5 17 42, .atomAnd 5 17 42, .atomOr 5 17 42, .atomXor 5 17 42,
      .atomMin 5 17 42, .atomMax 5 17 42, .atomMinn 5 17 42, .atomMaxn 5 17 42,
      .atomSwap 5 17 42, .atomCas 5 17 42, .atomFadd32 5 17 42, .atomFadd64 5 17 42,
      .atomFxadd 5 17 42, .atomFxread 5 17 42, .redAdd 17 42, .redAnd 17 42,
      .redOr 17 42, .redXor 17 42, .redMin 17 42, .redMax 17 42,
      .redMinn 17 42, .redMaxn 17 42, .redFadd32 17 42, .redFadd64 17 42,
      .redFxadd 17 42] : List Instr).map some := by
  decide

/-- Words of FENCE, CACHE, SR, LANE, POOL written out from R21, R22 and R37: d 5, a 17, b 42. -/
theorem test_words_order_special :
    ([0x50044000, 0x54046A00, 0x54044001, 0x54544002, 0x60546A00, 0x60546A01, 0x64046A00, 0x64044001,
      0x64544002, 0x68544000, 0x68544001, 0x68544002, 0x68544003] : List (BitVec 32)).map decodeScalar
    = ([.fenceFence 17, .cachePref 17 42, .cacheEvict 17, .cacheEvstep 5 17,
      .srGet 5 17 42, .srSet 5 17 42, .laneLrun 17 42, .laneLwait 17,
      .laneLres 5 17, .poolGive 5 17, .poolClaim 5 17, .poolTgive 5 17,
      .poolTclaim 5 17] : List Instr).map some := by
  decide

/-- Words of QUEUE written out from R21, R22 and R37: d 5, a 17, b 42. -/
theorem test_words_queue :
    ([0x80046A00, 0x80546A01, 0x80546A02, 0x80546A03, 0x80546A04, 0x80544005, 0x80046A06, 0x80546A07,
      0x80546A08, 0x80044009, 0x8004400A, 0x8054400B] : List (BitVec 32)).map decodeScalar
    = ([.queueQinit 17 42, .queueQpush 5 17 42, .queueQpop 5 17 42, .queueQtrypush 5 17 42,
      .queueQtrypop 5 17 42, .queueQres 5 17, .queueQcom 17 42, .queueQlen 5 17 42,
      .queueQpeek 5 17 42, .queueQclose 17, .queueQdrain 17, .queueQcheck 5 17] : List Instr).map some := by
  decide

/-- Words of COPY, TASK, WIN written out from R21, R22 and R37: d 5, a 17, b 42. -/
theorem test_words_engines :
    ([0x84546A00, 0x84544001, 0x84046A02, 0x88544000, 0x88000001, 0x88044002, 0x88500003, 0x88544004,
      0x8C000000, 0x8C546A01, 0x8C546A02, 0x8C546A03, 0x8C546A04, 0x8C546A05] : List (BitVec 32)).map decodeScalar
    = ([.copyCstart 5 17 42, .copyCstat 5 17, .copyCabort 17 42, .taskSpawn 5 17,
      .taskDone, .taskNote 17, .taskRnext 5, .taskTquery 5 17,
      .winPark, .winWmark 5 17 42, .winWclose 5 17 42, .winWemit 5 17 42,
      .winWstate 5 17 42, .winWbind 5 17 42] : List Instr).map some := by
  decide

/-- Words of SYNC, CONF, SYS, TIME written out from R21, R22 and R37: d 5, a 17, b 42. -/
theorem test_words_sync_system :
    ([0x90546A00, 0x90546A01, 0x90046A02, 0x90544003, 0x94046A00, 0x94044001, 0x94046A02, 0xA0546A00,
      0xA0044001, 0xA0046A02, 0xA0000003, 0xA0000004, 0xA4500000, 0xA4500001, 0xA4500002] : List (BitVec 32)).map decodeScalar
    = ([.syncWait 5 17 42, .syncArrive 5 17 42, .syncBinit 17 42, .syncBphase 5 17,
      .confScset 17 42, .confOpset 17, .confEvset 17 42, .sysSys 5 17 42,
      .sysTrap 17, .sysUint 17 42, .sysEnd, .sysHalt,
      .timeRdtime 5, .timeRdtick 5, .timeRdpts 5] : List Instr).map some := by
  decide

/-- Words of VI written out from R23, R24 and R38: D 2, A 4, B 6, C 3, predicated on !p3 where that has a meaning. -/
theorem test_words_vi :
    ([[0x84, 0x00, 0x01, 0xC0, 0x81, 0x01, 0x80, 0xC0],
      [0x84, 0x00, 0x41, 0xC0, 0x81, 0x01, 0x80, 0xC0],
      [0x84, 0x00, 0x81, 0xC0, 0x81, 0x01, 0x80, 0xC0],
      [0x84, 0x00, 0xC1, 0xC0, 0x81, 0x01, 0x80, 0xC0],
      [0x84, 0x01, 0x01, 0xC0, 0x81, 0x01, 0x80, 0xC0],
      [0x84, 0x01, 0x41, 0xC0, 0x81, 0x01, 0x80, 0xC0],
      [0x84, 0x01, 0x81, 0xC0, 0x81, 0x01, 0x80, 0xC0],
      [0x84, 0x01, 0xC1, 0xC0, 0x81, 0x01, 0x80, 0xC0],
      [0x84, 0x02, 0x01, 0xC0, 0x81, 0x01, 0x80, 0xC0],
      [0x84, 0x02, 0x41, 0xC0, 0x81, 0x01, 0x80, 0xC0],
      [0x84, 0x02, 0x81, 0xC0, 0x81, 0x01, 0x80, 0xC0],
      [0x84, 0x02, 0xC1, 0xC0, 0x81, 0x01, 0x80, 0xC0],
      [0x84, 0x03, 0x01, 0xC0, 0x81, 0x01, 0x80, 0xC0],
      [0x84, 0x03, 0x41, 0xC0, 0x81, 0x01, 0x80, 0xC0],
      [0x84, 0x03, 0x81, 0xC0, 0x81, 0x01, 0x80, 0xC0],
      [0x84, 0x03, 0xC1, 0xC0, 0x81, 0x01, 0x80, 0xC0],
      [0x84, 0x04, 0x01, 0xC0, 0x81, 0x01, 0x80, 0xC0],
      [0x84, 0x04, 0x41, 0xC0, 0x81, 0x01, 0x80, 0xC0],
      [0x84, 0x04, 0x81, 0xC0, 0x81, 0x01, 0x80, 0xC0],
      [0x84, 0x04, 0xC1, 0xC0, 0x81, 0x01, 0x80, 0xC0],
      [0x84, 0x05, 0x01, 0xC0, 0x81, 0x01, 0x80, 0xC0],
      [0x84, 0x05, 0x41, 0xC0, 0x81, 0x01, 0x80, 0xC0],
      [0x84, 0x05, 0x81, 0xC0, 0x81, 0x01, 0x80, 0xC0],
      [0x84, 0x05, 0xC1, 0xC0, 0x81, 0x01, 0x80, 0xC0],
      [0x84, 0x06, 0x01, 0xC0, 0x81, 0x01, 0x80, 0xC0],
      [0x84, 0x06, 0x41, 0xC0, 0x81, 0x01, 0x80, 0xC0],
      [0x84, 0x06, 0x81, 0xC0, 0x81, 0x01, 0x80, 0xC0],
      [0x84, 0x06, 0xC1, 0xC0, 0x81, 0x01, 0x80, 0xC0],
      [0x84, 0x07, 0x01, 0xC0, 0x81, 0x01, 0x80, 0xC0],
      [0x84, 0x07, 0x41, 0xC0, 0x81, 0x01, 0x80, 0xC0],
      [0xC4, 0x07, 0x81, 0xC0, 0x81, 0x01, 0x80, 0xC0, 0xFF, 0xFF, 0xFF, 0x85],
      [0xC4, 0x07, 0xC1, 0xC0, 0x81, 0x01, 0x80, 0xC0, 0xFF, 0xFF, 0xFF, 0x85]] : List (List Byte)).map decodeLane
    = ([(.viAdd (ops 0 2 4 6 3 0 0x0), .medium), (.viSub (ops 0 2 4 6 3 0 0x0), .medium),
      (.viMul (ops 0 2 4 6 3 0 0x0), .medium), (.viMulh (ops 0 2 4 6 3 0 0x0), .medium),
      (.viMulhn (ops 0 2 4 6 3 0 0x0), .medium), (.viMad (ops 0 2 4 6 3 0 0x0), .medium),
      (.viAnd (ops 0 2 4 6 3 0 0x0), .medium), (.viOr (ops 0 2 4 6 3 0 0x0), .medium),
      (.viXor (ops 0 2 4 6 3 0 0x0), .medium), (.viAndn (ops 0 2 4 6 3 0 0x0), .medium),
      (.viShl (ops 0 2 4 6 3 0 0x0), .medium), (.viShr (ops 0 2 4 6 3 0 0x0), .medium),
      (.viSar (ops 0 2 4 6 3 0 0x0), .medium), (.viMin (ops 0 2 4 6 3 0 0x0), .medium),
      (.viMax (ops 0 2 4 6 3 0 0x0), .medium), (.viMinn (ops 0 2 4 6 3 0 0x0), .medium),
      (.viMaxn (ops 0 2 4 6 3 0 0x0), .medium), (.viAbs (ops 0 2 4 6 3 0 0x0), .medium),
      (.viClz (ops 0 2 4 6 3 0 0x0), .medium), (.viPopc (ops 0 2 4 6 3 0 0x0), .medium),
      (.viAddsat (ops 0 2 4 6 3 0 0x0), .medium), (.viSubsat (ops 0 2 4 6 3 0 0x0), .medium),
      (.viCmpeq (ops 0 2 4 6 3 0 0x0), .medium), (.viCmpne (ops 0 2 4 6 3 0 0x0), .medium),
      (.viCmplt (ops 0 2 4 6 3 0 0x0), .medium), (.viCmpltn (ops 0 2 4 6 3 0 0x0), .medium),
      (.viCmple (ops 0 2 4 6 3 0 0x0), .medium), (.viCmplen (ops 0 2 4 6 3 0 0x0), .medium),
      (.viSel (ops 0 2 4 6 3 0 0x0), .medium), (.viMov (ops 0 2 4 6 3 0 0x0), .medium),
      (.viLi (ops 0 2 4 6 3 0 0xFFFFFF85), .long), (.viIota (ops 0 2 4 6 3 0 0xFFFFFF85), .long)] : List (Instr × LaneForm)).map .ok := by
  decide

/-- Words of VF written out from R23, R24 and R38: D 2, A 4, B 6, C 3, predicated on !p3 where that has a meaning. -/
theorem test_words_vf :
    ([[0x88, 0x00, 0x21, 0xC0, 0x81, 0x01, 0x80, 0xC1],
      [0x88, 0x00, 0x61, 0xC0, 0x81, 0x01, 0x80, 0xC0],
      [0x88, 0x00, 0xA1, 0xC0, 0x81, 0x01, 0x80, 0xC0],
      [0x88, 0x00, 0xE5, 0xC0, 0x81, 0x01, 0x80, 0xC6],
      [0x88, 0x01, 0x21, 0xC0, 0x81, 0x01, 0x80, 0xC0],
      [0x88, 0x01, 0x61, 0xC0, 0x81, 0x01, 0x80, 0xC0],
      [0x88, 0x01, 0xA1, 0xC0, 0x81, 0x01, 0x80, 0xC0],
      [0x88, 0x01, 0xE1, 0xC0, 0x81, 0x01, 0x80, 0xC1],
      [0x88, 0x02, 0x21, 0xC0, 0x81, 0x01, 0x80, 0xC0],
      [0x88, 0x02, 0x61, 0xC0, 0x81, 0x01, 0x80, 0xC0],
      [0x88, 0x02, 0xA1, 0xC0, 0x81, 0x01, 0x80, 0xC0],
      [0x88, 0x02, 0xE1, 0xC0, 0x81, 0x01, 0x80, 0xC0],
      [0x88, 0x03, 0x21, 0xC0, 0x81, 0x01, 0x80, 0xC1],
      [0x88, 0x03, 0x61, 0xC0, 0x81, 0x01, 0x80, 0xC0],
      [0x88, 0x03, 0xA1, 0xC0, 0x81, 0x01, 0x80, 0xC0],
      [0x88, 0x03, 0xE1, 0xC0, 0x81, 0x01, 0x80, 0xC0],
      [0x88, 0x04, 0x21, 0xC0, 0x81, 0x01, 0x80, 0xC0],
      [0x88, 0x04, 0x61, 0xC0, 0x81, 0x01, 0x80, 0xC0],
      [0x88, 0x04, 0xA1, 0xC0, 0x81, 0x01, 0x80, 0xC0],
      [0x88, 0x04, 0xE1, 0xC0, 0x81, 0x01, 0x80, 0xC0],
      [0x88, 0x05, 0x21, 0xC0, 0x81, 0x01, 0x80, 0xC0],
      [0x88, 0x05, 0x61, 0xC0, 0x81, 0x01, 0x80, 0xC0],
      [0xC8, 0x05, 0xAD, 0xC0, 0x81, 0x01, 0x80, 0xC0, 0x3F, 0xC0, 0x00, 0x00]] : List (List Byte)).map decodeLane
    = ([(.vfAdd (ops 8 2 4 6 3 1 0x0), .medium), (.vfSub (ops 8 2 4 6 3 0 0x0), .medium),
      (.vfMul (ops 8 2 4 6 3 0 0x0), .medium), (.vfFma (ops 9 2 4 6 3 6 0x0), .medium),
      (.vfFms (ops 8 2 4 6 3 0 0x0), .medium), (.vfMin (ops 8 2 4 6 3 0 0x0), .medium),
      (.vfMax (ops 8 2 4 6 3 0 0x0), .medium), (.vfDiv (ops 8 2 4 6 3 1 0x0), .medium),
      (.vfSqrt (ops 8 2 4 6 3 0 0x0), .medium), (.vfRcp (ops 8 2 4 6 3 0 0x0), .medium),
      (.vfRsq (ops 8 2 4 6 3 0 0x0), .medium), (.vfExp2 (ops 8 2 4 6 3 0 0x0), .medium),
      (.vfLog2 (ops 8 2 4 6 3 1 0x0), .medium), (.vfAbs (ops 8 2 4 6 3 0 0x0), .medium),
      (.vfNeg (ops 8 2 4 6 3 0 0x0), .medium), (.vfCopysign (ops 8 2 4 6 3 0 0x0), .medium),
      (.vfCmpeq (ops 8 2 4 6 3 0 0x0), .medium), (.vfCmplt (ops 8 2 4 6 3 0 0x0), .medium),
      (.vfCmple (ops 8 2 4 6 3 0 0x0), .medium), (.vfCmpun (ops 8 2 4 6 3 0 0x0), .medium),
      (.vfClass (ops 8 2 4 6 3 0 0x0), .medium), (.vfMov (ops 8 2 4 6 3 0 0x0), .medium),
      (.vfLi (ops 11 2 4 6 3 0 0x3FC00000), .long)] : List (Instr × LaneForm)).map .ok := by
  decide

/-- Words of VC written out from R23, R24 and R38: D 2, A 4, B 6, C 3, predicated on !p3 where that has a meaning. -/
theorem test_words_vc :
    ([[0x8C, 0x00, 0x0D, 0xC0, 0x81, 0x01, 0x80, 0xE8],
      [0x8C, 0x00, 0x65, 0xC0, 0x81, 0x01, 0x80, 0xC8],
      [0x8C, 0x00, 0xB9, 0xC0, 0x81, 0x01, 0x80, 0xC8],
      [0x8C, 0x00, 0xE9, 0xC0, 0x81, 0x01, 0x80, 0xDE],
      [0x8C, 0x01, 0x09, 0xC0, 0x81, 0x01, 0x80, 0xC0],
      [0x8C, 0x01, 0x55, 0xC0, 0x81, 0x01, 0x80, 0xC0]] : List (List Byte)).map decodeLane
    = ([(.vcCvt (ops 3 2 4 6 3 40 0x0), .medium), (.vcCvts (ops 9 2 4 6 3 8 0x0), .medium),
      (.vcQnpack (ops 14 2 4 6 3 8 0x0), .medium), (.vcQnunpack (ops 10 2 4 6 3 30 0x0), .medium),
      (.vcPack (ops 2 2 4 6 3 0 0x0), .medium), (.vcUnpack (ops 5 2 4 6 3 0 0x0), .medium)] : List (Instr × LaneForm)).map .ok := by
  decide

/-- Words of VX written out from R23, R24 and R38: D 2, A 4, B 6, C 3, predicated on !p3 where that has a meaning. -/
theorem test_words_vx :
    ([[0x90, 0x00, 0x01, 0xC0, 0x81, 0x01, 0x80, 0xC0],
      [0xD0, 0x00, 0x41, 0xC0, 0x81, 0x01, 0x80, 0xC0, 0x00, 0x00, 0x00, 0x09],
      [0xD0, 0x00, 0x81, 0xC0, 0x81, 0x01, 0x80, 0xC0, 0x00, 0x00, 0x00, 0x09],
      [0xD0, 0x00, 0xC1, 0xC0, 0x81, 0x01, 0x80, 0xC0, 0x00, 0x00, 0x00, 0x09],
      [0xD0, 0x01, 0x01, 0xC0, 0x81, 0x01, 0x80, 0xC0, 0x00, 0x00, 0x00, 0x09],
      [0x90, 0x01, 0x41, 0xC0, 0x81, 0x01, 0x80, 0xC9],
      [0x90, 0x01, 0x81, 0xC0, 0x81, 0x01, 0x80, 0xC3],
      [0x90, 0x01, 0xC1, 0xC0, 0x81, 0x01, 0x80, 0xC2],
      [0x90, 0x02, 0x01, 0xC0, 0x81, 0x01, 0x80, 0xC0]] : List (List Byte)).map decodeLane
    = ([(.vxShfl (ops 0 2 4 6 3 0 0x0), .medium), (.vxShup (ops 0 2 4 6 3 0 0x9), .long),
      (.vxShdn (ops 0 2 4 6 3 0 0x9), .long), (.vxShxor (ops 0 2 4 6 3 0 0x9), .long),
      (.vxBcast (ops 0 2 4 6 3 0 0x9), .long), (.vxScan (ops 0 2 4 6 3 9 0x0), .medium),
      (.vxRed (ops 0 2 4 6 3 3 0x0), .medium), (.vxVote (ops 0 2 4 6 3 2 0x0), .medium),
      (.vxBallot (ops 0 2 4 6 3 0 0x0), .medium)] : List (Instr × LaneForm)).map .ok := by
  decide

/-- Words of VP written out from R23, R24 and R38: D 2, A 4, B 6, C 3, predicated on !p3 where that has a meaning. -/
theorem test_words_vp :
    ([[0x94, 0x00, 0x01, 0xC0, 0x81, 0x01, 0x80, 0xC0],
      [0x94, 0x00, 0x41, 0xC0, 0x81, 0x01, 0x80, 0xC0],
      [0x94, 0x00, 0x81, 0xC0, 0x81, 0x01, 0x80, 0xC0],
      [0x94, 0x00, 0xC1, 0xC0, 0x81, 0x01, 0x80, 0xC0],
      [0x94, 0x01, 0x01, 0xC0, 0x81, 0x01, 0x80, 0xC0],
      [0xD4, 0x01, 0x41, 0xC0, 0x81, 0x01, 0x80, 0xC0, 0xA5, 0xA5, 0xF0, 0x0F]] : List (List Byte)).map decodeLane
    = ([(.vpPand (ops 0 2 4 6 3 0 0x0), .medium), (.vpPor (ops 0 2 4 6 3 0 0x0), .medium),
      (.vpPxor (ops 0 2 4 6 3 0 0x0), .medium), (.vpPnot (ops 0 2 4 6 3 0 0x0), .medium),
      (.vpPmov (ops 0 2 4 6 3 0 0x0), .medium), (.vpPset (ops 0 2 4 6 3 0 0xA5A5F00F), .long)] : List (Instr × LaneForm)).map .ok := by
  decide

/-- Words of LB written out from R23, R24 and R38: D 2, A 4, B 6, C 3, predicated on !p3 where that has a meaning. -/
theorem test_words_lb :
    ([[0xD8, 0x00, 0x01, 0xC0, 0x81, 0x01, 0x80, 0xC0, 0xFF, 0xFF, 0xFF, 0xC0],
      [0xD8, 0x00, 0x41, 0xC0, 0x81, 0x01, 0x80, 0xC0, 0x00, 0x00, 0x00, 0x40],
      [0xD8, 0x00, 0x81, 0xC0, 0x81, 0x01, 0x80, 0xC0, 0x00, 0x00, 0x00, 0x40],
      [0x98, 0x00, 0xC0, 0x00, 0x00, 0x00, 0x00, 0x00],
      [0xD8, 0x01, 0x00, 0x00, 0x81, 0x01, 0x80, 0xC0, 0xFF, 0xFF, 0xFF, 0xC0],
      [0x98, 0x01, 0x40, 0x00, 0x00, 0x00, 0x00, 0x00],
      [0x98, 0x01, 0x80, 0x00, 0x00, 0x00, 0x00, 0x00],
      [0x98, 0x01, 0xC0, 0x00, 0x00, 0x00, 0x00, 0x00]] : List (List Byte)).map decodeLane
    = ([(.lbBrc (ops 0 2 4 6 3 0 0xFFFFFFC0), .long), (.lbBrk (ops 0 2 4 6 3 0 0x40), .long),
      (.lbCont (ops 0 2 4 6 3 0 0x40), .long), (.lbJoin, .medium),
      (.lbJmp (plain 0 2 4 6 3 0 0xFFFFFFC0), .long), (.lbRegang, .medium),
      (.lbLend, .medium), (.lbNop, .medium)] : List (Instr × LaneForm)).map .ok := by
  decide

/-- Words of VM written out from R23, R24 and R38: D 2, A 4, B 6, C 3, predicated on !p3 where that has a meaning. -/
theorem test_words_vm :
    ([[0xDC, 0x00, 0x11, 0xC0, 0x81, 0x01, 0x80, 0xC0, 0x00, 0x00, 0x00, 0x10],
      [0xDC, 0x00, 0x51, 0xC0, 0x81, 0x01, 0x80, 0xC0, 0x00, 0x00, 0x00, 0x10],
      [0xDC, 0x00, 0x91, 0xC0, 0x81, 0x01, 0x80, 0xC2, 0xFF, 0xFF, 0xFF, 0xF0],
      [0xDC, 0x00, 0xD1, 0xC0, 0x81, 0x01, 0x80, 0xC2, 0xFF, 0xFF, 0xFF, 0xF0],
      [0xDC, 0x01, 0x11, 0xC0, 0x81, 0x01, 0x80, 0xC0, 0x00, 0x00, 0x00, 0x10],
      [0xDC, 0x01, 0x51, 0xC0, 0x81, 0x01, 0x80, 0xC0, 0x00, 0x00, 0x00, 0x10],
      [0x9C, 0x01, 0xA1, 0xC0, 0x81, 0x01, 0x80, 0xEA],
      [0x9C, 0x01, 0xE1, 0xC0, 0x81, 0x01, 0x80, 0xF3],
      [0x9C, 0x02, 0x01, 0xC0, 0x81, 0x01, 0x80, 0xC1]] : List (List Byte)).map decodeLane
    = ([(.vmLd (ops 4 2 4 6 3 0 0x10), .long), (.vmSt (ops 4 2 4 6 3 0 0x10), .long),
      (.vmLdx (ops 4 2 4 6 3 2 0xFFFFFFF0), .long), (.vmStx (ops 4 2 4 6 3 2 0xFFFFFFF0), .long),
      (.vmSld (ops 4 2 4 6 3 0 0x10), .long), (.vmSst (ops 4 2 4 6 3 0 0x10), .long),
      (.vmAtom (ops 8 2 4 6 3 42 0x0), .medium), (.vmRed (ops 8 2 4 6 3 51 0x0), .medium),
      (.vmPref (ops 0 2 4 6 3 1 0x0), .medium)] : List (Instr × LaneForm)).map .ok := by
  decide

/-- Words of MX written out from R23, R24 and R38: D 2, A 4, B 6, C 3, predicated on !p3 where that has a meaning. -/
theorem test_words_mx :
    ([[0xA0, 0x00, 0x01, 0xC0, 0x81, 0x01, 0x80, 0xC0],
      [0xA0, 0x00, 0x41, 0xC0, 0x81, 0x01, 0x80, 0xC0],
      [0xE0, 0x00, 0x81, 0xC0, 0x81, 0x01, 0x80, 0xC0, 0x00, 0x00, 0x10, 0x00],
      [0xE0, 0x00, 0xC1, 0xC0, 0x81, 0x01, 0x80, 0xDA, 0x00, 0x08, 0x12, 0x34],
      [0xE0, 0x01, 0x01, 0xC0, 0x81, 0x01, 0x80, 0xDA, 0x00, 0x08, 0x12, 0x34],
      [0xA0, 0x01, 0x61, 0xC0, 0x81, 0x01, 0x80, 0xC9],
      [0xE0, 0x01, 0x81, 0xC0, 0x81, 0x01, 0x80, 0xC1, 0x00, 0x00, 0x00, 0x7E],
      [0xE0, 0x01, 0xC1, 0xC0, 0x81, 0x01, 0x80, 0xC1, 0x00, 0x00, 0x00, 0x7E],
      [0xA0, 0x02, 0x29, 0xC0, 0x81, 0x01, 0x82, 0x80],
      [0xA0, 0x02, 0x69, 0xC0, 0x81, 0x01, 0x82, 0x80],
      [0xA0, 0x02, 0x81, 0xC0, 0x81, 0x01, 0x80, 0xC2],
      [0xA0, 0x02, 0xC1, 0xC0, 0x81, 0x01, 0x80, 0xC0]] : List (List Byte)).map decodeLane
    = ([(.mxMres (ops 0 2 4 6 3 0 0x0), .medium), (.mxMfree (ops 0 2 4 6 3 0 0x0), .medium),
      (.mxMfill (ops 0 2 4 6 3 0 0x1000), .long), (.mxMma (ops 0 2 4 6 3 26 0x81234), .long),
      (.mxMmag (ops 0 2 4 6 3 26 0x81234), .long), (.mxMzero (ops 8 2 4 6 3 9 0x0), .medium),
      (.mxMrd (ops 0 2 4 6 3 1 0x7E), .long), (.mxMwr (ops 0 2 4 6 3 1 0x7E), .long),
      (.mxMst (ops 10 2 4 6 10 0 0x0), .medium), (.mxMstx (ops 10 2 4 6 10 0 0x0), .medium),
      (.mxMrow (ops 0 2 4 6 3 2 0x0), .medium), (.mxMnote (ops 0 2 4 6 3 0 0x0), .medium)] : List (Instr × LaneForm)).map .ok := by
  decide

/-- Words of SL written out from R23, R24 and R38: D 2, A 4, B 6, C 3, predicated on !p3 where that has a meaning. -/
theorem test_words_sl :
    ([[0xE4, 0x00, 0x21, 0xC0, 0x81, 0x01, 0x80, 0xC2, 0x00, 0x00, 0x04, 0x00],
      [0xE4, 0x00, 0x69, 0xC0, 0x81, 0x01, 0x80, 0xC0, 0x3F, 0x80, 0x00, 0x00],
      [0xE4, 0x00, 0xA1, 0xC0, 0x81, 0x01, 0x80, 0xC3, 0x3F, 0x00, 0x00, 0x00],
      [0xA4, 0x00, 0xC1, 0xC0, 0x81, 0x01, 0x80, 0xC0]] : List (List Byte)).map decodeLane
    = ([(.slTopk (ops 8 2 4 6 3 2 0x400), .long), (.slSmax (ops 10 2 4 6 3 0 0x3F800000), .long),
      (.slSamp (ops 8 2 4 6 3 3 0x3F000000), .long), (.slRng (ops 0 2 4 6 3 0 0x0), .medium)] : List (Instr × LaneForm)).map .ok := by
  decide

/-- Words of LQ written out from R23, R24 and R38: D 2, A 4, B 6, C 3, predicated on !p3 where that has a meaning. -/
theorem test_words_lq :
    ([[0xA8, 0x00, 0x01, 0xC0, 0x81, 0x01, 0x80, 0xC0],
      [0xA8, 0x00, 0x41, 0xC0, 0x81, 0x01, 0x80, 0xC0]] : List (List Byte)).map decodeLane
    = ([(.lqQpushv (ops 0 2 4 6 3 0 0x0), .medium), (.lqQpopv (ops 0 2 4 6 3 0 0x0), .medium)] : List (Instr × LaneForm)).map .ok := by
  decide
/-- The worked words of R22, R28, R40, R41 and of the programs of the spec. -/
theorem test_words_worked :
    ([0x00304200, 0x18501234, 0x1C556789, 0x00304206, 0x04107FFF, 0x1420A003, 0x28000010, 0x2C0BC000, 0xA4500000,
      0x00000000, 0xFFFFFFFF] : List (BitVec 32)).map decodeScalar
    = [some (.intAdd 3 1 2), some (.li 5 0x1234), some (.lih 5 0x56789), some (.intDivn 3 1 2), some (.addi 1 1 0x3FFF),
       some (.shiSar 2 2 3), some (.call 0x10), some (.jrJr 47), some (.timeRdtime 5), some (.intAdd 0 0 0), none] := by
  decide

/-- The worked lane words of R25, R26, R28 and R41: the three forms, and indices whose expansion fails. -/
theorem test_words_lane_worked :
    ([[0x00, 0x05, 0x06, 0x07], [0x88, 0x00, 0xE0, 0x02, 0x80, 0x80, 0xC1, 0x00],
      [0xC4, 0x07, 0x80, 0x02, 0x40, 0x00, 0x00, 0x00, 0x00, 0x00, 0x03, 0xE8], [0x1E, 0x09, 0x00, 0x00],
      [0x23, 0x01, 0x02, 0x03], [0x50, 0x01, 0x02, 0x00], [0x5B, 0x01, 0x02, 0x00], [0x6C, 0, 0, 0], [0x37, 0, 0, 0]]
      : List (List Byte)).map decodeLane
    = [.ok (.viAdd (plain 0 5 6 7 5 0 0), .short), .ok (.vfFma (plain 8 10 2 3 4 0 0), .medium),
       .ok (.viLi (plain 0 9 0 0 0 0 1000), .long), .ok (.viLi (plain 0 9 0 0 9 0 0), .short),
       .ok (.vfFma (plain 8 1 2 3 1 0 0), .short), .ok (.vmLd (plain 0 1 2 0 1 0 0), .short),
       .ok (.vpPnot (plain 0 1 2 0 1 0 0), .short), .error .shortIndex, .error .unassigned] := by
  decide

/-- Scalar words that R40 lists as no instruction: a major, an FN, SHI's kind and reserved bits, a condition, ST with
sx, LD of 64 bits with sx, a field the FN does not use. -/
theorem test_refused_scalar :
    ([0x30000000, 0x0000001E, 0x14003000, 0x14000040, 0x21800000, 0x44000800, 0x40003800, 0x00000114, 0x2C000002,
      0x88100001] : List (BitVec 32)).map decodeScalar = List.replicate 10 none := by
  decide

/-- An ill-formed lane term for each check of expansion (R29, R31, R36, R302), which the check refuses. -/
theorem test_refused_lane :
    [expandError .long 0x11 0x00 (plain 0 1 2 3 4 0 0), expandError .long 0x10 0x20 (plain 0 1 2 3 4 0 0),
     expandError .long 0x10 0x00 (plain 8 1 2 3 4 0 0), expandError .long 0x20 0x05 (plain 8 1 2 3 4 1 0),
     expandError .long 0x10 0x00 (plain 0 1 2 3 4 0 7), expandError .long 0x60 0x03 (ops 0 0 0 0 0 0 0),
     expandError .long 0x10 0x00 (plain 3 1 2 4 4 0 0), expandError .medium 0x10 0x1E (plain 0 1 0 0 0 0 5),
     expandError .short 0x10 0x00 (plain 4 1 2 3 1 0 0), expandError .long 0x80 0x05 (plain 0 8 0 0 0 0 0)]
    = [some .unassigned, some .unassigned, some .typeCode, some .modifier, some .immediate, some .predicate,
       some .operand, some .form, some .form, some .operand] := by
  decide

/-- WellFormed refuses an ill-formed term of each kind, and accepts one mended. -/
theorem test_ill_formed :
    [wellFormed .long (.viAdd (plain 8 1 2 3 4 0 0)), wellFormed .long (.vfMin (plain 8 1 2 3 4 1 0)),
     wellFormed .long (.viAdd (plain 0 1 2 3 4 0 7)), wellFormed .long (.viAdd (plain 3 1 2 4 4 0 0)),
     wellFormed .medium (.viLi (plain 0 1 0 0 0 0 5)), wellFormed .short (.viAdd (plain 0 1 2 3 4 0 0)),
     wellFormed .long (.lqQpopv (plain 0 1 2 3 9 0 0)), wellFormed .long (.mxMres (plain 0 16 2 2 0 0 0)),
     wellFormed .long (.vmLd (plain 4 1 3 0 0 0 0))] = List.replicate 9 false
    ∧ [wellFormed .long (.viAdd (plain 3 2 2 4 4 0 0)), wellFormed .medium (.vfMin (plain 8 1 2 3 4 0 0)),
       wellFormed .long (.viLi (plain 0 1 0 0 0 0 5)), wellFormed .short (.viAdd (plain 0 4 2 3 4 0 0))]
      = List.replicate 4 true := by
  decide

/-- Bytes that end before the instruction does (R29), and a window of bytes longer than it. -/
theorem test_truncated :
    ([[], [0, 1, 2], [0x84, 0, 0, 0, 0, 0, 0], [0xC4, 0, 0, 0, 0, 0, 0, 0, 0, 0, 0]] : List (List Byte)).map decodeLane
      = List.replicate 4 (.error .truncated)
    ∧ decodeLane [0, 1, 2, 3, 0xFF] = .ok (.viAdd (plain 0 1 2 3 1 0 0), .short) := by
  decide

/-- The opcode table's numbering: a scalar word in 32 bits, a lane stream with byte 0 in bits 7:0. -/
theorem test_table_numbering :
    decodeTableWord 32 0x00304200 = some (.intAdd 3 1 2)
    ∧ decodeTableWord 64 0x00C180_8002E00088 = some (.vfFma (plain 8 10 2 3 4 0 0)) := by
  decide

/-- A task thread at core 0 slot 0 whose scalar registers are as listed, with the page at 0x10000 declared for every
access (R190). -/
def thread (regs : SMap Word) : Thread :=
  { Thread.image 0 0 0x10000 with
    s := { init := 0, writes := regs }
    ranges := [{ base := 0x10000, len := 0x10000, read := true, write := true, atomic := true }] }

/-- The machine that `withFetchWord` leaves, context 0 with one page at 0x10000, and the thread given. -/
def machine (t : Thread) : State := { State.reset.placeWord 32 0 with agenda := [], threads := [(0, t)] }

/-- The thread issues on its machine. -/
theorem issues (t : Thread) (h : t.ended = false) : Issues (machine t) t := by
  have hc : (State.reset.placeWord 32 0).cur.tid = 0 := by decide +kernel
  simp [Issues, issuer, machine, look, h, hc]

/-- An answer that is there. -/
theorem some_of {α : Type} {x : Option α} (h : x.isSome = true) : ∃ y, x = some y := Option.isSome_iff_exists.mp h

/-- An access that answers a first value gives some machine with it. -/
theorem acc_some {α β : Type} [DecidableEq α] (x : Machine.Acc (α × β)) (a : α)
    (h : (match x with | .ok r => decide (r.1 = a) | _ => false) = true) : ∃ b, x = .ok (a, b) := by
  cases x with
  | ok r => exact ⟨r.2, by simp at h; simp [← h]⟩
  | fault _ => cases h
  | wait => cases h

/-- An access that goes through. -/
theorem acc_ok {α : Type} {x : Machine.Acc α} (h : (match x with | .ok _ => true | _ => false) = true) :
    ∃ y, x = .ok y := by
  cases x with
  | ok r => exact ⟨r, rfl⟩
  | fault _ => cases h
  | wait => cases h

/-- A step that goes on. -/
theorem next_of {x : Host.Outcome State Fault Refusal} (h : (match x with | .next _ => true | _ => false) = true) :
    ∃ t, x = .next t := by
  cases x with
  | next t => exact ⟨t, rfl⟩
  | fault _ => cases h
  | refused _ => cases h

/-- ScalarRoundTrip, LaneRoundTrip: an instruction of each stored form. -/
theorem test_meets_round_trips :
    encodeScalar (.intAdd 3 1 2) = some 0x00304200#32
    ∧ ([(.short, .viAdd (plain 0 5 6 7 5 0 0)), (.medium, .vfFma (plain 8 10 2 3 4 0 0)),
        (.long, .viLi (plain 0 9 0 0 0 0 1000))] : List (LaneForm × Instr)).all
        (fun x => (laneCode x.2).isSome && wellFormed x.1 x.2) = true := by
  decide +kernel

/-- MemoryStaysCanonical: a canonical machine that steps. -/
theorem test_meets_MemoryStaysCanonical :
    let s : State := { machine (thread []) with agenda := [.scalar 0] }
    s.canonical ∧ ∃ t, stepsTo s t :=
  ⟨by show Mem.wf _ = true; decide +kernel, next_of (by decide +kernel)⟩

/-- The party that core 0's unit picks, with the machine its rotation leaves. -/
def picked (s : State) (lane : Bool) : Ready × State :=
  (s.issueOn 0 lane).getD ({ tid := 0, prio := 0, since := 0, last := 0, gang := none }, s)

/-- A machine whose agenda is a list. -/
def told (s : State) (l : List Move) : State := { s with agenda := l }

/-- The machine as a party issues whose unit picks it. -/
def turnOf (s : State) (r : Ready) : State := (picked (told s []) r.gang.isSome).2.issued r

/-- A party that the agenda names, and that its unit picks, has the turn. -/
theorem comes (s : State) (t : Thread) (r : Ready) (n : Option Nat) (m : Move) (hm : m = r.move n)
    (h : (look s.threads 0 == some t && !t.ended && decide (r.tid = 0) && ((told s []).issueOn 0 r.gang.isSome).isSome
      && decide ((picked (told s []) r.gang.isSome).1 = r)) = true) : ComesTo (told s [m]) (turnOf s r) r n := by
  simp only [Bool.and_eq_true, beq_iff_eq, decide_eq_true_eq, Bool.not_eq_true'] at h
  obtain ⟨⟨⟨⟨ht, he⟩, hr⟩, hp⟩, hx⟩ := h
  refine ⟨_, rfl, .inl ⟨[], t, by rw [← hm]; rfl, by rw [hr]; exact ht, he, ?_⟩⟩
  have h : coreOf r.tid = 0 := by rw [hr]; rfl
  show (told s []).issueOn (coreOf r.tid) r.gang.isSome = _
  rw [h]
  obtain ⟨y, hy⟩ := some_of hp
  simp only [picked, hy, Option.getD_some] at hx ⊢
  rw [← hx]

/-- StepRunsScalar: the word 0 at the PC, fetched from memory, by a party that the agenda names; and one that the machine
itself picks on an odd clk. -/
theorem test_meets_StepRunsScalar :
    let t := thread []
    let s := machine t
    let own : State := { s with clk := 1 }
    let r : Ready := { tid := 0, prio := 0, since := 0, last := 0, gang := none }
    let u := turnOf s r
    let t' : Thread := { t with since := s.clk }
    ComesTo (told s [.scalar 0]) u r none ∧ look u.threads 0 = some t' ∧ u.mayGoOn 0 0 t'.wait = true ∧ reissues t'.wait = true
    ∧ (∃ s1, u.fetchScalar 0 t' = .ok (0#32, s1)) ∧ decodeScalar 0#32 = some (.intAdd 0 0 0)
    ∧ own.agenda = [] ∧ own.later = [] ∧ (own.issueAny (own.clk / 2 % 2 == 1) own.coreOrder).isSome = true :=
  ⟨comes _ (thread []) _ none _ rfl (by decide +kernel), by decide +kernel, by decide +kernel, rfl,
    acc_some _ _ (by decide +kernel), rfl, by decide +kernel⟩

/-- A thread whose one gang runs a block at lane offset 0, with registers as listed. -/
def gangThread (regs : SMap Word) (v p : SMap Lane32) : Thread :=
  { thread regs with
    running := true
    blocks := [{ entry := 0, args := [] }]
    v := { init := 0, writes := v }
    p := { init := 0, writes := p }
    sl := (thread []).sl.map (fun x => { x with st := .issuing }) }

/-- The machine of a gang that issues a medium word. -/
def gangMachine (t : Thread) : State := { machine t with cur := { tid := 0, party := .gang 0, len := 8 } }

/-- The gang issues on its machine, every register it names held. -/
theorem gang_issues (t : Thread) (op fn : BitVec 8) (o : LaneOps) (h : t.ended = false)
    (hs : (t.gangSlices 0).isEmpty = false) (hn : namesBeyond op fn o t = false) :
    GangIssues (gangMachine t) t 0 op fn o :=
  ⟨by simp [issuer, gangMachine, machine, look, h], rfl, hs, hn⟩

/-- StepRunsLane: the stored bytes 00 00 00 00 at the lane PC, and an agenda that gives the turn one line request. -/
theorem test_meets_StepRunsLane :
    let t := gangThread [] [] []
    let s := machine t
    let r : Ready := { tid := 0, prio := 0, since := 0, last := 0, gang := some 0 }
    let u := turnOf s r
    let t' : Thread := { t with sl := t.sl.map (fun x => { x with since := s.clk, last := s.clk + 1 }) }
    ComesTo (told s [.lane 0 0]) u r none ∧ ComesTo (told s [.lines 0 0 1]) u r (some 1) ∧ look u.threads 0 = some t'
    ∧ u.mayGoOn 0 0 (t'.gangWaits 0) = true ∧ t'.gangReady 0 = true ∧ u.gated = false
    ∧ (∃ s1, u.fetchLane 0 t' (t'.gangPc 0) = .ok ([0, 0, 0, 0], s1))
    ∧ decodeLane [0, 0, 0, 0] = .ok (.viAdd (plain 0 0 0 0 0 0 0), .short) :=
  ⟨comes _ (gangThread [] [] []) _ none _ rfl (by decide +kernel),
    comes _ (gangThread [] [] []) _ (some 1) _ rfl (by decide +kernel), by decide +kernel, by decide +kernel,
    by decide +kernel, by decide +kernel, acc_some _ _ (by decide +kernel), rfl⟩

/-- ScalarArithmetic, ControlFlow, ScalarRegisters: a thread that issues with operands at the edges of each condition:
0, 1 and the lowest number for the branches, an aligned and a misaligned target, the highest register. -/
theorem test_meets_scalar :
    let t := thread [(1, 1), (2, 0x8000000000000000), (3, 2), (4, 0x10004)]
    Issues (machine t) t
    ∧ (t.S 0).toInt = 0 ∧ (t.S 1).toInt > 0 ∧ (t.S 2).toInt < 0 ∧ (t.S 4).toNat % 4 = 0 ∧ (t.S 3).toNat % 4 ≠ 0
    ∧ (63#6 ≠ 0 ∧ 62#6 ≠ 63#6) :=
  ⟨issues _ rfl, by decide +kernel⟩

/-- SpecialRegisters: a listed and an unlisted number, and the four that may be written. -/
theorem test_meets_SpecialRegisters :
    let t := thread []
    let s := machine t
    Issues s t ∧ (∃ v, s.srValue 0 t 0x060 = some v) ∧ s.srValue 0 t 0x061 = none
    ∧ [(0, 0x20), (0, 0x21), (0, 0x28), (0, 0x29), (1, 1), (0, 0x30), (0, 0x31), (0, 0x32), (0, 0x0C)].map
        (fun x : BitVec 6 × BitVec 6 => x.1.toNat * 64 + x.2.toNat)
      = [0x020, 0x021, 0x028, 0x029, 0x041, 0x030, 0x031, 0x032, 0x00C] :=
  ⟨issues _ rfl, some_of (by decide +kernel), by decide +kernel⟩

/-- Where an address leads does not depend on the thread. -/
theorem place_of (t : Thread) (va : Nat) : (machine t).place 0 va = (machine (thread [])).place 0 va := rfl

/-- Where the last 16 bytes of the page lead. -/
def lastBytes : Nat := match (machine (thread [])).place 0 0x1FFF0 with | .byte pa => pa | _ => 0

/-- An access at the page's last bytes leads to memory. -/
theorem leads_last (t : Thread) (n : Nat) (h : (machine t).mustWait t.ctx 0x1FFF0 lastBytes = false)
    (hc : t.ctx = 0) (hb : (!(machine t).portHeld 0 && decide (t.redBuf.length < Config.storeBuffer)
      && ((machine t).postedBy t.uid).all (fun r => !(machine t).redMeets 0x1FFF0 n r)) = true) :
    LeadsTo (machine t) t 0x1FFF0#64 n lastBytes := by
  have hp : (machine t).place 0 0x1FFF0 = .byte lastBytes := by
    rw [place_of]; decide +kernel
  have ht : (machine t).cur.tid = 0 := by
    have : (machine t).cur = (State.reset.placeWord 32 0).cur := rfl
    rw [this]; decide +kernel
  simp only [Bool.and_eq_true, Bool.not_eq_true', decide_eq_true_eq] at hb
  exact ⟨⟨by rw [ht]; exact hb.1.1, hb.1.2, hb.2⟩, by rw [hc]; exact hp, h⟩

/-- ScalarLoadsStores, ScalarAtomics, FloatAtomics: accesses of each width and kind at the page's last bytes. -/
theorem test_meets_scalar_accesses :
    let t := thread [(1, 0x1FFF0)]
    let s := machine t
    Issues s t ∧ t.S 1 = 0x1FFF0#64
    ∧ ([1, 2, 4, 8].all (fun n => s.check t 0x1FFF0 n .read true == none && s.check t 0x1FFF0 n .write true == none
        && !s.poisoned lastBytes n)) = true
    ∧ ([4, 8, 16].all (fun n => s.check t 0x1FFF0 n .atomic true == none && s.check t 0x1FFF0 n .read true == none
        && !s.poisoned lastBytes n)) = true
    ∧ LeadsTo s t (t.S 1) 1 lastBytes ∧ LeadsTo s t (t.S 1) 16 lastBytes ∧ (0x1F &&& t.fpctl.setWidth 6 : FFlags) = 0 :=
  ⟨issues _ rfl, by decide +kernel, by decide +kernel, by decide +kernel,
    leads_last _ _ (by decide +kernel) rfl (by decide +kernel), leads_last _ _ (by decide +kernel) rfl (by decide +kernel),
    by decide +kernel⟩

/-- ScalarAccessFaults: an address with bit 57 set, the last address below it misaligned, and bytes one past the range. -/
theorem test_meets_ScalarAccessFaults :
    let t := thread []
    let s := machine t
    Issues s t ∧ s.check t 0x200000000000000 4 .read true = some 0x05 ∧ s.check t 0x1FFFFFFFFFFFFFF 4 .read true = some 0x04
    ∧ s.check t 0x20000 1 .write true = some 0x05
    ∧ t.ranges.all (fun r => !(r.allows .write && decide (r.base ≤ 0x20000) && decide (0x20000 + 1 ≤ r.base + r.len))) = true :=
  ⟨issues _ rfl, by decide +kernel⟩

/-- A reduction of a thread to the page's last bytes. -/
def lastRed (op bytes : Nat) (v : BitVec 128) : Red :=
  { uid := 0, core := 0, slot := 0, lane := 255, party := .scalar, pc := 0, task := 0, winid := 0, ctx := 0, addr := 0x1FFF0, op, bytes,
    value := v, owed := false }

/-- ScalarReductions: a store buffer with room for one more, and a reduction of each operation that is performed. -/
theorem test_meets_ScalarReductions :
    let t := { thread [(1, 0x1FFF0)] with redBuf := List.replicate 31 (lastRed 0 8 1) }
    let s := machine t
    Issues s t ∧ t.redBuf.length < 32 ∧ s.check t (t.S 1) 8 .atomic true = none ∧ s.check t (t.S 1) 16 .atomic true = none
    ∧ (∀ op ∈ [0, 6, 7], (∃ u, s.performRed (lastRed op 8 (2 ^ 64 - 1)) = some u))
    ∧ (∃ u, s.performRed (lastRed 12 16 (2 ^ 128 - 1)) = some u) ∧ s.place 0 0x1FFF0 = .byte lastBytes
    ∧ s.mustWait 0 0x1FFF0 lastBytes = false ∧ s.poisoned lastBytes 16 = false
    ∧ s.hitsQcb lastBytes 16 = false := by
  refine ⟨issues _ rfl, by decide +kernel, by decide +kernel, by decide +kernel, ?_, some_of (by decide +kernel), by decide +kernel⟩
  intro op h
  have : [0, 6, 7].all (fun op => ((machine { thread [(1, 0x1FFF0)] with redBuf := List.replicate 31 (lastRed 0 8 1) }).performRed
    (lastRed op 8 (2 ^ 64 - 1))).isSome) = true := by decide +kernel
  exact some_of (List.all_eq_true.mp this op h)

/-- A thread issues when the machine says so. -/
theorem issue_of {s : State} {t : Thread} (h : issuer s = some t) : Issues s t := h

/-- What an access that goes through answers. -/
def accD {α : Type} (d : α) : Machine.Acc α → α
  | .ok x => x
  | _ => d

/-- An access that goes through answers that. -/
theorem acc_eq {α : Type} (d : α) {x : Machine.Acc α} (h : (match x with | .ok _ => true | _ => false) = true) :
    x = .ok (accD d x) := by
  cases x with
  | ok r => rfl
  | fault _ => cases h
  | wait => cases h

/-- Nothing of the thread is posted or in flight on its machine. -/
theorem quiet (s : State) (t : Thread) (h : (s.postedBy t.uid).isEmpty = true)
    (he : s.enginesDone t.uid = true) (hr : s.remoteReds t.uid = false) : Quiet s t :=
  ⟨by simpa using h, he, hr⟩

/-- FencesAndCaches: a quiet thread, scopes 31 and 32, a posted reduction that a fence of scope 6 performs, a prefetch
inside and outside the ranges, a line to evict, region 63 and 64. -/
theorem test_meets_FencesAndCaches :
    let t := thread [(1, 0x1FFF0), (2, 0x20000), (3, 63), (4, 64), (5, 0x3FFFFFFFF), (6, 0x400000000)]
    let s := machine t
    let t2 := { t with redBuf := [lastRed 0 8 1] }
    let s2 := machine t2
    Issues s t ∧ Quiet s t ∧ PortFree s t ∧ t.sentBefore .scalar = (0, []) ∧ (∃ c, look s.ctxs 0 = some c) ∧ (31#6).toNat ≤ 31 ∧ 31 < (32#6).toNat
    ∧ ((s2.performAll (s2.postedBy 0)).2 = true ∧ (s2.postedBy 0).all (fun r => r.party == .scalar && (s2.redHome r).isSome) = true
      ∧ (s2.performAll (s2.postedBy 0)).1.enginesDone 0 = true
      ∧ (s2.performAll (s2.postedBy 0)).1.remoteReds 0 = false)
    ∧ inRanges t.ranges (t.S 2).toNat 1 .read = false ∧ inRanges t.ranges (t.S 1).toNat 1 .read = true
    ∧ s.place 0 (t.S 1).toNat = .byte lastBytes ∧ s.poisoned (lastBytes / 128 * 128) 128 = false
    ∧ (s.sliceAt (s.homeOf 0 (t.S 1).toNat)).reqs.length < 16
    ∧ s.check t (t.S 1 &&& ~~~127#64) 1 .read false = none ∧ s.ownedByte lastBytes = false
    ∧ (t.S 3).toNat < 64 ∧ 64 ≤ (t.S 4).toNat ∧ (t.S 5).toNat < 2 ^ 34 ∧ 2 ^ 34 ≤ (t.S 6).toNat :=
  ⟨issues _ rfl, quiet _ _ (by decide +kernel) (by decide +kernel) (by decide +kernel),
    ⟨by decide +kernel, by decide +kernel, by decide +kernel⟩, rfl, some_of (by decide +kernel), by decide +kernel⟩

/-- A context with privilege. -/
def privMachine (t : Thread) : State :=
  let s := machine t
  { s with ctxs := s.ctxs.map (fun c => (c.1, { c.2 with priv := true })) }

/-- Configuration: entries 7 and 8 of the operator table, ids 6, 7, 31 and 32 of the scope table, legal and illegal words,
with and without privilege, and a descriptor of 64 zero bytes. -/
theorem test_meets_Configuration :
    let t := thread [(1, 0x1FF80), (2, 7), (3, 8), (4, 31), (5, 32), (6, 6), (7, 0x12), (8, 0x1007), (9, 0x1008)]
    let s := machine t
    let x := accD ([], s) (s.loadT 0 t (t.S 1).toNat 64)
    Issues s t ∧ (∃ c, look s.ctxs 0 = some c) ∧ ((look s.ctxs 0).map (fun c => c.priv) = some false
    ∧ (look (privMachine t).ctxs 0).map (fun c => c.priv) = some true
    ∧ (t.S 8).toNat % 16 < 8 ∧ 8 ≤ (t.S 9).toNat % 16 ∧ opWordOk (t.S 9) = true ∧ opWordOk (t.S 8) = true
    ∧ opWordOk (t.S 7) = false
    ∧ s.check t (t.S 1) 64 .read true = none) ∧ s.loadT 0 t (t.S 1).toNat 64 = .ok x ∧ leAt x.1 0x30 1 ≤ 1
    ∧ leAt x.1 0x31 15 = 0 ∧ x.2.ctxs = s.ctxs ∧ x.2.threads = s.threads ∧ 31 < (t.S 5).toNat
    ∧ 7 ≤ (t.S 2).toNat ∧ (t.S 4).toNat ≤ 31 ∧ (t.S 6).toNat < 7 :=
  ⟨issues _ rfl, some_of (by decide +kernel), by decide +kernel, acc_eq _ (by decide +kernel), by decide +kernel⟩

/-- LaneBlockQueue: the lane section, entries at its last word, misaligned and past its end, seven and eight blocks. -/
theorem test_meets_LaneBlockQueue :
    let t := thread [(1, 0x7FFC), (2, 0x7FFD), (3, 0x8000)]
    let s := machine t
    Issues s t ∧ (∃ x, s.laneSection t = some x) ∧ (s.laneSection t).map (fun x => x.size) = some 0x8000
    ∧ (t.S 1).toNat % 4 = 0 ∧ (t.S 1).toNat < 0x8000 ∧ (t.S 2).toNat % 4 ≠ 0 ∧ 0x8000 ≤ (t.S 3).toNat
    ∧ (56#6).toNat ≤ 56 ∧ (7#6).toNat ≤ 7 :=
  ⟨issues _ rfl, some_of (by decide +kernel), by decide +kernel⟩

/-- A cohort with register units, tiles and scratchpad, of the test thread. -/
def cohort : Cohort :=
  { Cohort.bare 0 0x10000 0 with
    spsize := 0x1000
    freeUnits := 1
    poolTiles := [{ cells := RegFile.zero, tag := 1, poison := [] }] }

/-- A machine whose thread has a cohort with pools. -/
def withCohort (s : State) (c : Cohort) : State := { s with cohorts := [(0, c)] }

/-- RegisterPools: gives that leave 8 registers and no tile, claims that use the last unit and tile, and each one past. -/
theorem test_meets_RegisterPools :
    let t := { thread [] with vregs := 16, tiles := [{ cells := RegFile.zero, tag := 0, poison := [] }] }
    let s := withCohort (machine t) cohort
    look s.cohorts t.cohort = some cohort ∧ 8 * 1 + 8 ≤ t.vregs ∧ t.vregs < 8 * 2 + 8 ∧ t.blocks = []
    ∧ 248 < t.vregs + 8 * 30 ∧ t.vregs + 8 * 29 ≤ 248 ∧ cohort.claimFirst 0 false = true ∧ t.slices * 1 ≤ cohort.freeUnits
    ∧ t.tiles.length < 2 ∧ (upFrom 0 1).any (s.tileBusy 0 t.uid) = false ∧ 8 < t.tiles.length + 8
    ∧ cohort.claimFirst 0 true = true ∧ (takeTiles t.slices 1 cohort.poolTiles).1.length = 1 := by
  decide +kernel

/-- The bytes of a queue control block of four 16-byte elements, its ring at 0x12000 (R207). -/
def block (head tail flags free resv : Nat) : List Byte :=
  leBytes 4 head ++ leBytes 4 tail ++ leBytes 4 4 ++ leBytes 2 16 ++ leBytes 2 flags ++ leBytes 8 0x12000 ++ leBytes 4 free
    ++ leBytes 4 resv ++ List.replicate 8 0 ++ leBytes 4 1 ++ List.replicate 20 0

/-- Where the block at 0x11000 leads. -/
def qpa : Nat := match (machine (thread [])).place 0 0x11000 with | .byte pa => pa | _ => 0

/-- A queue bound at 0x11000. -/
def queue (stream : Bool) (commit : List Bool) : Queue :=
  { stream, va := 0x11000, ctx := 0, core := 0, uid := 0, bind := 0, commit, pushers := [], poppers := [], frozen := none }

/-- A machine with that queue bound, its block's bytes in memory. -/
def queueMachine (t : Thread) (q : Queue) (b : List Byte) : State :=
  let s := machine t
  { s with queues := [(qpa, q)], mem := Mem.writeBytes s.mem qpa (sealQcb q b) }

/-- A thread that names the queue in s1 and a buffer in s2. -/
def user : Thread := thread [(1, 0x11000), (2, 0x13000), (3, 1)]

/-- A queue's name holds where its parts do. -/
theorem names (s : State) (t : Thread) (a : Word) (r : QRef) (q : Queue)
    (h : ((s.remoteHandle t a).isNone && (match s.queueRef t a 64 with | .inr x => x == r | _ => false)
      && s.queueAt r == some q && !s.queuePriv s.cur.tid t r) = true) : Names s t a r q := by
  simp only [Bool.and_eq_true, Option.isNone_iff_eq_none, beq_iff_eq, Bool.not_eq_true'] at h
  obtain ⟨⟨⟨h1, h2⟩, h3⟩, h4⟩ := h
  refine ⟨h1, ?_, h3, h4⟩
  cases hq : s.queueRef t a 64 with
  | inl f => simp [hq] at h2
  | inr x => simp [hq] at h2; rw [h2]

/-- Whether a queue's home takes an operation of n elements now. -/
def takes (s : State) (r : QRef) (push : Bool) (n : Nat) : Bool := !s.portHeld 0 && !s.queueBusy r push n

/-- QueueAccounts: the last free slot of a queue with nothing reserved, with 63 reserved and behind a reserved position; a commit
of every position reserved; a pop that empties a full queue. -/
theorem test_meets_QueueAccounts :
    (block 0 3 257 1 0).length = 64 ∧ 1 ≤ qFree (block 0 3 257 1 0) ∧ qResv (block 0 3 257 1 0) = 0
    ∧ (queue false []).stream = false ∧ (queue false []).commit = [] ∧ qResv (block 0 0 257 1 63) < 64
    ∧ (queue false [false]).commit = false :: [] ∧ 2 ≤ qResv (block 0 0 257 2 2) ∧ ([false] : List Bool).head? ≠ some true
    ∧ qFree (block 0 4 257 0 0) + 4 < 2 ^ 32 ∧ (queue true []).stream = true ∧ (block 0 0 257 4 0 ++ List.replicate 64 0).length = 128 := by
  decide +kernel

/-- QueuePushes: a queue with one slot free, a full one and a closed one. -/
theorem test_meets_QueuePushes :
    let q := queue false []
    let open_ := queueMachine user q (block 0 3 257 1 0)
    let full := queueMachine user q (block 0 4 257 0 0)
    let closed := queueMachine user q (block 0 0 273 4 0)
    let broken := queueMachine user q (block 0 3 257 2 0)
    let loaded : State → List Byte × State := fun s => accD ([], s) (s.bufferLoad 0 user (user.S 2) 16)
    let push : State → HomeOut := fun s =>
      ((loaded s).2.release user.uid).1.homePush (.global qpa) (.core 0) [(loaded s).1]
    (Names open_ user (user.S 1) (.global qpa) q ∧ Names full user (user.S 1) (.global qpa) q
      ∧ Names closed user (user.S 1) (.global qpa) q)
    ∧ open_.bufferLoad 0 user (user.S 2) 16 = .ok (loaded open_) ∧ full.bufferLoad 0 user (user.S 2) 16 = .ok (loaded full)
    ∧ closed.bufferLoad 0 user (user.S 2) 16 = .ok (loaded closed)
    ∧ [open_, full, closed].all (fun s => s.bufferCheck user (user.S 2) (qEsize (s.qcbBytes (.global qpa) 64)) .read == none
        && ((loaded s).2.release user.uid).2 && takes ((loaded s).2.release user.uid).1 (.global qpa) true 1
        && (look ((push s).s.applyEnds (push s).ended).threads 0).any (fun t => !t.ended)) = true
    ∧ (let z := ((loaded open_).2.release user.uid).1
       let v := z.touchQcb (.global qpa) q (.core 0)
       let k := v.qcbBytes (.global qpa) 64
       z.queueAt (.global qpa) = some q ∧ z.causes (.global qpa) q = 0 ∧ qClosed k = false ∧ canPush k 1 = true
       ∧ v.slotsReady (.global qpa) q k (qTail k + qResv k) 1 = true)
    ∧ (push open_).ans = .many [3] [] false ∧ (push full).ans = .blocked ∧ (push closed).ans = .closed
    ∧ (push broken).ans = .corrupt (broken.causes (.global qpa) q) :=
  ⟨⟨names _ _ _ _ _ (by decide +kernel), names _ _ _ _ _ (by decide +kernel), names _ _ _ _ _ (by decide +kernel)⟩,
    acc_eq _ (by decide +kernel), acc_eq _ (by decide +kernel), acc_eq _ (by decide +kernel), by decide +kernel⟩

/-- QueuePops: a queue with one element, an empty one and a closed one. -/
theorem test_meets_QueuePops :
    let q := queue false []
    let one := queueMachine user q (block 0xFFFFFFFF 0 257 3 0)
    let empty := queueMachine user q (block 0 0 257 4 0)
    let closed := queueMachine user q (block 0 0 273 4 0)
    let pop : State → HomeOut := fun s => s.homePop (.global qpa) (.core 0) 1
    let stored : State → Machine.Acc State := fun s =>
      ((pop s).s.applyEnds (pop s).ended).bufferStore 0 user (user.S 2) (List.replicate 16 0)
    (Names one user (user.S 1) (.global qpa) q ∧ Names empty user (user.S 1) (.global qpa) q
      ∧ Names closed user (user.S 1) (.global qpa) q) ∧ user.wait = none
    ∧ [one, empty, closed].all (fun s => s.bufferCheck user (user.S 2) (qEsize (s.qcbBytes (.global qpa) 64)) .write == none
        && !s.engineOnly (.global qpa)
        && takes s (.global qpa) false 1 && (match s.bufferFree user (user.S 2) 16 with | .ok _ => true | _ => false)
        && (look ((pop s).s.applyEnds (pop s).ended).threads 0).any (fun t => !t.ended)) = true
    ∧ (pop one).ans = .many [0xFFFFFFFF] [List.replicate 16 0] false ∧ stored one = .ok (accD one (stored one))
    ∧ (look (accD one (stored one)).threads 0).any (fun t => !t.ended) = true
    ∧ (let z := one.touchQcb (.global qpa) q (.core 0)
       let k := z.qcbBytes (.global qpa) 64
       one.causes (.global qpa) q = 0 ∧ 1 ≤ qLen k ∧ z.slotsReady (.global qpa) q k (qHead k) 1 = true)
    ∧ (one.homePeek (.global qpa) (.core 0)).ans = .popped 0xFFFFFFFF (List.replicate 16 0) false
    ∧ (pop empty).ans = .blocked ∧ (pop closed).ans = .closed :=
  ⟨⟨names _ _ _ _ _ (by decide +kernel), names _ _ _ _ _ (by decide +kernel), names _ _ _ _ _ (by decide +kernel)⟩, rfl,
    by decide +kernel, by decide +kernel, acc_eq _ (by decide +kernel), by decide +kernel⟩

/-- QueueControl: an unbound block that binds, a queue with room, a closed one, one whose reservation is committed and one
that is drained while a thread waits for that. -/
theorem test_meets_QueueControl :
    let q := queue false []
    let s := queueMachine user q (block 0 3 257 1 0)
    let fresh : State := { queueMachine user q (block 0 0 257 4 0) with queues := [] }
    let closed := queueMachine user q (block 0 0 273 4 0)
    let held := queueMachine user (queue false [false]) (block 0 0 257 3 1)
    let drained := queueMachine { user with wait := some (.drain qpa none) } q (block 3 3 305 4 0)
    Names s user (user.S 1) (.global qpa) q ∧ Names closed user (user.S 1) (.global qpa) q
    ∧ Names held user (user.S 1) (.global qpa) (queue false [false])
    ∧ (fresh.homeBind (.global qpa) q (.core 0)).1 = 0 ∧ fresh.queueAt (.global qpa) = none
    ∧ fresh.queueRef user (user.S 1) 64 = .inr (.global qpa) ∧ fresh.hitsQcb qpa 64 = false
    ∧ fresh.ringOwned (.global qpa) 0 0x11000 64 = false ∧ fresh.ptsFull = false
    ∧ takes s (.global qpa) true 0 = true ∧ s.causes (.global qpa) q = 0 ∧ takes held (.global qpa) true 0 = true
    ∧ held.causes (.global qpa) (queue false [false]) = 0
    ∧ (let k := (s.touchQcb (.global qpa) q (.core 0)).qcbBytes (.global qpa) 64
       qClosed k = false ∧ canPush k 1 = true ∧ qTail k + qResv k = 3)
    ∧ (let z := (held.release user.uid).1
       let k := (z.touchQcb (.global qpa) (queue false [false]) (.core 0)).qcbBytes (.global qpa) 64
       (held.release user.uid).2 = true ∧ z.queueAt (.global qpa) = some (queue false [false])
       ∧ z.causes (.global qpa) (queue false [false]) = 0 ∧ takes z (.global qpa) true 0 = true
       ∧ posSub 0 (qTail k) < qResv k ∧ ¬ posSub (user.S 3).toNat (qTail k) < qResv k)
    ∧ (s.homeReserve (.global qpa) (.core 0)).ans = .pos 3 ∧ (closed.homeReserve (.global qpa) (.core 0)).ans = .closed
    ∧ (s.release user.uid).2 = true ∧ (held.homeCommit (.global qpa) (.core 0) 0).ans = .pos 0
    ∧ (held.homeCommit (.global qpa) (.core 0) (user.S 3)).ans = .badPos
    ∧ drained.queueAt (.global qpa) = some q ∧ sorted drained.threads = true
    ∧ qDraining (drained.qcbBytes (.global qpa) 64) = true ∧ qLen (drained.qcbBytes (.global qpa) 64) = 0
    ∧ qResv (drained.qcbBytes (.global qpa) 64) = 0 :=
  ⟨names _ _ _ _ _ (by decide +kernel), names _ _ _ _ _ (by decide +kernel), names _ _ _ _ _ (by decide +kernel),
    by decide +kernel⟩

/-- The machine with bytes stored at an address of the page. -/
def poke (s : State) (va : Nat) (bs : List Byte) : State :=
  match s.place 0 va with
  | .byte pa => { s with mem := Mem.writeBytes s.mem pa bs }
  | _ => s

/-- The record of a linear copy of 64 bytes from 0x13000 to 0x13100, with OWN set or clear (R234, R235). -/
def record (own : Bool) : List Byte :=
  leBytes 8 0 ++ leBytes 4 (if own then 2 ^ 31 else 0) ++ leBytes 4 64 ++ leBytes 8 0x13000 ++ leBytes 8 0x13100
    ++ List.replicate 32 0

/-- A prefetch of the page's last line by core 0. -/
def pref : MemReq := { who := none, core := 0, pts := 5, ctx := 0, asid := 1, vline := 0x1FF80 / 128, sectors := 8, l1 := true }

/-- An access of the test thread to that line, in flight. -/
def mine : MemReq := { pref with who := some { tid := 0, uid := 0, party := .scalar } }

/-- A chain at a record. -/
def chain (at_ : Word) (taken : Option CopyRec) (st : ChainState) : Chain :=
  { claim := 0, ticket := 0, ctx := 0, uid := 0, core := 0, cohort := 0, ranges := (thread []).ranges, at_, taken, st, pre := [],
    stamped := [], owed := false }

/-- CopyCommands: channels 15 and 16, an idle channel and a full one, a record of the engine and one that is not, and one whose
destination's slice has a request before it. -/
theorem test_meets_CopyCommands :
    let t := thread [(1, 15), (2, 16), (3, 0x14000), (4, 0x14040)]
    let s := poke (poke (machine t) 0x14000 (record true)) 0x14040 (record false)
    let x := accD ([], s) (s.loadT 0 t 0x14000 64)
    let f : CFor := { ctx := 0, cuid := (look x.2.cohorts 0).elim 0 (fun c => c.uid), ranges := t.ranges }
    let late : State := { s with slices := [(s.homeOf 0 0x13100, { reqs := [pref], misses := [] })] }
    let y := accD ([], late) (late.loadT 0 t 0x14000 64)
    let full := s.setChan (chanKey 0 15) { ticket := 5, chains := List.replicate 5 (chain 0x14040 none .running), linebuf := [] }
    let z := accD ([], full) (full.loadT 0 t 0x14000 64)
    (late.loadT 0 t 0x14000 64 = .ok y ∧ full.loadT 0 t 0x14000 64 = .ok z)
    ∧ (y.2.headWaits f y.1 = true ∧ look y.2.threads 0 = some t ∧ (z.2.chanAt (chanKey 0 15)).chains.length = 5
      ∧ z.2.headWaits f z.1 = false ∧ z.2.headFault f z.1 = none ∧ look z.2.threads 0 = some t ∧ x.2.headWaits f x.1 = false)
    ∧ Issues s t ∧ (((t.S 1).toNat ≤ 15 ∧ 15 < (t.S 2).toNat ∧ (s.chanAt (chanKey 0 15)).chains = []
        ∧ s.check t (t.S 3) 64 .write true = none ∧ s.check t (t.S 4) 64 .write true = none)
      ∧ s.loadT 0 t 0x14000 64 = .ok x)
    ∧ (crOwn x.1 = true ∧ needsExt x.1 = false
    ∧ recordOk x.1 = true ∧ recordOk ((record true).take 8 ++ leBytes 4 (2 ^ 31 + 1) ++ (record true).drop 12) = false
    ∧ (x.2.chanAt (chanKey 0 15)).chains.length < 5 ∧ x.2.extentFault f x.1 (x.2.extBytes 0 x.1) = none
    ∧ x.2.headFault f x.1 = none ∧ look x.2.threads 0 = some t
    ∧ crOwn (accD ([], s) (s.loadT 0 t 0x14040 64)).1 = false)
    ∧ (t.S 4 = BitVec.allOnes 64 ∨ ∀ h ∈ (s.chanAt (chanKey 0 15)).chains, word h.ticket = t.S 4 → h.ctx = t.ctx) := by
  refine ⟨⟨acc_eq _ (by decide +kernel), acc_eq _ (by decide +kernel)⟩, by decide +kernel, issue_of (by decide +kernel),
    ⟨by decide +kernel, acc_eq _ (by decide +kernel)⟩, by decide +kernel, .inr ?_⟩
  have h : ((poke (poke (machine (thread [(1, 15), (2, 16), (3, 0x14000), (4, 0x14040)])) 0x14000 (record true)) 0x14040
    (record false)).chanAt (chanKey 0 15)).chains = [] := by decide +kernel
  intro x hx
  rw [h] at hx
  cases hx

/-- A plain task packet of 32 bytes, and a range packet of three elements (R288, R289). -/
def packet (kind : Nat) : List Byte :=
  leBytes 8 ((if kind = 1 then 5 else 4) + 32 * kind) ++ leBytes 8 0x10000 ++ leBytes 8 0 ++ leBytes 8 3
    ++ (if kind = 1 then leBytes 8 1 else [])

/-- The slot of a running range task with one piece left or none. -/
def rangeSlot (cur : Int) : TaskSlot :=
  { TaskSlot.fresh with st := .running, gen := 1, packet := packet 1, threads := 1
                        pieces := [{ lo := 0, cur, hi := 3, live := true }] }

/-- TaskInstructions: a handle of this partition and of another, a packet to spawn, a piece at its end and one element
before it, a thread attached and one detached, and one of a window step. -/
theorem test_meets_TaskInstructions :
    let t := { thread [(1, handleOf 0 1 0 0), (2, handleOf 1 1 0 0), (3, 0x14000)] with task := handleOf 0 1 0 0, ranged := true }
    let s : State := poke { machine t with tasks := [(0, rangeSlot 2)] } 0x14000 (packet 0)
    let last : State := { s with tasks := [(0, rangeSlot 3)] }
    let held : State := { s with threads := [(0, { t with wait := some (.spawn (packet 0) true) })] }
    let x := accD ([], s) (s.loadT 0 t 0x14000 8)
    let y := accD ([], x.2) (x.2.loadT 0 t 0x14000 32)
    Quiet s t ∧ ((held.release t.uid).2 = true ∧ (held.release t.uid).1.freeSlot (dieOfCore (coreOf 0)) = some 1
      ∧ packetOk (packet 0) = true) ∧ (hPart (t.S 1) = 0 ∧ hPart (t.S 2) ≠ 0 ∧ (t.S 1).toNat < 2 ^ 38 ∧ t.wait = none
    ∧ (s.taskAt (hKey t.task)).gen.toNat = hGen t.task ∧ (thread []).ranged = false
    ∧ (s.taskAt (hKey t.task)).pieces[t.piece]? = some { lo := 0, cur := 2, hi := 3, live := true }
    ∧ (last.taskAt (hKey t.task)).pieces[t.piece]? = some { lo := 0, cur := 3, hi := 3, live := true }
    ∧ t.step = none ∧ t.detached = false ∧ ({ t with step := some { win := 1, reason := .close } } : Thread).step.isSome = true
    ∧ (t.S 3).toNat % 8 = 0 ∧ s.check t (t.S 3) 8 .read false = none) ∧ s.loadT 0 t 0x14000 8 = .ok x
    ∧ pkLen (leNat x.1) = some 32 ∧ x.2.check t (t.S 3) 32 .read false = none ∧ x.2.loadT 0 t 0x14000 32 = .ok y
    ∧ packetOk y.1 = true ∧ (y.2.release t.uid).2 = true ∧ (y.2.release t.uid).1.freeSlot (dieOfCore (coreOf 0)) = some 1 :=
  ⟨quiet _ _ (by decide +kernel) (by decide +kernel) (by decide +kernel), by decide +kernel, by decide +kernel,
    acc_eq _ (by decide +kernel), by decide +kernel, by decide +kernel, acc_eq _ (by decide +kernel), by decide +kernel⟩

/-- SyncWaits: a condition that holds (the time is at least 0), one that does not, a timeout of 0, of 1 and of never, and ALL. -/
theorem test_meets_SyncWaits :
    let t := thread [(1, 0x7000000000000000), (5, 0x7FFFFFFFFFFFFFFF), (10, 1), (11, 0xFFFFFFFFFFFF),
      (12, 0x8000000000000001)]
    let s := machine t
    Issues s t ∧ ((t.S 12).getLsbD 63 = true ∧ s.syncCheck 0 t 1 12 = none ∧ s.syncCheck 0 t 5 12 = none
      ∧ s.condMask 0 t (t.conds 1) = wantMask (t.conds 1) ∧ s.syncEval 0 t 1 12 (some (s.tick + 1)) = .returns 1
      ∧ s.syncEval 0 t 5 12 (some (s.tick + 1)) = .waits)
    ∧ s.syncCheck 0 t 1 10 = none ∧ s.syncCheck 0 t 5 11 = none ∧ s.syncCheck 0 t 5 0 = none
    ∧ s.condMask 0 t (t.conds 1) = 1 ∧ s.condMask 0 t (t.conds 5) = 0 ∧ wantMask (t.conds 5) ≠ 0
    ∧ (t.S 10).getLsbD 63 = false ∧ (t.conds 1).all (fun c => (s.condCorrupt t c).isNone) = true
    ∧ (t.conds 5).all (fun c => (s.condCorrupt t c).isNone) = true
    ∧ s.syncEval 0 t 1 10 (some (s.tick + 1)) = .returns 1 ∧ s.syncEval 0 t 5 11 none = .waits
    ∧ s.syncEval 0 t 5 0 (some (s.tick + 0)) = .returns 0
    ∧ ({ t with wait := some (.resync none) } : Thread).wait = some (.resync none) :=
  ⟨issues _ rfl, by decide +kernel⟩

/-- CohortBarriers: barrier 15 with no count latched, with the count of the arrival and with another; counts 1 and 65535; WAIT
at an arrival that is the last, and at one that is not. -/
theorem test_meets_CohortBarriers :
    let t := thread [(1, 15), (2, 65535), (3, 1), (4, 0x1FFFF)]
    let c : Cohort := { cohort with bars := [(15, { phase := 65535, count := 65535, arrived := 65534 })] }
    let s := withCohort (machine t) c
    Issues s t ∧ Quiet s t ∧ look s.cohorts t.cohort = some c ∧ barMem (t.S 1) = false ∧ barOk (t.S 1) = true
    ∧ (t.S 4).toNat < 2 ^ 17 ∧ (t.S 4).getLsbD 16 = true ∧ BitVec.ofNat 16 (t.S 4).toNat = 65535#16
    ∧ (t.S 2).toNat < 2 ^ 16 ∧ BitVec.ofNat 16 (t.S 2).toNat ≠ 0#16 ∧ (c.barAt 15).count = BitVec.ofNat 16 (t.S 2).toNat
    ∧ (c.barAt 15).count ≠ BitVec.ofNat 16 (t.S 3).toNat ∧ (c.barAt 15).count ≠ 0 ∧ (c.barAt 14).count = 0
    ∧ (c.barAt 15).arrived ≠ 0 ∧ (c.barAt 14).arrived = 0 :=
  ⟨issue_of (by decide +kernel), quiet _ _ (by decide +kernel) (by decide +kernel) (by decide +kernel), by decide +kernel⟩

/-- CohortBarriers: an idle memory object of scope 5 that counts 3 arrivals, and one of scope 7, which admits no core until
it is set. -/
theorem test_meets_memory_barriers :
    let t := thread [(1, 0x8000000000013000), (2, 0x10003), (3, 4)]
    let object (scope : Nat) : List Byte := leBytes 2 0 ++ leBytes 2 3 ++ leBytes 2 0 ++ leBytes 1 scope ++ List.replicate 9 0
    let s := poke (machine t) 0x13000 (object 5)
    let shut := poke (machine t) 0x13000 (object 7)
    let x := accD ([], s) (s.loadHomeT 0 t 0x13000 16)
    let y := accD (Barrier.fresh, s) (s.arriveMem (.core 0) 0 0x13000 (some 3))
    Issues s t ∧ Quiet s t ∧ (barMem (t.S 1) = true ∧ barOk (t.S 1) = true ∧ (t.S 2).toNat < 2 ^ 17
      ∧ (t.S 2).getLsbD 16 = true ∧ (match s.place 0 0x13000 with
        | .byte pa => !s.mustWait 0 0x13000 pa && !s.poisoned pa 16 | _ => false) = true ∧ s.portHeld 0 = false
      ∧ s.check t 0x13000 16 .read true = none ∧ s.check t 0x13000 16 .write true = none ∧ s.check t 0x13000 16 .atomic true = none
      ∧ (s.place 0 0x13000 matches .byte _) = true)
    ∧ s.loadHomeT 0 t 0x13000 16 = .ok x ∧ (look x.2.threads 0 = some t ∧ (barrierOf x.1).arrived = 0
      ∧ s.barrierAdmits 0 0 5 = true ∧ shut.barrierAdmits 0 0 7 = false ∧ (barrierOf (s.peekBytes 0 0x13000 16)).count = 3)
    ∧ s.arriveMem (.core 0) 0 0x13000 (some 3) = .ok y ∧ look y.2.threads 0 = some t
      ∧ (y.2.barPeer t (t.S 1)).isNone = true ∧ phaseReached (y.2.phaseOf t (t.S 1)) (y.1.phase + 1) = false :=
  ⟨issue_of (by decide +kernel), quiet _ _ (by decide +kernel) (by decide +kernel) (by decide +kernel), by decide +kernel,
    acc_eq _ (by decide +kernel), by decide +kernel, acc_eq _ (by decide +kernel), by decide +kernel⟩

/-- ServiceInstructions: a request with no slice mask and one of slice 0, a block at the page's end, user interrupt entry
63 valid and entry 62 absent, a context with and without privilege. -/
theorem test_meets_ServiceInstructions :
    let t := thread [(1, 0xFFFF), (2, 0x1FFFF), (3, 0x1FF80), (4, 63), (5, 62)]
    let u : UintEntry := { target := 0, runaddr := 0, pendq := 0, pcap := 0, vector := 0, flags := 1, sent := 7 }
    let s0 := machine t
    let s : State := { s0 with ctxs := s0.ctxs.map (fun c => (c.1, { c.2 with uints := [(63, u)] })) }
    Issues s t ∧ Quiet s t ∧ (∃ c, look s.ctxs 0 = some c) ∧ (t.S 1).toNat < 2 ^ 24 ∧ (t.S 1).toNat / 2 ^ 16 = 0
    ∧ (t.S 2).toNat / 2 ^ 16 = 1 ∧ 1 < 2 ^ t.slices ∧ s.check t (t.S 3) 128 .read true = none
    ∧ s.check t (t.S 3) 128 .write true = none ∧ (look s.ctxs 0).map (fun c => look c.uints 63) = some (some u)
    ∧ (look s.ctxs 0).map (fun c => look c.uints 62) = some none ∧ u.flags.getLsbD 0 = true ∧ t.step = none
    ∧ (look s.ctxs 0).map (fun c => c.priv) = some false ∧ (look (privMachine t).ctxs 0).map (fun c => c.priv) = some true :=
  ⟨issue_of (by decide +kernel), quiet _ _ (by decide +kernel) (by decide +kernel) (by decide +kernel), some_of (by decide +kernel),
    by decide +kernel⟩

/-- The bytes of a stream's control block (R225), empty. -/
def streamBlock : List Byte := block 0 0 257 4 0 ++ List.replicate 64 0

/-- A count spec of one record a window (R266, R267). -/
def spec : List Byte :=
  leBytes 8 0x010000 ++ leBytes 8 1 ++ leBytes 8 1 ++ List.replicate 40 0 ++ leBytes 8 0x10000 ++ leBytes 8 0x10000
    ++ leBytes 8 0 ++ leBytes 8 0x10000 ++ List.replicate 32 0

/-- A stream the Carder controls. -/
def ctl : StreamCtl :=
  { ctx := 0, va := 0x11000, spec, taken := 0, live := [], retired := [], steps := [], keys := [], marks := [], full := [],
    nrec := 0, paneSeq := 0 }

/-- WindowInstructions: a bound stream with a spec and without, a spec block, a query block, time 2^63 - 1 and 2^63, a window
step, and an element loaded before a release that was unfinished. -/
theorem test_meets_WindowInstructions :
    let t := thread [(1, 0x11000), (2, 0x7FFFFFFFFFFFFFFF), (3, 0x8000000000000000), (4, 0x14000), (5, 0x14100), (6, 0x15000)]
    let q := queue true []
    let s := poke (poke (queueMachine t q streamBlock) 0x14000 spec) 0x14100 (leBytes 8 0x11000 ++ List.replicate 24 0)
    let bound : State := { s with streams := [(qpa, ctl)] }
    let bk := s.qcbBytes (.global qpa) 128
    let x := accD ([], s) (s.loadT 0 t 0x14000 128)
    let y := accD ([], s) (s.loadT 0 t 0x14100 32)
    let e := accD ([], s) (s.bufferLoad 0 t (t.S 6) (qEsize bk))
    let h := (s.release t.uid).1.homePush (.global qpa) (.core 0) [e.1]
    (Issues s t ∧ Quiet s t ∧ (spaceOf (t.S 1) = some (.global 0x11000) ∧ takes s (.global qpa) true 0 = true
        ∧ s.causes (.global qpa) q = 0 ∧ takes (s.release t.uid).1 (.global qpa) true 1 = true
        ∧ takes y.2 (.global qpa) true 0 = true ∧ y.2.causes (.global qpa) q = 0) ∧ Names s t (t.S 1) (.global qpa) q
      ∧ look s.streams qpa = none ∧ look bound.streams qpa = some ctl)
    ∧ (q.stream = true ∧ (t.S 2).toNat < 2 ^ 63 ∧ 2 ^ 63 ≤ (t.S 3).toNat ∧ t.S 0 = 0 ∧ t.S 4 ≠ 0 ∧ (t.S 4).toNat % 128 = 0
      ∧ s.check t (t.S 4) 128 .read false = none ∧ leAt bk 0x50 8 = 0 ∧ s.windows.any (fun w => w.2.stream == qpa) = false
      ∧ qHead bk = qTail bk ∧ qClosed bk = false)
    ∧ s.loadT 0 t 0x14000 128 = .ok x ∧ wsOk x.1 = true ∧ look x.2.threads 0 = some t
    ∧ s.bufferCheck t (t.S 6) (qEsize bk) .read = none ∧ s.bufferLoad 0 t (t.S 6) (qEsize bk) = .ok e
    ∧ look e.2.threads 0 = some t
    ∧ (s.check t (t.S 5) 32 .read false = none ∧ s.loadT 0 t 0x14100 32 = .ok y ∧ look y.2.threads 0 = some t
      ∧ y.2.cur = s.cur ∧ wordAt y.1 0 = t.S 1 ∧ leAt y.1 16 4 = 0 ∧ leAt y.1 20 12 = 0)
    ∧ Names y.2 t (wordAt y.1 0) (.global qpa) q
    ∧ (s.release t.uid).2 = true ∧ h.ans = .many [0] [] false ∧ (look (h.s.applyEnds h.ended).threads 0).any (fun t => !t.ended) = true
    ∧ ({ t with step := some { win := 1, reason := .record } } : Thread).step.isSome = true
    ∧ ({ t with wait := some (.loaded [1]) } : Thread).wait = some (.loaded [1]) ∧ t.emits.length < 8 :=
  ⟨⟨issue_of (by decide +kernel), quiet _ _ (by decide +kernel) (by decide +kernel) (by decide +kernel), by decide +kernel,
      names _ _ _ _ _ (by decide +kernel), by decide +kernel⟩, by decide +kernel,
    acc_eq _ (by decide +kernel), by decide +kernel, by decide +kernel, by decide +kernel, acc_eq _ (by decide +kernel),
    by decide +kernel, ⟨by decide +kernel, acc_eq _ (by decide +kernel), by decide +kernel⟩, names _ _ _ _ _ (by decide +kernel), by decide +kernel⟩

/-- A gang's thread whose block has arguments. -/
def gangWith (args : List Word) (v p : SMap Lane32) : Thread :=
  { gangThread [] v p with blocks := [{ entry := 0, args }] }

/-- A gang issues each function of a group when it holds every register they name. -/
theorem gangs_issue (t : Thread) (op : BitVec 8) (o : LaneOps) (n : Nat) (h : t.ended = false)
    (hs : (t.gangSlices 0).isEmpty = false)
    (hn : (List.range n).all (fun k => !namesBeyond op (BitVec.ofNat 8 k) o t) = true) :
    ∀ k < n, GangIssues (gangMachine t) t 0 op (BitVec.ofNat 8 k) o := by
  intro k hk
  have := List.all_eq_true.mp hn k (List.mem_range.mpr hk)
  exact gang_issues t op _ o h hs (by simpa using this)

/-- A gang issues where the machine says so. -/
theorem gang_of {s : State} {t : Thread} {op fn : BitVec 8} {o : LaneOps}
    (h : (issuer s == some t && decide (s.cur.party = .gang 0) && !(t.gangSlices 0).isEmpty && !namesBeyond op fn o t) = true) :
    GangIssues s t 0 op fn o := by
  simp only [Bool.and_eq_true, beq_iff_eq, decide_eq_true_eq, Bool.not_eq_true'] at h
  exact ⟨h.1.1.1, h.1.1.2, h.1.2, h.2⟩

/-- LaneRegisters: results with no lane twice, the codes 0xF7 and 0xF8, predicates 0 and 7, lane 31. -/
theorem test_meets_LaneRegisters :
    (([(0, 1), (31, 2)] : List (Nat × Nat)).map Prod.fst).Nodup ∧ (0xF7#8).toNat < 0xF8 ∧ 0xF8 ≤ (0xF8#8).toNat
    ∧ ([(0, 1), (31, 2)] : List (Nat × Nat)).getLast? = some (31, 2)
    ∧ (([(0, true), (31, false)] : List (Nat × Bool)).map Prod.fst).Nodup ∧ 7#8 ≠ 0
    ∧ (30 < 32 ∧ ∀ b, (30, b) ∉ ([(0, true), (31, false)] : List (Nat × Bool))) := by
  decide

/-- LaneIntegerArithmetic, LanePredicates, LaneFloats, LaneConversions, LaneCrossings: a gang issues every function of VI,
VF, VC, VX and VP on the highest register a thread of eight holds; MD names one value and a packed pair. -/
theorem test_meets_lane_arithmetic :
    let t := gangThread [] [] []
    (∀ k < 0x20, GangIssues (gangMachine t) t 0 0x10 (BitVec.ofNat 8 k) (plain 0 7 7 7 7 0 0))
    ∧ (∀ k < 0x17, GangIssues (gangMachine t) t 0 0x20 (BitVec.ofNat 8 k) (plain 9 7 7 7 7 4 0))
    ∧ (∀ k < 6, GangIssues (gangMachine t) t 0 0x30 (BitVec.ofNat 8 k) (plain 9 0 0 0 0 8 0))
    ∧ (∀ k < 9, GangIssues (gangMachine t) t 0 0x40 (BitVec.ofNat 8 k) (plain 0 7 7 7 7 8 0))
    ∧ (∀ k < 6, GangIssues (gangMachine t) t 0 0x50 (BitVec.ofNat 8 k) (plain 0 7 7 7 7 0 0))
    ∧ (plain 9 7 7 7 7 4 0).md.getLsbD 2 = true ∧ (plain 9 7 7 7 7 3 0).md.getLsbD 2 = false
    ∧ (plain 0 7 7 7 7 8 0).md.getLsbD 3 = true ∧ (plain 0 7 7 7 7 7 0).md.getLsbD 3 = false
    ∧ (vxAccs t (plain 0 7 7 7 7 0 0) (t.activeLanes 0 (plain 0 7 7 7 7 0 0))).getLast? = some (3, 0, 0)
    ∧ Fmt.f16.value 0x7E00 = .nan :=
  ⟨gangs_issue _ _ _ _ rfl (by decide +kernel) (by decide +kernel), gangs_issue _ _ _ _ rfl (by decide +kernel) (by decide +kernel),
    gangs_issue _ _ _ _ rfl (by decide +kernel) (by decide +kernel), gangs_issue _ _ _ _ rfl (by decide +kernel) (by decide +kernel),
    gangs_issue _ _ _ _ rfl (by decide +kernel) (by decide +kernel), by decide +kernel⟩

/-- A slice at the worked code of R309 with a stack. -/
def slice (lpc : BitVec 32) (mask : BitVec 4) (stack : List Token) : Slice :=
  { lpc, skip := 0, mask, gang := 0, st := .issuing, stack, held := false, wait := none, since := 0, last := 0 }

/-- A LOOP token of the turn that begins at an offset. -/
def loop (j : BitVec 32) : Token := { kind := .loopTok, pending := 0, exited := 0, join := j }

/-- An IF token whose branch lanes 2 and 3 take. -/
def ifOf (j : BitVec 32) : Token := { kind := .ifTok, pending := 0xC, exited := 0, join := j }

/-- A token with no lane pending. -/
def token (j : BitVec 32) : Token := { kind := .ifTok, pending := 0, exited := 0, join := j }

/-- LaneBranches: a gang of one slice whose branch goes one way, whose outcome is the slice the statement asks for, and one
whose push would be a 25th token. -/
theorem test_meets_LaneBranches :
    let t := gangThread [] [] [(1, 3)]
    let full := { t with sl := [slice 0 0xF (List.replicate 24 (token 0))] }
    let o := { plain 0 0 0 0 0 0 0x1C with ps := 1, pn := true }
    issuer (gangMachine t) = some t ∧ (gangMachine t).cur.party = .gang 0 ∧ (t.gangSlices 0).isEmpty = false
    ∧ (∃ x, brcSlice (t.sl.headD (slice 0 0 [])) (t.cond4 0 o) o.im 8 = some x)
    ∧ issuer (gangMachine full) = some full ∧ (full.gangSlices 0) = [0]
    ∧ brcSlice (slice 0 0xF (List.replicate 24 (token 0))) (full.cond4 0 o) o.im 8 = none :=
  ⟨by decide +kernel, by decide +kernel, by decide +kernel, some_of (by decide +kernel), by decide +kernel⟩

/-- BranchOutcomes: slices whose MASK is their stack's level, 23 and 24 tokens; conditions that hold in all, some and no
lanes; offsets 1 and 0. -/
theorem test_meets_BranchOutcomes :
    let x := slice 0x10 0xF (List.replicate 23 (token 0))
    let y := slice 0x10 0xF (List.replicate 24 (token 0))
    (x.mask = level x.stack ∧ x.mask ≠ 0 ∧ x.stack.length < 24 ∧ y.mask = level y.stack ∧ 24 ≤ y.stack.length)
    ∧ (x.mask &&& ~~~15#4 = 0 ∧ x.mask &&& 0#4 = 0 ∧ x.mask &&& ~~~3#4 ≠ 0 ∧ x.mask &&& 3#4 ≠ 0)
    ∧ (0 < (1#32).toInt ∧ (0#32).toInt ≤ 0 ∧ topLoop 0x18 x.stack = false)
    ∧ (∀ k ∈ x.stack.getLast?, k.join ≠ 0x18 ∧ k.join ≠ x.lpc) := by
  decide +kernel

/-- BranchOutcomes: a loop at the top whose turn all, no and some lanes take, a loop that FindLoop finds, inserts and has no room
for, breaks and continues of some lanes and of all, the else point with 23 and 24 tokens, and a join that pops an IF and one that
pops an ELSE with its IF. -/
theorem test_meets_loops :
    let x := slice 0x10 0xF [loop 0x18]
    let half := slice 0x10 3 [ifOf 0x18]
    let full := slice 0x10 3 (List.replicate 23 (token 0) ++ [ifOf 0x18])
    let kept : Token → Token := fun k => { k with exited := k.exited ||| 3 }
    (x.mask = level x.stack ∧ x.mask ≠ 0 ∧ topLoop 0x18 x.stack = true ∧ level [loop 0x18] = 0xF ∧ level [loop 0x18] &&& ~~~15#4 = 0
      ∧ level [loop 0x18] &&& 0#4 = 0 ∧ level [loop 0x18] &&& ~~~3#4 ≠ 0 ∧ level [loop 0x18] &&& 3#4 ≠ 0
      ∧ level [kept (loop 0x18)] ≠ 0 ∧ level [] ≠ 0)
    ∧ (findLoop 0x18 [] kept = some [kept (loop 0x18)] ∧ findLoop 0x18 [loop 0x18] kept = some [kept (loop 0x18)]
      ∧ findLoop 1 (List.replicate 24 (token 0)) kept = none ∧ level [kept (loop 0x18)] = 0xC)
    ∧ (loopPos 0x18 x.stack = (0, true) ∧ level ([] : List Token) &&& ~~~0#4 &&& ~~~15#4 = 0
      ∧ level ([] : List Token) &&& ~~~0#4 &&& ~~~3#4 ≠ 0 ∧ (brkSlice x 0xF 8 8).isSome = true ∧ (brkSlice x 3 8 8).isSome = true
      ∧ (contSlice x 0xF 8 8).isSome = true ∧ (contSlice x 3 8 8).isSome = true)
    ∧ (half.mask = level half.stack ∧ half.mask ≠ 0 ∧ (ifOf 0x18).kind = .ifTok ∧ level [] &&& (ifOf 0x18).pending ≠ 0
      ∧ half.stack.length < 24 ∧ full.mask = level full.stack ∧ 24 ≤ full.stack.length ∧ (jmpSlice full 8 8) = none)
    ∧ (joinSlice (slice 0x18 3 [ifOf 0x18]) 8).stack = []
    ∧ (joinSlice (slice 0x20 0xC [ifOf 0x18, { token 0x20 with kind := .elseTok }]) 8).stack = [] := by
  decide +kernel

/-- The accesses of a gang's lanes begin, where the machine says so. -/
theorem lanes_begin (s : State) (t : Thread) (ls : List Nat) (n : Nat) (k : Kind) (va : Nat → Word) (pa : Nat → Nat)
    (hc : ls.all (fun l => s.check t (va l) n k true == none && decide (s.place t.ctx (va l).toNat = .byte (pa l))
      && (s.postedBy t.uid).all (fun r => !s.redMeets (va l).toNat n r)
      && ls.all (fun i => decide ((va l).toNat / 128 = (va i).toNat / 128 → pa l + (va i).toNat % 128 = pa i + (va l).toNat % 128)))
        = true)
    (hp : s.portHeld (coreOf s.cur.tid) = false) (hr : t.redBuf.length < Config.storeBuffer)
    (hf : t.sentBefore (.gang 0) = (0, [])) (hw : s.cur.lines = none) : LanesBegin s t 0 ls n k va pa := by
  have g : ∀ l ∈ ls, _ := fun l hl => List.all_eq_true.mp hc l hl
  simp only [Bool.and_eq_true, beq_iff_eq, decide_eq_true_eq] at g
  exact ⟨fun l hl => (g l hl).1.1.1, fun l hl => ⟨hp, hr, (g l hl).1.2⟩, fun l hl => (g l hl).1.1.2,
    fun l hl i hi => of_decide_eq_true (List.all_eq_true.mp (g l hl).2 i hi), hr, hf, hw⟩

/-- The accesses of a gang's lanes meet in one line that can be accessed, where the machine says so. -/
theorem lanes_meet (s : State) (t : Thread) (ls : List Nat) (va : Nat → Word) (pa : Nat → Nat) (line : Nat)
    (h : ls.all (fun l => decide ((va l).toNat / 128 = line) && !s.mustWait t.ctx (va l).toNat (pa l)) = true) :
    LanesMeet s t ls va pa line := by
  have g : ∀ l ∈ ls, _ := fun l hl => List.all_eq_true.mp h l hl
  simp only [Bool.and_eq_true, decide_eq_true_eq, Bool.not_eq_true'] at g
  exact ⟨fun l hl => (g l hl).1, fun l hl => (g l hl).2⟩

/-- The line requests of a gang's lanes are performed, where the machine says so. -/
theorem lanes_do (s : State) (f : State → List LaneAt → LineOut) (ls : List Nat) (va : Nat → Word)
    (h : (runLines f none s (lineRequests (ls.map (fun l => (l, va l))))).2.2.2.isNone = true) : ∃ u got, LanesDo s u f ls va got :=
  ⟨_, _, _, by rw [← Option.isNone_iff_eq_none.mp h]⟩

/-- LaneLoadsStores: four lanes at the page's last bytes by row and by index, and in the scratchpad's last bytes. -/
theorem test_meets_LaneLoadsStores :
    let t := gangWith [0x1FFF0] [(vKey 0 1, 0), (vKey 0 2, 0xFF0), (vKey 1 1, 4), (vKey 1 2, 0xFF4), (vKey 2 1, 8),
      (vKey 2 2, 0xFF8), (vKey 3 1, 12), (vKey 3 2, 0xFFC)] []
    let s := withCohort (gangMachine t) cohort
    let o := plain 0 0 0xF8 1 3 0 0
    let m := plain 0 0 2 1 3 0 0
    let ls := [0, 1, 2, 3]
    let base : Word := word (t.uniform ls o.a 64) + o.im.signExtend 64
    t.activeLanes 0 o = ls ∧ t.activeLanes 0 m = ls
    ∧ (∀ k < 4, GangIssues (gangMachine t) t 0 0x70 (BitVec.ofNat 8 k) o)
    ∧ LanesBegin s t 0 ls 4 .read (fun l => base + word (4 * l)) (fun l => lastBytes + 4 * l)
    ∧ LanesBegin s t 0 ls 4 .write (fun l => base + (BitVec.ofNat 32 (t.laneRead l o.b 32)).signExtend 64 <<< (0 : Nat))
        (fun l => lastBytes + 4 * l)
    ∧ LanesMeet s t ls (fun l => base + word (4 * l)) (fun l => lastBytes + 4 * l) 0x3FF
    ∧ LanesMeet s t ls (fun l => base + (BitVec.ofNat 32 (t.laneRead l o.b 32)).signExtend 64 <<< (0 : Nat))
        (fun l => lastBytes + 4 * l) 0x3FF
    ∧ (s.coreAt 0).l1 = [] ∧ 0 < tyWidth o.ty / 8 ∧ t.redBuf.length < Config.storeBuffer
    ∧ (ls.all (fun l => !s.poisoned (lastBytes + 4 * l) 4)) = true
    ∧ look s.cohorts t.cohort = some cohort
    ∧ (ls.all (fun l => decide (t.laneRead l m.a 32 + 4 ≤ cohort.spsize) && t.laneRead l m.a 32 % 4 == 0
        && !s.scratchOwned cohort (t.laneRead l m.a 32) 4 && !cohort.poisoned (t.laneRead l m.a 32) 4
        && !cohort.hitsQcb (t.laneRead l m.a 32) 4)) = true
    ∧ GangIssues s t 0 0x70 0x04 m ∧ GangIssues s t 0 0x70 0x05 m :=
  ⟨by decide +kernel, by decide +kernel, gangs_issue _ _ _ _ rfl (by decide +kernel) (by decide +kernel),
    lanes_begin _ _ _ _ _ _ _ (by decide +kernel) (by decide +kernel) (by decide +kernel) rfl rfl,
    lanes_begin _ _ _ _ _ _ _ (by decide +kernel) (by decide +kernel) (by decide +kernel) rfl rfl,
    lanes_meet _ _ _ _ _ _ (by decide +kernel), lanes_meet _ _ _ _ _ _ (by decide +kernel), by decide +kernel, by decide +kernel,
    by decide +kernel, by decide +kernel, by decide +kernel, by decide +kernel, gang_of (by decide +kernel), gang_of (by decide +kernel)⟩

/-- LaneAtomics: four lanes at addresses of their own with operation 9, all at one address with operation 11, a posted
reduction of operation 12, prefetches inside and outside the ranges. -/
theorem test_meets_LaneAtomics :
    let t := gangWith [0x1FFF0, 0x20000] [(vKey 1 1, 4), (vKey 2 1, 8), (vKey 3 1, 12)] []
    let s := gangMachine t
    let ls := [0, 1, 2, 3]
    let o := plain 0 0 0xF8 1 3 36 0
    let x := plain 8 0 0xF8 2 3 44 0
    let va : Nat → Word := fun l => 0x1FFF0 + word (4 * l)
    t.activeLanes 0 o = ls ∧ o.md.toNat / 4 = 9 ∧ x.md.toNat / 4 = 11
    ∧ GangIssues s t 0 0x70 0x06 o ∧ GangIssues s t 0 0x70 0x06 x ∧ GangIssues s t 0 0x70 0x07 (plain 8 0 0xF8 2 3 48 0)
    ∧ GangIssues s t 0 0x70 0x08 (plain 0 0 0xF9 2 3 0 0) ∧ GangIssues s t 0 0x70 0x08 o
    ∧ LanesBegin s t 0 ls 4 .atomic va (fun l => lastBytes + 4 * l) ∧ LanesBegin s t 0 ls 16 .read (fun _ => 0x1FFF0) (fun _ => lastBytes)
    ∧ LanesMeet s t ls va (fun l => lastBytes + 4 * l) 0x3FF ∧ LanesMeet s t ls (fun _ => 0x1FFF0) (fun _ => lastBytes) 0x3FF
    ∧ (∃ u got, LanesDo s u (atomLine 0 t o) ls va got)
    ∧ ls.all (fun l => !s.poisoned (lastBytes + 4 * l) 4) = true ∧ s.poisoned lastBytes 16 = false
    ∧ ls.all (fun l => decide ((word (t.uniform ls o.a 64) + o.im.signExtend 64
        + (BitVec.ofNat 32 (t.laneRead l o.b 32)).signExtend 64 <<< (0 : Nat)) = va l)) = true
    ∧ t.redBuf.length < 32 ∧ s.check t 0x1FFF0 16 .atomic true = none
    ∧ inRanges t.ranges 0x20000 1 .read = false
    ∧ t.sentBefore (.gang 0) = (0, []) ∧ (s.sendPrefs 0 t true (prefLines t.ranges (vmIndexed t ls o))).2.2 = true
    ∧ t.redBuf.length + ls.length ≤ Config.storeBuffer ∧ s.portHeld 0 = false ∧ s.ptsFull = false :=
  ⟨by decide +kernel, by decide +kernel, by decide +kernel, gang_of (by decide +kernel), gang_of (by decide +kernel),
    gang_of (by decide +kernel), gang_of (by decide +kernel), gang_of (by decide +kernel),
    lanes_begin _ _ _ _ _ _ _ (by decide +kernel) (by decide +kernel) (by decide +kernel) rfl rfl,
    lanes_begin _ _ _ _ _ _ _ (by decide +kernel) (by decide +kernel) (by decide +kernel) rfl rfl,
    lanes_meet _ _ _ _ _ _ (by decide +kernel), lanes_meet _ _ _ _ _ _ (by decide +kernel), lanes_do _ _ _ _ (by decide +kernel),
    by decide +kernel⟩

/-- AtomicAggregation: operations 0 and 9, the largest number a location of 32 bits holds. -/
theorem test_meets_AtomicAggregation : 0 ≤ 9 ∧ 9 ≤ 9 ∧ 2 ^ 32 - 1 < 2 ^ tyWidth 0 := by
  decide

/-- A reservation's first word (R122): PITCH, LOC, SIDE, TY i8, length and offset; operator entry 0. -/
def resvWord (side loc pitch len off : Nat) : Word :=
  word (pitch * 2 ^ 43 + loc * 2 ^ 42 + side * 2 ^ 33 + 2 * 2 ^ 28 + len * 2 ^ 14 + off)

/-- A live record. -/
def resv (side loc pitch len off : Nat) : Resv := { w0 := resvWord side loc pitch len off, w1 := 0, live := true }

/-- A cohort with an A, a B and a gathered A record, and 16 KiB of scratchpad. -/
def matrixCohort : Cohort :=
  { cohort with spsize := 0x4000, recs := [(1, resv 0 0 1 4 0), (2, resv 1 0 1 32 4), (3, resv 0 1 1 4 0)] }

/-- A gang with one tile, and block arguments for the matrix instructions. -/
def matrixThread : Thread :=
  { gangWith [resvWord 0 0 1 4 36, 0, 0x18000, handleOf 0 1 0 0, 0x20] [] [] with
    tiles := [{ cells := RegFile.zero, tag := 0, poison := [] }] }

/-- The machine of that gang. -/
def matrixMachine : State := withCohort (gangMachine matrixThread) matrixCohort

/-- A matrix instruction can be taken where the machine says so. -/
theorem matrix_of {s : State} {t : Thread} {fn : BitVec 8} {o : LaneOps} {c : Cohort} (h : GangIssues s t 0 0x80 fn o)
    (hc : look s.cohorts t.cohort = some c)
    (hr : (!(t.activeLanes 0 o).isEmpty && decide ((s.mxPending s.cur.tid t.uid).length < 8)) = true) :
    MatrixIssues s t 0 fn o c := by
  simp only [Bool.and_eq_true, decide_eq_true_eq, Bool.not_eq_true'] at hr
  exact ⟨h, by simpa using hr.1, hr.2, hc⟩

/-- MatrixAcceptance: every MX instruction on an operand set of its own that passes its checks: a record that ends at
operand space's part in use, a fill to the record's end, K of 32 that fills its rows, the last columns of a tile. -/
theorem test_meets_MatrixAcceptance :
    let s := matrixMachine
    let t := matrixThread
    let c := matrixCohort
    let ls := [0, 1, 2, 3]
    let r : Resv := { w0 := word (t.uniform ls 0xF8#8 64), w1 := word (t.uniform ls 0xF9#8 64), live := true }
    let mma := plain 0 0 1 2 3 0 32
    let mg := plain 0 0 4 2 3 0 32
    (∀ x ∈ ([(0, plain 0 4 0xF8 0xF9 0 0 0), (1, plain 0 1 0 0 0 0 0), (2, plain 0 1 0xF9 0xFC 0 0 480), (3, mma), (4, mg),
        (5, plain 0 0 0 0 0 0 0), (6, plain 0 0 0 0 0 0 127), (7, plain 0 0 4 0 0 0 127), (8, plain 0 0 0 0xF9 0 0 0),
        (9, plain 0 0 0 4 0xFA 0 0), (10, plain 0 0 4 0 0 0 0), (11, plain 0 0 0 0xFB 0 0 0)] : List (Nat × LaneOps)),
      MatrixIssues s t 0 (BitVec.ofNat 8 x.1) x.2 c)
    ∧ (resvCheck s t c 4 r = none ∧ (s.recsHeld 0).1 < 16 ∧ (s.recsHeld 0).2 + r.len ≤ Config.operandBytes
      ∧ (c.liveRec 1).isSome = true ∧ (s.coreAt 0).mx = [])
    ∧ ((resv 0 0 1 4 0).loc = false ∧ t.uniform ls 0xFC#8 32 = 32 ∧ 480 + 32 ≤ (resv 0 0 1 4 0).len)
    ∧ (∃ x, mmaCheck s t c mma (c.liveRec 1) (c.liveRec 2) false
          (fun r => r.rowFits 15 (mxK mma) && r.extraFits 15 (mxK mma) c.spsize) = .inr x)
    ∧ (∃ x, mmaCheck s t c mg (c.liveRec 3) (c.liveRec 2) true (fun _ => true) = .inr x)
    ∧ (ls.all (fun l => (runWords t l 4#8).all (fun i => (resv 0 1 1 4 0).rowFits i.toNat 32
        && (resv 0 1 1 4 0).extraFits i.toNat 32 c.spsize))) = true
    ∧ (∃ e, s.entryOf t.ctx 0 = some e) ∧ (s.entryOf t.ctx 0).map (fun e => e.hasClass (entryClass e 0)) = some true
    ∧ ((s.mxPending 0 t.uid).all (fun x => !x.kind.writesTile 0) = true ∧ 127 % 128 + 2 ^ 0 ≤ 128
      ∧ t.uniform ls 0xF9#8 32 + 16 * t.slices * rowBytesOf 0 ≤ c.spsize
      ∧ c.hitsQcb 0 (16 * t.slices * rowBytesOf 0) = false
      ∧ (lanesRows ls).all (fun x => !s.scratchOwned c (x * rowBytesOf 0) (rowBytesOf 0)) = true)
    ∧ ((mstxRows ls (ls.flatMap (fun l => runWords t l 4#8)) 0x18000 (rowBytesOf 0)).all (fun x =>
        s.check t x.2.2 (rowBytesOf 0) .write false == none
        && (rowLines x.2.2 (rowBytesOf 0)).all (fun va => (match s.reach t.ctx va with | .ok _ => true | _ => false)))) = true
    ∧ hPart (word (t.uniform ls 0xFB#8 64)) = partOfCtx t.ctx := by
  refine ⟨?_, by decide +kernel, by decide +kernel, ?_, ?_, by decide +kernel, some_of (by decide +kernel), by decide +kernel⟩
  · intro x hx
    simp only [List.mem_cons, List.not_mem_nil, or_false] at hx
    rcases hx with rfl | rfl | rfl | rfl | rfl | rfl | rfl | rfl | rfl | rfl | rfl | rfl <;>
      exact matrix_of (gang_of (by decide +kernel)) (by decide +kernel) (by decide +kernel)
  · exact sum_inr (by decide +kernel)
  · exact sum_inr (by decide +kernel)
where
  sum_inr {α β : Type} {x : Sum α β} (h : x.isRight = true) : ∃ y, x = .inr y := by
    cases x with
    | inl a => cases h
    | inr y => exact ⟨y, rfl⟩

/-- An operation of the test thread. -/
def mxOpOf (kind : MxKind) : MxOp :=
  { age := 0, party := .gang 0, time := { start := 0, free := 0, gather := 0, ends := 0 }, uid := 0, tid := 0, cohort := 0, ctx := 0,
    slices := 1, lanes := [0, 1, 2, 3], ranges := [], recs := [1, 2], owned := [], kind, owed := false }

/-- MatrixResults: the thread and cohort of an operation stand, the tile is held, no byte read is poisoned; a gather of a row
with none else, a row operation, a write of two columns, a store, and one of a single row of memory. -/
theorem test_meets_MatrixResults :
    let s := matrixMachine
    let t := matrixThread
    let c := matrixCohort
    let op := mxOpOf (.mma 0 (resv 0 0 1 4 0) (resv 1 0 1 32 4) (fixedEntry 0) true 32)
    look s.threads op.tid = some t ∧ t.uid = op.uid ∧ t.ended = false ∧ look s.cohorts op.cohort = some c
    ∧ 0 < t.tiles.length ∧ c.mulPoisoned (resv 0 0 1 4 0) (resv 1 0 1 32 4) 32 (lanesRows op.lanes) = false
    ∧ anyPoison c.spoison 0 0x4000 = false
    ∧ (lanesRows op.lanes).length = 16 ∧ c.mulPoisoned (resv 0 1 1 4 0) (resv 1 0 1 32 4) 32 [0] = false ∧ 126 + 2 ≤ 128
    ∧ (List.replicate 32 0#32).length = 4 * 2 * op.lanes.length ∧ op.lanes.Nodup
    ∧ (let idx := 0#32 :: List.replicate 15 0xFFFFFFFF#32
       let rs := mstxRows op.lanes idx 0x18000 512
       let lines := rs.flatMap (fun x => rowLines x.2.2 512)
       rs.length ≤ 1 ∧ lines ≠ [] ∧ lines.all (fun v => match s.place 0 v with
         | .byte pa => decide (pa % 128 = 0) && !s.mustWait 0 v pa && lines.all (fun w => decide (v = w) || decide (s.place 0 w ≠ .byte pa))
         | _ => false) = true) := by
  decide +kernel

/-- Selection: a source of 2^18 elements that ends at the allocation, each SL instruction, and blocks of `sl.rng`. -/
theorem test_meets_Selection :
    let t := gangWith [0, 0x40000, 0x100000] [(vKey 0 1, 0xFFFFFFFE)] []
    let c := { cohort with spsize := 0x200000 }
    let s := withCohort (gangMachine t) c
    let ls := [0, 1, 2, 3]
    let o := plain 8 2 0xF8 0xF9 0xFA 0 1
    let r := plain 0 4 1 0 0 0 0
    look s.cohorts t.cohort = some c ∧ t.activeLanes 0 o = ls
    ∧ GangIssues s t 0 0x90 (BitVec.ofNat 8 0) o ∧ GangIssues s t 0 0x90 (BitVec.ofNat 8 1) o
    ∧ GangIssues s t 0 0x90 (BitVec.ofNat 8 2) o ∧ GangIssues s t 0 0x90 3 r
    ∧ (upFrom 0 3).all (fun fn => (slCheck c fn o (t.uniform ls o.a 32) (t.uniform ls o.b 64 % 2 ^ 32)
        (if fn < 2 then t.uniform ls o.c 32 else 0)).isNone) = true
    ∧ (t.activeLanes 0 r).all (fun l => t.laneRead l r.a 32 != 0xFFFFFFFF) = true :=
  ⟨by decide +kernel, by decide +kernel, gang_of (by decide +kernel), gang_of (by decide +kernel), gang_of (by decide +kernel),
    gang_of (by decide +kernel), by decide +kernel⟩

/-- The machine of a gang with the queue bound. -/
def gangQueue (t : Thread) (q : Queue) (b : List Byte) : State :=
  { queueMachine t q b with cur := { tid := 0, party := .gang 0, len := 8 } }

/-- LaneQueueOperations: no active lane; a queue with four slots free, one with four elements, a closed one. -/
theorem test_meets_LaneQueueOperations :
    let t := gangWith [0x11000] [] []
    let q := queue false []
    let o := plain 0 4 0xF8 4 1 0 0
    let room := gangQueue t q (block 0 0 257 4 0)
    let full := gangQueue t q (block 0 4 257 0 0)
    let closed := gangQueue t q (block 0 0 273 4 0)
    let push := room.homePush (.global qpa) (.core 0) ([0, 1, 2, 3].map (fun l => laneElem t l 4 4))
    let pop := full.homePop (.global qpa) (.core 0) 4
    let none_ := closed.homePop (.global qpa) (.core 0) 4
    (t.activeLanes 0 (ops 0 4 0xF8 4 1 0 0) = [0, 1, 2, 3] ∧ t.activeLanes 0 { o with ps := 1 } = []
      ∧ t.activeLanes 0 o = [0, 1, 2, 3])
    ∧ GangIssues room t 0 0xA0 0x00 o ∧ GangIssues full t 0 0xA0 0x01 o ∧ GangIssues closed t 0 0xA0 0x00 o
    ∧ GangIssues room t 0 0xA0 0x00 { o with ps := 1 } ∧ GangIssues room t 0 0xA0 0x01 { o with ps := 1 }
    ∧ Names room t 0x11000 (.global qpa) q ∧ Names full t 0x11000 (.global qpa) q ∧ Names closed t 0x11000 (.global qpa) q
    ∧ Quiet room t ∧ word (t.uniform [0, 1, 2, 3] o.a 64) = 0x11000
    ∧ lqCheck t 4 (qEsize (room.qcbBytes (.global qpa) 64) / 4) 4 4 = none
    ∧ qClosed (closed.qcbBytes (.global qpa) 64) = true ∧ qClosed (room.qcbBytes (.global qpa) 64) = false
    ∧ push.ans = .many [0, 1, 2, 3] [] false
    ∧ t.gangPoisoned 0 = false ∧ full.engineOnly (.global qpa) = false
    ∧ [(room, true, 0), (room, true, 4), (closed, true, 0), (full, true, 0), (full, false, 4)].all (fun x =>
        takes x.1 (.global qpa) x.2.1 x.2.2 && x.1.causes (.global qpa) q == 0) = true
    ∧ pop.ans = .many [0, 1, 2, 3] (List.replicate 4 (List.replicate 16 0)) false ∧ none_.ans = .closed
    ∧ ([push, pop, none_].all (fun h => (look (h.s.applyEnds h.ended).threads 0).any (fun t => !t.ended))) = true :=
  ⟨by decide +kernel, gang_of (by decide +kernel), gang_of (by decide +kernel), gang_of (by decide +kernel),
    gang_of (by decide +kernel), gang_of (by decide +kernel), names _ _ _ _ _ (by decide +kernel),
    names _ _ _ _ _ (by decide +kernel), names _ _ _ _ _ (by decide +kernel),
    quiet _ _ (by decide +kernel) (by decide +kernel) (by decide +kernel), by decide +kernel⟩

/-- The machine with an event's operands. -/
def withArg (s : State) (a : EvArg) : State := { s with arg := a }

/-- The machine at a time in ns. -/
def atTime (s : State) (n : Nat) : State := { s with timeBase := n, clkBase := s.clk }

/-- BlocksAndEngines: a queued block, a running block all of whose slices have ended, a matrix and a selection operation
that retire, and a core with none. -/
theorem test_meets_BlocksAndEngines :
    let q := { gangThread [] [] [] with running := false }
    let e := { gangThread [] [] [] with sl := [{ slice 0 0xF [] with st := .ended }] }
    let op := mxOpOf (.mzero 0 7)
    let sl : SlOp := { ends := 0, seen := [], done := [], uid := 0, tid := 0, cohort := 0, gang := 0, lanes := [0, 1, 2, 3], fn := 3, o := plain 0 4 1 0 0 0 0,
                       len := 8, blocks := [(0, 1)], src := 0, n := 0, base := 0, dst := 0 }
    let s := matrixMachine
    let one := s.setCore 0 { s.coreAt 0 with mx := [op] }
    let other : MxOp := { mxOpOf (.mzero 1 7) with age := 1, recs := [] }
    let two := s.setCore 0 { s.coreAt 0 with mx := [op, other] }
    look (machine q).threads 0 = some q ∧ ((machine q).mayIssue 0 q.ctx = true ∧ q.running = false) ∧ q.blocks = [{ entry := 0, args := [] }]
    ∧ look (machine e).threads 0 = some e ∧ e.running = true ∧ e.sl.all (fun x => x.st == .ended) = true
    ∧ (s.coreAt 0).mx = [] ∧ (s.coreAt 0).slq = []
    ∧ (∃ u, one.mxLeave 0 op = some u) ∧ one.mxFree 0 = [op] ∧ two.mxFree 0 = [op, other] ∧ two.arg.obj2 = 0
    ∧ (dueNotes [] [op, { mxOpOf (.mnote 0 5) with age := 1 }] = ([op, { mxOpOf (.mnote 0 5) with age := 1 }], [])
      ∧ dueNotes [] [mxOpOf (.mnote 0 5)] = ([], [5]))
    ∧ s.slFree sl = true ∧ ({ EvArg.none with bound := some 0 } : EvArg).bound = some 0 ∧ EvArg.none.bound = none := by
  refine ⟨?_, ?_, ?_, ?_, ?_, ?_, ?_, ?_, some_of ?_, ?_⟩ <;> decide +kernel

/-- A line of the page in its slice. -/
def line : L2Line :=
  { asid := 1, ctx := 0, vline := 0x1FF80 / 128, ch := 0, way := 0, sectors := 0xF, dirty := false, region := 0, wts := 0, rts := 0,
    pins := 0, shadow := [] }

/-- MemoryEvents: a prefetch that hits, one that misses with the last entry of the miss buffer free and with none, an access of a
party that waits and of one that has gone, an answer, a clock at its limit, a posted reduction that is taken, one that is
performed, one that a saved thread has left, and a request held at the port. -/
theorem test_meets_MemoryEvents :
    let t := { thread [] with redBuf := [lastRed 0 8 1] }
    let s := machine t
    let hit : State := { s with l2 := [(lastBytes / 128, line)] }
    let limit : State := { s with clk := 2 ^ 47 - 1, ptsBase := 0 }
    let asks : State := { hit with threads := [(0, { t with wait := some (.home 0 []) })] }
    let left := s.setCore 0 { s.coreAt 0 with posted := [lastRed 0 8 1] }
    let held : State := { s with threads := [(0, { t with wait := some (.port 0 []) })] }
    s.reqHits pref = false ∧ hit.reqHits pref = true ∧ s.reqGone pref = false ∧ asks.reqGone mine = false ∧ hit.reqGone mine = true
    ∧ asks.reqHits mine = true ∧ (left.coreAt 0).posted = [lastRed 0 8 1] ∧ s.requestHeld 0 = false ∧ held.requestHeld 0 = true
    ∧ 0 < Config.missBuffer
    ∧ Config.missBuffer ≤ (List.replicate Config.missBuffer pref).length ∧ limit.ptsFull = true ∧ limit.portsIdle = true
    ∧ s.redThread 0 = some (0, t) ∧ (s.dieAt 0).combiner.length < Config.combinerSize
    ∧ (∃ u, (s.setDie 0 { s.dieAt 0 with combiner := [] }).performRed (lastRed 0 8 1) = some u) := by
  refine ⟨?_, ?_, ?_, ?_, ?_, ?_, ?_, ?_, ?_, ?_, ?_, ?_, ?_, ?_, ?_, some_of ?_⟩ <;> decide +kernel

/-- A record as the engine took it, with nothing left to move. -/
def taken (raw : List Byte) (fixes : List CSeg) (fixed : Nat) : CopyRec :=
  { addr := 0x14000, raw, ext := [], lines := [], qpos := none, qbind := 0, left := [], fixes, fixed, acks := 0, bad := false, ending := none }

/-- The machine with one chain on channel 0. -/
def chainMachine (s : State) (h : Chain) : State := { s with chans := [(0, { ticket := 1, chains := [h], linebuf := [] })] }

/-- A record whose action pushes a 64-bit element to the queue at 0x11000 (R240). -/
def putRecord : List Byte :=
  leBytes 8 0 ++ leBytes 4 (2 ^ 31 + 4 * 2 ^ 24) ++ leBytes 4 16 ++ leBytes 8 0x13000 ++ leBytes 8 0 ++ leBytes 8 0x11000
    ++ List.replicate 24 0

/-- CopyEvents: an idle channel, a chain at its end, one at a record, a record that runs, one with nothing left, one that
waits for a queue slot with and without room and at a frozen queue, one that waits at a page that is not there and one at none,
a fix-up in a page that is there and one in a page that is not. -/
theorem test_meets_CopyEvents :
    let s := machine (thread [])
    let q (w : Option Nat) (b : List Byte) : State := queueMachine user { queue false [] with frozen := w } b
    let seg (va : Nat) : CSeg := { va, len := 64, dest := false, moves := [] }
    let running := chain 0x14000 (some (taken (record true) [] 0)) .running
    let fix (va : Nat) : Chain := chain 0x14000 (some (taken (record true) [seg va] 0)) .running
    let gap := chain 0x40000 none .waitPage
    let put := chain 0 none .waitSlot
    let moved := State.doMoves 0 running false 64 [] (s.fixSeg 0 (seg 0x13000)).1
    s.headChain 0 = none ∧ (chainMachine s (chain 0 none .running)).headChain 0 = some (chain 0 none .running)
    ∧ (chain 0 none .running).taken = none ∧ (chain 0 none .running).at_ = 0
    ∧ (chainMachine s running).headChain 0 = some running ∧ cohortDest (record true) = false
    ∧ (crAction (record true) ≠ 4 ∧ ((chainMachine s running).chanAt 0).linebuf = [] ∧ crAction putRecord = 4
      ∧ crFixlist putRecord = 0)
    ∧ (((q none (block 0 0 257 4 0)).qputReserve 0 put putRecord) matches .pos _ _ _) = true
    ∧ (((q none (block 0 4 257 0 0)).qputReserve 0 put putRecord) matches .wait _) = true
    ∧ (((q (some 1) (block 0 0 257 4 0)).qputReserve 0 put putRecord) matches .bad _ _ _) = true
    ∧ s.waitsAt gap = some 0x40000 ∧ s.waitsAt (chain 0x14000 none .waitPage) = none ∧ (s.fixPage 0 0x40000).2 = false
    ∧ (s.fixPage 0 0x13000).2 = true ∧ (taken (record true) [seg 0x13000] 0).fixes[0]? = some (seg 0x13000)
    ∧ (s.fixSeg 0 (seg 0x13000)).2 = true ∧ (s.fixSeg 0 (seg 0x40000)).2 = false ∧ moved.down = false ∧ moved.left = []
    ∧ (chainMachine s (fix 0x13000)).headChain 0 = some (fix 0x13000) ∧ s.partRuns (partOfCtx 0) = true := by
  decide +kernel

/-- A step the Carder delivers for key 9. -/
def stepReq (reason : Reason) : StepReq :=
  { key := 9, win := 0, reason, record := { pos := 0, seq := 0, addr := 0x12000, bytes := List.replicate 16 0 }, start := 0,
    pane := false, raw := false, sent := false, time := 0, ord := 0, partner := 0, replays := 0, stamp := 0 }

/-- A parked window of key 9. -/
def window (tier : Nat) : Window :=
  { ctx := 0, stream := qpa, key := 9, winid := 1, start := 0, last := 0, expiry := 5, state := 0, count := 1, panes := 0,
    carry := List.replicate 16 0, paneWin := false, firing := false, tier, lastCommit := 0, phase := .parked, replays := 0,
    thread := none, partner := none, closeReq := false, lastTs := 0, core := none, poison := [], reserved := [] }

/-- EndOfThread: a thread with a running block and a position reserved, and a step of a window with one. -/
theorem test_meets_EndOfThread :
    let t := gangThread [(1, 0x11000)] [] []
    let held : Thread := { t with reserved := [(qpa, 0, 3)] }
    let step : Thread := { held with step := some { win := 1, reason := .record } }
    let s := machine held
    look s.threads 0 = some held ∧ held.ended = false ∧ held.step = none ∧ held.reserved = [(qpa, 0, 3)]
    ∧ step.step = some { win := 1, reason := .record }
    ∧ look ({ machine step with windows := [(1, window 0)] } : State).windows 1 = some (window 0) := by
  decide +kernel

/-- A machine with a bound stream under a control, and its operands. -/
def carder (c : StreamCtl) (ws : SMap Window) (b : List Byte) : State :=
  { queueMachine (thread []) (queue true []) b with
    streams := [(qpa, c)]
    windows := ws
    arg := { EvArg.none with obj := qpa, word := 9, obj2 := 1 } }

/-- CarderEvents: a step of each reason for key 9 with its window and with room for a new one, a record to take, a window
that fires, one that has idled, a full Hatbox that is due, an emission that is pushed, waits or meets a closed queue. -/
theorem test_meets_CarderEvents :
    let open_ := carder { ctl with steps := [stepReq .openR] } [] streamBlock
    let idle := carder ctl [] streamBlock
    let steps := [Reason.record, .pane, .merge, .close, .expire].map (fun r => carder { ctl with steps := [stepReq r] } [(1, window 0)] streamBlock)
    let rec_ := carder ctl [] (block 0 1 257 3 0 ++ List.replicate 64 0)
    let late := atTime (carder ctl [(1, window 0)] streamBlock) 1000000
    let emits (b : List Byte) : State := { queueMachine (thread []) (queue false []) b with dies := [(0, { DieSt.fresh with emits := [(0, 0, 0x11000, List.replicate 16 0)] })] }
    let push (b : List Byte) : QAns := ((emits b).setDie 0 { (emits b).dieAt 0 with emits := [] }).homePush (.global qpa) (.unit 0) [List.replicate 16 0] |>.ans
    (open_.stepReady qpa 9 = some (stepReq .openR) ∧ (open_.roomIn 0 (open_.dieOfKey 0 9) 2 0).isSome = true
      ∧ look (open_.resolved qpa 9).streams qpa = some { ctl with steps := [stepReq .openR] })
    ∧ idle.stepReady qpa 9 = none
    ∧ steps.all (fun s => (s.stepReady qpa 9).isSome && ((s.resolved qpa 9).windowOf qpa (stepReq .record)).isSome) = true
    ∧ (rec_.takeReady qpa = true ∧ rec_.causes (.global qpa) (queue true []) = 0
      ∧ ((rec_.slotReady (.global qpa) (queue true []) (rec_.qcbBytes (.global qpa) 128) 0).1.readSlot (.global qpa) (queue true [])
          (rec_.qcbBytes (.global qpa) 128) 0).2.1 = false)
    ∧ (window 0).fires late.time = true ∧ late.demoteDue (window 0) = true ∧ ((late.roomIn 0 (late.dieOfKey 0 9) 1 1).bind (fun u => u.setTier (.window 1) 1)).isSome = true
    ∧ late.fullDue { ctl with full := [(9, 0)] } 9 = true
    ∧ (emits (block 0 0 257 4 0)).nextEmit 0 = some (0, 0, 0x11000, List.replicate 16 0)
    ∧ push (block 0 0 257 4 0) = .many [0] [] false ∧ push (block 0 4 257 0 0) = .blocked ∧ push (block 0 0 273 4 0) = .closed
    ∧ spaceOf 0x11000 = some (.global 0x11000)
    ∧ late.ctxRuns 0 = true ∧ idle.streamRuns qpa = true ∧ (machine (thread [])).streamRuns qpa = false := by
  decide +kernel

/-- A slot with a packet. -/
def slot (st : TaskState) (threads : Nat) (pieces : List Piece) (kind : Nat) : TaskSlot :=
  { TaskSlot.fresh with st, gen := 1, packet := packet kind, threads, pieces, prio := 0, paddr := 0x14000, released := false }

/-- A time-triggered slot due at 100. -/
def ttSlot : TTSlot :=
  { period := 100, offset := 0, templ := 0x14000, slack := 50, bound := 0, overrun := 0, sticky := false, prio := 0, nextRel := 100,
    last := none, freeAt := 0, ctx := 0 }

/-- The machine with tasks. -/
def tasks (s : State) (ts : SMap TaskSlot) : State := { s with tasks := ts }

/-- TaskEngineEvents: a packet in a submission queue, a decrement, a ready task, a running one that completes, a range to
split at its grain, a release that is due, one that is not, and one that is skipped. -/
theorem test_meets_TaskEngineEvents :
    let m := machine (thread [])
    let b : List Byte := leBytes 4 0 ++ leBytes 4 1 ++ leBytes 4 4 ++ leBytes 2 256 ++ leBytes 2 257 ++ leBytes 8 0x12000 ++ leBytes 4 3
      ++ leBytes 4 0 ++ List.replicate 8 0 ++ leBytes 4 1 ++ List.replicate 20 0
    let sq : State := poke { queueMachine (thread []) (queue false []) b with
      ctxs := (queueMachine (thread []) (queue false []) b).ctxs.map (fun c => (c.1, { c.2 with submitQ := 0x11000 })) } 0x12000 (packet 0)
    let pop := sq.homePop (.global qpa) (.unit (sq.homeOf 0 0x11000 / 128)) 1
    let ready := tasks m [(0, slot .ready 0 [{ lo := 0, cur := 0, hi := 0, live := true }] 0)]
    let run := tasks m [(0, slot .running 0 [] 0)]
    let range := tasks m [(0, slot .running 1 [{ lo := 0, cur := 0, hi := 2, live := true }] 1)]
    let tt : State := poke (atTime (m.setTT 0 3 ttSlot) 100) 0x14000 (packet 0)
    let done : State := (atTime (tasks m [(0, slot .running 1 [] 0)]) 150).setTT 0 3 { ttSlot with last := some (handleOf 0 1 0 0) }
    let die0 := (tt.resident 0 0x14000 256).homeOf 0 0x14000 / 128
    let x := accD ([], tt) ((tt.resident 0 0x14000 256).readBytes (.unit die0) 0 0x14000 8)
    let y := accD ([], x.2) (x.2.readBytes (.unit die0) 0 0x14000 32)
    (sq.submitRef 0 = some (.global qpa) ∧ sq.queueBusy (.global qpa) false 1 = false ∧ sq.spawnDie 0 = some 0 ∧ (look sq.ctxs 0).isSome = true
      ∧ (pop.ans matches .many [0] [_] false) = true
      ∧ (match pop.ans with | .many _ (e :: _) _ => (packetIn e).isSome | _ => false) = true
      ∧ ((pop.s.applyEnds pop.ended).freeSlot 0).isSome = true)
    ∧ ready.launchReady 0 = true ∧ (run.launchReady 0 = false ∧ run.countUnread 0 = false
      ∧ (tasks m [(0, slot .waiting 0 [] 2)]).countUnread 0 = true) ∧ (run.completeReady 0 = true ∧ ready.completeReady 0 = false)
    ∧ (range.partServing 0 = some 0 ∧ range.noneReady 0 = true
      ∧ range.splitChoice 0 = some (0, 0, { lo := 0, cur := 0, hi := 2, live := true }, 1))
    ∧ (tt.ttAt 0 3 = some ttSlot ∧ tt.releaseDue 0 3 = true ∧ (atTime tt 99).releaseDue 0 3 = false)
    ∧ ((tt.resident 0 0x14000 256).readBytes (.unit die0) 0 0x14000 8 = .ok x ∧ pkLen (leNat x.1) = some 32
      ∧ x.2.readBytes (.unit die0) 0 0x14000 32 = .ok y ∧ packetOk y.1 = true ∧ y.2.spawnDie 0 = some 0 ∧ y.2.freeSlot 0 = some 0)
    ∧ (done.ttAt 0 3 = some { ttSlot with last := some (handleOf 0 1 0 0) } ∧ done.skipDue 0 3 = true)
    ∧ sq.ctxRuns 0 = true ∧ ({ m with ctxs := [] } : State).ctxRuns 0 = false := by
  refine ⟨by decide +kernel, by decide +kernel, by decide +kernel, by decide +kernel, by decide +kernel, by decide +kernel,
    ⟨acc_eq _ (by decide +kernel), by decide +kernel, acc_eq _ (by decide +kernel), by decide +kernel⟩, by decide +kernel⟩

/-- A request to place a task's cohort of one thread on die 0. -/
def request (n : Nat) : Request :=
  { id := 7, ctx := 0, prio := 0, age := 0, kind := .task 0 0, entry := 0x10000, csize := 1, slices := n, vregs := 8, tiles := 0,
    spad := 0, stalled := some 0 }

/-- A machine whose die 0 has a waiting request, and whose cores 0 to 3 and first four channels are its partition. -/
def waiting (s : State) (r : Request) : State :=
  { s with dies := [(0, { DieSt.fresh with reqs := [r] })]
           parts := s.parts.map (fun p => (p.1, { p.2 with quads := 1, chlog := 2 })) }

/-- A restore of a saved cohort. -/
def restored (s : State) : State :=
  let c := { Cohort.bare 0 0x10000 0 with prio := 0 }
  waiting { s with threads := [], cohorts := [], saved := [(0, { out := false, cohort := c, threads := [thread []], die := 0, core := 0, pts := 0, batt := true, bytes := 0 })] }
    { request 1 with kind := .restore 0 }

/-- A cohort whose register pool fills each core of a quad, so that a request of eight slices finds no room. -/
def busy : State :=
  let t (k : Nat) : Thread := { thread [] with cohort := k }
  let c (k : Nat) : Cohort := { Cohort.bare 0 0x10000 k with freeUnits := 4096 }
  let s := atTime (waiting (machine (thread [])) (request 8)) 1000000
  { s with threads := [(0, t 0), (32, t 32), (64, t 64), (96, t 96)]
           cohorts := [(0, c 0), (32, c 32), (64, c 64), (96, c 96)] }

/-- PlacementEvents: a request that is placed and one that restores, one that finds no room and stalls, starves and evicts;
each choice of R400; a bound that has elapsed; cohorts that can be saved and freed; a partition with a Batt swapped out,
and one that is swapped in. -/
theorem test_meets_PlacementEvents :
    let m := machine (thread [])
    let one := waiting m (request 1)
    let plain := busy
    let new : State := { busy with dies := [(0, { DieSt.fresh with reqs := [{ request 8 with stalled := none }] })] }
    let impossible : State := { busy with dies := [(0, { DieSt.fresh with reqs := [{ request 129 with stalled := none }] })] }
    let c := Cohort.bare 0 0x10000 0
    let w : Cohort := { c with window := true }
    let q (b : Nat) : PreReq := { bound := some b, req := 0, since := 0 }
    let slow : State := { m with dies := [(0, { DieSt.fresh with avgs := [(0x10000, 2 ^ 40)] })], cohorts := [(0, w)] }
    let dirty : State := { slow with threads := [(0, { thread [] with clean := false })] }
    let ended : State := { m with threads := [(0, { thread [] with ended := true })] }
    let batt : State := { m with parts := m.parts.map (fun p => (p.1, { p.2 with batt := true, quads := 1, chlog := 2 })) }
    ((one.nextPlaced 0).map (fun x => x.1.restores) = some false
      ∧ ((restored m).nextPlaced 0).map (fun x => x.1.restores) = some true)
    ∧ (plain.nextPlaced 0 = none ∧ new.nextPlaced 0 = none ∧ impossible.nextPlaced 0 = none
      ∧ ((impossible.queueOf 0).find? (impossible.stallsNow 0)).isSome = true)
    ∧ (plain.reqBy 0 7 = some (request 8) ∧ plain.stallDue (request 8) = true ∧ new.stallDue { request 8 with stalled := none } = false
      ∧ plain.starveDue 0 (request 8) = true ∧ plain.bestCore 0 (request 8) = none ∧ one.bestCore 0 (request 1) ≠ none ∧ plain.starveCore 0 (request 8) = some 0
      ∧ plain.evictDue (request 8) = true ∧ (plain.evictSet 0 (request 8) 32 1).map List.length = some 1)
    ∧ (m.coreRuns 0 c.ctx = true ∧ m.preChoice 0 c (q 0) = .drain ∧ slow.preChoice 0 w (q (slow.saveCost 0)) = .save
      ∧ slow.preChoice 0 w (q (slow.saveCost 0 - 1)) = .flush ∧ dirty.preChoice 0 w (q 0) = .late
      ∧ c.drain = none ∧ c.saving = none)
    ∧ (m.drainOver { c with drain := some (q 0) } = true ∧ m.saveAsked { c with saving := some (q 0) } = true
      ∧ m.saveReady 0 = true ∧ m.saveAsked c = false ∧ ended.freeReady 0 c = true ∧ m.freeReady 0 c = false)
    ∧ (look m.swaps 0 = none ∧ (look ({ m with swaps := [(0, 0)] } : State).swaps 0).isSome = true ∧ (batt.partAt 0).batt = true
      ∧ batt.battUse 0 = 0 ∧ (batt.cohortsOn 0 0).all (fun c => batt.saveReady c.1) = true ∧ (m.partAt 0).batt = false) := by
  decide +kernel

/-- ThreadEvents: a watchdog that has run out and one with no limit, a wait whose condition holds, one that does not, one
past its deadline, one whose queue is frozen, an arrival whose phase has passed and one whose has not, a request that waits
for its answer. -/
theorem test_meets_ThreadEvents :
    let t := thread [(1, 0x7000000000000000), (5, 0x7FFFFFFFFFFFFFFF), (10, 1), (11, 0xFFFFFFFFFFFF),
      (13, 0x2000000000011000)]
    let s := machine t
    let limited : State := { s with ctxs := s.ctxs.map (fun c => (c.1, { c.2 with wdog := 1 })) }
    let frozen := queueMachine t { queue false [] with frozen := some 1 } (block 0 0 257 4 0)
    let r : SysReq := { milli := 0, tid := 0, uid := 0, slice := 8, svc := 1, mask := 0, block := 0x10000, d := 4, pc := 0x10000 }
    let bars : Cohort := { cohort with bars := [(0, { phase := 1, count := 0, arrived := 0 })] }
    Issues s t ∧ (limited.coreRuns 0 t.ctx = true ∧ s.mayIssue 0 t.ctx = true
      ∧ ({ s with parts := [(0, { s.partAt 0 with census := 1 })] } : State).mayIssue 0 t.ctx = false)
    ∧ limited.wdogOver { t with wdog := 65536 } = true ∧ s.wdogOver t = false
    ∧ s.syncEval 0 t 1 10 none = .returns 1 ∧ s.syncEval 0 t 5 11 none = .waits ∧ s.syncEval 0 t 5 11 (some s.tick) = .returns 0
    ∧ frozen.syncEval 0 t 13 11 none = .corrupt 0x11000 1
    ∧ phaseReached ((withCohort s bars).phaseOf t 0) (0 + 1) = true ∧ phaseReached ((withCohort s bars).phaseOf t 0) (1 + 1) = false
    ∧ ({ s with sysReqs := [r] } : State).sysReqs[0]? = some r ∧ t.uid = r.uid ∧ r.slice = 8 ∧ t.ended = false :=
  ⟨issues _ rfl, by decide +kernel⟩

/-- AlarmsAndErrors: a device awake and one halted, gated and not, a partition whose recent privilege faults pass its
threshold, alarm levels 1 and 2, a place of each kind. -/
theorem test_meets_AlarmsAndErrors :
    let s := machine (thread [])
    let rep : State := { s with parts := s.parts.map (fun p => (p.1, { p.2 with privthr := 1, privAt := [0, 0], level := 1 })) }
    s.run ≠ .halted ∧ ({ s with run := .halted } : State).run = .halted ∧ s.gated = false ∧ ({ s with gated := true } : State).gated = true
    ∧ rep.privRep 0 = true ∧ s.privRep 0 = false ∧ (rep.partAt 0).level = 1 ∧ (s.partAt 0).level ≠ 1 ∧ (look s.parts 0).isSome = true
    ∧ ({ EvArg.none with place := .hbm 3 } : EvArg).place = .hbm 3 ∧ (s.countEcc 0 0 0).1 % 1024 ≠ 0 := by
  decide +kernel

/-- A mailbox request of function 0 for context 0. -/
def asks (s : State) (ctx : BitVec 6) (payload : List Word) : State :=
  withArg s { EvArg.none with req := { fn := 0, tag := 3, ctx, payload } }

/-- MailboxEvents: each request done once, refused for a context that is not there and malformed with no payload; one that
waits; a mailbox idle and busy; a device in recovery. -/
theorem test_meets_MailboxEvents :
    let s := machine (thread [])
    let b : List Byte := leBytes 4 0 ++ leBytes 4 0 ++ leBytes 4 4 ++ leBytes 2 256 ++ leBytes 2 257 ++ leBytes 8 0x12000 ++ leBytes 4 4
      ++ List.replicate 36 0
    let sub := poke s 0x11000 b
    let req (ctx : BitVec 6) (p : List Word) : MboxReq := { fn := 0, tag := 3, ctx, payload := p }
    let empty : State := { s with cohorts := [], threads := [] }
    let posted : State := { s with threads := [(0, { thread [] with redBuf := [lastRed 0 8 1] })] }
    ((createContext sub (req 1 [0, 0, 0, 0, 0x11000, 0, 0, 0x10000, 0xF800000000000001])) matches .done _) = true
    ∧ ((createContext s (req 0 [0, 0, 0, 0, 0x11000, 0, 0])) matches .refused) = true ∧ ((createContext s (req 1 [])) matches .malformed) = true
    ∧ ((endContext empty (req 0 [])) matches .done _) = true ∧ ((endContext empty (req 1 [])) matches .refused) = true
    ∧ ((endContext posted (req 0 [])) matches .wait) = true
    ∧ ((writeLeaves s (req 0 [0x20000, 0xF801000000000005])) matches .done _) = true ∧ ((writeLeaves s (req 1 [0, 0])) matches .refused) = true
    ∧ ((writeLeaves s (req 0 [])) matches .malformed) = true
    ∧ ((clearLeaves s (req 0 [0x20000])) matches .done _) = true ∧ ((clearLeaves s (req 0 [])) matches .malformed) = true
    ∧ ((writeTtSlot s (req 0 [63, 1000, 0, 0x14000, 999, 0, 0, 0, 0])) matches .done _) = true
    ∧ ((writeTtSlot s (req 0 [64, 1000, 0, 0x14000, 999, 0, 0, 0, 0])) matches .refused) = true
    ∧ ((mapPort s (req 0 [0x40000])) matches .done _) = true ∧ ((mapPort s (req 1 [0x40000])) matches .refused) = true
    ∧ ((writeUintEntry s (req 0 [63, 0, 0, 0, 0x300000001])) matches .done _) = true
    ∧ ((writeUintEntry s (req 0 [64, 0, 0, 0, 0x300000001])) matches .refused) = true
    ∧ s.run = .running ∧ ({ s with run := .recovery } : State).run = .recovery ∧ (s.fnAt 0).mboxst.getLsbD 0 = false ∧ s.fnServes 0 = true
    ∧ (({ s with fns := [(0, { PcieFn.fresh with mboxst := 1 })] } : State).fnAt 0).mboxst.getLsbD 0 = true
    ∧ (look s.ctxs 0).isSome = true ∧ (s.partAt 0).level = 0 := by
  decide +kernel

/-- A machine whose host may use the page of context 0. -/
def hosted (s : State) : State :=
  { s with fns := [(0, { PcieFn.fresh with spdm := true })]
           parts := s.parts.map (fun p => (p.1, { p.2 with window := [(0, 0x10000, 0x10000)] })) }

/-- HostEvents: an access that ends at the window's end and one past it, a queue the host may use, an extent, a page to
migrate, an interrupt whose thread runs and one that goes to the ring. -/
theorem test_meets_HostEvents :
    let s := hosted (machine (thread []))
    let q := hosted (queueMachine (thread []) (queue false []) (block 0 3 257 1 0))
    let qa : Asker := (q.queueAt (.global qpa)).elim (.unit 0) (q.homeUnit (.global qpa))
    let u (run : Word) : UintEntry :=
      { target := 5, runaddr := run, pendq := 0x2000, pcap := 1, vector := 3, flags := 1, sent := 0 }
    let m : UintMsg := { ctx := 0, entry := 0, data := 9, seq := 0 }
    let sent (run : Word) : State := { s with
      mem := Mem.write s.mem (hostKey 0x1000) 1
      uints := [m]
      ctxs := s.ctxs.map (fun c => (c.1, { c.2 with uints := [(0, u run)] })) }
    (s.scpTakes 0 0x1FFF0 16 = true ∧ s.scpTakes 0 0x1FFF0 17 = false ∧ 0x1FFF0 % 128 + 16 ≤ 128 ∧ isHost lastBytes = false
      ∧ s.place 0 0x1FFF0 = .byte lastBytes ∧ s.mustWait 0 0x1FFF0 lastBytes = false ∧ s.poisoned lastBytes 16 = false)
    ∧ (q.hostQueue 0 0x11000 = some (.global qpa) ∧ s.hostQueue 0 0x11001 = none
      ∧ (q.homePush (.global qpa) qa [List.replicate 16 0]).ans = .many [3] [] false
      ∧ q.queueAt (.global qpa) = some (queue false []) ∧ q.engineOnly (.global qpa) = false
      ∧ takes q (.global qpa) true 1 = true ∧ takes q (.global qpa) false 1 = true ∧ takes q (.global qpa) true 0 = true
      ∧ (q.homePop (.global qpa) qa 1).ans = .many [0] [List.replicate 16 0] false ∧ (q.homeLen (.global qpa) qa 0).ans = .pos 3)
    ∧ (q.later.any waitingWrite = false ∧ (s.hostLines 0x2000 8).all (fun l => !s.ownsLine l.1) = true)
    ∧ ((s.hostLines 0x3000 8).all (fun l => !s.ownsLine l.1) = true ∧ s.run ≠ .halted
      ∧ ((s.unmapExtent 0x3000 4096).hostLines 0x3000 4096).all (fun l => !(s.unmapExtent 0x3000 4096).ownsLine l.1) = true)
    ∧ s.migrates 0 0x10000 = none
    ∧ ((sent 0x1000).uintReady [] (sent 0x1000).uints = some m ∧ (sent 0x1000).uintEntry m = some (u 0x1000)
      ∧ (sent 0x1000).hostRuns (u 0x1000) = true ∧ (sent 0x1008).hostRuns (u 0x1008) = false ∧ (sent 0x1008).ringRoom (u 0x1008) = true
      ∧ (sent 0x1008).uintReady [] (sent 0x1008).uints = some m) := by
  decide +kernel

/-- A boot image of the greatest version. -/
def image : BootImage :=
  { pubkey := (upFrom 0 64).map Config.bootKey, sigOk := true, version := BitVec.allOnes 32, body := [1], policy := [2] }

/-- The ROM accepts it, whatever key and least version are fused. -/
theorem image_ok : BootImageOk image = true := by
  have h : image.pubkey.length = 64 := by
    show ((upFrom 0 64).map Config.bootKey).length = 64
    rw [List.length_map]
    decide
  have k : sha256 image.pubkey = fusedKeyDigest := rfl
  have v : Config.minVersion.toNat ≤ image.version.toNat := by
    have := Config.minVersion.isLt
    show _ ≤ (BitVec.allOnes 32).toNat
    rw [BitVec.toNat_allOnes]
    omega
  unfold BootImageOk
  rw [k, h, show image.sigOk = true from rfl]
  simp [v]

/-- The ROM refuses it with a signature that does not verify. -/
theorem image_bad : BootImageOk { image with sigOk := false } = false := by
  simp only [BootImageOk, Bool.and_false, Bool.false_and]

/-- A section of object 5 that carries no signature. -/
def section5 : LoadSection := { EvArg.none.sec with base := 0x10000, size := 64, obj := 5 }

/-- ManagementEvents: images accepted and not, recovery and running, a function whose key stands and one whose key is gone,
a section of an object that is known, one refused, a census that has not begun and one whose engines are quiet, a read of
inspection space, and a frozen queue at its home. -/
theorem test_meets_ManagementEvents :
    let s := machine (thread [])
    let gone : State := { s with parts := s.parts.map (fun p => (p.1, { p.2 with key := none, reqsig := true })) }
    let keyed : State := { s with parts := s.parts.map (fun p => (p.1, { p.2 with key := some 1 })) }
    let known : State := { s with ctxs := s.ctxs.map (fun c => (c.1, { c.2 with sections := [{ base := 0x10000, size := 64, lane := false, obj := 5 }] })) }
    let counts : State := { s with parts := s.parts.map (fun p => (p.1, { p.2 with census := 1 })) }
    let q := queueMachine (thread []) { queue false [] with frozen := some 1 } (block 0 0 257 4 0)
    let at_ : Word := word (9 * 2 ^ 52 + q.homeOf 0 0x11000 * 2 ^ 32)
    BootImageOk image = true ∧ BootImageOk { image with sigOk := false } = false ∧ s.expected = none ∧ s.run = .running
    ∧ ({ s with run := .recovery } : State).run = .recovery ∧ s.identity = true ∧ s.fnServes 0 = true ∧ (keyed.partAt 0).key.isSome = true
    ∧ (gone.partAt 0).key = none ∧ (look s.parts 0).isSome = true ∧ ({ s with bootm := 7 } : State).bootm = 7
    ∧ ((look known.ctxs 0).map (fun c => c.sections.any (fun y => y.obj == section5.obj))) = some true
    ∧ (s.partAt (partOfCtx 0)).accepts section5 = true ∧ (gone.partAt (partOfCtx 0)).accepts section5 = false
    ∧ (s.partAt 0).census = 0 ∧ counts.censusReady 0 = true
    ∧ (inspAddr 0x00A0000000000000).map (inspAllowed 0) = some true
    ∧ ((inspAddr at_).bind (fun a => (q.directory (a.index / 65536))[a.index % 65536]?)).map (fun x => x.2.frozen) = some (some 1)
    ∧ (inspAddr at_).map (fun a => decide (a.cls = 0x09) && inspAllowed 0 a && decide (partOfCtx 0 = a.part)) = some true :=
  ⟨image_ok, image_bad, by decide +kernel⟩

/-- A machine with a flow. -/
def withFlow (s : State) (f : Flow) : State := { s with flows := [(flowKey 0 true 1 0, f)] }

/-- NetworkEvents: a flow with a key and open, one down, one with no key; an operation of each kind that arrives; an idle
flow; an answer to a waiting operation and to a reduction; a pod barrier that an arrival reaches; a source of time. -/
theorem test_meets_NetworkEvents :
    let s := machine (thread [])
    let k := flowKey 0 true 1 0
    let f : Flow := { pkg := 1, part := 0, key := some 3, down := false, waiting := [], reds := [], copies := [], sent := [] }
    let m := withFlow s f
    let w : NetWait := { uid := 0, party := .scalar, op := .push 4 [], addr := 0x11000, asked := false }
    let busy := withFlow s { f with waiting := [w], reds := [lastRed 0 8 1] }
    let pod := poke s 0x13000 (leBytes 2 0 ++ leBytes 2 1 ++ leBytes 2 0 ++ leBytes 1 5)
    let ops : List NetOp := [.red 1 0 0x1FFF0 0 8 1, .copy 1 0 0x13000 [7] [], .qpush 1 0 0x11000 [[1]] false, .qlen 1 0 0x11000 0,
      .withdraw 1 0 0x11000 0, .phase 1 0 0x13000 1]
    (ops.all (fun o => netFlow { EvArg.none with net := o } == k) = true ∧ (m.flowAt k).down = false ∧ (m.flowAt k).key.isSome = true
      ∧ m.run = .running ∧ (look m.ctxs 0).isSome = true ∧ (m.partAt (partOfCtx 0)).level = 0 ∧ m.later.any (aheadOn k) = false)
    ∧ ((withFlow s { f with down := true }).flowAt k).down = true ∧ (s.flowAt k).key = none
    ∧ (m.netRed k 0 0x1FFF0 0 8 1).isSome = true ∧ (m.netCopy k 0 0x13000 [7] []).isSome = true
    ∧ m.overlapsQcb 0 0x1FFF0 8 = false ∧ m.place 0 0x1FFF0 = .byte lastBytes ∧ m.mustWait 0 0x1FFF0 lastBytes = false
    ∧ m.poisoned lastBytes 8 = false
    ∧ (m.flowAt k).waiting = [] ∧ (m.flowAt k).reds = [] ∧ (m.flowAt k).copies = []
    ∧ (busy.flowAt k).waiting[0]? = some w ∧ (busy.flowAt k).reds = [lastRed 0 8 1]
    ∧ (pod.podBarrier 0 0x13000).map (fun l => l.count) = some 1
    ∧ (match pod.arriveMem (pod.homeUnitOf 0 0x13000) 0 0x13000 (some 1) with | .ok _ => true | _ => false) = true
    ∧ ({ s with timeSrc := .ptp } : State).timeSrc ≠ .none ∧ s.timeSrc = .none := by
  decide +kernel

/-- AlarmsAndErrors, more: places that stand, a partition whose least level halts the device, and one whose does not. -/
theorem test_meets_AlarmsAndErrors_places :
    let s := machine (thread [])
    let cached : State := { s with l2 := [(3 / 4, line)] }
    let pol (n : BitVec 8) : State := { s with parts := s.parts.map (fun p => (p.1, { p.2 with alarmpol := n })) }
    s.eccThere (.hbm 3) = true ∧ cached.eccThere (.l2 3) = true ∧ (pol 0x30).parts.any (fun p => decide (3 ≤ p.2.polLevel 2)) = true
    ∧ (pol 0x20).parts.all (fun p => decide (p.2.polLevel 2 ≤ 2)) = true := by
  decide +kernel

/-- A partition 0 that a census holds. -/
def censused (s : State) : State := { s with parts := s.parts.map (fun p => (p.1, { p.2 with census := 1 })) }

/-- MailboxEvents, more: a census that holds the partition, and a write to a port whose page lies in the host window, with
nothing before it and behind another. -/
theorem test_meets_MailboxEvents_waits :
    let s := machine (thread [])
    let scp : State := { s with
      ctxs := s.ctxs.map (fun c => (c.1, { c.2 with portPage := some 0x10000 }))
      fns := [(0, { PcieFn.fresh with spdm := true })]
      parts := s.parts.map (fun p => (p.1, { p.2 with window := [(0, 0x10000, 0x10000)] })) }
    let a : EvArg := { EvArg.none with flag := true }
    (censused s).counted 0 = true ∧ s.counted 0 = false ∧ s.behind .userPortWrite = false
    ∧ (scp.ctxs.all (fun c => c.2.portPage == some 0x10000 && !scp.portWaits 0 c.2) && !scp.ctxs.isEmpty) = true
    ∧ scp.scpTakes 0 0x10000 8 = true ∧ (withArg scp a).behind .userPortWrite = false
    ∧ ({ scp with arg := a, later := [.event .userPortWrite a] } : State).behind .userPortWrite = true := by
  decide +kernel

/-- HostEvents, more: an access and a store with nothing before them and behind another, a line an engine owns, a census, a
host page whose fills have reached the limit, with its bytes sound and poisoned, a ring with room and full. -/
theorem test_meets_HostEvents_waits :
    let s := hosted (machine (thread []))
    let w : EvArg := { EvArg.none with word := 0x1FFF0, bytes := [1], flag := true, obj2 := 1 }
    let st : EvArg := { EvArg.none with word := 0x2000, bytes := [1] }
    let owned := s.setCore 0 { s.coreAt 0 with mx := [{ mxOpOf (.mzero 0 7) with owned := [hostKey 0x2000 / 128] }] }
    let mapped := match s.writeLeaf 0 0x40000 0 0xF801000000000003 with | .ok u => u | _ => s
    let hot : State := { mapped with
      extents := [(0x30000, { base := 0x30000, size := 0x10000, migratable := true, released := false })]
      migCount := [(countKey (mapped.pageKey 0 0x40000) 0 0, 4096)] }
    let u (cap : BitVec 32) : UintEntry :=
      { target := 5, runaddr := 0x1008, pendq := 0x2000, pcap := cap, vector := 3, flags := 1, sent := 0 }
    (withArg s w).behind .scpAccess = false ∧ ({ withArg s w with later := [.event .scpAccess w] } : State).behind .scpAccess = true
    ∧ (withArg s st).behind .scpSnoop = false ∧ ({ withArg s st with later := [.event .scpSnoop st] } : State).behind .scpSnoop = true
    ∧ s.hostOwned 0x2000 1 = false ∧ owned.hostOwned 0x2000 1 = true ∧ (censused s).counted 0 = true
    ∧ (hot.migrates 0 0x40000).isSome = true ∧ ((hot.partAt 0).takeFrame 65536).isSome = true
    ∧ hot.poisoned (hostKey 0x30000) 65536 = false
    ∧ ({ hot with poison := [hostKey 0x30000 / 32] } : State).poisoned (hostKey 0x30000) 65536 = true
    ∧ s.ringRoom (u 1) = true ∧ s.ringRoom (u 0) = false := by
  decide +kernel

/-- ManagementEvents, more: no inspection read under way, one with a word left and one with two, an address function 0 may not
read, LAUNCH records that agree and that differ. -/
theorem test_meets_ManagementEvents_reads :
    let s := machine (thread [])
    let under (n : Nat) : State := s.setFn 0 { s.fnAt 0 with insp := some ⟨0x00A0000000000000, n, []⟩ }
    (s.fnAt 0).insp = none ∧ ((under 1).fnAt 0).insp = some ⟨0x00A0000000000000, 1, []⟩
    ∧ ((under 2).fnAt 0).insp = some ⟨0x00A0000000000000, 2, []⟩
    ∧ ((inspAddr 0xFFF0000000000000).elim true (fun a => !inspAllowed 0 a)) = true
    ∧ launchesAgree [(0, 1), (1, 2)] [] = true ∧ launchesAgree [(0, 1), (0, 2)] [] = false := by
  decide +kernel

/-- NetworkEvents, more: a handle that names this package and one that does not, an operation and an arrival that others of
the flow come after, a census, and two arrivals of one message. -/
theorem test_meets_NetworkEvents_waits :
    let s := machine (thread [])
    let k := flowKey 0 true 1 0
    let pod := poke s 0x13000 (leBytes 2 0 ++ leBytes 2 1 ++ leBytes 2 0 ++ leBytes 1 5)
    let a : EvArg := { EvArg.none with net := .red 1 0 0x1FFF0 0 8 1, obj3 := 1 }
    s.handleOurs 0 0 = true ∧ s.handleOurs (2 ^ 38) 0 = false ∧ (censused s).counted 0 = true
    ∧ ({ s with later := [.event .netRemoteOp a] } : State).later.any (aheadOn k) = true
    ∧ ({ s with later := [.event .podBarrierMessage a] } : State).later.any (aheadOn k) = true ∧ podFlow a = k
    ∧ (match arriveMany (pod.homeUnitOf 0 0x13000) 0 0x13000 (some 1) 2 pod with | .ok _ => true | _ => false) = true
    ∧ pod.objectWaits 0 0x13000 = false := by
  decide +kernel

/-- WindowInstructions, more: `win.wstate` of a key with one window that has committed a step, and room for its record. -/
theorem test_meets_WindowInstructions_states :
    let t := thread [(1, 0x11000), (5, 0x14100), (6, 0x15000)]
    let s0 := poke (queueMachine t (queue true []) streamBlock) 0x14100 (leBytes 8 0x11000 ++ leBytes 8 9 ++ leBytes 4 1 ++ List.replicate 12 0)
    let s : State := { s0 with streams := [(qpa, ctl)], windows := [(1, window 0)] }
    let y := accD ([], s) (s.loadT 0 t 0x14100 32)
    s.loadT 0 t 0x14100 32 = .ok y ∧ leAt y.1 16 4 = 1 ∧ wordAt y.1 8 = 9 ∧ (t.S 6).toNat % 256 = 0
    ∧ (y.2.openWindows qpa 9 true ++ y.2.openWindows qpa 9 false).map (fun w => decide (w.2.phase = .opening)) = [false]
    ∧ y.2.check t (t.S 6) 256 .write false = none ∧ look y.2.streams qpa = some ctl
    ∧ (y.2.storeT 0 t 0x15000 ((window 0).record 0x11000) matches .ok _) = true := by
  refine ⟨acc_eq _ (by decide +kernel), ?_, ?_, ?_, ?_, ?_, ?_, ?_⟩ <;> decide +kernel

/-- R87's shift by 200. -/
theorem test_shift_beyond : sarW 0x8000000000000000 200 = 0xFFFFFFFFFFFFFFFF ∧ shrW 0x8000000000000000 200 = 0 := by
  decide +kernel

/-- One lane's register after an instruction of a gang. -/
def lane0 (r : Out) (reg : Nat) : Option Nat :=
  match r with
  | .next s => (look s.threads 0).map (fun t => (t.v.get32 (vKey 0 reg)).toNat)
  | _ => none

/-- R94's worked lanes: `vi.addsat.i16`, `vi.add.i16` and `vi.sar.i8` by 9. -/
theorem test_vi_worked :
    let g := gangMachine (gangThread [] [(2, 0x7000), (3, 0x2000)] [])
    lane0 (exec (.viAddsat (plain 1 1 2 3 0 0 0)) g) 1 = some 0x7FFF ∧ lane0 (exec (.viAdd (plain 1 1 2 3 0 0 0)) g) 1 = some 0x9000
    ∧ lane0 (exec (.viSar (plain 2 1 2 3 0 0 0)) (gangMachine (gangThread [] [(2, 0x90), (3, 9)] []))) 1 = some 0xFF := by
  decide +kernel

/-- R97's worked packed addition, with its flag. -/
theorem test_vf_packed :
    let r := exec (.vfAdd (plain 9 3 1 2 0 4 0)) (gangMachine (gangThread [] [(1, 0x3C003C00), (2, 0x00017BFF)] []))
    lane0 r 3 = some 0x3C007BFF ∧ (match r with | .next s => (look s.threads 0).map (fun t => t.fpflags) | _ => none) = some 0x10 := by
  decide +kernel

/-- R76's worked roundings. -/
theorem test_rounding :
    roundTy 12 .rne (.fin false 500 0) = (0x7E, fOverflow ||| fInexact) ∧ roundTy 2 .rne (.fin true 7 (-1)) = (0xFC, fInexact)
    ∧ roundTy 0 .rz (.fin false 10000000000 0) = (0x7FFFFFFF, fInvalid) := by
  decide +kernel

/-- R77's worked stochastic roundings of 1 + 3·2^−10 to bf16. -/
theorem test_stochastic :
    roundSR .bf16 (.fin false 1027 (-10)) 0xA3C1 = (0x3F81, fInexact) ∧ roundSR .bf16 (.fin false 1027 (-10)) 0x9000 = (0x3F80, fInexact) := by
  decide +kernel

/-- R75's worked scale, and R103's code of 0.3. -/
theorem test_qn : qnScale 0x3DCCCCCD 3 = 0x3A99999A ∧ qnElem false 1 0 (Fmt.f32.value 0x3E99999A) = (11, fInexact) := by
  decide +kernel

/-- R82's four lanes of 2^−24 added to 1.0. -/
theorem test_fadd_lanes :
    let r := faddChain .f32 0x3F800000 true 0 [(0, 0x33800000), (1, 0x33800000), (2, 0x33800000), (3, 0x33800000)]
    r.1.map (fun x => x.2.1) = [0x3F800000, 0x3F800000, 0x3F800001, 0x3F800002] ∧ r.2 = 0x3F800002 := by
  decide +kernel

/-- R150's output of Philox under key 0 and counter 0. -/
theorem test_philox : philox 0 0 0 0 0 = [0x6627E8D5, 0xE169C58D, 0xBC57AC4C, 0x9B00DBD8] := by decide +kernel

/-- The entries of an f32 row. -/
def row32 (xs : List Nat) (i : Nat) : Option FVal := (xs[i]?).map Fmt.f32.value

/-- R118's worked cell under entries 1 and 2. -/
theorem test_cell_worked :
    let a := row32 [0x40000000, 0x7F800000, 0x40A00000, 0xFF800000, 0x3F800000, 0x40E00000]
    let b := row32 [0x40400000, 0xFF800000, 0x3F800000, 0x7F800000, 0x40800000, 0x3F000000]
    cellFloat (fixedEntry 1) 0x7F800000 8 a b = (0x40A00000, 0) ∧ cellFloat (fixedEntry 2) 0xFF800000 8 a b = (0x40F00000, 0) := by
  decide +kernel

/-- R144's ranking of [3, 2, 3, 1, NaN, −∞]. -/
theorem test_topk :
    topkPairs 6 [(0x40400000, 100), (0x40000000, 101), (0x40400000, 102), (0x3F800000, 103), (0x7FC00000, 104), (0xFF800000, 105)]
      = [(0x40400000, 100), (0x40400000, 102), (0x40000000, 101), (0x3F800000, 103), (0xFF800000, 105), (0x7FC00000, 104)] := by
  decide +kernel

/-- R147's table and values, and R146's worked chunk sum. -/
theorem test_smax :
    expTable 0 = 0x3F800000 ∧ expTable 32 = 0x3FB504F3 ∧ exp2T 0xBF800000 = 0x3F000000 ∧ exp2T 0xBF000000 = 0x3F3504F3
    ∧ (smaxOf 0x3F800000 [0x40400000, 0x40000000, 0x40400000, 0x3F800000]).2.1 = 0x40300000 := by
  decide +kernel

/-- R149's worked draws in the nucleus of 4/11, 4/11, 2/11, 1/11: u = 0.5625 and u = 0.1875. -/
theorem test_samp :
    let ws := [0x3EBA2E8C, 0x3EBA2E8C, 0x3E3A2E8C, 0x3DBA2E8C]
    sampOf true 0x3F400000 0x900000 ws = some 1 ∧ sampOf true 0x3F400000 0x300000 ws = some 0 := by
  decide +kernel

/-- R162's worked line under k = 4, and R351's worked aliases. -/
theorem test_slice_index :
    sliceIndex 4 0x20001080 = 7 ∧ setIndex 4 0x20001080 = 2 ∧ foldBits 4 40 ((0x20000000 ^^^ 0x200000000) / 128) = 0
    ∧ foldBits 4 40 ((0x20000000 ^^^ 0x40000000) / 128) = 0xC := by
  decide +kernel

/-- R334's trace at clk 8 and clk 10: slice 0 takes its IF token, and its break inserts the LOOP token and unwinds. -/
theorem test_branch_trace :
    let x := brcSlice (slice 0x24 0xF []) 0xE 0x1C 12
    x.map (fun y => (y.mask, y.lpc, y.stack)) = some (1, 0x30, [{ kind := .ifTok, pending := 0xE, exited := 0, join := 0x40 }])
    ∧ ((brkSlice (slice 0x34 1 [{ kind := .ifTok, pending := 0xE, exited := 0, join := 0x40 }]) 0xF 0x24 12).map
        (fun y => (y.mask, y.lpc, y.stack)))
      = some (0xE, 0x40, [{ kind := .loopTok, pending := 0, exited := 1, join := 0x58 }]) := by
  decide +kernel

/-- R334's trace at clk 30: slice 1 leaves its loop whole. -/
theorem test_branch_leaves :
    ((brkSlice (slice 0x34 0xC [{ kind := .loopTok, pending := 0, exited := 3, join := 0x58 }]) 0xF 0x24 12).map
        (fun y => (y.mask, y.lpc, y.stack))) = some (0xF, 0x58, []) := by
  decide +kernel

/-- R263's worked seed of a step. -/
theorem test_step_seed :
    stepSeed 0 { window 0 with key := 0x5A, start := 4, count := 1 } (stepReq .record) = (0x000000040000005A, 0x101000000) := by
  decide +kernel

end Sys2Proof.Tests
end

section
/-! SUPPORT. What the proofs of memory need (R2): bytes read back where they were written, and numbers little-endian. -/

namespace Sys2Proof.Machine

theorem Mem.readBytes_writeBytes (bs : List Byte) (m : List Host.Cell) (a : Nat) :
    Mem.readBytes (Mem.writeBytes m a bs) a bs.length = bs := by
  induction bs generalizing m a with
  | nil => rfl
  | cons b t ih =>
    have head : Mem.read (Mem.writeBytes (Mem.write m a b) (a + 1) t) a = b := by
      rw [Mem.read_writeBytes_before _ _ _ _ (Nat.lt_succ_self a), Mem.read_write, if_pos rfl]
    simp only [List.length_cons, Mem.writeBytes, Mem.readBytes, head, ih]

/-- The frame of a write of bytes. -/
theorem Mem.read_writeBytes_outside {m : List Host.Cell} {a j : Nat} {bs : List Byte} (h : j < a ∨ a + bs.length ≤ j) :
    Mem.read (Mem.writeBytes m a bs) j = Mem.read m j :=
  h.elim (Mem.read_writeBytes_before _ _ _ _) (Mem.read_writeBytes_after _ _ _ _)

theorem leNat_leBytes (n v : Nat) : leNat (leBytes n v) = v % 256 ^ n := by
  induction n generalizing v with
  | zero => simp [leNat, leBytes, Nat.mod_one]
  | succ n ih =>
    calc (BitVec.ofNat 8 v).toNat + 256 * leNat (leBytes n (v / 256))
        = v % 256 + 256 * (v / 256 % 256 ^ n) := by rw [ih, BitVec.toNat_ofNat]
      _ = v % 256 ^ (n + 1) := by rw [Nat.pow_succ', Nat.mod_mul]

theorem Mem.readN_writeBytes_leBytes (m : List Host.Cell) (a n v : Nat) :
    Mem.readN (Mem.writeBytes m a (leBytes n v)) a n = v % 256 ^ n := by
  have h := Mem.readBytes_writeBytes (leBytes n v) m a
  rw [leBytes_length] at h
  rw [Mem.readN_eq, h, leNat_leBytes]

/-- Settles O4: bytes by induction on the list written, numbers through their little-endian bytes. -/
theorem memoryReadsBack : Obligations.MemoryReadsBack := by
  refine ⟨fun m a bs => ⟨Mem.readBytes_writeBytes bs m a, fun j h => Mem.read_writeBytes_outside h⟩, fun m a n v => ?_⟩
  rw [Mem.writeN_eq, Mem.readN_writeBytes_leBytes]

end Sys2Proof.Machine
end

section
/-! SUPPORT. Scalar loads and stores (R189, R190): their addresses and extensions, an aligned access as one piece in one
line, and what the machine is after the access. -/

namespace Sys2Proof.Machine

/-- R189's address as a sum of integers, wrapped. -/
theorem smAddress_eq (base : Word) (o : BitVec 11) (sz : Nat) :
    smAddress base o sz = wordI (base.toInt + o.toInt * 2 ^ sz) := by
  have hs : o.signExtend 64 = BitVec.ofInt 64 o.toInt := rfl
  have hp : BitVec.twoPow 64 sz = BitVec.ofInt 64 (2 ^ sz) := by
    have hc : (2 ^ sz : Int) = ((2 ^ sz : Nat) : Int) := by norm_cast
    rw [hc, BitVec.ofInt_natCast]
    exact BitVec.eq_of_toNat_eq (BitVec.toNat_twoPow 64 sz)
  rw [smAddress, wordI, BitVec.ofInt_add, BitVec.ofInt_toInt, BitVec.shiftLeft_eq_mul_twoPow, hs, hp, BitVec.ofInt_mul]

/-- R44's sext is the two's complement value of the low w bits. -/
theorem sext_eq_toInt (x : Nat) {w : Nat} (h : 0 < w) : sext x w = (BitVec.ofNat w x).toInt := by
  have hw : 2 * 2 ^ (w - 1) = 2 ^ w := mul_pow_sub_one (Nat.ne_of_gt h) 2
  have hc : x % 2 ^ w < 2 ^ (w - 1) ↔ 2 * (x % 2 ^ w) < 2 ^ w := by omega
  simp only [sext, if_neg (Nat.ne_of_gt h), BitVec.toInt_eq_toNat_cond, BitVec.toNat_ofNat, hc]

theorem wordI_sext (x : Nat) {w : Nat} (h : 0 < w) : wordI (sext x w) = (BitVec.ofNat w x).signExtend 64 := by
  rw [sext_eq_toInt x h, wordI, BitVec.signExtend]

/-- An access that passes Check is aligned (R45). -/
theorem State.aligned_of_check {s : State} {t : Thread} {va : Word} {n : Nat} {k : Kind}
    (h : s.check t va n k true = none) : va.toNat % n = 0 := by
  by_contra hn
  simp [State.check, hn] at h
  split at h <;> simp at h

/-- Aligned bytes of a size that divides a line lie in one line (R160). -/
theorem line_of_aligned {va n : Nat} (hd : n ∣ 128) (ha : va % n = 0) : va % 128 + n ≤ 128 := by
  have hm : n ∣ va % 128 := (Nat.dvd_mod_iff hd).mpr (Nat.dvd_of_mod_eq_zero ha)
  have hs : n ∣ 128 - va % 128 := Nat.dvd_sub hd hm
  have := Nat.le_of_dvd (by omega) hs
  omega

theorem State.line_of_check {s : State} {t : Thread} {va : Word} {n : Nat} {k : Kind} (hd : n ∣ 128)
    (h : s.check t va n k true = none) : va.toNat % 128 + n ≤ 128 :=
  line_of_aligned hd (State.aligned_of_check h)

/-- A scalar memory instruction with room in the store buffer goes on (R205). -/
theorem onMemory_of {s : State} {t : Thread} (hi : Issues s t) (hr : t.redBuf.length < Config.storeBuffer)
    (k : Nat → Thread → Out) : onMemory s k = k s.cur.tid t := by
  rw [onMemory, onThread_of hi, if_neg (Nat.not_le.mpr hr)]

theorem Unblocked.ownFirst {s : State} {t : Thread} {va : Word} {n : Nat} (h : Unblocked s t va n) :
    s.ownFirst s.cur.tid t va.toNat n = some s :=
  State.ownFirst_none h.port h.first

theorem State.touches_loaded (s : State) (a : Asker) (ctx va : Nat) (m : BitVec 4) (src : Source) :
    Touches s (s.loaded a ctx va m src) := by
  cases src with
  | l1 l => exact s.touches_ptsTo a l.stamp
  | home pa => exact s.touches_readTouch a ctx va m pa

theorem State.touches_markStore (s : State) (tid : Nat) (t : Thread) (va : Nat) : Touches s (s.markStore tid t va) := by
  unfold State.markStore
  split
  · split
    · exact s.touches_setCore _ _
    · exact Touches.refl s
  · exact Touches.refl s

/-- The machine as the issuing thread's load of n bytes at va from a source leaves it (R160, R175). -/
def State.afterLoad (s : State) (t : Thread) (va : Word) (n : Nat) (src : Source) : State :=
  s.loaded (.core (coreOf s.cur.tid)) t.ctx va.toNat (sectorMask va.toNat n) src

theorem State.touches_afterLoad (s : State) (t : Thread) (va : Word) (n : Nat) (src : Source) :
    Touches s (s.afterLoad t va n src) := s.touches_loaded _ _ _ _ _

theorem LoadsFrom.loadT {s : State} {t : Thread} {va : Word} {n : Nat} {src : Source} (h : LoadsFrom s t va n src)
    (h0 : 0 < n) (hl : va.toNat % 128 + n ≤ 128) :
    s.loadT s.cur.tid t va.toNat n = .ok (s.given va.toNat n src, s.afterLoad t va n src) := by
  rw [State.loadT, h.toUnblocked.ownFirst]
  exact State.readBytes_one h0 hl h.source h.sound

/-- The machine as the issuing thread's store of bytes in one line, at va and byte pa of memory, leaves it (R175, R176,
R190). -/
def State.afterStore (s : State) (t : Thread) (va : Word) (pa : Nat) (bs : List Byte) : State :=
  (s.writeChunk (.core (coreOf s.cur.tid)) t.ctx va.toNat pa (s.storeBefore s.cur.tid t) bs).markStore s.cur.tid t
    (va.toNat + bs.length - 1)

theorem State.touches_afterStore (s : State) (t : Thread) (va : Word) (pa : Nat) (bs : List Byte) :
    Touches (s.writeChunk (.core (coreOf s.cur.tid)) t.ctx va.toNat pa (s.storeBefore s.cur.tid t) bs)
      (s.afterStore t va pa bs) := State.touches_markStore _ _ _ _

@[simp] theorem State.afterStore_mem (s : State) (t : Thread) (va : Word) (pa : Nat) (bs : List Byte) :
    (s.afterStore t va pa bs).mem = Mem.writeBytes s.mem pa bs :=
  (s.touches_afterStore t va pa bs).mem.trans (s.writeChunk_mem _ _ _ _ _ _)

@[simp] theorem State.afterStore_threads (s : State) (t : Thread) (va : Word) (pa : Nat) (bs : List Byte) :
    (s.afterStore t va pa bs).threads = s.threads :=
  (s.touches_afterStore t va pa bs).threads.trans (s.writeChunk_threads _ _ _ _ _ _)

@[simp] theorem State.afterStore_cohorts (s : State) (t : Thread) (va : Word) (pa : Nat) (bs : List Byte) :
    (s.afterStore t va pa bs).cohorts = s.cohorts :=
  (s.touches_afterStore t va pa bs).cohorts.trans (State.touches_writeTouch _ _ _ _ _ _).cohorts

@[simp] theorem State.afterStore_ctxs (s : State) (t : Thread) (va : Word) (pa : Nat) (bs : List Byte) :
    (s.afterStore t va pa bs).ctxs = s.ctxs :=
  (s.touches_afterStore t va pa bs).ctxs.trans (State.touches_writeTouch _ _ _ _ _ _).ctxs

/-- A store in one line is one piece, whatever store it follows (R160, R176). -/
theorem State.writeAfter_one {s : State} {a : Asker} {ctx va pa : Nat} {bs : List Byte} (b : Option (Nat × Nat))
    (h0 : 0 < bs.length) (hl : va % 128 + bs.length ≤ 128) (hp : s.place ctx va = .byte pa)
    (hw : s.mustWait ctx va pa = false) : s.writeAfter a ctx va b bs = .ok (s.writeChunk a ctx va pa b bs) := by
  simp [State.writeAfter, chunks_one va bs.length h0 hl, State.reachAll, accAll, State.reach_byte hp hw, State.writeChunks]

theorem LeadsTo.storeT {s : State} {t : Thread} {va : Word} {pa : Nat} {bs : List Byte}
    (h : LeadsTo s t va bs.length pa) (h0 : 0 < bs.length) (hl : va.toNat % 128 + bs.length ≤ 128) :
    s.storeT s.cur.tid t va.toNat bs = .ok (s.afterStore t va pa bs) := by
  simp only [State.storeT, h.toUnblocked.ownFirst, State.writeAfter_one _ h0 hl h.place h.goes, State.afterStore]

/-- A thread that issues is changed in place on a machine whose threads the access left alone. -/
theorem Issues.onLive {s u : State} {t : Thread} (hi : Issues s t) (hu : u.threads = s.threads) (f : Thread → Thread) :
    u.onLive s.cur.tid f = u.setThread s.cur.tid (f t) := by
  obtain ⟨hk, he⟩ := issuer_eq_some.mp hi
  exact State.onLive_of (hu ▸ hk) he f

/-- A scalar load of 2^sz bytes completes with the value its source gives, extended (R189, R190). -/
theorem loadOp_of {s : State} {t : Thread} (hi : Issues s t) (d a : BitVec 6) (o : BitVec 11) {sz : Nat} (hsz : sz ≤ 3)
    (signed : Bool) {src : Source} (hc : s.check t (smAddress (t.S a) o sz) (2 ^ sz) .read true = none)
    (hl : LoadsFrom s t (smAddress (t.S a) o sz) (2 ^ sz) src) :
    loadOp s d a o sz signed =
      let x := leNat (s.given (smAddress (t.S a) o sz).toNat (2 ^ sz) src)
      .next ((s.afterLoad t (smAddress (t.S a) o sz) (2 ^ sz) src).setThread s.cur.tid
        ((t.setS d (if signed then wordI (sext x (8 * 2 ^ sz)) else word x)).step4)) := by
  have hd : 2 ^ sz ∣ 128 := Nat.pow_dvd_pow 2 (show sz ≤ 7 by omega)
  rw [loadOp, onMemory_of hi hl.room]
  simp only [hc, hl.loadT (Nat.two_pow_pos sz) (State.line_of_check hd hc), accOut, State.finish,
    hi.onLive (s.touches_afterLoad t _ _ src).threads]

/-- A scalar store of 2^sz bytes completes with the low bytes of S(d) written (R189, R190). -/
theorem storeOp_of {s : State} {t : Thread} (hi : Issues s t) (d a : BitVec 6) (o : BitVec 11) {sz pa : Nat} (hsz : sz ≤ 3)
    (hc : s.check t (smAddress (t.S a) o sz) (2 ^ sz) .write true = none)
    (hl : LeadsTo s t (smAddress (t.S a) o sz) (2 ^ sz) pa) :
    storeOp s d a o sz =
      .next ((s.afterStore t (smAddress (t.S a) o sz) pa (leBytes (2 ^ sz) (t.S d).toNat)).setThread s.cur.tid
        t.dirty.step4) := by
  have hd : 2 ^ sz ∣ 128 := Nat.pow_dvd_pow 2 (show sz ≤ 7 by omega)
  have hn : (leBytes (2 ^ sz) (t.S d).toNat).length = 2 ^ sz := leBytes_length _ _
  have hs := LeadsTo.storeT (bs := leBytes (2 ^ sz) (t.S d).toNat) (hn.symm ▸ hl) (hn.symm ▸ Nat.two_pow_pos sz)
    (hn.symm ▸ State.line_of_check hd hc)
  rw [storeOp, onMemory_of hi hl.room]
  simp only [hc, hs, accOut, hi.onLive (s.afterStore_threads t _ _ _)]

/-- An instruction whose meaning is a scalar load completes at R189's address, its source's bytes extended in d, and
changes no memory. -/
theorem load_completes {s : State} {t : Thread} (hi : Issues s t) (d a : BitVec 6) (o : BitVec 11) {sz : Nat} (hsz : sz ≤ 3)
    (signed : Bool) (src : Source) {i : Instr} {ext : Nat → Word} (he : exec i s = loadOp s d a o sz signed)
    (hx : ∀ x, (if signed then wordI (sext x (8 * 2 ^ sz)) else word x) = ext x) :
    let va := wordI ((t.S a).toInt + o.toInt * 2 ^ sz)
    s.check t va (2 ^ sz) .read true = none → LoadsFrom s t va (2 ^ sz) src →
      ∃ u : State, BecomesOn s u i ((t.setS d (ext (leNat (s.given va.toNat (2 ^ sz) src)))).step4)
        ∧ u.mem = s.mem ∧ u.threads = s.threads ∧ u.cohorts = s.cohorts ∧ u.ctxs = s.ctxs ∧ u.queues = s.queues
        ∧ ∀ pa, src = .home pa → leNat (s.given va.toNat (2 ^ sz) src) = Mem.readN s.mem pa (2 ^ sz) := by
  intro va hc hl
  have ht := s.touches_afterLoad t va (2 ^ sz) src
  refine ⟨s.afterLoad t va (2 ^ sz) src, ?_, ht.mem, ht.threads, ht.cohorts, ht.ctxs, ht.queues, ?_⟩
  · have hv : smAddress (t.S a) o sz = va := smAddress_eq _ _ _
    have h := loadOp_of hi d a o hsz signed (hv.symm ▸ hc) (hv.symm ▸ hl)
    simpa only [BecomesOn, he, hv, hx] using h
  · rintro pa rfl
    exact (Mem.readN_eq _ _ _).symm

/-- An instruction whose meaning is a scalar store completes at R189's address, the low bytes of S(d) in memory there and
every other byte as before. -/
theorem store_completes {s : State} {t : Thread} (hi : Issues s t) (d a : BitVec 6) (o : BitVec 11) {sz : Nat} (hsz : sz ≤ 3)
    (pa : Nat) {i : Instr} (he : exec i s = storeOp s d a o sz) :
    let va := wordI ((t.S a).toInt + o.toInt * 2 ^ sz)
    s.check t va (2 ^ sz) .write true = none → LeadsTo s t va (2 ^ sz) pa →
      ∃ u : State, BecomesOn s u i t.dirty.step4 ∧ u.threads = s.threads ∧ u.cohorts = s.cohorts ∧ u.ctxs = s.ctxs
        ∧ Mem.readN u.mem pa (2 ^ sz) = (t.S d).toNat % 2 ^ (8 * 2 ^ sz)
        ∧ ∀ j : Nat, (j < pa ∨ pa + 2 ^ sz ≤ j) → u.byteAt j = s.byteAt j := by
  intro va hc hl
  refine ⟨s.afterStore t va pa (leBytes (2 ^ sz) (t.S d).toNat), ?_, by simp, by simp, by simp, ?_, fun j hj => ?_⟩
  · have hv : smAddress (t.S a) o sz = va := smAddress_eq _ _ _
    have h := storeOp_of hi d a o hsz (hv.symm ▸ hc) (hv.symm ▸ hl)
    simpa only [BecomesOn, he, hv] using h
  · rw [State.afterStore_mem, Mem.readN_writeBytes_leBytes, Nat.pow_mul]
  · rw [State.byteAt, State.afterStore_mem]
    exact Mem.read_writeBytes_outside (by rwa [leBytes_length])

/-- Settles O13: each load and store is `loadOp` or `storeOp` at its width, and an aligned access is one piece in one line. -/
theorem scalarLoadsStores : Obligations.ScalarLoadsStores := by
  refine ⟨fun s t hi d a o src => ?_, fun s t hi d a o pa => ?_⟩
  · have unsigned {i : Instr} {sz : Nat} (hsz : sz ≤ 3) (he : exec i s = loadOp s d a o sz false) :=
      load_completes hi d a o hsz false src he (fun _ => rfl)
    have signed {i : Instr} {sz : Nat} (hsz : sz ≤ 3) (he : exec i s = loadOp s d a o sz true) :=
      load_completes hi d a o hsz true src he (fun x => wordI_sext x (by positivity))
    exact ⟨unsigned (by decide) rfl, unsigned (by decide) rfl, unsigned (by decide) rfl, unsigned (by decide) rfl,
      signed (by decide) rfl, signed (by decide) rfl, signed (by decide) rfl⟩
  · have stores {i : Instr} {sz : Nat} (hsz : sz ≤ 3) (he : exec i s = storeOp s d a o sz) :=
      store_completes hi d a o hsz pa he
    exact ⟨stores (by decide) rfl, stores (by decide) rfl, stores (by decide) rfl, stores (by decide) rfl⟩

end Sys2Proof.Machine
end

section
/-! SUPPORT. Scalar words (R21, R37, R40): the fields of a word of each format, a word from its fields, and the codec both
ways. -/

namespace Sys2Proof

/-! The fields of a word put together from those of its format (R21): register, 14-bit immediate, 20-bit immediate, shift,
load and store, branch, jump. The twelve upper bits, major and d, are one piece here, as in the words that do not use d. -/

section fields
variable (m d a b : BitVec 6) (p : BitVec 12) (q : BitVec 10) (c k : BitVec 8) (t : BitVec 3) (o : BitVec 11)
  (i : BitVec 14) (s : BitVec 16) (j : BitVec 20) (r : BitVec 26)

@[simp] theorem extract_upper : (m ++ d).extractLsb' 6 6 = m ∧ (m ++ d).extractLsb' 0 6 = d := by
  simp (disch := decide) only [BitVec.extractLsb'_append_eq_of_le, BitVec.extractLsb'_append_eq_of_add_le,
    BitVec.extractLsb'_eq_self, Nat.reduceSub, and_self]

@[simp] theorem fields_reg : f31_26 (p ++ a ++ b ++ c) = p.extractLsb' 6 6
    ∧ f25_20 (p ++ a ++ b ++ c) = p.extractLsb' 0 6 ∧ f19_14 (p ++ a ++ b ++ c) = a ∧ f13_8 (p ++ a ++ b ++ c) = b
    ∧ f7_0 (p ++ a ++ b ++ c) = c := by
  simp (disch := decide) only [f31_26, f25_20, f19_14, f13_8, f7_0, BitVec.extractLsb'_append_eq_of_le,
    BitVec.extractLsb'_append_eq_of_add_le, BitVec.extractLsb'_eq_self, Nat.reduceSub, and_self]

@[simp] theorem fields_imm : f31_26 (p ++ a ++ i) = p.extractLsb' 6 6 ∧ f25_20 (p ++ a ++ i) = p.extractLsb' 0 6
    ∧ f19_14 (p ++ a ++ i) = a ∧ f13_0 (p ++ a ++ i) = i ∧ f13_8 (p ++ a ++ i) = i.extractLsb' 8 6
    ∧ f7_0 (p ++ a ++ i) = i.extractLsb' 0 8 := by
  simp (disch := decide) only [f31_26, f25_20, f19_14, f13_0, f13_8, f7_0, BitVec.extractLsb'_append_eq_of_le,
    BitVec.extractLsb'_append_eq_of_add_le, BitVec.extractLsb'_eq_self, Nat.reduceSub, and_self]

@[simp] theorem fields_upper : f31_26 (p ++ j) = p.extractLsb' 6 6 ∧ f25_20 (p ++ j) = p.extractLsb' 0 6
    ∧ f19_0 (p ++ j) = j ∧ f19_14 (p ++ j) = j.extractLsb' 14 6 ∧ f13_8 (p ++ j) = j.extractLsb' 8 6
    ∧ f7_0 (p ++ j) = j.extractLsb' 0 8 := by
  simp (disch := decide) only [f31_26, f25_20, f19_0, f19_14, f13_8, f7_0, BitVec.extractLsb'_append_eq_of_le,
    BitVec.extractLsb'_append_eq_of_add_le, BitVec.extractLsb'_eq_self, Nat.reduceSub, and_self]

@[simp] theorem fields_shift : f31_26 (p ++ a ++ k ++ b) = p.extractLsb' 6 6
    ∧ f25_20 (p ++ a ++ k ++ b) = p.extractLsb' 0 6 ∧ f19_14 (p ++ a ++ k ++ b) = a ∧ f13_6 (p ++ a ++ k ++ b) = k
    ∧ f5_0 (p ++ a ++ k ++ b) = b := by
  simp (disch := decide) only [f31_26, f25_20, f19_14, f13_6, f5_0, BitVec.extractLsb'_append_eq_of_le,
    BitVec.extractLsb'_append_eq_of_add_le, BitVec.extractLsb'_eq_self, Nat.reduceSub, and_self]

@[simp] theorem fields_disp : f31_26 (p ++ a ++ t ++ o) = p.extractLsb' 6 6
    ∧ f25_20 (p ++ a ++ t ++ o) = p.extractLsb' 0 6 ∧ f19_14 (p ++ a ++ t ++ o) = a ∧ f13_11 (p ++ a ++ t ++ o) = t
    ∧ f10_0 (p ++ a ++ t ++ o) = o := by
  simp (disch := decide) only [f31_26, f25_20, f19_14, f13_11, f10_0, BitVec.extractLsb'_append_eq_of_le,
    BitVec.extractLsb'_append_eq_of_add_le, BitVec.extractLsb'_eq_self, Nat.reduceSub, and_self]

@[simp] theorem fields_branch : f31_26 (q ++ a ++ s) = q.extractLsb' 4 6 ∧ f25_22 (q ++ a ++ s) = q.extractLsb' 0 4
    ∧ f21_16 (q ++ a ++ s) = a ∧ f15_0 (q ++ a ++ s) = s := by
  simp (disch := decide) only [f31_26, f25_22, f21_16, f15_0, BitVec.extractLsb'_append_eq_of_le,
    BitVec.extractLsb'_append_eq_of_add_le, BitVec.extractLsb'_eq_self, Nat.reduceSub, and_self]

@[simp] theorem fields_jump : f31_26 (m ++ r) = m ∧ f25_0 (m ++ r) = r := by
  simp (disch := decide) only [f31_26, f25_0, BitVec.extractLsb'_append_eq_of_le,
    BitVec.extractLsb'_append_eq_of_add_le, BitVec.extractLsb'_eq_self, Nat.reduceSub, and_self]

end fields

/-- A word's fields are those it was put together from, and they tell its instruction. -/
theorem decodeScalar_of_encodeScalar {i : Instr} {w : BitVec 32} (h : encodeScalar i = some w) :
    decodeScalar w = some i := by
  cases i <;> cases h
  case taskDone | winPark | sysEnd | sysHalt => rfl
  all_goals
    simp [decodeScalar, decInt, decAddi, decAndi, decOri, decXori, decShi, decLi, decLih, decBc, decJmp, decCall, decJr,
      decLd, decSt, decAtom, decRed, decFence, decCache, decSr, decLane, decPool, decQueue, decCopy, decTask, decWin,
      decSync, decConf, decSys, decTime]

/-! A word is put together from its fields, so two words with the same fields, of any format, are one (R21). -/

section wordOfFields
variable {v w : BitVec 32}

theorem word_of_imm (w : BitVec 32) : f31_26 w ++ f25_20 w ++ f19_14 w ++ f13_0 w = w := by
  simp only [f31_26, f25_20, f19_14, f13_0, BitVec.extractLsb'_append_extractLsb'_eq_extractLsb',
    BitVec.extractLsb'_eq_self]

theorem word_of_upper (w : BitVec 32) : f31_26 w ++ f25_20 w ++ f19_0 w = w := by
  simp only [f31_26, f25_20, f19_0, BitVec.extractLsb'_append_extractLsb'_eq_extractLsb', BitVec.extractLsb'_eq_self]

theorem word_of_branch (w : BitVec 32) : f31_26 w ++ f25_22 w ++ f21_16 w ++ f15_0 w = w := by
  simp only [f31_26, f25_22, f21_16, f15_0, BitVec.extractLsb'_append_extractLsb'_eq_extractLsb',
    BitVec.extractLsb'_eq_self]

theorem word_of_jump (w : BitVec 32) : f31_26 w ++ f25_0 w = w := by
  simp only [f31_26, f25_0, BitVec.extractLsb'_append_extractLsb'_eq_extractLsb', BitVec.extractLsb'_eq_self]

theorem f13_0_of_reg (w : BitVec 32) : f13_8 w ++ f7_0 w = f13_0 w := by
  simp only [f13_8, f7_0, f13_0, BitVec.extractLsb'_append_extractLsb'_eq_extractLsb']

theorem f13_0_of_shift (w : BitVec 32) : f13_6 w ++ f5_0 w = f13_0 w := by
  simp only [f13_6, f5_0, f13_0, BitVec.extractLsb'_append_extractLsb'_eq_extractLsb']

theorem f13_0_of_disp (w : BitVec 32) : f13_11 w ++ f10_0 w = f13_0 w := by
  simp only [f13_11, f10_0, f13_0, BitVec.extractLsb'_append_extractLsb'_eq_extractLsb']

theorem word_ext_imm (h : f31_26 v = f31_26 w) (hd : f25_20 v = f25_20 w) (ha : f19_14 v = f19_14 w)
    (hi : f13_0 v = f13_0 w) : v = w := by
  rw [← word_of_imm v, ← word_of_imm w, h, hd, ha, hi]

theorem word_ext_reg (h : f31_26 v = f31_26 w) (hd : f25_20 v = f25_20 w) (ha : f19_14 v = f19_14 w)
    (hb : f13_8 v = f13_8 w) (hc : f7_0 v = f7_0 w) : v = w :=
  word_ext_imm h hd ha (by rw [← f13_0_of_reg v, ← f13_0_of_reg w, hb, hc])

theorem word_ext_shift (h : f31_26 v = f31_26 w) (hd : f25_20 v = f25_20 w) (ha : f19_14 v = f19_14 w)
    (hb : f13_6 v = f13_6 w) (hc : f5_0 v = f5_0 w) : v = w :=
  word_ext_imm h hd ha (by rw [← f13_0_of_shift v, ← f13_0_of_shift w, hb, hc])

theorem word_ext_disp (h : f31_26 v = f31_26 w) (hd : f25_20 v = f25_20 w) (ha : f19_14 v = f19_14 w)
    (hb : f13_11 v = f13_11 w) (hc : f10_0 v = f10_0 w) : v = w :=
  word_ext_imm h hd ha (by rw [← f13_0_of_disp v, ← f13_0_of_disp w, hb, hc])

theorem word_ext_upper (h : f31_26 v = f31_26 w) (hd : f25_20 v = f25_20 w) (hi : f19_0 v = f19_0 w) : v = w := by
  rw [← word_of_upper v, ← word_of_upper w, h, hd, hi]

theorem word_ext_branch (h : f31_26 v = f31_26 w) (hd : f25_22 v = f25_22 w) (ha : f21_16 v = f21_16 w)
    (hi : f15_0 v = f15_0 w) : v = w := by
  rw [← word_of_branch v, ← word_of_branch w, h, hd, ha, hi]

theorem word_ext_jump (h : f31_26 v = f31_26 w) (hi : f25_0 v = f25_0 w) : v = w := by
  rw [← word_of_jump v, ← word_of_jump w, h, hi]

end wordOfFields

/-- Whatever a decoding of the word answers is encoded as that word. -/
def ReadsBack (w : BitVec 32) (o : Option Instr) : Prop := ∀ i : Instr, o = some i → encodeScalar i = some w

@[simp] theorem readsBack_none (w : BitVec 32) : ReadsBack w none := fun _ h => nomatch h

@[simp] theorem readsBack_some {w : BitVec 32} {x : Instr} : ReadsBack w (some x) ↔ encodeScalar x = some w := by
  simp only [ReadsBack, Option.some.injEq, forall_eq']

/-- Fields that must be zero (R40) guard what a word is read as. -/
@[simp] theorem readsBack_ite {w : BitVec 32} {c : Prop} [Decidable c] {x : Instr} :
    ReadsBack w (if c then some x else none) ↔ (c → encodeScalar x = some w) := by
  split <;> simp [*]

/-- Decoding answers what the word encodes, major by major (R37): a word is determined by the fields of its format. -/
theorem decodeScalar_readsBack (w : BitVec 32) : ReadsBack w (decodeScalar w) := by
  unfold decodeScalar
  split <;> rename_i hm
  case h_30 => exact readsBack_none w
  case h_2 | h_3 | h_4 | h_5 =>
    exact readsBack_some.mpr (congrArg some (word_ext_imm (by simp [hm]) (by simp) (by simp) (by simp)))
  case h_7 | h_8 =>
    exact readsBack_some.mpr (congrArg some (word_ext_upper (by simp [hm]) (by simp) (by simp)))
  case h_10 | h_11 =>
    exact readsBack_some.mpr (congrArg some (word_ext_jump (by simp [hm]) (by simp)))
  case h_6 =>
    unfold decShi
    split <;> simp only [readsBack_none, readsBack_some]
    all_goals exact congrArg some (word_ext_shift (by simp [*]) (by simp) (by simp) (by simp [*]) (by simp))
  case h_9 =>
    unfold decBc
    split <;> simp only [readsBack_none, readsBack_some]
    all_goals exact congrArg some (word_ext_branch (by simp [*]) (by simp [*]) (by simp) (by simp))
  case h_13 | h_14 =>
    simp only [decLd, decSt]
    split <;> simp only [readsBack_none, readsBack_some]
    all_goals exact congrArg some (word_ext_disp (by simp [*]) (by simp) (by simp) (by simp [*]) (by simp))
  all_goals
    simp only [decInt, decJr, decAtom, decRed, decFence, decCache, decSr, decLane, decPool, decQueue, decCopy, decTask,
      decWin, decSync, decConf, decSys, decTime]
    split <;> simp only [readsBack_none, readsBack_some, readsBack_ite]
    all_goals intros
    all_goals
      exact congrArg some (word_ext_reg (by simp [f31_26, *]) (by simp [f25_20, *]) (by simp [f19_14, *])
        (by simp [f13_8, *]) (by simp [f7_0, *]))

/-- Settles O2: instruction by instruction one way; the other way major by major, a word being its fields and those the ones
its decoding names or requires to be zero. -/
theorem scalarRoundTrip : Obligations.ScalarRoundTrip :=
  ⟨fun _ _ h => decodeScalar_of_encodeScalar h, fun _ w h => decodeScalar_readsBack w _ h⟩

end Sys2Proof
end

section
/-! SUPPORT. Lane words (R23-R29, R38): the code of an instruction, the short index, the canonical word and its bytes, read
back. -/

namespace Sys2Proof

/-- The code of a lane instruction names it (R38). -/
theorem laneInstr_of_laneCode {i : Instr} {op fn : BitVec 8} {o : LaneOps} (h : laneCode i = some (op, fn, o)) :
    laneInstr op fn o = some i := by
  cases i <;> cases h <;> rfl

theorem formOk_of_expandError {form : LaneForm} {op fn : BitVec 8} {o : LaneOps} (h : expandError form op fn o = none) :
    formOk form op fn o = true := by
  dsimp only [expandError] at h
  split_ifs at h with _ _ _ _ _ _ hf
  simpa using hf

theorem checkLane_of {form : LaneForm} {op fn : BitVec 8} {o : LaneOps} {i : Instr} (he : expandError form op fn o = none)
    (hi : laneInstr op fn o = some i) : checkLane form op fn o = .ok (i, form) := by
  simp [checkLane, he, hi]

/-- A short index stands for what it was made of (R26). -/
theorem shortCode_of_shortIndex {op fn : BitVec 8} {o : LaneOps} {ix : BitVec 7} (h : shortIndex op fn o = some ix) :
    shortCode ix = some (op, fn, o.ty) := by
  have hfn : BitVec.ofNat 8 fn.toNat = fn := by simp
  unfold shortIndex at h
  split at h
  case h_6 => cases h
  all_goals
    obtain ⟨⟨hr, ht⟩, ⟨⟩⟩ := Option.ite_none_right_eq_some.mp h
    simp (disch := omega) only [shortCode, BitVec.toNat_ofNat, Nat.mod_eq_of_lt, if_pos, if_neg, Nat.add_sub_cancel_left,
      hfn, ht]
    rfl

/-- A bit of a slice is a bit of the whole. -/
theorem getLsbD_of_extract {n m s : Nat} {x : BitVec n} {y : BitVec m} (h : x.extractLsb' s m = y) (i : Nat) (hi : i < m) :
    x.getLsbD (s + i) = y.getLsbD i := by
  simp [← h, hi]

theorem decodeLane_short {op fn : BitVec 8} {o : LaneOps} {ix : BitVec 7} (hx : shortIndex op fn o = some ix)
    (hf : formOk .short op fn o = true) (more : List Byte) :
    decodeLane ([0#1 ++ ix, o.d, o.a, o.b] ++ more) = checkLane .short op fn o := by
  obtain ⟨ty, ps, pn, d, a, b, c, md, im⟩ := o
  simp only [formOk, Bool.and_eq_true, decide_eq_true_eq] at hf
  obtain ⟨-, rfl, rfl, rfl, rfl, rfl⟩ := hf
  have h7 : (0#1 ++ ix).getLsbD 7 = false := getLsbD_of_extract (y := 0#1) (s := 7) (by
    rw [BitVec.extractLsb'_append_eq_of_le (by decide), BitVec.extractLsb'_eq_self]) 0 (by decide)
  have hi : (0#1 ++ ix).extractLsb' 0 7 = ix := by
    rw [BitVec.extractLsb'_append_eq_of_add_le (by decide), BitVec.extractLsb'_eq_self]
  simp only [List.cons_append, List.nil_append, decodeLane, h7, hi, shortCode_of_shortIndex hx, if_true]

/-- The length bits of a stored form (R24). -/
def LaneForm.bits : LaneForm → BitVec 2
  | .short => 0#2
  | .medium => 2#2
  | .long => 3#2

section word
variable (form : LaneForm) (op fn : BitVec 8) (o : LaneOps)

theorem canonWord_op : (canonWord form op fn o).extractLsb' 86 8 = op := by
  simp only [canonWord]
  repeat rw [BitVec.extractLsb'_append_eq_of_le (by decide)]
  rw [BitVec.extractLsb'_append_eq_of_add_le (by decide)]
  exact BitVec.extractLsb'_eq_self

theorem canonWord_fn : (canonWord form op fn o).extractLsb' 78 8 = fn := by
  simp only [canonWord]
  repeat rw [BitVec.extractLsb'_append_eq_of_le (by decide)]
  rw [BitVec.extractLsb'_append_eq_of_add_le (by decide)]
  exact BitVec.extractLsb'_eq_self

theorem canonWord_form : (canonWord form op fn o).extractLsb' 94 2 = form.bits := by
  simp only [canonWord]
  repeat rw [BitVec.extractLsb'_append_eq_of_le (by decide)]
  exact BitVec.extractLsb'_eq_self

theorem canonOps_canonWord : canonOps (canonWord form op fn o) = o := by
  obtain ⟨ty, ps, pn, d, a, b, c, md, im⟩ := o
  have hn : (canonWord form op fn ⟨ty, ps, pn, d, a, b, c, md, im⟩).extractLsb' 70 1 = BitVec.ofBool pn := by
    simp only [canonWord]
    repeat rw [BitVec.extractLsb'_append_eq_of_le (by decide)]
    rw [BitVec.extractLsb'_append_eq_of_add_le (by decide)]
    exact BitVec.extractLsb'_eq_self
  simp only [canonOps, getLsbD_of_extract hn 0 (by decide), LaneOps.mk.injEq]
  simp only [canonWord]
  refine ⟨?_, ?_, by simp, ?_, ?_, ?_, ?_, ?_, ?_⟩
  all_goals
    repeat rw [BitVec.extractLsb'_append_eq_of_le (by decide)]
    rw [BitVec.extractLsb'_append_eq_of_add_le (by decide)]
    exact BitVec.extractLsb'_eq_self

end word

section stream
variable {w : BitVec 96}

theorem word_of_halves : w.extractLsb' 32 64 ++ w.extractLsb' 0 32 = w := by
  rw [BitVec.extractLsb'_append_extractLsb'_eq_extractLsb' (by decide), BitVec.extractLsb'_eq_self]

/-- A stream whose first byte has both length bits is read as a canonical word (R24). -/
theorem decodeLane_canonBytes (h7 : w.getLsbD 95 = true) (h6 : w.getLsbD 94 = true) (more : List Byte) :
    decodeLane (canonBytes w ++ more) = checkLane .long (w.extractLsb' 86 8) (w.extractLsb' 78 8) (canonOps w) := by
  have b7 : (w.extractLsb' 88 8).getLsbD 7 = true := by simpa using h7
  have b6 : (w.extractLsb' 88 8).getLsbD 6 = true := by simpa using h6
  simp only [canonBytes, List.cons_append, List.nil_append, decodeLane, b7, b6, Bool.true_eq_false, if_false,
    BitVec.extractLsb'_append_extractLsb'_eq_extractLsb']
  rw [BitVec.extractLsb'_eq_self (x := w)]

/-- One with the medium length bits is read as the upper eight bytes of a canonical word whose immediate is zero (R25). -/
theorem decodeLane_canonBytes_take (h7 : w.getLsbD 95 = true) (h6 : w.getLsbD 94 = false) (h0 : w.extractLsb' 0 32 = 0)
    (more : List Byte) : decodeLane ((canonBytes w).take 8 ++ more)
      = checkLane .medium (w.extractLsb' 86 8) (w.extractLsb' 78 8) (canonOps w) := by
  have b7 : (w.extractLsb' 88 8).getLsbD 7 = true := by simpa using h7
  have b6 : (w.extractLsb' 88 8).getLsbD 6 = false := by simpa using h6
  have hw : w.extractLsb' 32 64 ++ 0#32 = w := by
    conv_rhs => rw [← word_of_halves (w := w), h0]
    rfl
  simp only [canonBytes, List.take_succ_cons, List.take_zero, List.cons_append, List.nil_append, decodeLane, b7, b6,
    Bool.true_eq_false, if_false, if_true, BitVec.extractLsb'_append_extractLsb'_eq_extractLsb', hw]

end stream

section stored
variable {op fn : BitVec 8} {o : LaneOps}

theorem decodeLane_long (more : List Byte) :
    decodeLane (canonBytes (canonWord .long op fn o) ++ more) = checkLane .long op fn o := by
  have hb := canonWord_form .long op fn o
  rw [decodeLane_canonBytes (getLsbD_of_extract hb 1 (by decide)) (getLsbD_of_extract hb 0 (by decide)),
    canonWord_op, canonWord_fn, canonOps_canonWord]

theorem decodeLane_medium (hf : formOk .medium op fn o = true) (more : List Byte) :
    decodeLane ((canonBytes (canonWord .medium op fn o)).take 8 ++ more) = checkLane .medium op fn o := by
  have hb := canonWord_form .medium op fn o
  have h0 : (canonWord .medium op fn o).extractLsb' 0 32 = 0 := by
    have := congrArg LaneOps.im (canonOps_canonWord .medium op fn o)
    exact this.trans (of_decide_eq_true hf)
  rw [decodeLane_canonBytes_take (getLsbD_of_extract hb 1 (by decide)) (getLsbD_of_extract hb 0 (by decide)) h0,
    canonWord_op, canonWord_fn, canonOps_canonWord]

/-- The bytes stored for a code in a form that can hold it are read back as that code (R24-R26). -/
theorem exists_stored {i : Instr} {form : LaneForm} (hc : laneCode i = some (op, fn, o)) (hf : formOk form op fn o = true) :
    ∃ bs : List Byte, encodeLane form i = some bs ∧ bs.length = form.bytes
      ∧ ∀ more : List Byte, decodeLane (bs ++ more) = checkLane form op fn o := by
  cases form with
  | short =>
    have hs := hf
    simp only [formOk, Bool.and_eq_true] at hs
    obtain ⟨ix, hx⟩ := Option.isSome_iff_exists.mp hs.1
    exact ⟨_, by simp only [encodeLane, hc, hx], rfl, decodeLane_short hx hf⟩
  | medium => exact ⟨_, by simp only [encodeLane, hc], rfl, decodeLane_medium hf⟩
  | long => exact ⟨_, by simp only [encodeLane, hc], rfl, decodeLane_long⟩

end stored

/-- Settles O3: what a form stores is read back as its code, opcode, function and operands, and the code names the
instruction. -/
theorem laneRoundTrip : Obligations.LaneRoundTrip := by
  intro form i hs hw
  obtain ⟨⟨op, fn, o⟩, hc⟩ := Option.isSome_iff_exists.mp hs
  have he : expandError form op fn o = none := by simpa [wellFormed, hc] using hw
  obtain ⟨bs, hb, hn, hd⟩ := exists_stored hc (formOk_of_expandError he)
  exact ⟨bs, hb, hn, fun more => (hd more).trans (checkLane_of he (laneInstr_of_laneCode hc))⟩

end Sys2Proof
end

section
/-! SUPPORT. A step's turn (R255, R300): whose turn comes runs what it fetches; scalar registers (R30); the words written
out. -/

namespace Sys2Proof.Machine

/-- Settles O1, by decoding the words. -/
theorem wordsDecode : Obligations.WordsDecode := by
  unfold Obligations.WordsDecode
  decide

/-- Settles O10: a read after a write, the register s0 aside, and the fields a register write does not name. -/
theorem scalarRegisters : Obligations.ScalarRegisters := by
  intro t d j v
  have h0 : t.setS 0 v = t := rfl
  refine ⟨rfl, h0, fun hd => ?_, fun hj => ?_, ?_, ?_, ?_⟩
  · rw [Thread.S_setS, if_neg hd, if_pos rfl]
  · rw [Thread.S_setS, if_neg hj]
    split
    · next h => rw [h]; rfl
    · rfl
  all_goals
    unfold Thread.setS
    split <;> rfl

/-- Where a turn comes to a party, by name or as the next in order, the step is that party's turn. -/
theorem State.turn_of_comesTo {s u : State} {r : Ready} {lines : Option Nat} (h : ComesTo s u r lines) :
    ∃ v : State, u = v.issued r ∧ s.turn = v.partyTurn r (if r.gang.isSome then lines else none) := by
  obtain ⟨v, rfl, ⟨rest, t, ha, hl, he, hi⟩ | ⟨rfl, ha, hl, hc, hi⟩⟩ := h
  · refine ⟨v, rfl, ?_⟩
    have named (ls) : State.namedTurn { s with agenda := rest } r.tid r.gang ls = v.partyTurn r ls := by
      simp [State.namedTurn, hl, he, hi]
    cases hg : r.gang with
    | none => simp [State.turn, ha, Ready.move, hg, ← named]
    | some g => cases lines <;> simp [State.turn, ha, Ready.move, hg, ← named]
  · refine ⟨v, rfl, ?_⟩
    simp [State.turn, ha, hl, State.ownTurn, hc, State.nextParty, hi]

/-- Settles O7: the turn is the sequencer's, and it runs what it fetches. -/
theorem stepRunsScalar : Obligations.StepRunsScalar := by
  intro s u s1 r t w i hc hg hl he hm hr hf hd
  obtain ⟨v, rfl, ht⟩ := State.turn_of_comesTo hc
  have hrun : s.turn = .run i { s1 with cur := { tid := r.tid, party := .scalar, len := 4 } } := by
    simp [ht, State.partyTurn, hg, State.turnScalar, hl, he, hm, hr, hf, hd]
  simp only [step, hrun] <;> rfl

/-- Settles O8: the turn is the gang's, and it runs what it fetches. -/
theorem stepRunsLane : Obligations.StepRunsLane := by
  intro s u s1 r g lines t bs i f hc hg hl he hm hr hgt hf hd
  obtain ⟨v, rfl, ht⟩ := State.turn_of_comesTo hc
  have hrun : s.turn = .run i { s1 with cur := { tid := r.tid, party := .gang g, len := f.bytes, lines } } := by
    simp [ht, State.partyTurn, hg, State.turnLane, hl, he, hm, hr, hgt, hf, hd]
  simp only [step, hrun] <;> rfl

end Sys2Proof.Machine
end

section
/-! SUPPORT. `conf.opset`, `conf.scset` and `sys.halt` (R39, R117, R179, R333, R397): what each does, case by case. -/

namespace Sys2Proof.Machine

theorem State.privileged_of {s : State} {ctx : Nat} {c : Ctx} (h : look s.ctxs ctx = some c) :
    s.privileged ctx = c.priv := by
  simp [State.privileged, h]

section configuration
variable {s : State} {t : Thread} {c : Ctx} {a b : BitVec 6}

/-- The entry a word of `conf.opset` names (R61). -/
theorem bits_entry (w : Word) : bits w.toNat 3 0 = w.toNat % 16 := by simp [bits]

theorem confOpset_denied (hi : Issues s t) (he : (t.S a).toNat % 16 < 8) (hp : s.privileged t.ctx = false) :
    Faults s t (.confOpset a) 0x14 0 0 := by
  show execConfOpset a s = _
  simp [execConfOpset, onThread_of hi, bits_entry, he, hp, faultOut]

theorem confOpset_illegal (hi : Issues s t) (he : (t.S a).toNat % 16 < 8 → s.privileged t.ctx = true)
    (hw : opWordOk (t.S a) = false) : Faults s t (.confOpset a) 0x0E 0 0 := by
  show execConfOpset a s = _
  have hd : ¬ ((t.S a).toNat % 16 < 8 ∧ ¬ s.privileged t.ctx = true) := fun h => h.2 (he h.1)
  rw [execConfOpset, onThread_of hi]
  simp only [bits_entry, if_neg hd, hw, Bool.not_false, if_true, faultOut]

theorem confOpset_writes (hi : Issues s t) (hc : look s.ctxs t.ctx = some c) (he : 8 ≤ (t.S a).toNat % 16)
    (hw : opWordOk (t.S a) = true) :
    BecomesOn s (s.setCtx t.ctx { c with optab := put c.optab ((t.S a).toNat % 16) (t.S a) }) (.confOpset a)
      t.dirty.step4 := by
  show execConfOpset a s = _
  simp only [execConfOpset, onThread_of hi, bits_entry, hw, hc, Nat.not_lt.mpr he, false_and, if_false,
    Bool.not_true, Bool.false_eq_true, hi.onLive (State.setCtx_threads s _ _)]

theorem confOpset_keeps (hi : Issues s t) (he : (t.S a).toNat % 16 < 8) (hp : s.privileged t.ctx = true)
    (hw : opWordOk (t.S a) = true) : Becomes s (.confOpset a) t.dirty.step4 := by
  show execConfOpset a s = _
  simp [execConfOpset, onThread_of hi, bits_entry, he, hp, hw, hi.onLive]

theorem confScset_illegal (hi : Issues s t) (he : 31 < (t.S a).toNat) : Faults s t (.confScset a b) 0x01 0 0 := by
  show execConfScset a b s = _
  simp [execConfScset, onThread_of hi, he, faultOut]

theorem confScset_denied (hi : Issues s t) (he : (t.S a).toNat < 7) (hp : s.privileged t.ctx = false) :
    Faults s t (.confScset a b) 0x14 0 0 := by
  show execConfScset a b s = _
  simp [execConfScset, onThread_of hi, he, hp, faultOut, show ¬ 31 < (t.S a).toNat by omega]

/-- A thread changed where it still stands as it was. -/
theorem Issues.onLive_at {s u : State} {t : Thread} (hi : Issues s t) (hu : look u.threads s.cur.tid = some t)
    (f : Thread → Thread) : u.onLive s.cur.tid f = u.setThread s.cur.tid (f t) :=
  State.onLive_of hu (issuer_eq_some.mp hi).2 f

section loaded
variable {s1 : State} {bs : List Byte}

theorem confScset_keeps (hi : Issues s t) (he : (t.S a).toNat < 7) (hp : s.privileged t.ctx = true)
    (hk : s.check t (t.S b) 64 .read true = none) (hl : s.loadT s.cur.tid t (t.S b).toNat 64 = .ok (bs, s1))
    (hh : leAt bs 0x30 1 ≤ 1) (hz : leAt bs 0x31 15 = 0) (ht : look s1.threads s.cur.tid = some t) :
    BecomesOn s s1 (.confScset a b) t.dirty.step4 := by
  show execConfScset a b s = _
  simp [execConfScset, onThread_of hi, he, hp, hk, hl, accOut, Nat.not_lt.mpr hh, hz, hi.onLive_at ht,
    show ¬ 31 < (t.S a).toNat by omega]

/-- The scope that the 64 bytes of `conf.scset` describe, within the context's partition (R179). -/
def State.scopeFrom (s : State) (ctx : Nat) (bs : List Byte) : Scope :=
  { cores := BitVec.ofNat 384 (leAt bs 0 48) &&& (s.partAt (partOfCtx ctx)).coreMask, host := leAt bs 0x30 1 == 1 }

theorem confScset_writes (hi : Issues s t) (h7 : 7 ≤ (t.S a).toNat) (h31 : (t.S a).toNat ≤ 31)
    (hk : s.check t (t.S b) 64 .read true = none) (hl : s.loadT s.cur.tid t (t.S b).toNat 64 = .ok (bs, s1))
    (hh : leAt bs 0x30 1 ≤ 1) (hz : leAt bs 0x31 15 = 0) (hc : look s1.ctxs t.ctx = some c)
    (ht : look s1.threads s.cur.tid = some t) :
    BecomesOn s (s1.setCtx t.ctx { c with scopes := put c.scopes (t.S a).toNat (s1.scopeFrom t.ctx bs) })
      (.confScset a b) t.dirty.step4 := by
  show execConfScset a b s = _
  have hu (c) : look (s1.setCtx t.ctx c).threads s.cur.tid = some t := ht
  simp only [execConfScset, onThread_of hi, Nat.not_lt.mpr h7, Nat.not_lt.mpr h31, false_and, if_false, hk, hl, hc, accOut,
    gt_iff_lt, Nat.not_lt.mpr hh, hz, ne_eq, not_true_eq_false, or_self, State.scopeFrom, hi.onLive_at (hu _)]

end loaded

theorem sysHalt_denied (hi : Issues s t) (hp : s.privileged t.ctx = false) : Faults s t .sysHalt 0x14 0 0 := by
  show execSysHalt s = _
  simp [execSysHalt, onThread_of hi, hp, faultOut]

theorem sysHalt_halts (hi : Issues s t) (hc : look s.ctxs t.ctx = some c) (hp : s.privileged t.ctx = true) :
    BecomesOn s (s.setCtx t.ctx { c with halted := true }) .sysHalt t.step4 := by
  show execSysHalt s = _
  simp [execSysHalt, onThread_of hi, hp, hi.onLive, hc]
  rfl

end configuration

/-- Settles O19: each of the three instructions case by case, privilege read from the issuing thread's context. -/
theorem configuration : Obligations.Configuration := by
  intro s t hi a b c hc w e
  have hp := State.privileged_of hc
  exact ⟨fun he h => confOpset_denied hi he (hp.trans h), fun he => confOpset_illegal hi (fun h => hp.trans (he h)),
    confOpset_writes hi hc, fun he h => confOpset_keeps hi he (hp.trans h), confScset_illegal hi,
    fun he h => confScset_denied hi he (hp.trans h), fun h => sysHalt_denied hi (hp.trans h),
    fun h => sysHalt_halts hi hc (hp.trans h),
    fun he h hk _ _ hl hh hz ht => confScset_keeps hi he (hp.trans h) hk hl hh hz ht,
    fun h7 h31 hk _ _ hl hh hz hc ht => confScset_writes hi h7 h31 hk hl hh hz hc ht⟩

end Sys2Proof.Machine
end

section
/-! SUPPORT. Writes of lane registers and predicates (R31, R45): one lane's value and frame, then those of all lanes. -/

namespace Sys2Proof.Machine

@[simp] theorem RegFile.get32_set (r : RegFile 32) (k : Nat) (v : Lane32) (j : Nat) :
    (r.set k v).get32 j = if j = k then v else r.get32 j := by
  by_cases h : j = k
  · simp only [RegFile.get32, RegFile.set, look_put, if_pos h]
  · have hl : look (r.set k v).writes j = look r.writes j := look_put_ne _ _ h
    rw [if_neg h, RegFile.get32, hl]
    rfl

theorem vKey_inj {l i c d : Nat} (hc : c < 256) (hd : d < 256) : vKey l c = vKey i d ↔ l = i ∧ c = d := by
  unfold vKey; omega

theorem tyWidth_cases (ty : BitVec 4) : tyWidth ty = 64 ∨ tyWidth ty ≤ 32 := by
  revert ty; decide

/-- What a lane's register, or pair of registers of a 64-bit type, holds (R31). -/
def laneValue (v : RegFile 32) (l c w : Nat) : Nat :=
  if w = 64 then (v.get32 (vKey l c)).toNat + 2 ^ 32 * (v.get32 (vKey l (c + 1))).toNat else (v.get32 (vKey l c)).toNat

theorem Thread.laneRead_register (t : Thread) (l w : Nat) {code : BitVec 8} (h : code.toNat < 0xF8) :
    t.laneRead l code w = laneValue t.v l code.toNat w := by
  simp only [Thread.laneRead, if_neg (Nat.not_le.mpr h), laneValue]

section register
variable {c w : Nat}

theorem laneValue_writeLane (r : RegFile 32) (l x : Nat) (hw : w = 64 ∨ w ≤ 32) :
    laneValue (writeLane r l c w x) l c w = x % 2 ^ w := by
  obtain rfl | hw := hw
  · have hne : vKey l c ≠ vKey l (c + 1) := by unfold vKey; omega
    simp only [laneValue, writeLane, if_true, RegFile.get32_set, if_neg hne, BitVec.toNat_ofNat]
    omega
  · have hp : x % 2 ^ w < 2 ^ 32 :=
      (Nat.mod_lt x (by positivity)).trans_le (Nat.pow_le_pow_right (by decide) hw)
    have h64 : w ≠ 64 := by omega
    simp only [laneValue, writeLane, if_neg h64, RegFile.get32_set, if_true, BitVec.toNat_ofNat, Nat.mod_eq_of_lt hp]

theorem get32_writeLane (r : RegFile 32) {l x k : Nat} (h : k ≠ vKey l c ∧ (w = 64 → k ≠ vKey l (c + 1))) :
    (writeLane r l c w x).get32 k = r.get32 k := by
  unfold writeLane
  split
  · next h64 => rw [RegFile.get32_set, if_neg (h.2 h64), RegFile.get32_set, if_neg h.1]
  · rw [RegFile.get32_set, if_neg h.1]

theorem laneValue_writeLane_ne (r : RegFile 32) {l i : Nat} (x : Nat) (hc : c < 0xF8) (h : l ≠ i) :
    laneValue (writeLane r i c w x) l c w = laneValue r l c w := by
  have hk {d e : Nat} (hd : d < 256) (he : e < 256) : vKey l d ≠ vKey i e := fun hv => h ((vKey_inj hd he).mp hv).1
  simp only [laneValue]
  rw [get32_writeLane _ ⟨hk (by omega) (by omega), fun _ => hk (by omega) (by omega)⟩,
    get32_writeLane _ ⟨hk (by omega) (by omega), fun _ => hk (by omega) (by omega)⟩]

/-- The registers no lane's result is written to keep what they hold. -/
theorem get32_writeLanes {k : Nat} (res : List (Nat × Nat)) (r : RegFile 32)
    (h : ∀ l x, (l, x) ∈ res → k ≠ vKey l c ∧ (w = 64 → k ≠ vKey l (c + 1))) :
    (res.foldl (fun r p => writeLane r p.1 c w p.2) r).get32 k = r.get32 k := by
  induction res generalizing r with
  | nil => rfl
  | cons p res ih =>
    rw [List.foldl_cons, ih _ (fun l x hm => h l x (List.mem_cons_of_mem _ hm)),
      get32_writeLane _ (h p.1 p.2 List.mem_cons_self)]

theorem laneValue_writeLanes_notMem {l : Nat} (hc : c < 0xF8) (res : List (Nat × Nat)) (r : RegFile 32)
    (h : l ∉ res.map Prod.fst) :
    laneValue (res.foldl (fun r p => writeLane r p.1 c w p.2) r) l c w = laneValue r l c w := by
  induction res generalizing r with
  | nil => rfl
  | cons p res ih =>
    obtain ⟨hp, hr⟩ := not_or.mp (List.mem_cons.not.mp h)
    rw [List.foldl_cons, ih _ hr, laneValue_writeLane_ne r p.2 hc hp]

theorem laneValue_writeLanes {l x : Nat} (hc : c < 0xF8) (hw : w = 64 ∨ w ≤ 32) (res : List (Nat × Nat))
    (r : RegFile 32) (hn : (res.map Prod.fst).Nodup) (hm : (l, x) ∈ res) :
    laneValue (res.foldl (fun r p => writeLane r p.1 c w p.2) r) l c w = x % 2 ^ w := by
  induction res generalizing r with
  | nil => cases hm
  | cons p res ih =>
    obtain ⟨hp, hr⟩ := List.nodup_cons.mp hn
    rw [List.foldl_cons]
    obtain rfl | hm := List.mem_cons.mp hm
    · rw [laneValue_writeLanes_notMem hc res _ hp, laneValue_writeLane _ _ _ hw]
    · exact ih _ hr hm

end register

section results
variable (t : Thread) (ty : BitVec 4) {code : BitVec 8} (res : List (Nat × Nat))

theorem Thread.writeTy_v (h : code.toNat < 0xF8) : (t.writeTy ty code res).v
    = res.foldl (fun r p => writeLane r p.1 code.toNat (tyWidth ty) p.2) t.v := by
  simp only [Thread.writeTy, Thread.writeLanes, if_neg (Nat.not_le.mpr h)]

theorem Thread.writeTy_y (h : code.toNat < 0xF8) : (t.writeTy ty code res).y = t.y := by
  simp only [Thread.writeTy, Thread.writeLanes, if_neg (Nat.not_le.mpr h)]

theorem Thread.writeTy_v_block (h : 0xF8 ≤ code.toNat) : (t.writeTy ty code res).v = t.v := by
  simp only [Thread.writeTy, Thread.writeLanes, if_pos h]
  split <;> rfl

/-- A block result takes the value of the highest lane, sign-extended for a signed type below 64 bits (R31). -/
theorem Thread.writeTy_block (h : 0xF8 ≤ code.toNat) {l x : Nat} (hr : res.getLast? = some (l, x)) :
    (t.writeTy ty code res).y.get64 (code.toNat - 0xF8)
      = if ty.toNat ≤ 2 then wordI (sext x (tyWidth ty)) else word (x % 2 ^ tyWidth ty) := by
  have hw : ty.toNat ≤ 2 → tyWidth ty ≠ 64 := by revert ty; decide
  simp only [Thread.writeTy, Thread.writeLanes, if_pos h, hr, RegFile.get64, RegFile.set, look_put_same]
  by_cases hs : ty.toNat ≤ 2
  · simp [hs, hw hs, wordI]
  · simp [hs, word]

/-- A lane write leaves everything but the vector registers, their poison and the block results (R45). -/
theorem Thread.writeTy_frame (code : BitVec 8) : ∃ v vpoison y, t.writeTy ty code res = { t with v, vpoison, y } := by
  unfold Thread.writeTy Thread.writeLanes
  dsimp only
  split
  · split
    · exact ⟨_, _, _, rfl⟩
    · exact ⟨_, _, _, rfl⟩
  · exact ⟨_, _, _, rfl⟩

end results

/-- A predicate's bit of one lane written (R31). -/
def predBit (m : Lane32) (p : Nat × Bool) : Lane32 := if p.2 then m ||| (1#32 <<< p.1) else m &&& ~~~(1#32 <<< p.1)

theorem getLsbD_predBit (m : Lane32) {p : Nat × Bool} {l : Nat} (hl : l < 32) :
    (predBit m p).getLsbD l = if l = p.1 then p.2 else m.getLsbD l := by
  have h1 : (1#32 <<< p.1).getLsbD l = decide (l = p.1) := by
    rw [BitVec.getLsbD_shiftLeft, BitVec.getLsbD_one, Bool.eq_iff_iff]
    simp
    omega
  unfold predBit
  split
  · next hb => rw [BitVec.getLsbD_or, h1, hb]; split <;> simp [*]
  · next hb => rw [BitVec.getLsbD_and, BitVec.getLsbD_not, h1, Bool.eq_false_of_not_eq_true hb]; split <;> simp [*]

theorem getLsbD_predBits_notMem {l : Nat} (hl : l < 32) (bs : List (Nat × Bool)) (m : Lane32) (h : l ∉ bs.map Prod.fst) :
    (bs.foldl predBit m).getLsbD l = m.getLsbD l := by
  induction bs generalizing m with
  | nil => rfl
  | cons p bs ih =>
    obtain ⟨hp, hb⟩ := not_or.mp (List.mem_cons.not.mp h)
    rw [List.foldl_cons, ih _ hb, getLsbD_predBit m hl, if_neg hp]

theorem getLsbD_predBits {l : Nat} {b : Bool} (hl : l < 32) (bs : List (Nat × Bool)) (m : Lane32)
    (hn : (bs.map Prod.fst).Nodup) (hm : (l, b) ∈ bs) : (bs.foldl predBit m).getLsbD l = b := by
  induction bs generalizing m with
  | nil => cases hm
  | cons p bs ih =>
    obtain ⟨hp, hb⟩ := List.nodup_cons.mp hn
    rw [List.foldl_cons]
    obtain rfl | hm := List.mem_cons.mp hm
    · rw [getLsbD_predBits_notMem hl bs _ hp, getLsbD_predBit m hl, if_pos rfl]
    · exact ih _ hb hm

theorem Thread.writePred_of_ne {t : Thread} {pc : BitVec 8} {bs : List (Nat × Bool)} (h : pc ≠ 0) :
    t.writePred pc bs = { t with p := t.p.set pc.toNat (bs.foldl predBit (t.p.get32 pc.toNat)) } := by
  rw [Thread.writePred, if_neg h]
  rfl

theorem Thread.pred_writePred {t : Thread} {pc : BitVec 8} {bs : List (Nat × Bool)} (h : pc ≠ 0) (l : Nat) :
    (t.writePred pc bs).pred l pc.toNat = (bs.foldl predBit (t.p.get32 pc.toNat)).getLsbD l := by
  have h0 : pc.toNat ≠ 0 := fun he => h (BitVec.eq_of_toNat_eq he)
  simp [Thread.pred, Thread.writePred_of_ne h, h0]

theorem Thread.pred_of_ne {t : Thread} {pc : BitVec 8} (h : pc ≠ 0) (l : Nat) :
    t.pred l pc.toNat = (t.p.get32 pc.toNat).getLsbD l := by
  have h0 : pc.toNat ≠ 0 := fun he => h (BitVec.eq_of_toNat_eq he)
  simp [Thread.pred, h0]

/-- Settles O33: lane registers and predicate bits by induction on the list of lanes written. -/
theorem laneRegisters : Obligations.LaneRegisters := by
  intro t ty code res hn w u
  obtain ⟨v, vp, y, hu⟩ : ∃ v vpoison y, u = { t with v, vpoison, y } := t.writeTy_frame ty res code
  refine ⟨fun hc => ⟨fun l x hm => ?_, fun k hk => ?_, t.writeTy_y ty res hc⟩,
    fun hc => ⟨t.writeTy_v_block ty res hc, fun l x hr => t.writeTy_block ty res hc hr⟩,
    by rw [hu], by rw [hu], by rw [hu], by rw [hu],
    fun pc bs hb hl => ⟨fun h0 => if_pos h0, fun h0 => ⟨fun l b hm => ?_, fun l h32 hm => ?_, fun k hk => ?_⟩⟩⟩
  · rw [Thread.laneRead_register u l w hc, Thread.writeTy_v t ty res hc]
    exact laneValue_writeLanes hc (tyWidth_cases ty) res t.v hn hm
  · rw [Thread.writeTy_v t ty res hc]
    exact get32_writeLanes res t.v hk
  · rw [Thread.pred_writePred h0]
    exact getLsbD_predBits (hl l b hm) bs _ hb hm
  · rw [Thread.pred_writePred h0, Thread.pred_of_ne h0]
    exact getLsbD_predBits_notMem h32 bs _ (fun h => by
      obtain ⟨p, hp, rfl⟩ := List.mem_map.mp h
      exact hm p.2 hp)
  · rw [Thread.writePred_of_ne h0, RegFile.get32_set, if_neg hk]

end Sys2Proof.Machine
end

section
/-! SUPPORT. What ends a wait, and what is no instruction (R40, R41, R316, R364, R390, R393): the meaning of each event,
case by case. -/

namespace Sys2Proof.Machine

section waits
variable {s : State} {t : Thread}

theorem nonInstructionScalar_faults (hi : Issues s t) :
    exec .nonInstructionScalar s = .next (s.fault s.cur.tid (scalarF t 0x01 0 0)) := by
  show execNonInstructionScalar s = _
  rw [execNonInstructionScalar, onThread_of hi, faultOut]

theorem nonInstructionLane_faults (hi : Issues s t) {g : Nat} (hg : s.cur.party = .gang g) :
    exec .nonInstructionLane s = .next (s.fault s.cur.tid (gangF t g 0x02 0xFF 0 0)) := by
  show execNonInstructionLane s = _
  rw [execNonInstructionLane, onThread_of hi, faultOut, hg, partyF]

theorem exec_watchdog (hl : look s.threads s.arg.obj = some t) : exec .watchdog s =
    if s.wdogOver t && s.coreRuns (coreOf s.arg.obj) t.ctx then
      .next (s.fault s.arg.obj (scalarF t 0x12 0 0)) else .next s := by
  show execWatchdog s = _
  simp only [execWatchdog, hl, faultOut]

/-- A thread that may not issue stays in its wait. -/
theorem waitSatisfied_stopped (hl : look s.threads s.arg.obj = some t) (hm : s.mayIssue s.arg.obj t.ctx = false) :
    Skips s .waitSatisfied := by
  show execWaitSatisfied s = _
  simp only [execWaitSatisfied, hl, hm, Bool.not_false, if_true]

theorem waitTimeout_stopped (hl : look s.threads s.arg.obj = some t) (hm : s.mayIssue s.arg.obj t.ctx = false) :
    Skips s .waitTimeout := by
  show execWaitTimeout s = _
  simp only [execWaitTimeout, hl, hm, Bool.not_false, if_true]

section running
variable (hl : look s.threads s.arg.obj = some t) (hm : s.mayIssue s.arg.obj t.ctx = true)
include hl hm

section sync
variable {d a b : BitVec 6} {dl : Option Nat} (hw : t.wait = some (.sync d a b dl))
include hw

theorem waitSatisfied_returns {m : Nat} (he : s.syncEval s.arg.obj t a b dl = .returns m) (h0 : m ≠ 0) :
    exec .waitSatisfied s = .next (s.syncReturn s.arg.obj d (t.conds a) m) := by
  show execWaitSatisfied s = _
  simp [execWaitSatisfied, hl, hm, hw, he, h0]

theorem waitTimeout_returns {m n : Nat} (he : s.syncEval s.arg.obj t a b dl = .returns m) (hd : dl = some n)
    (hn : n ≤ s.tick) :
    exec .waitTimeout s = .next (s.syncReturn s.arg.obj d (t.conds a) m) := by
  subst hd
  show execWaitTimeout s = _
  simp [execWaitTimeout, hl, hm, hw, he, hn]

theorem waitSatisfied_waits (he : s.syncEval s.arg.obj t a b dl = .waits) : Skips s .waitSatisfied := by
  show execWaitSatisfied s = _
  simp [execWaitSatisfied, hl, hm, hw, he]

theorem waitTimeout_waits (he : s.syncEval s.arg.obj t a b dl = .waits) : Skips s .waitTimeout := by
  show execWaitTimeout s = _
  cases dl <;> simp [execWaitTimeout, hl, hm, hw, he]

theorem waitSatisfied_corrupt {addr : Word} {m : Nat} (he : s.syncEval s.arg.obj t a b dl = .corrupt addr m) :
    exec .waitSatisfied s = .next (s.fault s.arg.obj (scalarF t 0x08 addr (word m))) := by
  show execWaitSatisfied s = _
  simp [execWaitSatisfied, hl, hm, hw, he, faultOut]

end sync

section arrival
variable {w : Word} {p : BitVec 16} (hw : t.wait = some (.phase w p))
include hw

theorem waitSatisfied_here (hp : s.barPeer t w = none) : exec .waitSatisfied s =
    .next (if phaseReached (s.phaseOf t w) (p + 1) then s.onLive s.arg.obj Thread.step4 else s) := by
  show execWaitSatisfied s = _
  simp only [execWaitSatisfied, hl, hm, hw, hp, Bool.not_true, Bool.false_eq_true, if_false]
  split <;> rfl

theorem waitSatisfied_there {h : Nat} (hp : s.barPeer t w = some h) : exec .waitSatisfied s =
    if s.asksPhase t.uid then .next s else s.askPhase s.arg.obj t h w p := by
  show execWaitSatisfied s = _
  simp only [execWaitSatisfied, hl, hm, hw, hp, Bool.not_true, Bool.false_eq_true, if_false]

end arrival
end running

section response
variable {r : SysReq} (hr : s.sysReqs[s.arg.obj]? = some r) (hl : look s.threads r.tid = some t) (hu : t.uid = r.uid)
  (he : t.ended = false)
include hr hl hu he

theorem sysResponse_undefined (hf : s.arg.flag = true) : exec .sysResponse s
    = .next (({ s with sysReqs := s.sysReqs.erase r } : State).fault r.tid
        { scalarF t 0x10 0 (r.svc.setWidth 64) with pc := r.pc }) := by
  show execSysResponse s = _
  simp [execSysResponse, hr, hl, hu, he, hf, faultOut]

theorem sysResponse_scalar (hf : s.arg.flag = false) (h8 : r.slice = 8) : exec .sysResponse s
    = .next (({ s with sysReqs := s.sysReqs.erase r } : State).setThread r.tid ((t.setS r.d s.arg.word).step4)) := by
  show execSysResponse s = _
  simp [execSysResponse, hr, hl, hu, he, hf, h8]

end response
end waits

/-- Settles O55: each event in the order of its tests, the thread found, allowed to issue, then what it waits for. -/
theorem threadEvents : Obligations.ThreadEvents := by
  intro s t k
  refine ⟨fun hi => ⟨nonInstructionScalar_faults hi, fun g => nonInstructionLane_faults hi⟩,
    fun hl => ⟨fun ho hc => ?_, fun ho => ?_, fun hm => ⟨waitSatisfied_stopped hl hm, waitTimeout_stopped hl hm⟩,
      fun d a b dl hm hw => ⟨fun m he => ⟨waitSatisfied_returns hl hm hw he, fun n => waitTimeout_returns hl hm hw he⟩,
        fun he => ⟨waitSatisfied_waits hl hm hw he, waitTimeout_waits hl hm hw he⟩,
        fun a' m => waitSatisfied_corrupt hl hm hw⟩,
      fun w p hm hw he hp => ⟨fun h => ?_, fun h => ?_⟩,
      fun w p h hm hw hp => ⟨fun ha => ?_, fun ha => ?_⟩⟩,
    fun r hr hl hu he => ⟨sysResponse_undefined hr hl hu he, sysResponse_scalar hr hl hu he⟩⟩
  · rw [exec_watchdog hl, ho, hc]; rfl
  · rw [Skips, exec_watchdog hl, ho]; rfl
  · rw [waitSatisfied_here hl hm hw hp, if_pos h, State.onLive_of hl he]
  · rw [Skips, waitSatisfied_here hl hm hw hp, h]; rfl
  · rw [Skips, waitSatisfied_there hl hm hw hp, if_pos ha]
  · rw [waitSatisfied_there hl hm hw hp, ha]; rfl

end Sys2Proof.Machine
end

section
/-! SUPPORT. A scalar load of a thread whose store buffer is full (R205): it waits, whatever its check would say. -/

namespace Sys2Proof.Machine

theorem onMemory_full {s : State} {t : Thread} (hi : Issues s t) (hr : Config.storeBuffer ≤ t.redBuf.length)
    (k : Nat → Thread → Out) : onMemory s k = .next (s.hold s.cur.tid .scalar .stall) := by
  rw [onMemory, onThread_of hi, if_pos hr]

namespace FullBuffer

/-- A posted addition of the thread. -/
def red : Red :=
  { uid := 0, core := 0, slot := 0, lane := 0xFF, party := .scalar, pc := 0, task := 0, winid := 0, ctx := 0, addr := 0,
    op := 0, bytes := 8, value := 1, owed := false }

/-- A thread whose store buffer is full, with an address in s1 that has bit 57 set. -/
def thread : Thread :=
  { Thread.image 0 0 0 with s := { init := 0, writes := [(1, 0x200000000000000)] }, redBuf := List.replicate 32 red }

/-- A machine on which it issues. -/
def machine : State := { State.reset with threads := [(0, thread)] }

theorem issues : Issues machine thread := rfl

/-- The address of a byte at S(1). -/
def address : Word := wordI ((thread.S 1).toInt + (0#11).toInt * 2 ^ 0)

theorem check_fails : machine.check thread address (2 ^ 0) .read true = some 0x05 := by decide +kernel

/-- The load waits for room (R205). -/
theorem load_held : exec (.ldN8 0 1 0) machine = .next (machine.hold 0 .scalar .stall) := by
  show loadOp machine 0 1 0 0 false = _
  rw [loadOp, onMemory_full issues (by decide)]
  rfl

theorem alive_of_hold : (machine.hold 0 .scalar .stall).alive 0 = true := by decide +kernel

theorem alive_of_fault : (machine.fault 0 (scalarF thread 0x05 address 0)).alive 0 = false := by decide +kernel

end FullBuffer

/-- Refutes O14: a thread whose store buffer is full waits for room before its load is checked (R205), and the statement
does not ask for room. The witness loads from an address with bit 57 set: the check fails, and the load is held, not
faulted. -/
theorem not_scalarAccessFaults : ¬ Obligations.ScalarAccessFaults := by
  intro h
  obtain ⟨ldN8, -⟩ := h FullBuffer.machine FullBuffer.thread FullBuffer.issues 0 1 0 0x05
  have hf : exec (.ldN8 0 1 0) FullBuffer.machine
      = .next (FullBuffer.machine.fault 0 (scalarF FullBuffer.thread 0x05 FullBuffer.address 0)) :=
    ldN8 FullBuffer.check_fails
  have hs := Host.Outcome.next.inj (FullBuffer.load_held.symm.trans hf)
  have ha := FullBuffer.alive_of_hold
  rw [hs, FullBuffer.alive_of_fault] at ha
  cases ha

end Sys2Proof.Machine
end

section
/-! SUPPORT. A lane store over two lines, the second of which L2 keeps under a name its page does not give it (R186, R349):
the first line request takes the name away, and the second leads elsewhere than it did. -/

namespace Sys2Proof.Machine

namespace StaleName

/-- `vm.st` of 32-bit elements at the block argument b0, each lane storing b1. -/
def ops : LaneOps := { LaneOps.zero with a := 0xF8, b := 0xF9 }

/-- A thread whose one gang stores 1 in four lanes from the last word of the line 0x200 on. -/
def thread : Thread :=
  { Thread.image 0 0 0x10000 with
    running := true
    blocks := [{ entry := 0, args := [0x1007C, 1] }]
    ranges := [{ base := 0x10000, len := 0x10000, read := true, write := true, atomic := false }]
    sl := [{ Slice.fresh with st := .issuing }] }

/-- A machine that maps the page at 0x10000 to a frame of its own. -/
def mapped : State :=
  { State.reset with
    cur := { tid := 0, party := .gang 0, len := 8 }
    tables := placeTables []
    ctxs := [(0, Ctx.fresh 1 0)]
    threads := [(0, thread)] }

/-- The byte that an address of context 0 leads to. -/
def byteOf (s : State) (va : Nat) : Nat := match s.place 0 va with | .byte pa => pa | _ => 0

/-- The line that the page gives to the addresses of line 0x200, in L2 under the name of line 0x201. -/
def stale : L2Line :=
  { asid := 1, ctx := 0, vline := 0x201, ch := 0, way := 0, sectors := 0xF, dirty := false, region := 0, wts := 0, rts := 0,
    pins := 0, shadow := [] }

def machine : State := { mapped with l2 := [(byteOf mapped 0x10000 / 128, stale)] }

/-- The lanes' addresses. -/
def va (l : Nat) : Word :=
  word (thread.uniform (thread.activeLanes 0 ops) ops.a 64) + ops.im.signExtend 64 + word (tyWidth ops.ty / 8 * l)

/-- Where they lead as the instruction begins. -/
def pa (l : Nat) : Nat := byteOf machine (va l).toNat

theorem gangIssues : GangIssues machine thread 0 0x70 0x01 ops := ⟨rfl, rfl, by decide +kernel, by decide +kernel⟩

theorem posted : machine.postedBy thread.uid = [] := by decide +kernel

theorem lanesBegin : LanesBegin machine thread 0 (thread.activeLanes 0 ops) (tyWidth ops.ty / 8) .write va pa where
  check := by decide +kernel
  free l _ := ⟨by decide +kernel, by decide +kernel, by rw [posted]; rfl⟩
  place := by decide +kernel
  alike := by decide +kernel
  room := by decide +kernel
  fresh := by decide +kernel
  whole := rfl

/-- A line request of the store. -/
def request : State → List LaneAt → LineOut :=
  storeLine machine.cur.tid thread (tyWidth ops.ty / 8) (fun l => thread.operand l ops.b ops.ty)

/-- The two line requests, run. -/
def run : State × Nat × List (Nat × Nat × FFlags) × Option LineOut :=
  runLines request none machine (lineRequests ((thread.activeLanes 0 ops).map (fun l => (l, va l))))

theorem run_done : run.2.2.2 = none := Option.isNone_iff_eq_none.mp (by decide +kernel)

theorem lanesDo : LanesDo machine run.1 request (thread.activeLanes 0 ops) va run.2.2.1 := by
  have h : run = (run.1, run.2.1, run.2.2.1, none) := by rw [← run_done]
  exact ⟨run.2.1, h⟩

/-- The byte the page gives to the first address of line 0x201: no lane's address leads there as the instruction begins, and
a lane's store goes there once the first request has given the line back its own name. -/
def missed : Nat := byteOf mapped 0x10080

theorem missed_apart : ∀ l ∈ thread.activeLanes 0 ops, missed < pa l ∨ pa l + tyWidth ops.ty / 8 ≤ missed := by
  decide +kernel

theorem missed_written : run.1.byteAt missed ≠ machine.byteAt missed := by decide +kernel

end StaleName

/-- Refutes O41: that an instruction's line requests leave one another's places alone needs L2 to keep lines under the names
their pages give them (R186, R349), and the statement does not ask for it. In the witness L2 keeps the line of page address
0x10000 under the name of line 0x201, and a store over lines 0x200 and 0x201 writes, beside the bytes that its
lanes' addresses lead to as it begins, one that the page gives to line 0x201. -/
theorem not_laneLoadsStores : ¬ Obligations.LaneLoadsStores := by
  intro h
  obtain ⟨-, -, vmSt, -⟩ := h StaleName.machine StaleName.thread 0 StaleName.ops StaleName.pa (by decide) (by decide)
  obtain ⟨stored, -⟩ := vmSt StaleName.gangIssues StaleName.lanesBegin
  obtain ⟨-, -, -, frame, -⟩ := stored _ _ StaleName.lanesDo
  exact StaleName.missed_written (frame _ StaleName.missed_apart)

end Sys2Proof.Machine
end

section
/-! SUPPORT. Returning atomics and reads at the home (R84, R85, R192): one access of the bytes an address leads to, what it
leaves of memory, and the floating-point and fixed-point ones. -/

namespace Sys2Proof.Machine

section access
variable {s : State} {t : Thread} {va : Word} {n pa : Nat}

theorem LeadsTo.reach (h : LeadsTo s t va n pa) : s.reach t.ctx va.toNat = .ok pa := State.reach_byte h.place h.goes

/-- The machine as the issuing thread's atomic leaves it, the location's n bytes taking a value (R174, R192). -/
def State.afterAtomic (s : State) (t : Thread) (va : Word) (pa n new : Nat) : State :=
  { s.writeTouch (.core (coreOf s.cur.tid)) t.ctx va.toNat pa none with mem := Mem.writeN s.mem pa n new }

@[simp] theorem State.afterAtomic_threads (s : State) (t : Thread) (va : Word) (pa n new : Nat) :
    (s.afterAtomic t va pa n new).threads = s.threads := (s.touches_writeTouch _ _ _ _ _).threads

theorem State.readN_afterAtomic (s : State) (t : Thread) (va : Word) (pa n new : Nat) :
    Mem.readN (s.afterAtomic t va pa n new).mem pa n = new % 2 ^ (8 * n) := by
  rw [State.afterAtomic, Mem.writeN_eq, Mem.readN_writeBytes_leBytes, Nat.pow_mul]

/-- The frame of an atomic. -/
theorem State.byteAt_afterAtomic (s : State) (t : Thread) (va : Word) {pa n j : Nat} (new : Nat) (h : j < pa ∨ pa + n ≤ j) :
    (s.afterAtomic t va pa n new).byteAt j = s.byteAt j := by
  rw [State.byteAt, State.afterAtomic, Mem.writeN_eq]
  exact Mem.read_writeBytes_outside (by rwa [leBytes_length])

theorem LeadsTo.atomT (h : LeadsTo s t va n pa) (hp : s.poisoned pa n = false) (f : Nat → Nat) :
    s.atomT s.cur.tid t va.toNat n f
      = .ok (Mem.readN s.mem pa n, s.afterAtomic t va pa n (f (Mem.readN s.mem pa n))) := by
  simp [State.atomT, h.toUnblocked.ownFirst, h.reach, hp, State.afterAtomic]

/-- The machine as the issuing thread's read at the home leaves it (R85). -/
def State.afterHomeLoad (s : State) (t : Thread) (va : Word) (pa n : Nat) : State :=
  s.readTouch (.core (coreOf s.cur.tid)) t.ctx va.toNat (sectorMask va.toNat n) pa

theorem LeadsTo.loadHomeT (h : LeadsTo s t va n pa) (hp : s.poisoned pa n = false) :
    s.loadHomeT s.cur.tid t va.toNat n = .ok (Mem.readBytes s.mem pa n, s.afterHomeLoad t va pa n) := by
  simp [State.loadHomeT, h.toUnblocked.ownFirst, State.homeBytes, h.reach, hp, State.afterHomeLoad]

end access

section atomics
variable {s : State} {t : Thread} {d a b : BitVec 6} {pa : Nat}

/-- A change of the issuing thread, then flags that no trap is enabled for, on a machine whose threads the access left alone
(R79). -/
theorem Issues.trapAfter_onLive {u : State} {fl : FFlags} (hi : Issues s t) (hu : u.threads = s.threads)
    {f : Thread → Thread} (he : (f t).ended = t.ended) (hc : (f t).fpctl = t.fpctl)
    (hz : fl &&& t.fpctl.setWidth 6 = 0) (x : FArg) :
    (u.onLive s.cur.tid f).trapAfter s.cur.tid fl x = u.setThread s.cur.tid ((f t).orFlags fl) := by
  rw [hi.onLive hu, State.trapAfter_quiet (look_setThread _ _ _) _ (he.trans (issuer_eq_some.mp hi).2) (by rwa [hc]),
    setThread_setThread]

/-- A returning atomic whose flags no trap is enabled for writes the location in one access and gives the old value to d
(R191, R192). -/
theorem atomOp_of {op n x : Nat} {flags fl : FFlags} {give : Nat → Word} {r : Nat × FFlags} (hi : Issues s t)
    (hk : s.check t (t.S a) n .atomic true = none) (hl : LeadsTo s t (t.S a) n pa) (hp : s.poisoned pa n = false)
    (hr : atomNew op (8 * n) (Mem.readN s.mem pa n) x (t.S d).toNat = r) (hf : flags ||| r.2 = fl)
    (hz : fl &&& t.fpctl.setWidth 6 = 0) :
    atomOp s d a op n x flags give =
      .next ((s.afterAtomic t (t.S a) pa n r.1).setThread s.cur.tid
        (((t.setS d (give (Mem.readN s.mem pa n))).dirty.step4).orFlags fl)) := by
  rw [atomOp, onMemory_of hi hl.room]
  simp only [hk, hl.atomT hp, accOut, hr, hf]
  rw [hi.trapAfter_onLive (by simp) (by simp) (by simp) hz]

theorem Thread.dirty_setS (t : Thread) (d : BitVec 6) (v : Word) : (t.setS d v).dirty = t.dirty.setS d v := by
  unfold Thread.setS
  split <;> rfl

/-- An instruction whose meaning is a returning atomic completes so: the location takes the new value, d what the old one
gives, the flags are ORed in, and every other byte is as before. -/
theorem atom_completes {i : Instr} {op n x : Nat} {flags fl : FFlags} {give : Nat → Word} {r : Nat × FFlags}
    (hi : Issues s t) (hx : exec i s = atomOp s d a op n x flags give)
    (hr : atomNew op (8 * n) (Mem.readN s.mem pa n) x (t.S d).toNat = r) (hf : flags ||| r.2 = fl)
    (hk : s.check t (t.S a) n .atomic true = none) (hl : LeadsTo s t (t.S a) n pa) (hp : s.poisoned pa n = false)
    (hz : fl &&& t.fpctl.setWidth 6 = 0) :
    ∃ u : State, BecomesOn s u i (((t.dirty.setS d (give (Mem.readN s.mem pa n))).step4).orFlags fl)
      ∧ u.threads = s.threads ∧ Mem.readN u.mem pa n = r.1 % 2 ^ (8 * n)
      ∧ ∀ j : Nat, (j < pa ∨ pa + n ≤ j) → u.byteAt j = s.byteAt j := by
  refine ⟨s.afterAtomic t (t.S a) pa n r.1, ?_, s.afterAtomic_threads _ _ _ _ _, s.readN_afterAtomic _ _ _ _ _,
    fun j hj => s.byteAt_afterAtomic _ _ _ hj⟩
  rw [BecomesOn, hx, atomOp_of hi hk hl hp hr hf hz, Thread.dirty_setS]

/-- `atom.fxread` gives d the rounded accumulator and changes no memory (R85). -/
theorem fxread_completes (hi : Issues s t) (hb : b.toNat ≤ 1) (hk : s.check t (t.S a) 16 .read true = none)
    (hl : LeadsTo s t (t.S a) 16 pa) (hp : s.poisoned pa 16 = false) :
    let rd := fxRead (if b = 0 then .f64 else .f32) (Mem.readN s.mem pa 16)
    rd.2 &&& t.fpctl.setWidth 6 = 0 →
      BecomesOn s (s.afterHomeLoad t (t.S a) pa 16) (.atomFxread d a b) (((t.setS d (word rd.1)).step4).orFlags rd.2) := by
  intro rd hz
  have ht : (s.afterHomeLoad t (t.S a) pa 16).threads = s.threads := State.readTouch_threads _ _ _ _ _ _
  show execAtomFxread d a b s = _
  rw [execAtomFxread, onMemory_of hi hl.room]
  simp only [if_neg (Nat.not_lt.mpr hb), hk, hl.loadHomeT hp, accOut, ← Mem.readN_eq, State.finish]
  rw [hi.trapAfter_onLive ht (by simp) (by simp) hz]

section meanings
variable (hi : Issues s t)
include hi

theorem exec_atomFadd32 :
    exec (.atomFadd32 d a b) s = atomOp s d a 10 4 ((t.S b).toNat % 2 ^ 32) 0 (fun old => word old) := by
  show execAtomFadd32 d a b s = _
  rw [execAtomFadd32, onThread_of hi]

theorem exec_atomFadd64 : exec (.atomFadd64 d a b) s = atomOp s d a 10 8 (t.S b).toNat 0 (fun old => word old) := by
  show execAtomFadd64 d a b s = _
  rw [execAtomFadd64, onThread_of hi]

theorem exec_atomFxadd :
    let c := fxConvert (Fmt.f64.value (t.S b).toNat)
    exec (.atomFxadd d a b) s = atomOp s d a 12 16 (wrap c.1 128) c.2 (fun old => word (old / 2 ^ 64)) := by
  show execAtomFxadd d a b s = _
  rw [execAtomFxadd, onThread_of hi]
  rfl

end meanings
end atomics

theorem atomNew_fadd32 (old x cmp : Nat) : atomNew 10 (8 * 4) old x cmp = addF .f32 old x := by simp [atomNew]

theorem atomNew_fadd64 (old x cmp : Nat) : atomNew 10 (8 * 8) old x cmp = addF .f64 old x := by simp [atomNew]

theorem atomNew_fxadd (old x cmp : Nat) : atomNew 12 (8 * 16) old x cmp = ((old + x) % 2 ^ 128, 0) := by simp [atomNew]

/-- Settles O16: each atomic is `atomOp` at its operation, width and operand; the read of an accumulator leaves memory
alone. -/
theorem floatAtomics : Obligations.FloatAtomics := by
  intro s t hi d a b pa atom x old c
  refine ⟨?_, ?_, ?_, fun hb hk hl hp => ?_⟩
  · exact (atom_completes hi (exec_atomFadd32 hi) (atomNew_fadd32 ..) (BitVec.zero_or ..) :)
  · exact (atom_completes hi (exec_atomFadd64 hi) (atomNew_fadd64 ..) (BitVec.zero_or ..) :)
  · exact (atom_completes hi (exec_atomFxadd hi) (atomNew_fxadd ..) (BitVec.or_zero ..) :)
  · intro rd hz
    exact ⟨s.afterHomeLoad t (t.S a) pa 16, State.readTouch_mem _ _ _ _ _ _, State.readTouch_threads _ _ _ _ _ _,
      fxread_completes hi hb hk hl hp hz⟩

end Sys2Proof.Machine
end

section
/-! SUPPORT. Lane instructions that raise flags (R35, R79, R94): what a lane write keeps, how a completion takes the flags of
its lanes, and from these the VF group (R97-R99). -/

namespace Sys2Proof.Machine

/-! A lane write keeps everything but the vector registers, their poison and the block results (R45). -/

section writes
variable (t : Thread) (code : BitVec 8)

theorem Thread.writeLanes_frame (w : Nat) (signed : Bool) (res : List (Nat × Nat)) :
    ∃ v vpoison y, t.writeLanes w signed code res = { t with v, vpoison, y } := by
  unfold Thread.writeLanes
  dsimp only
  split
  · split
    · exact ⟨_, _, _, rfl⟩
    · exact ⟨_, _, _, rfl⟩
  · exact ⟨_, _, _, rfl⟩

@[simp] theorem Thread.writeLanes_fpctl (w : Nat) (signed : Bool) (res : List (Nat × Nat)) :
    (t.writeLanes w signed code res).fpctl = t.fpctl := by
  obtain ⟨_, _, _, h⟩ := t.writeLanes_frame code w signed res
  rw [h]

@[simp] theorem Thread.writeTy_fpctl (ty : BitVec 4) (res : List (Nat × Nat)) : (t.writeTy ty code res).fpctl = t.fpctl :=
  t.writeLanes_fpctl code _ _ res

@[simp] theorem Thread.writeN32_fpctl (res : List (Nat × Nat)) : (t.writeN32 code res).fpctl = t.fpctl :=
  t.writeLanes_fpctl code _ _ res

@[simp] theorem Thread.writeN32_rngctr (res : List (Nat × Nat)) : (t.writeN32 code res).rngctr = t.rngctr := by
  obtain ⟨_, _, _, h⟩ := t.writeLanes_frame code 32 false res
  rw [Thread.writeN32, h]

end writes

/-- Flags raised, one of them enabled: they are ORed in, and the trap follows (R35, R79). -/
theorem State.trapAfter_traps {s : State} {tid : Nat} {t : Thread} {fl : FFlags} (h : look s.threads tid = some t) (f : FArg)
    (he : t.ended = false) (hz : fl &&& t.fpctl.setWidth 6 ≠ 0) : s.trapAfter tid fl f
      = (s.setThread tid (t.orFlags fl)).fault tid { f with code := 0x15, info := (fl &&& t.fpctl.setWidth 6).setWidth 64 } := by
  simp only [State.trapAfter, h, he, Bool.false_eq_true, if_false, if_neg hz]

section gangs
variable {s : State} {t : Thread} {g : Nat} {op fn : BitVec 8} {o : LaneOps} {i : Instr}

theorem GangIssues.alive (hi : GangIssues s t g op fn o) : t.ended = false := (issuer_eq_some.mp hi.issues).2

theorem GangIssues.onGang (hi : GangIssues s t g op fn o) (k : Nat → Thread → Nat → List Nat → Out) :
    onGang s op fn o k = k s.cur.tid t g (t.activeLanes g o) := onGang_of hi.issues hi.party hi.slices hi.held k

/-- A lane instruction that completes with results and flags raises them: no trap enabled, or one (R79). -/
theorem gangRaises_of_laneDone {t' : Thread} {fls : List (Nat × FFlags)} (hx : exec i s = laneDone s s.cur.tid t t' g fls)
    (he : t'.ended = false) (hc : t'.fpctl = t.fpctl) : GangRaises s t g i t' fls := by
  have hl : look (s.setThread s.cur.tid (t'.advance g s.cur.len)).threads s.cur.tid = some (t'.advance g s.cur.len) :=
    look_setThread _ _ _
  have hf : (t'.advance g s.cur.len).fpctl = t.fpctl := hc
  refine ⟨fun hz => ?_, fun hz => ?_⟩
  · rw [hx, laneDone, State.trapAfter_quiet hl _ he (by rwa [hf]), setThread_setThread]
  · rw [hx, laneDone, State.trapAfter_traps hl _ he (by rwa [hf]), setThread_setThread, hf]
    rfl

/-- A lane instruction that completes with results and no flags changes nothing else (R94). -/
theorem gangBecomes_of_laneDone {t' : Thread} (hx : exec i s = laneDone s s.cur.tid t t' g []) (he : t'.ended = false) :
    GangBecomes s i g t' :=
  hx.trans (laneDone_plain he)

theorem laneVector_gives {f : Thread → Nat → Nat → Nat} (hi : GangIssues s t g op fn o)
    (hx : exec i s = laneVector s op fn o f) : GivesLanes s t g i o (f t g) :=
  gangBecomes_of_laneDone (hx.trans (hi.onGang _)) ((t.writeTy_ended _ _ _).trans hi.alive)

theorem laneFlags_raises {f : Thread → Nat → Nat × FFlags} (hi : GangIssues s t g op fn o)
    (hx : exec i s = laneFlags s op fn o f) :
    GangRaises s t g i (t.writeTy o.ty o.d ((t.activeLanes g o).map (fun l => (l, (f t l).1))))
      ((t.activeLanes g o).map (fun l => (l, (f t l).2))) := by
  rw [laneFlags, hi.onGang] at hx
  simp only [List.map_map] at hx
  exact gangRaises_of_laneDone hx (by simp [hi.alive]) (by simp)

/-! A VF instruction, single and packed (R97). -/

section vf
variable {f : Fmt → RMode → Nat → Nat → Nat → Nat × FFlags}

/-- A VF function of the format and the mode that the instruction names, of parts of a lane's three operands. -/
def vfOf (t : Thread) (o : LaneOps) (f : Fmt → RMode → Nat → Nat → Nat → Nat × FFlags) (part : Nat → Nat) (l : Nat) :
    Nat × FFlags :=
  f (Fmt.ofTy o.ty.toNat) (RMode.ofCode o.md.toNat) (part (t.laneRead l o.a (tyWidth o.ty)))
    (part (t.laneRead l o.b (tyWidth o.ty))) (part (t.laneRead l o.c (tyWidth o.ty)))

theorem vfOp_single (hi : GangIssues s t g 0x20 fn o) (hx : exec i s = vfOp s fn o f) (hp : o.md.getLsbD 2 = false) :
    let r := vfOf t o f (· % 2 ^ tyWidth o.ty)
    GangRaises s t g i (t.writeTy o.ty o.d ((t.activeLanes g o).map (fun l => (l, (r l).1))))
      ((t.activeLanes g o).map (fun l => (l, (r l).2))) := by
  rw [vfOp, hi.onGang] at hx
  simp only [vfPk, hp, Bool.false_eq_true, if_false, List.map_map] at hx
  exact gangRaises_of_laneDone hx (by simp [hi.alive]) (by simp)

theorem vfOp_packed (hi : GangIssues s t g 0x20 fn o) (hx : exec i s = vfOp s fn o f) (hp : o.md.getLsbD 2 = true) :
    let low := vfOf t o f (· % 2 ^ 16)
    let high := vfOf t o f (· / 2 ^ 16)
    GangRaises s t g i (t.writeN32 o.d ((t.activeLanes g o).map (fun l => (l, (low l).1 + 2 ^ 16 * (high l).1))))
      ((t.activeLanes g o).map (fun l => (l, (low l).2 ||| (high l).2))) := by
  rw [vfOp, hi.onGang] at hx
  simp only [vfPk, hp, if_true, List.map_map] at hx
  exact gangRaises_of_laneDone hx (by simp [hi.alive]) (by simp)

end vf
end gangs

/-- Settles O36: each VF instruction is `vfOp` of its function, single or in both halves; `vf.li` writes one value in every
lane. -/
theorem laneFloats : Obligations.LaneFloats := by
  intro s t g o w F m one ls vf rounded signed
  have gives {fn : BitVec 8} {f : Fmt → RMode → Nat → Nat → Nat → Nat × FFlags} (i : LaneOps → Instr)
      (meaning : LaneOps → State → Out) (hx : exec (i o) s = meaning o s) (hf : meaning o s = vfOp s fn o f)
      (hi : GangIssues s t g 0x20 fn o) := And.intro (vfOp_single hi (hx.trans hf)) (vfOp_packed hi (hx.trans hf))
  -- Each `(… :)` takes its function from the instruction's meaning, not from the statement.
  refine ⟨(gives .vfAdd execVfAdd rfl rfl :), (gives .vfSub execVfSub rfl rfl :), (gives .vfMul execVfMul rfl rfl :),
    (gives .vfFma execVfFma rfl rfl :), (gives .vfFms execVfFms rfl rfl :), (gives .vfMin execVfMin rfl rfl :),
    (gives .vfMax execVfMax rfl rfl :), (gives .vfDiv execVfDiv rfl rfl :), (gives .vfSqrt execVfSqrt rfl rfl :),
    (gives .vfRcp execVfRcp rfl rfl :), (gives .vfRsq execVfRsq rfl rfl :), (gives .vfExp2 execVfExp2 rfl rfl :),
    (gives .vfLog2 execVfLog2 rfl rfl :), (gives .vfAbs execVfAbs rfl rfl :), (gives .vfNeg execVfNeg rfl rfl :),
    (gives .vfCopysign execVfCopysign rfl rfl :), (gives .vfMov execVfMov rfl rfl :),
    fun hi => ?_⟩
  have hx : exec (.vfLi o) s = laneVector s 0x20 0x16 o (fun _ _ _ => vfLiValue o.ty.toNat o.im.toNat) := rfl
  have hty : o.ty.toNat = 11 ↔ o.ty = 11 := BitVec.toNat_inj (y := 11)
  have written := laneVector_gives hi hx
  simp only [vfLiValue, hty] at written
  exact written

end Sys2Proof.Machine
end

section
/-! SUPPORT. The VC group (R77, R100-R104): conversions that raise flags, a run of registers written, elements moved. -/

namespace Sys2Proof.Machine

@[simp] theorem Thread.writeRun_ended (t : Thread) (w : Nat) (code : BitVec 8) (res : List (Nat × List Nat)) :
    (t.writeRun w code res).ended = t.ended := rfl

@[simp] theorem Thread.writeRun_fpctl (t : Thread) (w : Nat) (code : BitVec 8) (res : List (Nat × List Nat)) :
    (t.writeRun w code res).fpctl = t.fpctl := rfl

section conversions
variable {s : State} {t : Thread} {g : Nat} {o : LaneOps}

/-- `vc.cvt` writes the source's values at TY, rounded or saturated (R101). -/
theorem vcCvt_raises (hi : GangIssues s t g 0x30 0x00 o) :
    let cvt : Nat → Nat × FFlags :=
      fun l => roundTy o.ty.toNat (vcRm o) (valueTy (vcSrc o).toNat (t.operand l o.a (vcSrc o)))
    GangRaises s t g (.vcCvt o) (t.writeTy o.ty o.d ((t.activeLanes g o).map (fun l => (l, (cvt l).1))))
      ((t.activeLanes g o).map (fun l => (l, (cvt l).2))) := by
  have hx : exec (.vcCvt o) s = execVcCvt o s := rfl
  exact (laneFlags_raises hi hx :)

/-- `vc.cvts` writes the lanes' packed elements, and RNGCTR moves on by one (R77, R102). -/
theorem vcCvts_raises (hi : GangIssues s t g 0x30 0x01 o) : GangRaises s t g (.vcCvts o)
    { t.writeN32 o.d ((t.activeLanes g o).map (fun l => (l, (cvtsLane t o l).1))) with rngctr := t.rngctr + 1 }
    ((t.activeLanes g o).map (fun l => (l, (cvtsLane t o l).2))) := by
  have hx : exec (.vcCvts o) s = execVcCvts o s := rfl
  rw [execVcCvts, hi.onGang] at hx
  simp only [List.map_map, Thread.writeN32_rngctr] at hx
  exact gangRaises_of_laneDone hx ((t.writeN32_ended _ _).trans hi.alive) (t.writeN32_fpctl _ _)

/-- `vc.qnpack` writes the lanes' eight codes (R103). -/
theorem vcQnpack_raises (hi : GangIssues s t g 0x30 0x02 o) : GangRaises s t g (.vcQnpack o)
    (t.writeN32 o.d ((t.activeLanes g o).map (fun l => (l, (qnpackLane t o l).1))))
    ((t.activeLanes g o).map (fun l => (l, (qnpackLane t o l).2))) := by
  have hx : exec (.vcQnpack o) s = execVcQnpack o s := rfl
  rw [execVcQnpack, hi.onGang] at hx
  simp only [List.map_map] at hx
  exact gangRaises_of_laneDone hx ((t.writeN32_ended _ _).trans hi.alive) (t.writeN32_fpctl _ _)

/-- `vc.qnunpack` writes the lanes' eight elements to eight registers (R103). -/
theorem vcQnunpack_raises (hi : GangIssues s t g 0x30 0x03 o) : GangRaises s t g (.vcQnunpack o)
    (t.writeRun (tyWidth o.ty) o.d ((t.activeLanes g o).map (fun l => (l, (qnunpackLane t o l).map Prod.fst))))
    ((t.activeLanes g o).map (fun l => (l, (qnunpackLane t o l).foldl (fun x y => x ||| y.2) 0))) := by
  have hx : exec (.vcQnunpack o) s = execVcQnunpack o s := rfl
  rw [execVcQnunpack, hi.onGang] at hx
  simp only [List.map_map] at hx
  exact gangRaises_of_laneDone hx hi.alive rfl

/-- `vc.pack` writes the elements of its registers to one (R104). -/
theorem vcPack_becomes (hi : GangIssues s t g 0x30 0x04 o) : GangBecomes s (.vcPack o) g
    (t.writeN32 o.d ((t.activeLanes g o).map (fun l => (l, packElems (tyWidth o.ty)
      ((upFrom 0 (32 / tyWidth o.ty)).map (fun j => t.laneRead l (o.a + BitVec.ofNat 8 j) 32)))))) := by
  have hx : exec (.vcPack o) s = execVcPack o s := rfl
  rw [execVcPack, hi.onGang] at hx
  exact gangBecomes_of_laneDone hx ((t.writeN32_ended _ _).trans hi.alive)

/-- `vc.unpack` writes the elements of one register to as many, those of a signed type sign-extended (R104). -/
theorem vcUnpack_becomes (hi : GangIssues s t g 0x30 0x05 o) : GangBecomes s (.vcUnpack o) g
    (t.writeRun 32 o.d ((t.activeLanes g o).map (fun l => (l, (upFrom 0 (32 / tyWidth o.ty)).map (fun j =>
      let e := t.laneRead l o.a 32 / 2 ^ (tyWidth o.ty * j) % 2 ^ tyWidth o.ty
      if o.ty.toNat ≤ 3 then wrap (sext e (tyWidth o.ty)) 32 else e))))) := by
  have hx : exec (.vcUnpack o) s = execVcUnpack o s := rfl
  rw [execVcUnpack, hi.onGang] at hx
  simp only [isSigned, decide_eq_true_eq] at hx
  exact gangBecomes_of_laneDone hx hi.alive

end conversions

/-- A NaN is rounded stochastically to the format's canonical NaN, which e2m1 gives as zero (R70, R77). -/
theorem roundSR_nan (f : Fmt) (u : Nat) : roundSR f .nan u = (canonNaN f, (roundF f .rne .nan).2) := by
  by_cases hk : f.kind = 2
  · simp [roundSR, roundF, canonNaN, hk]
  · simp [roundSR, roundF, hk]

theorem roundSR_zero (f : Fmt) (neg : Bool) (e : Int) (u : Nat) : roundSR f (.fin neg 0 e) u = (f.signBit neg, 0) := by
  simp [roundSR]

/-- Settles O37: each VC instruction completes with its lanes' results and flags, and a NaN or a zero takes no random bits. -/
theorem laneConversions : Obligations.LaneConversions := by
  intro s t g o ls src m w sw V cvt
  exact ⟨vcCvt_raises, vcCvts_raises, vcQnpack_raises, vcQnunpack_raises, vcPack_becomes,
    vcUnpack_becomes, fun f u => ⟨roundSR_nan f u, fun neg e => roundSR_zero f neg e u⟩⟩

end Sys2Proof.Machine
end

section
/-! SUPPORT. The lanes that name one address (R82, R192, R203): an integer chain lane by lane, and the sums of a float add. -/

namespace Sys2Proof.Machine

/-! Integer lanes. -/

section chain
variable (op m : Nat) (ty : BitVec 4)

theorem atomGroup_of_ne_fadd {op : Nat} (h : op ≠ 10) (ls : List (Nat × Nat × Nat)) : atomGroup op ty m ls
    = ((atomChain op (tyWidth ty) m ls).1.map (fun p => (p.1, p.2, 0)), (atomChain op (tyWidth ty) m ls).2) := by
  unfold atomGroup
  split
  · exact absurd rfl h
  · exact absurd rfl h
  · exact absurd rfl h
  · rfl

/-- The first lane receives what memory holds, and those after it act on what it left (R82). -/
theorem atomGroup_cons_of_ne_fadd {op : Nat} (h : op ≠ 10) (l x c : Nat) (ls : List (Nat × Nat × Nat)) :
    let r := atomGroup op ty (atomNew op (tyWidth ty) m x c).1 ls
    atomGroup op ty m ((l, x, c) :: ls) = ((l, m, 0) :: r.1, r.2) := by
  simp only [atomGroup_of_ne_fadd _ _ h, atomChain, List.map_cons]

theorem atomGroup_nil : atomGroup op ty m [] = ([], m) := by
  by_cases h : op = 10
  · rw [h, atomGroup]
  · rw [atomGroup_of_ne_fadd _ _ h]
    rfl

/-- Integer additions of one address leave the sum (R82). -/
theorem atomGroup_add {m : Nat} (hm : m < 2 ^ tyWidth ty) (ls : List (Nat × Nat × Nat)) :
    (atomGroup 0 ty m ls).2 = (m + (ls.map (fun y => y.2.1)).sum) % 2 ^ tyWidth ty := by
  induction ls generalizing m with
  | nil => simp [atomGroup_nil, Nat.mod_eq_of_lt hm]
  | cons y ls ih =>
    obtain ⟨l, x, c⟩ := y
    have hs : (atomNew 0 (tyWidth ty) m x c).1 = (m + x) % 2 ^ tyWidth ty := rfl
    rw [atomGroup_cons_of_ne_fadd _ _ (by decide), hs, ih (Nat.mod_lt _ (by positivity)), Nat.mod_add_mod, Nat.add_assoc,
      List.map_cons, List.sum_cons]

end chain

/-! Float adds. -/

/-- The operands of lanes added in order to a sum (R82). -/
def laneSum (f : Fmt) (p : Nat) (ls : List (Nat × Nat)) : Nat := ls.foldl (fun p y => (addF f p y.2).1) p

section fadd
variable (f : Fmt) (m : Nat)

@[simp] theorem laneSum_cons (p : Nat) (y : Nat × Nat) (ls : List (Nat × Nat)) :
    laneSum f p (y :: ls) = laneSum f (addF f p y.2).1 ls := rfl

theorem faddChain_lanes (first : Bool) (p : Nat) (ls : List (Nat × Nat)) :
    (faddChain f m first p ls).1.map (fun y => y.1) = ls.map (fun y => y.1) := by
  induction ls generalizing first p with
  | nil => rfl
  | cons y ls ih => simp [faddChain, ih]

/-- The location takes the sum of all (R82). -/
theorem faddChain_location (first : Bool) (p : Nat) (ls : List (Nat × Nat)) :
    (faddChain f m first p ls).2 = (addF f m (laneSum f p ls)).1 := by
  induction ls generalizing first p with
  | nil => rfl
  | cons y ls ih => simp [faddChain, ih]

/-- A lane receives the location plus the sum of those before it, the first lane the location itself (R82). -/
theorem faddChain_received (first : Bool) (p : Nat) (ls : List (Nat × Nat)) (i : Nat) {y : Nat × Nat × FFlags}
    (h : (faddChain f m first p ls).1[i]? = some y) :
    y.2.1 = if first = true ∧ i = 0 then m else (addF f m (laneSum f p (ls.take i))).1 := by
  induction ls generalizing first p i with
  | nil => simp [faddChain] at h
  | cons x ls ih =>
    cases i with
    | zero =>
      obtain rfl := Option.some.inj h
      cases first <;> rfl
    | succ i => simpa using ih false _ i h

/-- Of several lanes a float add sums from +0 (R82). -/
theorem atomGroup_fadd {ty : BitVec 4} {ls : List (Nat × Nat × Nat)} (h : 2 ≤ ls.length) :
    atomGroup 10 ty m ls = faddChain (Fmt.ofTy ty.toNat) m true 0 (ls.map (fun x => (x.1, x.2.1))) := by
  match ls, h with
  | _ :: _ :: _, _ => rfl

theorem laneSum_operands (ls : List (Nat × Nat × Nat)) :
    laneSum f 0 (ls.map (fun x => (x.1, x.2.1))) = ls.foldl (fun p y => (addF f p y.2.1).1) 0 :=
  List.foldl_map

theorem atomGroup_fadd_lanes (ty : BitVec 4) (ls : List (Nat × Nat × Nat)) :
    (atomGroup 10 ty m ls).1.map (fun y => y.1) = ls.map (fun y => y.1) := by
  match ls with
  | [] => rfl
  | [_] => rfl
  | x :: y :: ls =>
    rw [atomGroup_fadd m (by simp), faddChain_lanes, List.map_map]
    rfl

end fadd

/-- Settles O43: the integer lanes by the chain's recursion, the float adds by induction on the lanes. -/
theorem atomicAggregation : Obligations.AtomicAggregation := by
  intro ty op m ls l x c w
  refine ⟨fun hop => ?_, fun hop hm => hop ▸ atomGroup_add ty hm ls, atomGroup_fadd_lanes m ty ls,
    fun h1 => ?_, fun h2 => ?_⟩
  · have h : op ≠ 10 := by omega
    exact ⟨by rw [atomGroup_cons_of_ne_fadd _ _ h, atomGroup_nil], atomGroup_cons_of_ne_fadd _ _ h l x c ls⟩
  · obtain ⟨y, rfl⟩ := List.length_eq_one_iff.mp h1
    exact ⟨rfl, fun z hz => by rw [List.mem_singleton.mp hz]; rfl⟩
  · rw [atomGroup_fadd m h2]
    refine ⟨?_, fun i y hy => ?_⟩
    · simp only [faddChain_location, laneSum_operands, List.take_length]
    · have h := faddChain_received _ m true 0 _ i hy
      simpa only [← List.map_take, laneSum_operands, true_and] using h

end Sys2Proof.Machine
end

section
/-! SUPPORT. Bits counted (R87, R96): leading and trailing zeros and one bits of a number, as counts over its bits. -/

namespace Sys2Proof.Machine

theorem bitLen_le_iff {n w : Nat} : bitLen n ≤ w ↔ n < 2 ^ w := by
  unfold bitLen
  split
  · next h => simp [h]
  · next h => exact Nat.log2_lt h

/-- A number's length is w + 1 where bit w is its highest. -/
theorem bitLen_of_top {n w : Nat} (hl : 2 ^ w ≤ n) (hu : n < 2 ^ (w + 1)) : bitLen n = w + 1 :=
  Nat.le_antisymm (bitLen_le_iff.mpr hu) (Nat.lt_of_not_le (bitLen_le_iff.not.mpr (Nat.not_lt.mpr hl)))

/-- One bit more: none lead where it is set, else one more than before. -/
theorem clz_succ (w x : Nat) : clz (w + 1) x = if x.testBit w then 0 else clz w x + 1 := by
  have hs : x % 2 ^ (w + 1) = x % 2 ^ w + 2 ^ w * (x / 2 ^ w % 2) := Nat.mod_pow_succ
  have hlt : x % 2 ^ w < 2 ^ w := Nat.mod_lt x (Nat.two_pow_pos w)
  unfold clz
  rw [Nat.testBit_eq_decide_div_mod_eq]
  by_cases hb : x / 2 ^ w % 2 = 1
  · rw [bitLen_of_top (by rw [hs, hb]; omega) (Nat.mod_lt x (Nat.two_pow_pos _))]
    simp [hb]
  · have h0 : x / 2 ^ w % 2 = 0 := by omega
    have hle : bitLen (x % 2 ^ w) ≤ w := bitLen_le_iff.mpr hlt
    rw [hs, h0]
    simp only [Nat.mul_zero, Nat.add_zero, Nat.zero_ne_one, decide_false, Bool.false_eq_true, if_false]
    omega

/-- The leading zeros are the bits, from the highest down, before the first that is set. -/
theorem clz_eq_takeWhile {w x : Nat} {p : Nat → Bool} (h : ∀ i < w, p i = !x.testBit (w - 1 - i)) :
    clz w x = ((List.range w).takeWhile p).length := by
  induction w generalizing p with
  | zero => simp [clz]
  | succ w ih =>
    have hp : p 0 = !x.testBit w := h 0 (Nat.succ_pos w)
    have hr : clz w x = ((List.range w).takeWhile (p ∘ Nat.succ)).length :=
      ih fun i hi => (h (i + 1) (Nat.succ_lt_succ hi)).trans (by rw [show w + 1 - 1 - (i + 1) = w - 1 - i by omega])
    rw [clz_succ, List.range_succ_eq_map, List.takeWhile_cons, hp, List.takeWhile_map, hr]
    cases x.testBit w <;> simp

/-- The trailing zeros are the bits, from the lowest up, before the first that is set. -/
theorem ctz_eq_takeWhile (w x : Nat) : ctz w x = ((List.range w).takeWhile (fun i => !x.testBit i)).length := by
  induction w generalizing x with
  | zero => rfl
  | succ w ih =>
    have hs : (fun i => !x.testBit i) ∘ Nat.succ = fun i => !(x / 2).testBit i := by
      funext i
      simp only [Function.comp_apply, Nat.testBit_succ]
    rw [ctz, List.range_succ_eq_map, List.takeWhile_cons, List.takeWhile_map, hs, ih, Nat.testBit_zero]
    by_cases hx : x % 2 = 1 <;> simp [hx]

theorem popc_eq_countP (w x : Nat) : popc w x = (List.range w).countP (fun i => x.testBit i) := by
  induction w generalizing x with
  | zero => rfl
  | succ w ih =>
    have hs : (fun i => x.testBit i) ∘ Nat.succ = fun i => (x / 2).testBit i := by
      funext i
      simp only [Function.comp_apply, Nat.testBit_succ]
    rw [popc, List.range_succ_eq_map, List.countP_cons, List.countP_map, hs, ih, Nat.testBit_zero]
    by_cases hx : x % 2 = 1
    · simp [hx, Nat.add_comm]
    · simp [Nat.mod_two_ne_one.mp hx]

end Sys2Proof.Machine
end

section
/-! SUPPORT. Scalar arithmetic (R22, R86-R89): the word functions as the spec's arithmetic on integers, wrapped, and an
instruction that writes one value of its operands. -/

namespace Sys2Proof.Machine

/-! Values. -/

section values
variable (A B : Word)

@[simp] theorem wordI_toInt : wordI A.toInt = A := BitVec.ofInt_toInt

@[simp] theorem word_toNat : word A.toNat = A := BitVec.eq_of_toNat_eq (by simp [word])

theorem add_eq_wordI : A + B = wordI (A.toInt + B.toInt) := by
  rw [wordI, BitVec.ofInt_add, BitVec.ofInt_toInt, BitVec.ofInt_toInt]

theorem sub_eq_wordI : A - B = wordI (A.toInt - B.toInt) := by
  rw [wordI, Int.sub_eq_add_neg, BitVec.ofInt_add, BitVec.ofInt_neg, BitVec.ofInt_toInt, BitVec.ofInt_toInt,
    BitVec.sub_eq_add_neg]

theorem mul_eq_wordI : A * B = wordI (A.toInt * B.toInt) := by
  rw [wordI, BitVec.ofInt_mul, BitVec.ofInt_toInt, BitVec.ofInt_toInt]

/-- The quotient truncated toward zero; -2^63 over -1 wraps (R88). -/
theorem divW_eq : divW A B = if B = 0 then BitVec.allOnes 64 else wordI (A.toInt.tdiv B.toInt) := by
  have h : A.sdiv B = wordI (A.toInt.tdiv B.toInt) :=
    BitVec.eq_of_toInt_eq (by rw [BitVec.toInt_sdiv, wordI, BitVec.toInt_ofInt])
  rw [divW, h]

theorem remW_eq : remW A B = if B = 0 then A else wordI (A.toInt.tmod B.toInt) := by
  rw [remW, ← BitVec.toInt_srem, wordI_toInt]

theorem divnW_eq : divnW A B = if B = 0 then BitVec.allOnes 64 else word (A.toNat / B.toNat) := by
  rw [divnW, ← BitVec.toNat_udiv, word_toNat]

theorem remnW_eq : remnW A B = if B = 0 then A else word (A.toNat % B.toNat) := by
  rw [remnW, ← BitVec.toNat_umod, word_toNat]

/-! Shifts by a number. -/

theorem shiftLeft_eq_word (n : Nat) : A <<< n = word (A.toNat * 2 ^ n) :=
  BitVec.eq_of_toNat_eq (by rw [BitVec.toNat_shiftLeft, Nat.shiftLeft_eq, word, BitVec.toNat_ofNat])

theorem ushiftRight_eq_word (n : Nat) : A >>> n = word (A.toNat / 2 ^ n) := by
  rw [← Nat.shiftRight_eq_div_pow, ← BitVec.toNat_ushiftRight, word_toNat]

theorem sshiftRight_eq_wordI (n : Nat) : A.sshiftRight n = wordI (A.toInt / 2 ^ n) := by
  have hp : (2 ^ n : Int) = ((2 ^ n : Nat) : Int) := by norm_cast
  rw [hp, ← Int.shiftRight_eq_div_pow, ← BitVec.toInt_sshiftRight, wordI_toInt]

theorem shlW_eq : shlW A B = if B.toNat < 64 then word (A.toNat * 2 ^ B.toNat) else 0 := by
  rw [shlW, shiftLeft_eq_word]

theorem shrW_eq : shrW A B = if B.toNat < 64 then word (A.toNat / 2 ^ B.toNat) else 0 := by
  rw [shrW, ushiftRight_eq_word]

theorem sarW_eq : sarW A B = wordI (A.toInt / 2 ^ min B.toNat 63) := sshiftRight_eq_wordI A _

/-! The smaller and the larger. -/

theorem signedMin_eq : (if A.slt B then A else B) = wordI (min A.toInt B.toInt) := by
  simp only [BitVec.slt_iff_toInt_lt]
  split
  · next h => rw [min_eq_left h.le, wordI_toInt]
  · next h => rw [min_eq_right (not_lt.mp h), wordI_toInt]

theorem signedMax_eq : (if A.slt B then B else A) = wordI (max A.toInt B.toInt) := by
  simp only [BitVec.slt_iff_toInt_lt]
  split
  · next h => rw [max_eq_right h.le, wordI_toInt]
  · next h => rw [max_eq_left (not_lt.mp h), wordI_toInt]

theorem unsignedMin_eq : (if A.ult B then A else B) = word (min A.toNat B.toNat) := by
  simp only [BitVec.ult_iff_lt, BitVec.lt_def]
  split
  · next h => rw [min_eq_left h.le, word_toNat]
  · next h => rw [min_eq_right (not_lt.mp h), word_toNat]

theorem unsignedMax_eq : (if A.ult B then B else A) = word (max A.toNat B.toNat) := by
  simp only [BitVec.ult_iff_lt, BitVec.lt_def]
  split
  · next h => rw [max_eq_right h.le, word_toNat]
  · next h => rw [max_eq_left (not_lt.mp h), word_toNat]

/-! Bits counted, and comparisons. -/

theorem clz_word : clz 64 A.toNat = ((List.range 64).takeWhile (fun i => !A.getMsbD i)).length :=
  clz_eq_takeWhile fun i hi => by simp only [BitVec.getMsbD, decide_eq_true hi, Bool.true_and, BitVec.getLsbD]

/-- A flag of a decidable proposition is 1 where it holds. -/
theorem wordB_eq_ite {b : Bool} {p : Prop} [Decidable p] (h : b = true ↔ p) : wordB b = if p then 1 else 0 :=
  ite_congr (propext h) (fun _ => rfl) (fun _ => rfl)

theorem wordB_ne : wordB (A != B) = if A = B then 0 else 1 := by
  by_cases h : A = B <;> simp [wordB, h]

/-! Immediates (R22). -/

theorem setWidth_eq_word {w : Nat} (i : BitVec w) : i.setWidth 64 = word i.toNat := by
  rw [word, BitVec.ofNat_toNat]

theorem toNat_amount (n : BitVec 6) : (n.setWidth 64).toNat = n.toNat := by
  rw [BitVec.toNat_setWidth]; omega

theorem add_sextImm (i : BitVec 14) : A + sextImm i = wordI (A.toInt + i.toInt) := by
  rw [wordI, BitVec.ofInt_add, BitVec.ofInt_toInt, sextImm, BitVec.signExtend]

theorem shlW_amount (n : BitVec 6) : shlW A (n.setWidth 64) = word (A.toNat * 2 ^ n.toNat) := by
  rw [shlW_eq, toNat_amount, if_pos (n.isLt)]

theorem shrW_amount (n : BitVec 6) : shrW A (n.setWidth 64) = word (A.toNat / 2 ^ n.toNat) := by
  rw [shrW_eq, toNat_amount, if_pos n.isLt]

theorem sarW_amount (n : BitVec 6) : sarW A (n.setWidth 64) = wordI (A.toInt / 2 ^ n.toNat) := by
  rw [sarW_eq, toNat_amount, Nat.min_eq_left (Nat.le_of_lt_succ n.isLt)]

/-- `lih` shifts its constant in: the low bits of the shifted register are clear (R22). -/
theorem shiftLeft_or_eq_word (j : BitVec 20) : (A <<< 20) ||| j.setWidth 64 = word (A.toNat * 2 ^ 20 + j.toNat) := by
  have hz : (A <<< 20) &&& j.setWidth 64 = 0 := by
    ext k hk
    simpa using fun h _ => BitVec.getLsbD_of_ge j k h
  rw [← BitVec.add_eq_or_of_and_eq_zero _ _ hz, shiftLeft_eq_word, setWidth_eq_word, word, word, word, BitVec.ofNat_add]

end values

/-! Instructions that write one value (R86). -/

section instructions
variable {s : State} {t : Thread} {d a b : BitVec 6} {i : Instr} {v : Word}

/-- An INT instruction gives one value of its two operands (R86). -/
theorem gives_of_intOp (hi : Issues s t) {f : Word → Word → Word} (hx : exec i s = intOp s d a b f)
    (hv : f (t.S a) (t.S b) = v) : GivesS s t i d v := by
  rw [GivesS, Becomes, hx, intOp, onThread_of hi, aluDone, hv]

/-- An instruction that gives one value of one operand (R86, R89). -/
theorem gives_of_intOp1 (hi : Issues s t) {f : Word → Word} (hx : exec i s = intOp1 s d a f) (hv : f (t.S a) = v) :
    GivesS s t i d v := by
  rw [GivesS, Becomes, hx, intOp1, onThread_of hi, aluDone, hv]

/-- An instruction that gives one value of the thread's registers (R86). -/
theorem gives_of_aluDone (hi : Issues s t) {f : Thread → Word}
    (hx : exec i s = onThread s (fun n t => aluDone s n t d (f t))) (hv : f t = v) : GivesS s t i d v := by
  rw [GivesS, Becomes, hx, onThread_of hi, aluDone, hv]

end instructions

/-- Settles O9: each instruction writes one word function of its operands, equal to the spec's. -/
theorem scalarArithmetic : Obligations.ScalarArithmetic := by
  refine ⟨?_, ?_⟩
  · intro s t hi d a b A B gives
    have two {x : Instr} (f : Word → Word → Word) {v : Word} (hx : exec x s = intOp s d a b f) (hv : f A B = v) :
        gives x v := gives_of_intOp hi hx hv
    have one {x : Instr} (f : Word → Word) {v : Word} (hx : exec x s = intOp1 s d a f) (hv : f A = v) :
        gives x v := gives_of_intOp1 hi hx hv
    exact ⟨two (· + ·) rfl (add_eq_wordI A B), two (· - ·) rfl (sub_eq_wordI A B), two (· * ·) rfl (mul_eq_wordI A B),
      two (fun x y => wordI (x.toInt * y.toInt / 2 ^ 64)) rfl rfl,
      two (fun x y => word (x.toNat * y.toNat / 2 ^ 64)) rfl rfl,
      two divW rfl (divW_eq A B), two divnW rfl (divnW_eq A B), two remW rfl (remW_eq A B), two remnW rfl (remnW_eq A B),
      two (· &&& ·) rfl rfl, two (· ||| ·) rfl rfl, two (· ^^^ ·) rfl rfl, two (fun x y => x &&& ~~~y) rfl rfl,
      two shlW rfl (shlW_eq A B), two shrW rfl (shrW_eq A B), two sarW rfl (sarW_eq A B),
      two (fun x y => if x.slt y then x else y) rfl (signedMin_eq A B),
      two (fun x y => if x.slt y then y else x) rfl (signedMax_eq A B),
      two (fun x y => if x.ult y then x else y) rfl (unsignedMin_eq A B),
      two (fun x y => if x.ult y then y else x) rfl (unsignedMax_eq A B),
      one (fun x => word (clz 64 x.toNat)) rfl (congrArg word (clz_word A)),
      one (fun x => word (ctz 64 x.toNat)) rfl (congrArg word (ctz_eq_takeWhile 64 A.toNat)),
      one (fun x => word (popc 64 x.toNat)) rfl (congrArg word (popc_eq_countP 64 A.toNat)),
      two (fun x y => wordB (x == y)) rfl (wordB_eq_ite beq_iff_eq), two (fun x y => wordB (x != y)) rfl (wordB_ne A B),
      two (fun x y => wordB (x.slt y)) rfl (wordB_eq_ite BitVec.slt_iff_toInt_lt),
      two (fun x y => wordB (x.ult y)) rfl (wordB_eq_ite BitVec.ult_iff_lt),
      two (fun x y => wordB (x.sle y)) rfl (wordB_eq_ite BitVec.sle_iff_toInt_le),
      two (fun x y => wordB (x.ule y)) rfl (wordB_eq_ite BitVec.ule_iff_le),
      gives_of_aluDone hi (f := fun t => if t.S d ≠ 0 then t.S a else t.S b) rfl (ite_not ..)⟩
  · intro s t hi d a n i j A gives
    have one {x : Instr} (f : Word → Word) {v : Word} (hx : exec x s = intOp1 s d a f) (hv : f A = v) :
        gives x v := gives_of_intOp1 hi hx hv
    have own {x : Instr} (f : Thread → Word) {v : Word} (hx : exec x s = onThread s (fun n u => aluDone s n u d (f u)))
        (hv : f t = v) : gives x v := gives_of_aluDone hi hx hv
    exact ⟨one (· + sextImm i) rfl (add_sextImm A i), one (· &&& sextImm i) rfl rfl,
      one (· ||| zextImm i) rfl (congrArg (A ||| ·) (setWidth_eq_word i)),
      one (· ^^^ zextImm i) rfl (congrArg (A ^^^ ·) (setWidth_eq_word i)),
      one (shlW · (n.setWidth 64)) rfl (shlW_amount A n), one (shrW · (n.setWidth 64)) rfl (shrW_amount A n),
      one (sarW · (n.setWidth 64)) rfl (sarW_amount A n), own (fun _ => j.signExtend 64) rfl rfl,
      own (fun t => t.S d <<< 20 ||| j.setWidth 64) rfl (shiftLeft_or_eq_word _ j)⟩

end Sys2Proof.Machine
end

section
/-! SUPPORT. Scalar control flow (R90-R92): targets as sums of integers, what a branch, a jump and a return continue at. -/

namespace Sys2Proof.Machine

/-- PC + 4·sext(off), wrapped (R90, R91). -/
theorem add_offset_eq_wordI (pc : Word) {n : Nat} (o : BitVec n) :
    pc + (o.signExtend 64 <<< 2) = wordI (pc.toInt + 4 * o.toInt) := by
  have h4 : o.signExtend 64 <<< 2 = BitVec.ofInt 64 (4 * o.toInt) := by
    rw [BitVec.shiftLeft_eq_mul_twoPow, BitVec.mul_comm, BitVec.signExtend, BitVec.ofInt_mul]
    rfl
  rw [h4, wordI, BitVec.ofInt_add, BitVec.ofInt_toInt]

section signs
variable (x : Word)

theorem beq_zero_iff_toInt : (x == 0) = true ↔ x.toInt = 0 := beq_iff_eq.trans (BitVec.toInt_inj (y := 0#64)).symm

theorem bne_zero_iff_toInt : (x != 0) = true ↔ x.toInt ≠ 0 := bne_iff_ne.trans (BitVec.toInt_inj (y := 0#64)).not.symm

theorem slt_zero_iff_toInt : x.slt 0 = true ↔ x.toInt < 0 := BitVec.slt_iff_toInt_lt

theorem not_slt_zero_iff_toInt : (!x.slt 0) = true ↔ x.toInt ≥ 0 := by
  rw [Bool.not_eq_true', ← Bool.not_eq_true, slt_zero_iff_toInt, Int.not_lt]

theorem sle_zero_iff_toInt : x.sle 0 = true ↔ x.toInt ≤ 0 := BitVec.sle_iff_toInt_le

theorem not_sle_zero_iff_toInt : (!x.sle 0) = true ↔ x.toInt > 0 := by
  rw [Bool.not_eq_true', ← Bool.not_eq_true, sle_zero_iff_toInt, Int.not_le]

end signs

section instructions
variable {s : State} {t : Thread} {a : BitVec 6} {i : Instr}

/-- A conditional branch continues at its target where its condition holds, else at the next word (R90). -/
theorem jumps_of_branchIf (hi : Issues s t) {o : BitVec 16} {c : Word → Bool} {p : Prop}
    (hx : exec i s = branchIf s a o c) (hc : c (t.S a) = true ↔ p) :
    (p → JumpsTo s t i (wordI (t.pc.toInt + 4 * o.toInt))) ∧ (¬p → JumpsTo s t i (t.pc + 4)) := by
  rw [branchIf, onThread_of hi] at hx
  refine ⟨fun hp => ?_, fun hp => ?_⟩
  · rw [JumpsTo, Becomes, hx, if_pos (hc.mpr hp), branchTarget, add_offset_eq_wordI, goTo]
  · rw [JumpsTo, Becomes, hx, if_neg (hc.not.mpr hp), goTo]

/-- A jump through a register continues at an aligned target with what the link leaves of the thread, and at a misaligned one
faults before any link is written (R92). -/
theorem jr_outcomes (hi : Issues s t) (link : Thread → Thread)
    (hx : exec i s = onThread s (fun n t => if (t.S a).toNat % 4 ≠ 0 then faultOut s n (scalarF t 0x04 (t.S a) 0)
      else goTo s n (link t) (t.S a))) :
    ((t.S a).toNat % 4 = 0 → JumpsTo s (link t) i (t.S a)) ∧ ((t.S a).toNat % 4 ≠ 0 → Faults s t i 0x04 (t.S a) 0) := by
  rw [onThread_of hi] at hx
  refine ⟨fun ha => ?_, fun ha => ?_⟩
  · rw [JumpsTo, Becomes, hx, if_neg (not_not.mpr ha), goTo]
  · rw [Faults, hx, if_pos ha, faultOut]

theorem jmp_jumps (hi : Issues s t) (o : BitVec 26) : JumpsTo s t (.jmp o) (wordI (t.pc.toInt + 4 * o.toInt)) := by
  show execJmp o s = _
  rw [execJmp, onThread_of hi, jumpTarget, add_offset_eq_wordI, goTo]

/-- A call continues at its target with the address of the next word in s47 (R91). -/
theorem call_jumps (hi : Issues s t) (o : BitVec 26) :
    JumpsTo s (t.setS 47 (t.pc + 4)) (.call o) (wordI (t.pc.toInt + 4 * o.toInt)) := by
  show execCall o s = _
  rw [execCall, onThread_of hi, jumpTarget, add_offset_eq_wordI, goTo]

end instructions

/-- The words of `jr.jr` and `jr.jrl` have zero d and b fields (R92). -/
theorem decodeScalar_jr (a : BitVec 6) :
    decodeScalar (0x0B#6 ++ 0#6 ++ a ++ 0#6 ++ 0x00#8) = some (.jrJr a)
      ∧ decodeScalar (0x0B#6 ++ 0#6 ++ a ++ 0#6 ++ 0x01#8) = some (.jrJrl a) := by
  simp [decodeScalar, decJr]

/-- Settles O11: a branch by its condition on the sign of S(a), a jump by its target, a register jump by its alignment. -/
theorem controlFlow : Obligations.ControlFlow := by
  refine ⟨?_, ?_, fun a o => ?_⟩
  · intro s t hi a o x go
    have branch {i : Instr} (c : Word → Bool) {p : Prop} (hx : exec i s = branchIf s a o c) (hc : c (t.S a) = true ↔ p) :
        go i p := jumps_of_branchIf hi hx hc
    exact ⟨branch (· == 0) rfl (beq_zero_iff_toInt _), branch (· != 0) rfl (bne_zero_iff_toInt _),
      branch (·.slt 0) rfl (slt_zero_iff_toInt _), branch (!·.slt 0) rfl (not_slt_zero_iff_toInt _),
      branch (·.sle 0) rfl (sle_zero_iff_toInt _), branch (!·.sle 0) rfl (not_sle_zero_iff_toInt _)⟩
  · intro s t hi a o target
    obtain ⟨jumps, faults⟩ := jr_outcomes (a := a) (i := .jrJr a) hi id rfl
    obtain ⟨links, linkFaults⟩ := jr_outcomes (a := a) (i := .jrJrl a) hi (fun t => t.setS 47 (t.pc + 4)) rfl
    exact ⟨jmp_jumps hi o, call_jumps hi o, fun ha => ⟨jumps ha, links ha⟩, fun ha => ⟨faults ha, linkFaults ha⟩⟩
  · obtain ⟨hjr, hjrl⟩ := decodeScalar_jr a
    exact ⟨decodeScalar_of_encodeScalar rfl, decodeScalar_of_encodeScalar rfl, hjr, hjrl,
      decodeScalar_of_encodeScalar (i := .call 0x10) rfl, decodeScalar_of_encodeScalar (i := .jrJr 47) rfl⟩

end Sys2Proof.Machine
end

section
/-! SUPPORT. Integer lane arithmetic (R44, R95, R96): wrapped results as the model computes them on codes, and an instruction
that gives every active lane one function of its operands. -/

namespace Sys2Proof.Machine

/-! Wrapping (R44). -/

theorem wrap_eq_toNat_ofInt (x : Int) (w : Nat) : wrap x w = (BitVec.ofInt w x).toNat := by
  rw [BitVec.toNat_ofInt, wrap]

theorem wrap_natCast (n w : Nat) : wrap (n : Int) w = n % 2 ^ w := by
  rw [wrap, ← Int.natCast_mod, Int.toNat_natCast]

/-- A difference of codes wraps without going below zero. -/
theorem wrap_sub {a b w : Nat} (hb : b < 2 ^ w) : wrap ((a : Int) - b) w = (a + 2 ^ w - b) % 2 ^ w := by
  have h : (a : Int) - b = (a + 2 ^ w - b : Nat) - (2 ^ w : Nat) := by omega
  rw [wrap, h, Int.sub_emod_right, ← wrap, wrap_natCast]

theorem wrap_sext {x w : Nat} (hw : 0 < w) (hx : x < 2 ^ w) : wrap (sext x w) w = x := by
  rw [wrap_eq_toNat_ofInt, sext_eq_toInt x hw, BitVec.ofInt_toInt, BitVec.toNat_ofNat, Nat.mod_eq_of_lt hx]

section codes
variable {a b w : Nat} (hw : 0 < w) (ha : a < 2 ^ w) (hb : b < 2 ^ w)
include hw ha hb

theorem wrap_min_sext : wrap (min (sext a w) (sext b w)) w = if sext b w < sext a w then b else a := by
  split
  · next h => rw [min_eq_right h.le, wrap_sext hw hb]
  · next h => rw [min_eq_left (not_lt.mp h), wrap_sext hw ha]

theorem wrap_max_sext : wrap (max (sext a w) (sext b w)) w = if sext a w < sext b w then b else a := by
  split
  · next h => rw [max_eq_right h.le, wrap_sext hw hb]
  · next h => rw [max_eq_left (not_lt.mp h), wrap_sext hw ha]

end codes

theorem tyWidth_pos (ty : BitVec 4) : 0 < tyWidth ty := by
  revert ty; decide

/-! Signedness of a type (R95). -/

theorem isSigned_iff (n : Nat) : isSigned n = true ↔ n ≤ 3 := decide_eq_true_iff

theorem hatOf_eq (ty : BitVec 4) (x : Nat) : hatOf ty x = if ty.toNat ≤ 3 then sext x (tyWidth ty) else (x : Int) := by
  simp only [hatOf, isSigned_iff]

theorem wrap_natAbs_hatOf {ty : BitVec 4} {x : Nat} (hx : x < 2 ^ tyWidth ty) : wrap (hatOf ty x).natAbs (tyWidth ty)
    = if isSigned ty.toNat then wrap (sext x (tyWidth ty)).natAbs (tyWidth ty) else x := by
  unfold hatOf
  split
  · rfl
  · rw [Int.natAbs_natCast, wrap_natCast, Nat.mod_eq_of_lt hx]

/-- An immediate read as two's complement (R96). -/
theorem sext_im (im : BitVec 32) : sext im.toNat 32 = im.toInt := by
  rw [sext_eq_toInt _ (by decide), BitVec.ofNat_toNat, BitVec.setWidth_eq]

theorem Thread.operand_lt (t : Thread) (l : Nat) (code : BitVec 8) (ty : BitVec 4) :
    t.operand l code ty < 2 ^ tyWidth ty := Nat.mod_lt _ (Nat.two_pow_pos _)

/-- Settles O34: each instruction is one function of the lane's operands, equal to the spec's on codes of the type's width. -/
theorem laneIntegerArithmetic : Obligations.LaneIntegerArithmetic := by
  intro s t g o w A B C n hat gives
  have vector {fn : BitVec 8} {i : LaneOps → Instr} (f : Thread → Nat → Nat → Nat) {v : Nat → Nat}
      (hx : exec (i o) s = laneVector s 0x10 fn o f) (hv : ∀ l, v l = f t g l) : gives fn i v := by
    obtain rfl : v = f t g := funext hv
    exact fun hi => laneVector_gives hi hx
  have un {fn : BitVec 8} {i : LaneOps → Instr} (f : Nat → Nat → Nat) {v : Nat → Nat}
      (hx : exec (i o) s = viUn s fn o f) (hv : ∀ l, v l = f w (A l)) : gives fn i v := vector _ hx hv
  have bin {fn : BitVec 8} {i : LaneOps → Instr} (f : Nat → Nat → Nat → Nat) {v : Nat → Nat}
      (hx : exec (i o) s = viBin s fn o f) (hv : ∀ l, v l = f w (A l) (B l)) : gives fn i v := vector _ hx hv
  have shift {fn : BitVec 8} {i : LaneOps → Instr} (f : Nat → Nat → Nat → Nat) {v : Nat → Nat}
      (hx : exec (i o) s = viShift s fn o f) (hv : ∀ l, v l = f w (A l) (n l)) : gives fn i v := vector _ hx hv
  have hw : 0 < w := tyWidth_pos o.ty
  have hA (l : Nat) : A l < 2 ^ w := t.operand_lt l o.a o.ty
  have hB (l : Nat) : B l < 2 ^ w := t.operand_lt l o.b o.ty
  have hhat (x : Nat) : hat x = hatOf o.ty x := (hatOf_eq o.ty x).symm
  refine ⟨bin (fun w a b => (a + b) % 2 ^ w) rfl fun l => wrap_natCast (A l + B l) w,
    bin (fun w a b => (a + 2 ^ w - b) % 2 ^ w) rfl fun l => wrap_sub (hB l),
    bin (fun w a b => a * b % 2 ^ w) rfl fun l => wrap_natCast (A l * B l) w,
    bin (fun w a b => wrap (sext a w * sext b w / ((2 ^ w : Nat) : Int)) w) rfl fun l => rfl,
    bin (fun w a b => a * b / 2 ^ w) rfl fun l => rfl,
    vector (fun t _ l => (t.operand l o.a o.ty * t.operand l o.b o.ty + t.operand l o.c o.ty) % 2 ^ tyWidth o.ty) rfl
      fun l => wrap_natCast (A l * B l + C l) w,
    bin (fun _ a b => Nat.land a b) rfl fun l => rfl,
    bin (fun _ a b => Nat.lor a b) rfl fun l => rfl,
    bin (fun _ a b => Nat.xor a b) rfl fun l => rfl,
    bin (fun w a b => Nat.land a (2 ^ w - 1 - b)) rfl fun l => rfl,
    shift (fun w a n => if n < w then a * 2 ^ n % 2 ^ w else 0) rfl fun l => ?_,
    shift (fun w a n => if n < w then a / 2 ^ n else 0) rfl fun l => rfl,
    shift (fun w a n => wrap (sext a w / ((2 ^ min n (w - 1) : Nat) : Int)) w) rfl fun l => rfl,
    bin (fun w a b => if sext b w < sext a w then b else a) rfl fun l => wrap_min_sext hw (hA l) (hB l),
    bin (fun w a b => if sext a w < sext b w then b else a) rfl fun l => wrap_max_sext hw (hA l) (hB l),
    bin (fun _ a b => min a b) rfl fun l => rfl,
    bin (fun _ a b => max a b) rfl fun l => rfl,
    un (fun w a => if isSigned o.ty.toNat then wrap (sext a w).natAbs w else a) rfl fun l => ?_,
    un clz rfl fun l => (clz_eq_takeWhile fun _ _ => rfl).symm,
    un popc rfl fun l => (popc_eq_countP w (A l)).symm,
    bin (fun w a b => wrap (satTy (hatOf o.ty a + hatOf o.ty b) o.ty.toNat) w) rfl fun l => ?_,
    bin (fun w a b => wrap (satTy (hatOf o.ty a - hatOf o.ty b) o.ty.toNat) w) rfl fun l => ?_,
    vector (fun t _ l => if t.pred l o.c.toNat then t.operand l o.a o.ty else t.operand l o.b o.ty) rfl fun l => rfl,
    un (fun _ a => a) rfl fun l => rfl,
    vector (fun _ _ _ => wrap (if isSigned o.ty.toNat then sext o.im.toNat 32 else o.im.toNat) (tyWidth o.ty)) rfl
      fun l => ?_,
    vector (fun _ _ l => wrap ((l : Int) + sext o.im.toNat 32) (tyWidth o.ty)) rfl fun l => ?_⟩
  · exact if_congr Iff.rfl (mod_cast wrap_natCast (A l * 2 ^ n l) w) rfl
  · rw [hhat]
    exact wrap_natAbs_hatOf (hA l)
  · rw [hhat, hhat]
  · rw [hhat, hhat]
  · simp only [isSigned_iff, sext_im]
    rfl
  · rw [sext_im]

end Sys2Proof.Machine
end

section
/-! SUPPORT. Lane predicates (R94, R96, R99, R109): an instruction that gives every active lane one bit, and compares and
classes of a NaN. -/

namespace Sys2Proof.Machine

/-- An instruction whose meaning is a predicate result writes its bit for every active lane (R94). -/
theorem lanePred_gives {s : State} {t : Thread} {g : Nat} {op fn : BitVec 8} {o : LaneOps} {i : Instr}
    {f : Thread → Nat → Bool} (hi : GangIssues s t g op fn o) (hx : exec i s = lanePred s op fn o f) :
    GivesPred s t g i o (f t) :=
  gangBecomes_of_laneDone (hx.trans (hi.onGang _)) ((t.writePred_ended _ _).trans hi.alive)

theorem vfClass_becomes {s : State} {t : Thread} {g : Nat} {o : LaneOps} (hi : GangIssues s t g 0x20 0x14 o) :
    GangBecomes s (.vfClass o) g (t.writeN32 o.d ((t.activeLanes g o).map
      (fun l => (l, 2 ^ classBit (Fmt.ofTy o.ty.toNat) (t.operand l o.a o.ty))))) := by
  have hx : exec (.vfClass o) s = execVfClass o s := rfl
  exact gangBecomes_of_laneDone (hx.trans (hi.onGang _)) ((t.writeN32_ended _ _).trans hi.alive)

/-- A NaN equals nothing and orders before nothing (R99). -/
theorem FVal.nan_compares (y : FVal) : FVal.nan.feq y = false ∧ FVal.nan.lt y = false := by
  cases y <;> exact ⟨rfl, rfl⟩

theorem classBit_nan {f : Fmt} {a : Nat} (h : f.value a = .nan) : classBit f a = 8 := by
  simp only [classBit, h]

/-- Settles O35: each instruction is one bit of the lane's operands; `vf.class` writes a mask; a NaN is unordered. -/
theorem lanePredicates : Obligations.LanePredicates := by
  intro s t g o w A B f x y p q gives
  have bit {op fn : BitVec 8} {i : LaneOps → Instr} (f : Thread → Nat → Bool) {v : Nat → Bool}
      (hx : exec (i o) s = lanePred s op fn o f) (hv : ∀ l, v l = f t l) : gives op fn i v := by
    obtain rfl : v = f t := funext hv
    exact fun hi => lanePred_gives hi hx
  have int {fn : BitVec 8} {i : LaneOps → Instr} (c : Nat → Nat → Nat → Bool) {v : Nat → Bool}
      (hx : exec (i o) s = viCmp s fn o c) (hv : ∀ l, v l = c w (A l) (B l)) : gives 0x10 fn i v := bit _ hx hv
  have float {fn : BitVec 8} {i : LaneOps → Instr} (c : FVal → FVal → Bool) {v : Nat → Bool}
      (hx : exec (i o) s = vfCmp s fn o c) (hv : ∀ l, v l = c (x l) (y l)) : gives 0x20 fn i v := bit _ hx hv
  refine ⟨int (fun _ a b => a == b) rfl fun l => rfl,
    int (fun _ a b => a != b) rfl fun l => decide_not,
    int (fun w a b => decide (sext a w < sext b w)) rfl fun l => rfl,
    int (fun _ a b => decide (a < b)) rfl fun l => rfl,
    int (fun w a b => decide (sext a w ≤ sext b w)) rfl fun l => rfl,
    int (fun _ a b => decide (a ≤ b)) rfl fun l => rfl,
    float FVal.feq rfl fun l => rfl, float FVal.lt rfl fun l => rfl,
    float (fun x y => x.lt y || x.feq y) rfl fun l => rfl,
    float (fun x y => decide (x = .nan) || decide (y = .nan)) rfl fun l => Bool.decide_or _ _,
    bit (fun t l => t.pred l o.a.toNat && t.pred l o.b.toNat) rfl fun l => rfl,
    bit (fun t l => t.pred l o.a.toNat || t.pred l o.b.toNat) rfl fun l => rfl,
    bit (fun t l => t.pred l o.a.toNat != t.pred l o.b.toNat) rfl fun l => rfl,
    bit (fun t l => !t.pred l o.a.toNat) rfl fun l => rfl,
    bit (fun t l => t.pred l o.a.toNat) rfl fun l => rfl,
    bit (fun _ l => o.im.getLsbD l) rfl fun l => rfl,
    vfClass_becomes, fun l hn => ?_⟩
  obtain ⟨heq, hlt⟩ := FVal.nan_compares (y l)
  exact ⟨hn ▸ heq, hn ▸ hlt, classBit_nan hn⟩

end Sys2Proof.Machine
end

section
/-! SUPPORT. The VX group (R105-R108): permutes, the accumulators of a scan or reduction, votes and ballots. -/

namespace Sys2Proof.Machine

/-! Accumulators (R107). -/

section scan
variable {ty oper : Nat}

theorem vxScan_lanes (p : Nat) (xs : List (Nat × Nat)) :
    (vxScan ty oper p xs).map (fun y => y.1) = xs.map (fun y => y.1) := by
  induction xs generalizing p with
  | nil => rfl
  | cons x xs ih => simp only [vxScan, List.map_cons, ih]

/-- Behind an accumulator of a scan stands the one that takes in the next lane's operand (R107). -/
theorem vxScan_next {l p : Nat} {f : FFlags} {xs : List (Nat × Nat)} {k : Nat} {y z : Nat × Nat × FFlags}
    (hy : ((l, p, f) :: vxScan ty oper p xs)[k]? = some y)
    (hz : ((l, p, f) :: vxScan ty oper p xs)[k + 1]? = some z) :
    ∃ x, xs[k]? = some (z.1, x) ∧ z.2 = vxCombine ty oper y.2.1 x := by
  induction xs generalizing l p f k with
  | nil => simp [vxScan] at hz
  | cons x xs ih =>
    cases k with
    | zero =>
      obtain rfl := Option.some.inj hy
      obtain rfl := Option.some.inj hz
      exact ⟨x.2, rfl, rfl⟩
    | succ k => exact ih hy hz

end scan

section accs
variable {t : Thread} {o : LaneOps} {ls : List Nat}

theorem vxAccs_lanes : (vxAccs t o ls).map (fun x => x.1) = ls := by
  cases ls with
  | nil => rfl
  | cons l r => simp [vxAccs, vxScan_lanes, Function.comp_def]

/-- The first accumulator is A of the lowest lane, a NaN as CanonNaN (R71, R107). -/
theorem vxAccs_first {y : Nat × Nat × FFlags} (h : (vxAccs t o ls)[0]? = some y) :
    y.2 = (vxStart o.ty.toNat (t.operand y.1 o.a o.ty), 0) := by
  cases ls with
  | nil => cases h
  | cons l r =>
    obtain rfl := Option.some.inj h
    rfl

/-- Each further accumulator combines the one before it with A of its lane (R107). -/
theorem vxAccs_next {k : Nat} {y z : Nat × Nat × FFlags} (hy : (vxAccs t o ls)[k]? = some y)
    (hz : (vxAccs t o ls)[k + 1]? = some z) :
    z.2 = vxCombine o.ty.toNat (vxOper o) y.2.1 (t.operand z.1 o.a o.ty) := by
  cases ls with
  | nil => cases hz
  | cons l r =>
    obtain ⟨x, hx, hc⟩ := vxScan_next hy hz
    rw [List.getElem?_map] at hx
    obtain ⟨i, -, hi⟩ := Option.map_eq_some_iff.mp hx
    obtain ⟨rfl, rfl⟩ := Prod.mk.inj hi
    exact hc

end accs

/-! Instructions. -/

section instructions
variable {s : State} {t : Thread} {g : Nat} {o : LaneOps}

/-- A permute gives a lane A of its source, or its own A where the source is outside the gang (R105, R106). -/
theorem vxPermute_gives {fn : BitVec 8} {i : Instr} {src : Thread → Nat → Int} (hi : GangIssues s t g 0x40 fn o)
    (hx : exec i s = vxPermute s fn o src) : GivesLanes s t g i o (fun l =>
      t.operand (if 0 ≤ src t l ∧ (src t l).toNat ∈ t.gangLanes g then (src t l).toNat else l) o.a o.ty) := by
  have gives := laneVector_gives hi hx
  simpa only [List.contains_iff_mem] using gives

/-- `vx.scan` writes the accumulators, or the identity and those before the last, with the flags of each lane (R107). -/
theorem vxScan_raises (hi : GangIssues s t g 0x40 0x05 o) {results : List (Nat × Nat)}
    (hr : (if o.md.getLsbD 3 then (t.activeLanes g o).zip (vxIdentity o.ty.toNat (vxOper o)
        :: (vxAccs t o (t.activeLanes g o)).map (fun x => x.2.1))
      else (vxAccs t o (t.activeLanes g o)).map (fun x => (x.1, x.2.1))) = results) :
    GangRaises s t g (.vxScan o) (t.writeTy o.ty o.d results)
      ((vxAccs t o (t.activeLanes g o)).map (fun x => (x.1, x.2.2))) := by
  subst hr
  have hx : exec (.vxScan o) s = execVxScan o s := rfl
  exact gangRaises_of_laneDone (hx.trans (hi.onGang _)) ((t.writeTy_ended _ _ _).trans hi.alive) (t.writeTy_fpctl _ _ _)

/-- `vx.red` gives every active lane the last accumulator (R107). -/
theorem vxRed_raises (hi : GangIssues s t g 0x40 0x06 o) {y : Nat × Nat × FFlags}
    (hl : (vxAccs t o (t.activeLanes g o)).getLast? = some y) :
    GangRaises s t g (.vxRed o) (t.writeTy o.ty o.d ((t.activeLanes g o).map (fun i => (i, y.2.1))))
      ((vxAccs t o (t.activeLanes g o)).map (fun x => (x.1, x.2.2))) := by
  have hx : exec (.vxRed o) s = execVxRed o s := rfl
  rw [execVxRed, hi.onGang] at hx
  simp only [hl] at hx
  exact gangRaises_of_laneDone hx ((t.writeTy_ended _ _ _).trans hi.alive) (t.writeTy_fpctl _ _ _)

/-- `vx.vote` gives every active lane whether all, some, or all alike have the predicate set (R108). -/
theorem vxVote_gives (hi : GangIssues s t g 0x40 0x07 o) :
    let ls := t.activeLanes g o
    let p : Nat → Bool := fun l => t.pred l o.a.toNat
    GivesPred s t g (.vxVote o) o (fun _ =>
      if o.md.toNat % 4 = 0 then ls.all p else if o.md.toNat % 4 = 1 then ls.any p else ls.all p || !ls.any p) := by
  have hx : exec (.vxVote o) s = execVxVote o s := rfl
  rw [execVxVote, hi.onGang] at hx
  have done := gangBecomes_of_laneDone hx ((t.writePred_ended _ _).trans hi.alive)
  simp only [List.all_map, List.any_map, Function.id_comp] at done
  intro ls p
  split at done
  · next h =>
    simp only [h, if_true]
    exact done
  · next h =>
    simp only [h, Nat.one_ne_zero, if_false, if_true]
    exact done
  · next h0 h1 =>
    simp only [if_neg h0, if_neg h1]
    exact done

/-- `vx.ballot` gives every active lane the mask of the active lanes with the predicate set (R108). -/
theorem vxBallot_becomes (hi : GangIssues s t g 0x40 0x08 o) :
    let ls := t.activeLanes g o
    GangBecomes s (.vxBallot o) g (t.writeN32 o.d (ls.map
      (fun l => (l, (ls.map (fun i => if t.pred i o.a.toNat then 2 ^ i else 0)).sum)))) := by
  have hx : exec (.vxBallot o) s = execVxBallot o s := rfl
  rw [execVxBallot, hi.onGang] at hx
  have done := gangBecomes_of_laneDone hx ((t.writeN32_ended _ _).trans hi.alive)
  simpa only [List.sum_eq_foldl, List.foldl_map] using done

end instructions

/-- Settles O38: permutes by their source lane, the accumulators by the scan's recursion, votes and ballots over the active
lanes. -/
theorem laneCrossings : Obligations.LaneCrossings := by
  intro s t g o ls w A permute oper p acc
  have permutes {fn : BitVec 8} {i : LaneOps → Instr} (src : Thread → Nat → Int)
      (hx : exec (i o) s = vxPermute s fn o src) : permute fn i (src t) := fun hi => vxPermute_gives hi hx
  refine ⟨permutes (fun t l => (t.laneRead l o.b 32 : Int)) rfl, permutes (fun _ l => (l : Int) - o.im.toNat) rfl,
    permutes (fun _ l => (l : Int) + o.im.toNat) rfl, permutes (fun _ l => (Nat.xor l o.im.toNat : Nat)) rfl,
    permutes (fun _ _ => (o.im.toNat : Int)) rfl,
    ⟨vxAccs_lanes, fun k l x f hk => ⟨fun h0 => ?_, fun l' x' f' hn => Prod.mk.inj (vxAccs_next hk hn)⟩⟩,
    fun hi => ⟨fun he => vxScan_raises hi (if_neg (ne_true_of_eq_false he)), fun he => vxScan_raises hi (if_pos he)⟩,
    fun hi l x f hl => vxRed_raises hi hl, vxVote_gives, vxBallot_becomes⟩
  subst h0
  exact Prod.mk.inj (vxAccs_first hk)

end Sys2Proof.Machine
end

section
/-! SUPPORT. MX instructions as they are taken (R125-R135): the frame they share, an operation accepted behind those of its
core, and each instruction past its checks. -/

namespace Sys2Proof.Machine

section frame
variable {s u : State} {t t' : Thread} {g : Nat} {fn : BitVec 8} {o : LaneOps} {c : Cohort} {i : Instr}

/-- A matrix instruction that the engine can take now does what its function says, where nothing comes before it (R125, R135). -/
theorem MatrixIssues.mxOpFirst (hi : MatrixIssues s t g fn o c) {first : Nat → Thread → Nat → List Nat → Option Out}
    (hf : first s.cur.tid t g (t.activeLanes g o) = none) (k : Nat → Thread → Nat → List Nat → Cohort → Out) :
    mxOpFirst s fn o first k = k s.cur.tid t g (t.activeLanes g o) c := by
  obtain ⟨⟨hs, hp, hg, hn⟩, ha, hr, hc⟩ := hi
  have active : (t.activeLanes g o).isEmpty = false := by simpa using ha
  simp only [Machine.mxOpFirst, onGangFirst, hs, hp, hg, hf, hn, active, hc, if_neg (Nat.not_le.mpr hr), Bool.false_eq_true,
    if_false]

theorem MatrixIssues.mxOp (hi : MatrixIssues s t g fn o c) (k : Nat → Thread → Nat → List Nat → Cohort → Out) :
    mxOp s fn o k = k s.cur.tid t g (t.activeLanes g o) c := hi.mxOpFirst rfl k

theorem MatrixIssues.alive (hi : MatrixIssues s t g fn o c) : t.ended = false := hi.gang.alive

theorem MatrixIssues.look_thread (hi : MatrixIssues s t g fn o c) : look s.threads s.cur.tid = some t :=
  (issuer_eq_some.mp hi.gang.issues).1

/-- A matrix instruction that is not kept as an operation completes on the machine it leaves. -/
theorem MatrixIssues.becomesOn (hi : MatrixIssues s t g fn o c) {f : Thread → Thread}
    (hx : exec i s = laneDoneOn u s.cur.tid t g [] f) (ht : u.threads = s.threads) (hc : u.cur = s.cur)
    (he : (f t).ended = t.ended) : GangBecomesOn s u i g (f t) := by
  rw [GangBecomesOn, BecomesOn, hx, laneDoneOn_plain (ht ▸ hi.look_thread) f hi.alive (he.trans hi.alive), hc]

/-- An accepted operation stands behind those of its core, and the gang goes on (R135). -/
theorem MatrixIssues.acceptsOn (hi : MatrixIssues s t g fn o c) {recs owned lines : List Nat} {kind : MxKind} {effect : Bool}
    (hx : exec i s = mxAcceptTo u s.cur.tid t g (t.activeLanes g o) recs owned lines kind effect)
    (ht : u.threads = s.threads) (hc : u.cur = s.cur) :
    AcceptsOn s u t g i o recs owned lines kind (if effect then t.dirty else t) :=
  hi.becomesOn (f := fun t => if effect then t.dirty else t) hx ht hc (by split <;> rfl)

theorem MatrixIssues.accepts (hi : MatrixIssues s t g fn o c) {recs owned : List Nat} {kind : MxKind} {effect : Bool}
    (hx : exec i s = mxAccept s s.cur.tid t g (t.activeLanes g o) recs owned kind effect) :
    Accepts s t g i o recs owned kind (if effect then t.dirty else t) := hi.acceptsOn hx rfl rfl

end frame

section records
variable {s : State} {t : Thread} {g : Nat} {o : LaneOps} {c : Cohort}

/-- `mx.mres` makes its record where operand space has room for it (R121, R126). -/
theorem mxMres_becomes (hi : MatrixIssues s t g 0x00 o c) :
    let ls := t.activeLanes g o
    let r : Resv := { w0 := word (t.uniform ls o.a 64), w1 := word (t.uniform ls o.b 64), live := true }
    let n := s.recsHeld (coreOf s.cur.tid)
    resvCheck s t c o.d.toNat r = none → n.1 < 16 → n.2 + (if r.loc then 0 else r.len) ≤ Config.operandBytes →
    GangBecomesOn s (s.setCohort t.cohort { c with recs := put c.recs o.d.toNat r }) (.mxMres o) g t := by
  intro ls r n hr hn hb
  have hx : exec (.mxMres o) s = execMxMres o s := rfl
  have full : ¬ (16 ≤ n.1 ∨ Config.operandBytes < n.2 + (if r.loc then 0 else r.len)) := by omega
  rw [execMxMres, hi.mxOp] at hx
  simp only [ls, r, n, hr, if_neg full] at hx
  exact hi.becomesOn hx rfl rfl rfl

/-- `mx.mfree` ends a record that no accepted operation uses (R127). -/
theorem mxMfree_becomes (hi : MatrixIssues s t g 0x01 o c) (hl : (c.liveRec o.d.toNat).isSome = true)
    (hu : (s.coreAt (coreOf s.cur.tid)).mx.all (fun x => !(x.cohort == t.cohort && x.recs.contains o.d.toNat)) = true) :
    GangBecomesOn s (s.setCohort t.cohort { c with recs := del c.recs o.d.toNat }) (.mxMfree o) g t := by
  obtain ⟨r, hr⟩ := Option.isSome_iff_exists.mp hl
  have hx : exec (.mxMfree o) s = execMxMfree o s := rfl
  have unused : (s.coreAt (coreOf s.cur.tid)).mx.any (fun x => x.cohort == t.cohort && x.recs.contains o.d.toNat) = false := by
    rw [List.any_eq_not_all_not, hu]; rfl
  rw [execMxMfree, hi.mxOp] at hx
  simp only [hr, unused, Bool.false_eq_true, if_false] at hx
  exact hi.becomesOn hx rfl rfl rfl

/-- Whatever uses the record, `mx.mfree` changes no byte of memory, scratchpad or operand space (R127). -/
theorem mxMfree_frame (hi : MatrixIssues s t g 0x01 o c) (hl : (c.liveRec o.d.toNat).isSome = true) :
    ∃ u : State, GangBecomesOn s u (.mxMfree o) g t ∧ u.mem = s.mem ∧ u.threads = s.threads
      ∧ ∃ c', look u.cohorts t.cohort = some c' ∧ c'.scratch = c.scratch ∧ c'.operand = c.operand := by
  obtain ⟨r, hr⟩ := Option.isSome_iff_exists.mp hl
  have hx : exec (.mxMfree o) s = execMxMfree o s := rfl
  rw [execMxMfree, hi.mxOp] at hx
  simp only [hr] at hx
  split at hx
  · exact ⟨_, hi.becomesOn hx rfl rfl rfl, rfl, rfl, _, look_put_same _ _ _, rfl, rfl⟩
  · exact ⟨_, hi.becomesOn hx rfl rfl rfl, rfl, rfl, _, look_put_same _ _ _, rfl, rfl⟩

/-- `mx.mfill` of a record of operand space, inside the allocation and the record, at multiples of 32 (R128). -/
theorem mxMfill_accepts (hi : MatrixIssues s t g 0x02 o c) :
    let ls := t.activeLanes g o
    let a32 := t.uniform ls o.a 32
    let b32 := t.uniform ls o.b 32
    ∀ x, c.liveRec o.d.toNat = some x → x.loc = false → b32 ≠ 0 → a32 + b32 ≤ c.spsize →
      o.im.toNat + b32 ≤ x.len → a32 % 32 = 0 → b32 % 32 = 0 → o.im.toNat % 32 = 0 →
      Accepts s t g (.mxMfill o) o [o.d.toNat] [] (.mfill o.d.toNat a32 b32 (x.off + o.im.toNat)) t := by
  intro ls a32 b32 x hr hloc h0 hsp hlen ha hb him
  have hx : exec (.mxMfill o) s = execMxMfill o s := rfl
  have inside : ¬ (x.loc = true ∨ b32 = 0 ∨ c.spsize < a32 + b32 ∨ x.len < o.im.toNat + b32) := by
    rw [hloc]; simp only [Bool.false_eq_true, false_or]; omega
  have aligned : ¬ (a32 % 32 ≠ 0 ∨ b32 % 32 ≠ 0 ∨ o.im.toNat % 32 ≠ 0) := by omega
  rw [execMxMfill, hi.mxOp] at hx
  simp only [hr] at hx
  rw [if_neg inside, if_neg aligned] at hx
  exact hi.accepts hx

end records

section multiplications
variable {s : State} {t : Thread} {g : Nat} {o : LaneOps} {c : Cohort} {x y : Resv} {e : OpEntry}

/-- `mx.mma` past its checks (R129). -/
theorem mxMma_accepts (hi : MatrixIssues s t g 0x03 o c)
    (hc : mmaCheck s t c o (c.liveRec o.a.toNat) (c.liveRec o.b.toNat) false (fun r => r.rowFits (16 * t.slices - 1) (mxK o)
      && r.extraFits (16 * t.slices - 1) (mxK o) c.spsize) = .inr (x, y, e)) :
    Accepts s t g (.mxMma o) o [o.a.toNat, o.b.toNat] [] (.mma o.d.toNat x y e (mxZ o) (mxK o)) t := by
  have hx : exec (.mxMma o) s = execMxMma o s := rfl
  rw [execMxMma, hi.mxOp] at hx
  simp only [hc] at hx
  exact hi.accepts hx

theorem mmaHead_of_mmaCheck {ra rb : Option Resv} {gather : Bool} {fits : Resv → Bool}
    (h : mmaCheck s t c o ra rb gather fits = .inr (x, y, e)) : mmaHead s t o ra rb gather = .inr (x, y, e) := by
  unfold mmaCheck at h
  split at h
  · cases h
  · next hh =>
    split at h
    · cases h
    · rw [hh, h]

/-- No index of any lane fails a test that every index but the absent one passes. -/
theorem find_failing_eq_none {ls : List Nat} {idx : Nat → List (BitVec 32)} {fits : Nat → Bool}
    (h : ∀ l ∈ ls, ∀ i ∈ idx l, i = 0xFFFFFFFF#32 ∨ fits i.toNat = true) :
    ls.find? (fun l => (idx l).any (fun x => x != 0xFFFFFFFF#32 && !fits x.toNat)) = none := by
  rw [List.find?_eq_none]
  intro l hl
  rw [Bool.not_eq_true, List.any_eq_false]
  intro i hm
  obtain rfl | hf := h l hl i hm
  · simp
  · simp [hf]

/-- `mx.mmag` past its checks, the rows and scales that its lanes name among them (R129). -/
theorem mxMmag_accepts (hi : MatrixIssues s t g 0x04 o c)
    (hc : mmaCheck s t c o (c.liveRec o.c.toNat) (c.liveRec o.b.toNat) true (fun _ => true) = .inr (x, y, e))
    (hf : ∀ l ∈ t.activeLanes g o, ∀ i ∈ runWords t l o.a, i = 0xFFFFFFFF#32
      ∨ (x.rowFits i.toNat (mxK o) = true ∧ x.extraFits i.toNat (mxK o) c.spsize = true)) :
    Accepts s t g (.mxMmag o) o [o.c.toNat, o.b.toNat] []
      (.mmag o.d.toNat x y e (mxZ o) (mxK o) ((t.activeLanes g o).flatMap (fun l => runWords t l o.a))) t := by
  have hx : exec (.mxMmag o) s = execMxMmag o s := rfl
  have rows := find_failing_eq_none (fits := fun i => x.rowFits i (mxK o))
    (fun l hl i hm => (hf l hl i hm).imp_right And.left)
  have extra := find_failing_eq_none (fits := fun i => x.extraFits i (mxK o) c.spsize)
    (fun l hl i hm => (hf l hl i hm).imp_right And.right)
  rw [execMxMmag, hi.mxOp] at hx
  simp only [mmaHead_of_mmaCheck hc, rows, hc, extra] at hx
  exact hi.accepts hx

end multiplications

section tiles
variable {s : State} {t : Thread} {g : Nat} {o : LaneOps} {c : Cohort}

section entry
variable {e : OpEntry} (he : s.entryOf t.ctx (mxSel o) = some e) (hc : e.hasClass (entryClass e o.ty.toNat) = true)
include he hc

/-- `mx.mzero` under an entry of the class that TY names (R130). -/
theorem mxMzero_accepts (hi : MatrixIssues s t g 0x05 o c) : Accepts s t g (.mxMzero o) o [] []
    (.mzero o.d.toNat (BitVec.ofNat 32 (e.identity (entryClass e o.ty.toNat)))) t := by
  have hx : exec (.mxMzero o) s = execMxMzero o s := rfl
  rw [execMxMzero, hi.mxOp] at hx
  simp only [he, hc, Bool.not_true, Bool.false_eq_true, if_false] at hx
  exact hi.accepts hx

/-- `mx.mrow` under an entry of the class that TY names, its factors read at once (R132). -/
theorem mxMrow_accepts (hi : MatrixIssues s t g 0x0A o c) : Accepts s t g (.mxMrow o) o [] []
    (.mrow o.d.toNat e (o.ty == 8) ((t.activeLanes g o).flatMap (fun l => runWords t l o.a))) t := by
  have hx : exec (.mxMrow o) s = execMxMrow o s := rfl
  rw [execMxMrow, hi.mxOp] at hx
  simp only [he, hc, Bool.not_true, Bool.false_eq_true, if_false] at hx
  exact hi.accepts hx

end entry

section columns
variable (hk : o.im.toNat % 128 + 2 ^ (o.md.toNat % 4) ≤ 128)
include hk

/-- `mx.mrd` with no earlier writer of its tile gives the cells of its columns (R131). -/
theorem mxMrd_becomes (hi : MatrixIssues s t g 0x06 o c)
    (hw : (s.mxPending s.cur.tid t.uid).all (fun x => !x.kind.writesTile o.a.toNat) = true) :
    GangBecomes s (.mxMrd o) g (t.writeRun 32 o.d ((t.activeLanes g o).map (fun l =>
      (l, (upFrom 0 (4 * 2 ^ (o.md.toNat % 4))).map (fun x =>
        ((t.tileAt o.a.toNat).cells.get32 (cellKey (4 * l + x % 4) (o.im.toNat % 128 + x / 4))).toNat))))) := by
  have hx : exec (.mxMrd o) s = execMxMrd o s := rfl
  have unwritten : (s.mxPending s.cur.tid t.uid).any (fun x => x.kind.writesTile o.a.toNat) = false := by
    rw [List.any_eq_not_all_not, hw]; rfl
  rw [execMxMrd, hi.mxOp] at hx
  simp only [if_neg (Nat.not_lt.mpr hk), unwritten, Bool.false_eq_true, if_false] at hx
  exact gangBecomes_of_laneDone hx hi.alive

/-- `mx.mwr` reads its registers at once (R131). -/
theorem mxMwr_accepts (hi : MatrixIssues s t g 0x07 o c) : Accepts s t g (.mxMwr o) o [] []
    (.mwr o.d.toNat (o.im.toNat % 128) (2 ^ (o.md.toNat % 4)) ((t.activeLanes g o).flatMap (fun l =>
      (upFrom 0 (4 * 2 ^ (o.md.toNat % 4))).map (fun x => BitVec.ofNat 32 (t.run4 l o.a x))))) t := by
  have hx : exec (.mxMwr o) s = execMxMwr o s := rfl
  rw [execMxMwr, hi.mxOp] at hx
  simp only [if_neg (Nat.not_lt.mpr hk)] at hx
  exact hi.accepts hx

end columns

/-- `mx.mst` inside the allocation, clear of control blocks and of rows an engine owns (R133, R183). -/
theorem mxMst_accepts (hi : MatrixIssues s t g 0x08 o c) :
    let ls := t.activeLanes g o
    let off := t.uniform ls o.b 32
    let rb := rowBytesOf o.ty.toNat
    off + 16 * t.slices * rb ≤ c.spsize → off % 128 = 0 → c.hitsQcb off (16 * t.slices * rb) = false →
    (∀ x ∈ lanesRows ls, s.scratchOwned c (off + x * rb) rb = false) →
    ∃ owned, Accepts s t g (.mxMst o) o [] owned (.mst o.a.toNat o.ty.toNat off) t.dirty := by
  intro ls off rb hsp ha hq ho
  have hx : exec (.mxMst o) s = execMxMst o s := rfl
  have unowned : (lanesRows ls).any (fun x => s.scratchOwned c (off + x * rb) rb) = false :=
    List.any_eq_false.mpr (fun x hm => by simp [ho x hm])
  rw [execMxMst, hi.mxOp] at hx
  dsimp only at hx
  rw [if_neg (Nat.not_lt.mpr hsp), if_neg (not_not.mpr ha), hq, if_neg Bool.false_ne_true, unowned,
    if_neg Bool.false_ne_true] at hx
  exact ⟨_, hi.accepts hx⟩

end tiles

section rows
variable {s : State} {t : Thread} {g : Nat} {o : LaneOps} {c : Cohort}

/-- An address with the byte it leads to, if it can be accessed now. -/
def State.reached (s : State) (ctx va : Nat) : Option (Nat × Nat) :=
  match s.reach ctx va with
  | .ok pa => some (va, pa)
  | _ => none

/-- The lines of bytes stamped in turn for a core's store (R175). -/
def State.ownFor (s : State) (n ctx : Nat) (places : List (Nat × Nat)) : State :=
  places.foldl (fun s x => s.writeTouch (.core n) ctx x.1 x.2 none) s

theorem State.touches_ownFor (n ctx : Nat) (places : List (Nat × Nat)) : ∀ s : State, Touches s (s.ownFor n ctx places) := by
  induction places with
  | nil => exact Touches.refl
  | cons x places ih => exact fun s => (s.touches_writeTouch (.core n) ctx x.1 x.2 none).trans (ih _)

/-- The core that asks stays the same one: no access changes whose turn it is. -/
theorem State.ownFor_cur (ctx : Nat) (places : List (Nat × Nat)) : ∀ s : State,
    places.foldl (fun s x => s.writeTouch (.core (coreOf s.cur.tid)) ctx x.1 x.2 none) s
      = s.ownFor (coreOf s.cur.tid) ctx places := by
  induction places with
  | nil => exact fun _ => rfl
  | cons x places ih =>
    intro s
    rw [List.foldl_cons, ih, State.writeTouch_cur]
    rfl

/-- The lines of rows, each with the lane of its row, are those of the rows. -/
theorem filterMap_laneLines {β : Type} (rows : List (Nat × Nat × Nat)) (rb : Nat) (f : Nat → Option β) :
    (rows.flatMap (fun r => (rowLines r.2.2 rb).map (fun va => (r.2.1, va)))).filterMap (fun x => f x.2)
      = (rows.flatMap (fun x => rowLines x.2.2 rb)).filterMap f := by
  simp [List.filterMap_flatMap, List.filterMap_map]

/-- The rows that `mx.mstx` stores (R133). -/
def Thread.rowsStored (t : Thread) (g : Nat) (o : LaneOps) : List (Nat × Nat × Nat) :=
  let ls := t.activeLanes g o
  mstxRows ls (ls.flatMap (fun l => runWords t l o.b)) (word (t.uniform ls o.c 64)) (rowBytesOf o.ty.toNat)

/-- The lines of those rows, with the bytes they lead to. -/
def State.placesStored (s : State) (t : Thread) (g : Nat) (o : LaneOps) : List (Nat × Nat) :=
  ((t.rowsStored g o).flatMap (fun x => rowLines x.2.2 (rowBytesOf o.ty.toNat))).filterMap (s.reached t.ctx)

/-- `mx.mstx` as an operation that owns the lines of some places from its issue on (R133, R183). -/
def mstxAccept (s : State) (t : Thread) (g : Nat) (o : LaneOps) (places : List (Nat × Nat)) : Out :=
  let ls := t.activeLanes g o
  let u := s.ownFor (coreOf s.cur.tid) t.ctx places
  mxAcceptTo u s.cur.tid t g ls [] (places.map (fun x => x.2 / 128)).eraseDups (places.map (fun x => u.homeOf t.ctx x.1))
    (.mstx o.a.toNat o.ty.toNat (word (t.uniform ls o.c 64)) (ls.flatMap (fun l => runWords t l o.b))) true

section accepted
variable (hi : MatrixIssues s t g 0x09 o c) (ha : (word (t.uniform (t.activeLanes g o) o.c 64)).toNat % 128 = 0)
  (hr : ∀ x ∈ t.rowsStored g o, s.rowCheck t x.2.2 (rowBytesOf o.ty.toNat) = none)
  (hp : ∀ x ∈ t.rowsStored g o, ∀ va ∈ rowLines x.2.2 (rowBytesOf o.ty.toNat), ∃ p, s.reach t.ctx va = .ok p)
include hi ha hr hp

/-- `mx.mstx` whose rows pass their checks and whose lines can be accessed takes those lines at once (R133, R183). -/
theorem exec_mxMstx : exec (.mxMstx o) s = mstxAccept s t g o (s.placesStored t g o) := by
  have hx : exec (.mxMstx o) s = execMxMstx o s := rfl
  have checked : (t.rowsStored g o).findSome? (fun r =>
      (s.rowCheck t r.2.2 (rowBytesOf o.ty.toNat)).map (fun f => (r.2.1, f, r.2.2))) = none :=
    List.findSome?_eq_none_iff.mpr (fun x hm => by rw [hr x hm]; rfl)
  have reached : ∀ x ∈ (t.rowsStored g o).flatMap (fun r =>
      (rowLines r.2.2 (rowBytesOf o.ty.toNat)).map (fun va => (r.2.1, va))), ∃ p, s.reach t.ctx x.2 = .ok p := by
    intro x hm
    obtain ⟨r, hrm, hv⟩ := List.mem_flatMap.mp hm
    obtain ⟨va, hva, rfl⟩ := List.mem_map.mp hv
    exact hp r hrm va hva
  rw [Thread.rowsStored] at checked
  rw [hx, execMxMstx, hi.mxOp]
  dsimp only at checked ⊢
  rw [if_neg (not_not.mpr ha), checked]
  dsimp only
  split
  · next hf =>
    obtain ⟨x, hm, hf⟩ := List.exists_of_findSome?_eq_some hf
    obtain ⟨p, hp⟩ := reached x hm
    rw [hp] at hf
    cases hf
  · split
    · next hw =>
      obtain ⟨x, hm, hw⟩ := List.any_eq_true.mp hw
      obtain ⟨p, hp⟩ := reached x hm
      rw [hp] at hw
      cases hw
    · exact congrArg (mstxAccept s t g o) (filterMap_laneLines (t.rowsStored g o) _ (s.reached t.ctx))

theorem mxMstx_accepts :
    let ls := t.activeLanes g o
    let places := s.placesStored t g o
    let u := places.foldl (fun s x => s.writeTouch (.core (coreOf s.cur.tid)) t.ctx x.1 x.2 none) s
    u.mem = s.mem ∧ AcceptsOn s u t g (.mxMstx o) o [] (places.map (fun x => x.2 / 128)).eraseDups
      (places.map (fun x => u.homeOf t.ctx x.1))
      (.mstx o.a.toNat o.ty.toNat (word (t.uniform ls o.c 64)) (ls.flatMap (fun l => runWords t l o.b))) t.dirty := by
  intro ls places u
  have owns : u = s.ownFor (coreOf s.cur.tid) t.ctx places := State.ownFor_cur _ _ _
  have touched : Touches s u := owns ▸ State.touches_ownFor _ _ _ _
  refine ⟨touched.mem, hi.acceptsOn (effect := true) ?_ touched.threads touched.cur⟩
  rw [owns]
  exact exec_mxMstx hi ha hr hp

end accepted

end rows

section notes
variable {s : State} {t : Thread} {g : Nat} {o : LaneOps} {c : Cohort}

theorem holds_of_namesBeyond {op fn : BitVec 8} (h : namesBeyond op fn o t = false) :
    t.holds (fieldKinds op fn o).2.2.1 o.b = true := by
  simp only [namesBeyond, Bool.or_eq_false_iff, decide_eq_false_iff_not] at h
  obtain ⟨⟨⟨⟨-, hb⟩, -⟩, -⟩, -⟩ := h
  exact decide_eq_true (Nat.not_lt.mp hb)

/-- A handle of another partition is PRIV, and the record names the lowest active lane (R42, R134; log 20). -/
theorem mxMnote_faults (hi : MatrixIssues s t g 0x0B o c) :
    let h := word (t.uniform (t.activeLanes g o) o.b 64)
    hPart h ≠ partOfCtx t.ctx → GangFaults s t g (.mxMnote o) 0x14 ((t.activeLanes g o).headD 0xFF) h 0 := by
  intro h hp
  have hx : exec (.mxMnote o) s = execMxMnote o s := rfl
  obtain ⟨⟨hs, hq, hg, hn⟩, ha, -, -⟩ := hi
  have active : (t.activeLanes g o).isEmpty = false := by simpa using ha
  have foreign : (!(t.activeLanes g o).isEmpty && t.holds (fieldKinds 0x80 0x0B o).2.2.1 o.b
      && hPart h != partOfCtx t.ctx) = true := by
    rw [active, holds_of_namesBeyond hn, bne_iff_ne.mpr hp]; rfl
  rw [GangFaults, hx, execMxMnote]
  simp only [mxOpFirst, onGangFirst, hs, hq, hg, Bool.false_eq_true, if_false]
  rw [if_pos foreign]
  rfl

section own
variable (hp : hPart (word (t.uniform (t.activeLanes g o) o.b 64)) = partOfCtx t.ctx)
include hp

/-- What `mx.mnote` does with a handle of its own partition (R134). -/
theorem MatrixIssues.mxMnote (hi : MatrixIssues s t g 0x0B o c) : exec (.mxMnote o) s =
    let h := word (t.uniform (t.activeLanes g o) o.b 64)
    if (s.mxPending s.cur.tid t.uid).any (fun x => x.kind.tiles.contains o.a.toNat) then
      mxAccept s s.cur.tid t g (t.activeLanes g o) [] [] (.mnote o.a.toNat h) true
    else laneDoneOn (s.sendDecrement h false) s.cur.tid t g [] Thread.dirty := by
  have hx : exec (.mxMnote o) s = execMxMnote o s := rfl
  rw [hx, execMxMnote, hi.mxOpFirst]
  simp [hp]

theorem mxMnote_delivers (hi : MatrixIssues s t g 0x0B o c)
    (hn : (s.mxPending s.cur.tid t.uid).all (fun x => !x.kind.tiles.contains o.a.toNat) = true) :
    GangBecomesOn s (s.sendDecrement (word (t.uniform (t.activeLanes g o) o.b 64)) false) (.mxMnote o) g t.dirty := by
  have unnamed : (s.mxPending s.cur.tid t.uid).any (fun x => x.kind.tiles.contains o.a.toNat) = false := by
    rw [List.any_eq_not_all_not, hn]; rfl
  have hx := hi.mxMnote hp
  simp only [unnamed, Bool.false_eq_true, if_false] at hx
  exact hi.becomesOn hx rfl rfl rfl

theorem mxMnote_accepts (hi : MatrixIssues s t g 0x0B o c)
    (hn : (s.mxPending s.cur.tid t.uid).any (fun x => x.kind.tiles.contains o.a.toNat) = true) :
    Accepts s t g (.mxMnote o) o [] [] (.mnote o.a.toNat (word (t.uniform (t.activeLanes g o) o.b 64))) t.dirty := by
  have hx := hi.mxMnote hp
  simp only [hn, if_true] at hx
  exact hi.accepts hx

end own
end notes

/-- Settles O44: each MX instruction past its checks joins the operations of its core, or completes, as its lemma above says. -/
theorem matrixAcceptance : Obligations.MatrixAcceptance := by
  intro s t g o c ls r n idle a32 b32 base rb ra rg bb last
  exact ⟨mxMres_becomes, mxMfree_becomes, mxMfree_frame, mxMfill_accepts, fun hi x y e => mxMma_accepts hi,
    fun hi x y e => mxMmag_accepts hi, fun e he hc => ⟨mxMzero_accepts he hc, mxMrow_accepts he hc⟩,
    fun hk => ⟨mxMrd_becomes hk, mxMwr_accepts hk⟩, mxMst_accepts, mxMstx_accepts,
    fun hi => ⟨mxMnote_faults hi, fun hp => mxMnote_delivers hp hi, fun hp => mxMnote_accepts hp hi⟩⟩

end Sys2Proof.Machine
end

section
/-! SUPPORT. Lane blocks and the engines of a core (R134, R135, R142, R195, R257, R258): a block's start and end,
what passing its operations on leaves, the retirements of a core, the notes let go. -/

namespace Sys2Proof.Machine

section blocks
variable {s : State} {t : Thread}

/-- A thread whose own posted reductions of some parties are another party's (R195). -/
def Thread.passed (t : Thread) (uid : Nat) (old : Party → Bool) (new : Party) : Thread :=
  { t with redBuf := t.redBuf.map (fun r => if r.uid == uid && old r.party then { r with party := new } else r) }

/-- Operations passed on to another party change no byte of memory, and of the threads only their own (R195). -/
theorem State.passOps_frame {tid : Nat} (hl : look s.threads tid = some t) (he : t.ended = false) (uid : Nat)
    (old : Party → Bool) (new : Party) : (s.passOps tid uid old new).mem = s.mem
      ∧ (s.passOps tid uid old new).threads = put s.threads tid (t.passed uid old new) := by
  unfold State.passOps
  extract_lets hit pass own s1 s2 s3
  have h1 : s1.mem = s.mem ∧ s1.threads = s.threads := by
    unfold s1
    split <;> exact ⟨rfl, rfl⟩
  have h2 : s2.mem = s1.mem ∧ s2.threads = s1.threads := by
    unfold s2
    split <;> exact ⟨rfl, rfl⟩
  have h3 : s3 = s2.setThread tid (t.passed uid old new) := State.onLive_of (by rwa [h2.2, h1.2]) he _
  exact ⟨by rw [h3, State.setThread_mem, h2.1, h1.1], by rw [h3, State.setThread, h2.2, h1.2]⟩

/-- The first queued block starts as one gang at its entry (R255, R257). -/
theorem laneBlockStart_starts {b : Block} {rest : List Block} (hl : look s.threads s.arg.obj = some t)
    (he : t.ended = false) (hm : s.mayIssue s.arg.obj t.ctx = true) (hr : t.running = false) (hb : t.blocks = b :: rest) :
    exec .laneBlockStart s = .next (s.setThread s.arg.obj { t with
      running := true
      sl := t.sl.map (fun x => { x with
        lpc := b.entry, mask := 0xF, gang := 0, st := .issuing, stack := [], wait := none, since := s.clk }) }) := by
  have hx : exec .laneBlockStart s = execLaneBlockStart s := rfl
  rw [hx, execLaneBlockStart, State.onLive_of hl he]
  simp [hr, hm, hb]

/-- A block that has ended on every slice leaves the queue, and what its gangs posted is no longer theirs (R195, R257). -/
theorem laneBlockEnd_ends (hl : look s.threads s.arg.obj = some t) (he : t.ended = false)
    (hm : s.mayIssue s.arg.obj t.ctx = true) (hr : t.running = true) (hs : ∀ x ∈ t.sl, x.st = .ended) :
    ∃ u : State, exec .laneBlockEnd s = .next u ∧ u.mem = s.mem
      ∧ (∀ j, j ≠ s.arg.obj → look u.threads j = look s.threads j)
      ∧ look u.threads s.arg.obj = some { t with
          running := false, blocks := t.blocks.tail, sl := t.sl.map (fun x => { x with st := .idle })
          redBuf := t.redBuf.map (fun r =>
            if r.uid == t.uid && r.party != .scalar then { r with party := Party.past } else r) } := by
  have hx : exec .laneBlockEnd s = execLaneBlockEnd s := rfl
  have allEnded : t.blockOver = true := by simpa [Thread.blockOver, hr] using hs
  have goes : (t.ended || !t.blockOver || !s.mayIssue s.arg.obj t.ctx) = false := by rw [he, allEnded, hm]; rfl
  obtain ⟨hp, ht⟩ := State.passOps_frame hl he t.uid (fun p => p != .scalar) Party.past
  rw [hx, execLaneBlockEnd]
  simp only [hl, goes, Bool.false_eq_true, if_false]
  rw [State.onLive_of (t := t.passed t.uid (fun p => p != .scalar) Party.past) (by rw [ht, look_put_same]) he]
  exact ⟨_, rfl, hp, fun j hj => by rw [State.setThread, ht, put_put, look_put_ne _ _ hj], look_setThread _ _ _⟩

end blocks

section engines
variable {s : State}

theorem mxRetire_idle (h : (s.coreAt s.arg.obj).mx = []) : Skips s .mxRetire := by
  have hx : exec .mxRetire s = execMxRetire s := rfl
  rw [Skips, hx, execMxRetire]
  simp [State.mxFree, h, sortBy]

theorem slRetire_idle (h : (s.coreAt s.arg.obj).slq = []) : Skips s .slRetire := by
  have hx : exec .slRetire s = execSlRetire s := rfl
  rw [Skips, hx, execSlRetire]
  simp only [h]

/-- The first operation that nothing holds back retires, and with it the notes it lets go (R134, R135). -/
theorem mxRetire_performs {op : MxOp} {r : List MxOp} {u : State}
    (hf : (s.mxFree s.arg.obj).filter (fun o => s.arg.obj2 == 0 || o.age + 1 == s.arg.obj2) = op :: r)
    (hu : s.mxLeave s.arg.obj op = some u) :
    let d := dueNotes [] (u.coreAt s.arg.obj).mx
    exec .mxRetire s = .next ((d.2.foldl (fun v h => v.sendDecrement h false)
      (u.setCore s.arg.obj { u.coreAt s.arg.obj with mx := d.1 })).freeRecs s.arg.obj op.cohort) := by
  have hx : exec .mxRetire s = execMxRetire s := rfl
  dsimp only
  rw [hx, execMxRetire]
  simp only [hf, List.findSome?_cons, hu, Option.map_some]

theorem slRetire_performs {op : SlOp} {r : List SlOp} (hq : (s.coreAt s.arg.obj).slq = op :: r) (hb : s.arg.bound = none)
    (hf : s.slFree op = true) : exec .slRetire s
      = .next ((s.setCore s.arg.obj { s.coreAt s.arg.obj with slq := r }).slPerform op) := by
  have hx : exec .slRetire s = execSlRetire s := rfl
  rw [hx, execSlRetire]
  simp only [hq, hb, hf, if_true]

@[simp] theorem State.coreAt_setCore (n : Nat) (c : CoreSt) : (s.setCore n c).coreAt n = c := by
  simp [State.coreAt, State.setCore, look_put_same]

@[simp] theorem State.coreAt_setCohort (n k : Nat) (c : Cohort) : (s.setCohort k c).coreAt n = s.coreAt n := rfl

/-- An access ahead of the retirement changes neither memory nor a thread, and no other selection of the core (R142). -/
theorem State.slTouch_frame {n : Nat} {op : SlOp} {r : List SlOp} (hq : (s.coreAt n).slq = op :: r) (w : Nat) :
    (s.slTouch n op r w).mem = s.mem ∧ (s.slTouch n op r w).threads = s.threads
      ∧ ∃ op', ((s.slTouch n op r w).coreAt n).slq = op' :: r := by
  unfold State.slTouch
  dsimp only
  split
  · exact ⟨rfl, rfl, op, hq⟩
  · split_ifs
    · exact ⟨rfl, rfl, op, hq⟩
    · exact ⟨rfl, rfl, _, by rw [State.coreAt_setCore]⟩
    · exact ⟨rfl, rfl, _, by rw [State.coreAt_setCore]⟩
    · exact ⟨rfl, rfl, _, by rw [State.coreAt_setCohort, State.coreAt_setCore]⟩
    · exact ⟨rfl, rfl, op, hq⟩

theorem slRetire_touches {op : SlOp} {r : List SlOp} {w : Nat} (hq : (s.coreAt s.arg.obj).slq = op :: r)
    (hb : s.arg.bound = some w) : exec .slRetire s = .next (s.slTouch s.arg.obj op r w) := by
  have hx : exec .slRetire s = execSlRetire s := rfl
  rw [hx, execSlRetire]
  simp only [hq, hb]

end engines

section notes
variable {op : MxOp} {kept : List MxOp}

/-- The notes of a list are let go in its order, a later part after those an earlier one keeps (R134). -/
theorem dueNotes_append (a b : List MxOp) : ∀ kept : List MxOp, dueNotes kept (a ++ b)
    = ((dueNotes kept a).1 ++ (dueNotes (kept ++ (dueNotes kept a).1) b).1,
       (dueNotes kept a).2 ++ (dueNotes (kept ++ (dueNotes kept a).1) b).2) := by
  induction a with
  | nil => intro kept; simp [dueNotes]
  | cons x a ih =>
    intro kept
    rw [List.cons_append, dueNotes, dueNotes]
    split
    · split_ifs <;> simp [ih]
    · simp [ih]

/-- Whether an operation among those given is of the same thread and names a tile. -/
def MxOp.namedBy (op : MxOp) (kept : List MxOp) (k : Nat) : Bool :=
  kept.any (fun x => x.uid == op.uid && x.kind.tiles.contains k)

theorem dueNotes_due {k : Nat} {h : Word} (hk : op.kind = .mnote k h) (hn : op.namedBy kept k = false) :
    dueNotes kept [op] = ([], [h]) := by
  rw [MxOp.namedBy] at hn
  simp only [dueNotes, hk, hn, Bool.false_eq_true, if_false]

theorem dueNotes_kept (hn : ∀ k h, op.kind = .mnote k h → op.namedBy kept k = true) : dueNotes kept [op] = ([op], []) := by
  simp only [MxOp.namedBy] at hn
  simp only [dueNotes]
  split
  · next k h hk => simp only [hn k h hk, if_true]
  · rfl

end notes

/-- Settles O49: a block's start and end and each retirement by its case; a note at the end of a list is let go where no
operation kept before it names its tile. -/
theorem blocksAndEngines : Obligations.BlocksAndEngines := by
  intro s n c
  refine ⟨fun t b rest hl he hm => ⟨fun hr hb => laneBlockStart_starts hl he hm hr hb,
      fun hr hs => laneBlockEnd_ends hl he hm hr hs⟩,
    mxRetire_idle, slRetire_idle, fun op r u hf hu => mxRetire_performs hf hu,
    fun before op => ⟨fun k h hk hn => ?_, fun hn => ?_⟩, fun op r hq hb hf => slRetire_performs hq hb hf, fun op r w hq hb => ?_⟩
  · rw [dueNotes_append, List.nil_append, dueNotes_due hk hn, List.append_nil]
  · rw [dueNotes_append, List.nil_append, dueNotes_kept hn, List.append_nil]
  · obtain ⟨hm, ht, op', hs⟩ := State.slTouch_frame hq w
    exact ⟨_, slRetire_touches hq hb, hm, ht, by rw [hs, List.tail_cons], by rw [hs, hq, List.length_cons, List.length_cons]⟩

end Sys2Proof.Machine
end

section
/-! SUPPORT. A tile store of two rows of memory, the second of which only L2 still maps (R133, R167, R349): the fill of the
first row takes its line out of L2, and the second row is stored nowhere. -/

namespace Sys2Proof.Machine

namespace EvictedRow

/-- A row that no page maps. Its four lines have the slices and sets of those at 0x10000 (R162). -/
def far : Nat := 0x10000 + 2 ^ 28 + 2 ^ 37

/-- The rows of the first lane stored: the first at 0x10000, the second at `far`, the others nowhere. -/
def indices : List (BitVec 32) := [0, BitVec.ofNat 32 ((far - 0x10000) / 512), 0xFFFFFFFF, 0xFFFFFFFF]

/-- `mx.mstx` of those rows of a tile, as 32-bit cells. -/
def op : MxOp :=
  { age := 0, party := .gang 0, time := { start := 0, free := 0, gather := 0, ends := 0 }, uid := 0, tid := 0, cohort := 0,
    ctx := 0, slices := 1, lanes := [0], ranges := [], recs := [], owned := [], owed := false
    kind := .mstx 0 0 0x10000 indices }

/-- The thread whose operation it is, with one tile. -/
def thread : Thread := { Thread.image 0 0 0x10000 with tiles := [{ tag := 0, cells := RegFile.zero, poison := [] }] }

/-- A line of the row at `far` in its slice, in an address space and a way. -/
def line (asid : BitVec 16) (i way : Nat) : L2Line :=
  { asid, ctx := 0, vline := far / 128 + i, ch := sliceIndex 9 (far + 128 * i), way, sectors := 0xF, dirty := false,
    region := 0, wts := 0, rts := 0, pins := 0, shadow := [] }

/-- The four lines of that row in L2 under their names, and fifteen lines of other address spaces in the other ways of the first
one's set. -/
def lines : SMap L2Line :=
  (upFrom 0 4).map (fun i => (0x100 + i, line 1 i 0))
    ++ (upFrom 1 15).map (fun w => (0x103 + w, line (BitVec.ofNat 16 (1 + w)) 0 w))

/-- A machine that maps the page at 0x10000 alone. -/
def machine : State := { StaleName.mapped with threads := [(0, thread)], cohorts := [(0, Cohort.bare 0 0x10000 0)], l2 := lines }

/-- The lines the operation writes. -/
def stored : List Nat :=
  (mstxRows op.lanes indices 0x10000 (rowBytesOf 0)).flatMap (fun x => rowLines x.2.2 (rowBytesOf 0))

theorem stored_placed : ∀ v ∈ stored,
    machine.place op.ctx v = .byte (StaleName.byteOf machine v) ∧ StaleName.byteOf machine v % 128 = 0 := by decide +kernel

theorem stored_apart : ∀ v ∈ stored, ∀ w ∈ stored, v ≠ w → StaleName.byteOf machine v ≠ StaleName.byteOf machine w := by
  decide +kernel

/-- The operation retires, and its thread has ended. -/
theorem thread_ended : ((machine.mxPerform op).bind (fun u => look u.threads op.tid)).map Thread.ended = some true := by
  decide +kernel

end EvictedRow

/-- Refutes O45: that a retired `mx.mstx` of several rows leaves its thread running needs each row's lines still to stand
where they stood when the first row is written, and the statement places them beforehand alone (R349). -/
theorem not_matrixResults : ¬ Obligations.MatrixResults := by
  intro h
  obtain ⟨-, -, -, -, -, -, mstx, -⟩ :=
    h EvictedRow.machine EvictedRow.op EvictedRow.thread (Cohort.bare 0 0x10000 0) rfl rfl rfl rfl (by decide)
  obtain ⟨-, stores⟩ := mstx _ _ _ _ rfl (by decide) (StaleName.byteOf EvictedRow.machine) EvictedRow.stored_placed
    EvictedRow.stored_apart
  have ended := EvictedRow.thread_ended
  cases hu : EvictedRow.machine.mxPerform EvictedRow.op with
  | none => simp [hu] at ended
  | some u =>
    obtain ⟨-, ⟨fl, ht⟩, -⟩ := stores u hu
    simp only [hu, Option.bind_some, ht, Option.map_some] at ended
    exact Bool.false_ne_true (Option.some.inj ended)

end Sys2Proof.Machine
end

section
/-! SUPPORT. SL instructions as they are taken (R140-R142, R151): an instruction past its checks joins its unit, and `sl.rng`
gives its words as it retires. -/

namespace Sys2Proof.Machine

section taken
variable {s : State} {t : Thread} {g : Nat} {op fn : BitVec 8} {o : LaneOps} {i : Instr}

/-- A lane instruction of a gang that may issue does what its function says, where nothing comes before it (R32, R94). -/
theorem GangIssues.onGangFirst (hi : GangIssues s t g op fn o) {first : Nat → Thread → Nat → List Nat → Option Out}
    (hf : first s.cur.tid t g (t.activeLanes g o) = none) (k : Nat → Thread → Nat → List Nat → Out) :
    onGangFirst s op fn o first k = k s.cur.tid t g (t.activeLanes g o) := by
  obtain ⟨hs, hp, hg, hn⟩ := hi
  simp only [Machine.onGangFirst, hs, hp, hg, hf, hn, Bool.false_eq_true, if_false]

/-- An accepted selection stands last in its unit, and its gang waits for it (R142). -/
theorem GangIssues.joinsUnit (hi : GangIssues s t g op fn o) {sel : SlOp} (hx : exec i s = slAccept s s.cur.tid t sel) :
    let core := s.coreAt (coreOf s.cur.tid)
    BecomesOn s (s.setCore (coreOf s.cur.tid) { core with slq := core.slq ++ [sel] }) i
      ((if sel.fn < 2 then t.dirty else t).gangWait sel.gang (some .select)) := by
  obtain ⟨hl, he⟩ := issuer_eq_some.mp hi.issues
  rw [BecomesOn, hx, slAccept, State.onLive_of (t := t) (by simpa using hl) he]

/-- A selection of active lanes past its checks is accepted with its operands read (R141). -/
theorem GangIssues.slOp {k : Nat} (hi : GangIssues s t g 0x90 (BitVec.ofNat 8 k) o) {c : Cohort}
    (hc : look s.cohorts t.cohort = some c) (ha : t.activeLanes g o ≠ []) :
    let ls := t.activeLanes g o
    let src := t.uniform ls o.a 32
    let nb := t.uniform ls o.b 64
    let n := nb % 2 ^ 32
    let dst := if k < 2 then t.uniform ls o.c 32 else 0
    slCheck c k o src n dst = none →
    slOp s k o = slAccept s s.cur.tid t
      { ends := s.slEnds (coreOf s.cur.tid) k o n, seen := [], done := [], uid := t.uid, tid := s.cur.tid, cohort := t.cohort,
        gang := g, lanes := ls, fn := k, o, len := s.cur.len, blocks := [], src, n, base := nb / 2 ^ 32, dst } := by
  intro ls src nb n dst hk
  rw [Machine.slOp, hi.onGangFirst (if_neg (by simpa using ha))]
  simp only [hc]
  rw [hk]

/-- `sl.rng` with no lane's block word turned away is accepted with the block words read (R142, R151). -/
theorem GangIssues.slRng (hi : GangIssues s t g 0x90 3 o)
    (hb : ∀ l ∈ t.activeLanes g o, t.laneRead l o.a 32 ≠ 0xFFFFFFFF) :
    exec (.slRng o) s = slAccept s s.cur.tid t
      { ends := s.slEnds (coreOf s.cur.tid) 3 o 0, seen := [], done := [], uid := t.uid, tid := s.cur.tid, cohort := t.cohort,
        gang := g, lanes := t.activeLanes g o, fn := 3, o, len := s.cur.len,
        blocks := (t.activeLanes g o).map (fun l => (l, t.laneRead l o.a 32)), src := 0, n := 0, base := 0, dst := 0 } := by
  have hx : exec (.slRng o) s = execSlRng o s := rfl
  have kept : ((t.activeLanes g o).map (fun l => (l, t.laneRead l o.a 32))).find? (fun b => b.2 == 0xFFFFFFFF) = none := by
    simpa [List.find?_eq_none] using hb
  rw [hx, execSlRng, hi.onGang]
  simp only [kept]

end taken

/-- The gang of a selection that raises no flag takes its result and goes on (R142). -/
theorem State.slDeliver_plain {s : State} {t : Thread} {op : SlOp} {f : Thread → Thread} (hl : look s.threads op.tid = some t)
    (he : t.ended = false) (hu : t.uid = op.uid) (hf : (f t).ended = false) :
    s.slDeliver op 0 f = s.setThread op.tid ((f t).advance op.gang op.len) := by
  have same : (t.ended || t.uid != op.uid) = false := by simp [he, hu]
  have running : ((f t).advance op.gang op.len).ended = false := hf
  simp only [State.slDeliver, hl, same, Bool.false_eq_true, if_false]
  rw [State.trapAfter_zero (look_setThread _ _ _) _ running, setThread_setThread]

/-- Settles O46: each instruction is `slAccept` once its checks have passed, and `sl.rng` retires with no flag. -/
theorem selection : Obligations.Selection := by
  intro s t g o c hc
  dsimp only
  have accepts {k : Nat} {i : Instr} (hx : exec i s = Machine.slOp s k o) (hi : GangIssues s t g 0x90 (BitVec.ofNat 8 k) o)
      (ha : t.activeLanes g o ≠ []) (hk) := hi.joinsUnit (hx.trans (hi.slOp hc ha hk))
  refine ⟨accepts rfl, accepts rfl, accepts rfl, fun hi hb => hi.joinsUnit (hi.slRng hb), fun op hop hl he hu => ?_⟩
  rw [State.slPerform, if_pos hop]
  exact State.slDeliver_plain hl he hu he

end Sys2Proof.Machine
end

section
/-! SUPPORT. The ranking of R144: the comparison of values is that of the numbers they stand for, so the ranking is a linear
order's, and `sortBy` is Mathlib's insertion sort. From these, what `sl.topk` leaves. -/

namespace Sys2Proof.Machine

theorem insertBy_eq_orderedInsert {α : Type} (le : α → α → Bool) (x : α) (l : List α) :
    insertBy le x l = l.orderedInsert (fun a b => le a b = true) x := by
  induction l with
  | nil => rfl
  | cons y l ih => rw [insertBy, List.orderedInsert_cons, ih]

theorem sortBy_eq_insertionSort {α : Type} (le : α → α → Bool) (l : List α) :
    sortBy le l = l.insertionSort (fun a b => le a b = true) := by
  induction l with
  | nil => rfl
  | cons x l ih => rw [sortBy, ih, insertBy_eq_orderedInsert, List.insertionSort_cons]

/-- Magnitudes compare as the numbers they are. -/
theorem magCmp_eq_compare (m n : Nat) (e g : Int) : magCmp m e n g = compare ((m : ℚ) * 2 ^ e) (n * 2 ^ g) := by
  have scale (e : Int) : StrictMono (fun k : ℕ => (k : ℚ) * 2 ^ e) := fun a b h =>
    mul_lt_mul_of_pos_right (Nat.cast_lt.mpr h) (by positivity)
  have shift {e g : Int} (h : e ≤ g) (k : Nat) : (k : ℚ) * 2 ^ g = ((k * 2 ^ (g - e).toNat : Nat) : ℚ) * 2 ^ e := by
    rw [Nat.cast_mul, Nat.cast_pow, mul_assoc, Nat.cast_ofNat, ← zpow_natCast, ← zpow_add₀ two_ne_zero,
      Int.toNat_of_nonneg (by omega), sub_add_cancel]
  unfold magCmp
  split
  next h => rw [shift h n, ← cmp_eq_compare, ← cmp_eq_compare, (scale e).cmp_map_eq]
  next h => rw [shift (by omega : g ≤ e) m, ← cmp_eq_compare, ← cmp_eq_compare, (scale g).cmp_map_eq]

/-- The number a finite value stands for. -/
def finiteValue (neg : Bool) (m : Nat) (e : Int) : ℚ := if neg then -(m * 2 ^ e) else m * 2 ^ e

/-- Where a value ranks: a NaN below −∞, the finite values by their numbers, +∞ above them (R144). -/
def FVal.level : FVal → ℤ ×ₗ ℚ
  | .nan => toLex (-2, 0)
  | .inf neg => toLex (if neg then -1 else 1, 0)
  | .fin neg m e => toLex (0, finiteValue neg m e)

/-- Finite values compare as their numbers, +0 equal to −0 (R99). -/
theorem FVal.fin_lt_iff (a b : Bool) (m n : Nat) (e g : Int) :
    (FVal.fin a m e).lt (.fin b n g) = true ↔ finiteValue a m e < finiteValue b n g := by
  have pos {k : Nat} (h : k ≠ 0) (e : Int) : (0 : ℚ) < k * 2 ^ e := by positivity
  unfold FVal.lt finiteValue
  rcases eq_or_ne m 0 with hm | hm <;> rcases eq_or_ne n 0 with hn | hn
  · simp [hm, hn]
  · have hp := pos hn g
    cases b <;> simp [hm, hn, hp, hp.le]
  · have hp := pos hm e
    cases a <;> simp [hm, hn, hp, hp.le]
  · have hp := pos hm e
    have hq := pos hn g
    have opposite : -(m * 2 ^ e : ℚ) < n * 2 ^ g ∧ -(n * 2 ^ g : ℚ) ≤ m * 2 ^ e := ⟨by linarith, by linarith⟩
    simp only [hm, hn, magCmp_eq_compare, compare_lt_iff_lt, compare_gt_iff_gt]
    cases a <;> cases b <;> simp [opposite]

/-- The comparison of R99 is that of the levels, for a value that is no NaN. -/
theorem FVal.lt_iff_level {x : FVal} (hx : x ≠ .nan) (y : FVal) : x.lt y = true ↔ x.level < y.level := by
  cases x with
  | nan => exact absurd rfl hx
  | inf a =>
    cases y with
    | nan => cases a <;> simp [FVal.lt, FVal.level, Prod.Lex.toLex_lt_toLex]
    | inf b => cases a <;> cases b <;> simp [FVal.lt, FVal.level, Prod.Lex.toLex_lt_toLex]
    | fin b n g => cases a <;> simp [FVal.lt, FVal.level, Prod.Lex.toLex_lt_toLex]
  | fin a m e =>
    cases y with
    | nan => simp [FVal.lt, FVal.level, Prod.Lex.toLex_lt_toLex]
    | inf b => cases b <;> simp [FVal.lt, FVal.level, Prod.Lex.toLex_lt_toLex]
    | fin b n g => simp [FVal.fin_lt_iff, FVal.level, Prod.Lex.toLex_lt_toLex]

/-- The place of an element in the ranking: the higher level first, the lower index first among equals (R144). -/
def rankOf (x : SlItem) : (ℤ ×ₗ ℚ)ᵒᵈ ×ₗ ℕ := toLex (OrderDual.toDual (Fmt.f32.value x.1).level, x.2)

theorem FVal.nan_level_lt {x : FVal} (hx : x ≠ .nan) : FVal.nan.level < x.level := by
  cases x with
  | nan => exact absurd rfl hx
  | inf a => cases a <;> simp [FVal.level, Prod.Lex.toLex_lt_toLex]
  | fin a m e => simp [FVal.level, Prod.Lex.toLex_lt_toLex]

/-- R144's ranking is the order of the places. -/
theorem ranksAbove_iff (x y : SlItem) : ranksAbove x y = true ↔ rankOf x ≤ rankOf y := by
  simp only [rankOf, Prod.Lex.toLex_le_toLex, OrderDual.toDual_lt_toDual, OrderDual.toDual_inj]
  unfold ranksAbove
  rcases eq_or_ne (Fmt.f32.value x.1) .nan with hx | hx <;> rcases eq_or_ne (Fmt.f32.value y.1) .nan with hy | hy
  · simp [hx, hy]
  · have below := FVal.nan_level_lt hy
    simp [hx, hy, below.not_gt, below.ne]
  · simp [hx, hy, FVal.nan_level_lt hx]
  · simp only [hx, hy, and_self, if_false, FVal.lt_iff_level hx, FVal.lt_iff_level hy]
    rcases lt_trichotomy (Fmt.f32.value x.1).level (Fmt.f32.value y.1).level with h | h | h
    · simp [h, h.not_gt, h.ne]
    · simp [h]
    · simp [h]

/-- The stored form of an element: its value as an f32, a NaN as the canonical one, and its index (R144). -/
def storedItem (x : SlItem) : SlItem := (if Fmt.f32.value x.1 = .nan then canonNaN .f32 else x.1, x.2)

theorem value_canonNaN : Fmt.f32.value (canonNaN .f32) = .nan := by decide

/-- An element keeps its place as it is stored. -/
@[simp] theorem rankOf_storedItem (x : SlItem) : rankOf (storedItem x) = rankOf x := by
  by_cases h : Fmt.f32.value x.1 = .nan <;> simp [rankOf, storedItem, h, value_canonNaN]

theorem storedItem_of (y : SlItem) : y.2 = (storedItem y).2
    ∧ ((storedItem y).1 = y.1 ∨ (Fmt.f32.value y.1 = .nan ∧ (storedItem y).1 = canonNaN .f32)) := by
  by_cases h : Fmt.f32.value y.1 = .nan <;> simp [storedItem, h]

/-- The elements of a source from the highest rank down. -/
def ranked (xs : List SlItem) : List SlItem := sortBy ranksAbove xs

theorem topkPairs_eq (k : Nat) (xs : List SlItem) : topkPairs k xs = ((ranked xs).take k).map storedItem := rfl

theorem ranked_perm (xs : List SlItem) : (ranked xs).Perm xs := by
  rw [ranked, sortBy_eq_insertionSort]
  exact List.perm_insertionSort _ xs

theorem ranked_pairwise (xs : List SlItem) : (ranked xs).Pairwise (fun x y => rankOf x ≤ rankOf y) := by
  have total : Std.Total (fun x y : SlItem => ranksAbove x y = true) := ⟨fun x y => by
    simpa only [ranksAbove_iff] using le_total (rankOf x) (rankOf y)⟩
  have trans : IsTrans SlItem (fun x y => ranksAbove x y = true) := ⟨fun x y z => by
    simpa only [ranksAbove_iff] using le_trans⟩
  simp only [← ranksAbove_iff]
  rw [ranked, sortBy_eq_insertionSort]
  exact List.pairwise_insertionSort _ xs

/-- Settles O47: the list is the first k of the source in rank order, and what follows them ranks below. -/
theorem topkRanks : Obligations.TopkRanks := by
  intro k xs
  have split : (ranked xs).take k ++ (ranked xs).drop k = ranked xs := List.take_append_drop k _
  have inOrder := ranked_pairwise xs
  rw [← split, List.pairwise_append] at inOrder
  obtain ⟨first, -, rest⟩ := inOrder
  simp only [topkPairs_eq, ranksAbove_iff, List.length_map, List.length_take, (ranked_perm xs).length_eq,
    List.pairwise_map, List.forall_mem_map, rankOf_storedItem]
  refine ⟨trivial, first, fun x hx => ?_, fun y hy => ?_⟩
  · exact ⟨x, (ranked_perm xs).mem_iff.mp (List.mem_of_mem_take hx), storedItem_of x⟩
  · rw [← (ranked_perm xs).mem_iff, ← split, List.mem_append] at hy
    exact hy.imp (fun h => ⟨_, List.mem_map_of_mem h, storedItem_of y⟩) (fun h x hx => rest x hx y h)

end Sys2Proof.Machine
end

section
/-! SUPPORT. The memory hierarchy's own events (R159-R161, R175-R178, R181, R205): a slice's queue and its miss buffer, an answer
that reaches its core, the rebase of the clocks, and the combiner. -/

namespace Sys2Proof.Machine

theorem State.touches_serveReq (s : State) (r : MemReq) : Touches s (s.serveReq r) := by
  fun_cases State.serveReq
  case case1 => exact ((s.touches_fillLine _ _ _ _).trans (State.touches_l2 _ _)).trans (State.touches_setCore _ _ _)
  case case2 => exact s.touches_fillLine _ _ _ _
  case case3 => exact Touches.refl s

/-- A party waits at a home as long as its slice takes another's request first (R161). -/
theorem State.mustWait_of_ahead (s : State) (ctx va pa : Nat)
    (h : (s.sliceAt (s.homeOf ctx va)).ahead (s.isOwn (va / 128)) ≠ []) : s.mustWait ctx va pa = true := by
  have he : ((s.sliceAt (s.homeOf ctx va)).ahead (s.isOwn (va / 128))).isEmpty = false := by simpa using h
  simp [State.mustWait, State.homeWaits, he]

section
variable (s : State) (n : Nat) (c : CoreSt)

@[simp] theorem State.ptsClk_setCore (k : Nat) : (s.setCore n c).ptsClk k = s.ptsClk k := rfl

@[simp] theorem State.pts_setCore : (s.setCore n c).pts n = c.pts + s.ptsClk n := by
  simp [State.pts]

theorem State.pts_ptsTo (t : Nat) : (s.ptsTo (.core n) t).pts n = max (s.pts n) t := by
  rw [State.ptsTo, State.pts_setCore, State.pts]
  dsimp only
  omega

@[simp] theorem State.ptsTo_responses (t : Nat) : ((s.ptsTo (.core n) t).coreAt n).responses = (s.coreAt n).responses := by
  simp [State.ptsTo]

/-- A fill of the L1 leaves its core's clock and the answers on their way. -/
theorem State.l1Fill_core (l : L1Line) :
    ((s.l1Fill n l).coreAt n).responses = (s.coreAt n).responses ∧ (s.l1Fill n l).pts n = s.pts n := by
  unfold State.l1Fill
  dsimp only
  split <;> exact ⟨by simp, by simp [State.pts]⟩

end

/-! The slice (R161): the two events on the head of its queue and of its miss buffer. -/

section
variable {s : State} {r : MemReq} {rest : List MemReq}

theorem execL2ServeRequest_gone (hq : (s.sliceAt s.arg.obj).reqs = r :: rest) (hg : s.reqGone r = true) :
    execL2ServeRequest s
      = .next { s with slices := put s.slices s.arg.obj { s.sliceAt s.arg.obj with reqs := rest } } := by
  simp [execL2ServeRequest, hq, hg]

theorem execL2ServeRequest_hit (hq : (s.sliceAt s.arg.obj).reqs = r :: rest) (hg : s.reqGone r = false)
    (hh : s.reqHits r = true) :
    execL2ServeRequest s = .next (if r.who.isSome then s else
      State.serveReq { s with slices := put s.slices s.arg.obj { s.sliceAt s.arg.obj with reqs := rest } } r) := by
  simp [execL2ServeRequest, hq, hg, hh]

theorem execL2ServeRequest_miss (hq : (s.sliceAt s.arg.obj).reqs = r :: rest) (hg : s.reqGone r = false)
    (hh : s.reqHits r = false) :
    execL2ServeRequest s = .next (if (s.sliceAt s.arg.obj).misses.length < Config.missBuffer then
      { s with slices := put s.slices s.arg.obj { reqs := rest, misses := (s.sliceAt s.arg.obj).misses ++ [r] } }
      else s) := by
  by_cases hm : (s.sliceAt s.arg.obj).misses.length < Config.missBuffer <;>
    simp [execL2ServeRequest, hq, hg, hh, hm]

theorem execL2MissFill_gone (hq : (s.sliceAt s.arg.obj).misses = r :: rest) (hg : s.reqGone r = true) :
    execL2MissFill s
      = .next { s with slices := put s.slices s.arg.obj { s.sliceAt s.arg.obj with misses := rest } } := by
  simp [execL2MissFill, hq, hg]

theorem execL2MissFill_filled (hq : (s.sliceAt s.arg.obj).misses = r :: rest) (hg : s.reqGone r = false) :
    execL2MissFill s = .next (if r.who.isSome then s else
      State.serveReq { s with slices := put s.slices s.arg.obj { s.sliceAt s.arg.obj with misses := rest } } r) := by
  simp [execL2MissFill, hq, hg]

end

/-- An answer that arrives (R159, R176) leaves its core's queue of answers and raises its core's clock to its stamp. -/
theorem execMemoryResponse_some {s : State} {m : MemResp} {rest : List MemResp}
    (h : (s.coreAt s.arg.obj).responses = m :: rest) :
    ∃ u : State, execMemoryResponse s = .next u ∧ Touches s u ∧ (u.coreAt s.arg.obj).responses = rest
      ∧ u.pts s.arg.obj = max (s.pts s.arg.obj) m.t := by
  let v := (s.setCore s.arg.obj { s.coreAt s.arg.obj with responses := rest }).ptsTo (.core s.arg.obj) m.t
  have hv : Touches s v := (s.touches_setCore _ _).trans (State.touches_ptsTo _ _ _)
  have hr : (v.coreAt s.arg.obj).responses = rest := by simp [v]
  have hp : v.pts s.arg.obj = max (s.pts s.arg.obj) m.t := by
    rw [State.pts_ptsTo, State.pts_setCore, State.pts]
  unfold execMemoryResponse
  simp only [h]
  split
  · next e _ =>
    obtain ⟨hr', hp'⟩ := v.l1Fill_core s.arg.obj
      { asid := m.asid, vline := m.vline, sectors := m.sectors, lease := e, stamp := m.t, bytes := m.bytes }
    exact ⟨_, rfl, hv.trans (State.touches_l1Fill _ _ _), hr'.trans hr, hp'.trans hp⟩
  · exact ⟨_, rfl, hv, hr, hp⟩

/-- The rebase (R178), once the clocks are near their end and no access is in flight. -/
theorem execPtsRebase_full {s : State} (hf : s.ptsFull = true) (hi : s.portsIdle = true) :
    ∃ u : State, execPtsRebase s = .next u ∧ u.ptsBase = s.clk ∧ u.mem = s.mem ∧ u.threads = s.threads
      ∧ (∀ x ∈ u.cores, x.2.pts = 0 ∧ x.2.l1 = []) ∧ (∀ x ∈ u.saved, x.2.pts = 0)
      ∧ ∀ x ∈ u.l2, x.2.wts = 0 ∧ x.2.rts = 0 := by
  refine ⟨_, if_pos (by simp [hf, hi]), rfl, rfl, rfl, ?cores, ?saved, ?lines⟩
  all_goals
    intro x hx
    obtain ⟨y, -, rfl⟩ := List.mem_map.mp hx
  case cores => exact ⟨rfl, rfl⟩
  case saved => rfl
  case lines => exact ⟨rfl, rfl⟩

/-! The combiner (R160, R181, R205): what it takes, and what it gives to a home. -/

section
variable {s : State} {r : Red}

theorem execReductionCombinerAccept_held (h : s.requestHeld s.arg.obj = true) :
    execReductionCombinerAccept s = .next s := by
  unfold execReductionCombinerAccept
  dsimp only
  split <;> simp [h]

theorem execReductionCombinerAccept_room (hn : s.nextRed s.arg.obj = some r)
    (hl : (s.dieAt (dieOfCore s.arg.obj)).combiner.length < Config.combinerSize)
    (hh : s.requestHeld s.arg.obj = false) (hd : (s.unpost s.arg.obj).dies = s.dies) :
    execReductionCombinerAccept s = .next ((s.unpost s.arg.obj).setDie (dieOfCore s.arg.obj)
      { s.dieAt (dieOfCore s.arg.obj) with combiner := (s.dieAt (dieOfCore s.arg.obj)).combiner ++ [r] }) := by
  have hd' : (s.unpost s.arg.obj).dieAt (dieOfCore s.arg.obj) = s.dieAt (dieOfCore s.arg.obj) := by
    rw [State.dieAt, hd, State.dieAt]
  simp [execReductionCombinerAccept, hn, hl, hh, hd']

theorem execReductionCombinerAccept_posted {rest : List Red} (hp : (s.coreAt s.arg.obj).posted = r :: rest)
    (hl : (s.dieAt (dieOfCore s.arg.obj)).combiner.length < Config.combinerSize)
    (hh : s.requestHeld s.arg.obj = false) :
    execReductionCombinerAccept s
      = .next ((s.setCore s.arg.obj { s.coreAt s.arg.obj with posted := rest }).setDie (dieOfCore s.arg.obj)
        { s.dieAt (dieOfCore s.arg.obj) with combiner := (s.dieAt (dieOfCore s.arg.obj)).combiner ++ [r] }) := by
  have hu : s.unpost s.arg.obj = s.setCore s.arg.obj { s.coreAt s.arg.obj with posted := rest } := by
    simp [State.unpost, hp]
  have hn : s.nextRed s.arg.obj = some r := by simp [State.nextRed, hp]
  rw [execReductionCombinerAccept_room hn hl hh (by simp [hu]), hu]

theorem execReductionCombinerAccept_buffered {tid : Nat} {t : Thread} {rest : List Red}
    (hp : (s.coreAt s.arg.obj).posted = []) (ht : s.redThread s.arg.obj = some (tid, t)) (hb : t.redBuf = r :: rest)
    (hl : (s.dieAt (dieOfCore s.arg.obj)).combiner.length < Config.combinerSize)
    (hh : s.requestHeld s.arg.obj = false) :
    execReductionCombinerAccept s
      = .next ((s.setThread tid { t with redBuf := rest }).setDie (dieOfCore s.arg.obj)
        { s.dieAt (dieOfCore s.arg.obj) with combiner := (s.dieAt (dieOfCore s.arg.obj)).combiner ++ [r] }) := by
  have hu : s.unpost s.arg.obj = s.setThread tid { t with redBuf := rest } := by
    simp [State.unpost, hp, ht, hb]
  have hn : s.nextRed s.arg.obj = some r := by simp [State.nextRed, hp, ht, hb]
  rw [execReductionCombinerAccept_room hn hl hh (by simp [hu]), hu]

theorem execReductionPerform_head {rest : List Red} {u : State} (hc : (s.dieAt s.arg.obj).combiner = r :: rest)
    (hu : (s.setDie s.arg.obj { s.dieAt s.arg.obj with combiner := rest }).performRed r = some u) :
    execReductionPerform s = .next u := by
  simp [execReductionPerform, State.performFirst, hc, hu]

end

/-- Settles O50: each event by its own rule above, on the head of the queue it acts on. -/
theorem memoryEvents : Obligations.MemoryEvents := by
  intro s n q c d
  refine ⟨?queue, ?misses, s.mustWait_of_ahead, ?served, ?answer, execPtsRebase_full, ?combiner,
    execReductionCombinerAccept_held, fun r rest u => execReductionPerform_head⟩
  case queue =>
    intro r rest hq taken
    refine ⟨fun hg => execL2ServeRequest_gone hq hg, fun hg => ⟨fun hh hw => ?_, fun hh hw => ?_, fun hh hm => ?_,
      fun hh hm => ?_⟩⟩
    · exact (execL2ServeRequest_hit hq hg hh).trans (by rw [if_neg (by simp [hw])])
    · exact (execL2ServeRequest_hit hq hg hh).trans (by rw [if_pos hw])
    · exact (execL2ServeRequest_miss hq hg hh).trans (by rw [if_pos hm])
    · exact (execL2ServeRequest_miss hq hg hh).trans (by rw [if_neg (Nat.not_lt.mpr hm)])
  case misses =>
    intro r rest hq taken
    refine ⟨fun hg => execL2MissFill_gone hq hg, fun hg hw => ?_, fun hg hw => ?_⟩
    · exact (execL2MissFill_filled hq hg).trans (by rw [if_neg (by simp [hw])])
    · exact (execL2MissFill_filled hq hg).trans (by rw [if_pos hw])
  case served => exact fun r => ⟨(s.touches_serveReq r).mem, (s.touches_serveReq r).threads⟩
  case answer =>
    intro m rest hm
    obtain ⟨u, hx, hu, hr, hp⟩ := execMemoryResponse_some hm
    exact ⟨u, hx, hu.mem, hu.threads, hr, hp ▸ le_max_right _ _, hp ▸ le_max_left _ _⟩
  case combiner =>
    exact fun hl hh => ⟨fun r rest hp => execReductionCombinerAccept_posted hp hl hh,
      fun tid t r rest hp ht hb => execReductionCombinerAccept_buffered hp ht hb hl hh⟩

end Sys2Proof.Machine
end

section
/-! SUPPORT. Canonical memory, layer by layer as the model's files stand. Of what does not write memory there is a lemma
`_mem`, that it has the memory it had; of what may, a lemma `_wf`, that it leaves canonical memory canonical. Here: folds and
optional machines, and an instruction or event that keeps the form (`Out.wf`). -/

namespace Sys2Proof.Machine

@[simp] theorem foldl_mem {β : Type} {f : State → β → State} (hf : ∀ s x, (f s x).mem = s.mem) (l : List β)
    (s : State) : (l.foldl f s).mem = s.mem := by
  induction l generalizing s with
  | nil => rfl
  | cons x t ih => rw [List.foldl_cons, ih, hf]

theorem foldl_wf {β : Type} {f : State → β → State} (hf : ∀ s x, Mem.wf s.mem → Mem.wf (f s x).mem) (l : List β)
    (s : State) (h : Mem.wf s.mem) : Mem.wf (l.foldl f s).mem := by
  induction l generalizing s with
  | nil => exact h
  | cons x t ih => exact ih _ (hf s x h)

theorem getD_wf {o : Option State} {s : State} (hs : Mem.wf s.mem) (ho : ∀ u, o = some u → Mem.wf u.mem) :
    Mem.wf (o.getD s).mem := by
  cases o with
  | none => exact hs
  | some u => exact ho u rfl

theorem bind_wf {α : Type} {o : Option α} {f : α → Option State}
    (hf : ∀ x, o = some x → ∀ u, f x = some u → Mem.wf u.mem) (u : State) (hu : o.bind f = some u) :
    Mem.wf u.mem := by
  obtain ⟨x, hx, hu⟩ := Option.bind_eq_some_iff.mp hu
  exact hf x hx u hu

/-- A fold that ends at the first failure: where it goes through, every step kept the form. -/
theorem foldl_bind_wf {β : Type} {f : State → β → Option State}
    (hf : ∀ s x, Mem.wf s.mem → ∀ u, f s x = some u → Mem.wf u.mem) (l : List β) {s u : State} (hs : Mem.wf s.mem)
    (hu : l.foldl (fun z x => z.bind (fun s => f s x)) (some s) = some u) : Mem.wf u.mem := by
  induction l generalizing s with
  | nil => cases hu; exact hs
  | cons x t ih =>
    cases hx : f s x with
    | none =>
      have stuck : ∀ t : List β, t.foldl (fun z x => z.bind (fun s => f s x)) none = none := fun t => by
        induction t with
        | nil => rfl
        | cons y t iht => exact iht
      simp [hx, stuck] at hu
    | some v => exact ih (hf s x hs v hx) (by simpa [hx] using hu)

/-- The next state, where an instruction or event has one, has its memory in canonical form. -/
def Out.wf : Out → Prop
  | .next u => Mem.wf u.mem
  | .fault _ => True
  | .refused _ => True

@[simp] theorem Out.wf_next (u : State) : Out.wf (.next u) ↔ Mem.wf u.mem := Iff.rfl

@[simp] theorem Out.wf_fault (f : Fault) : Out.wf (.fault f) ↔ True := Iff.rfl

@[simp] theorem Out.wf_refused (r : Refusal) : Out.wf (.refused r) ↔ True := Iff.rfl

/-- An instruction of a live thread keeps the form where its continuation does. -/
theorem onThread_wf {s : State} {k : Nat → Thread → Out} (hk : ∀ tid t, (k tid t).wf) : (onThread s k).wf := by
  unfold onThread
  split
  · exact hk _ _
  · trivial

@[simp] theorem aluDone_wf (s : State) (tid : Nat) (t : Thread) (d : BitVec 6) (v : Word) (hs : Mem.wf s.mem) :
    (aluDone s tid t d v).wf := hs

end Sys2Proof.Machine
end

section
/-! SUPPORT. Canonical memory: pages, caches, and bytes read and written at an address (R154-R165, R175, R345-R351). -/

namespace Sys2Proof.Machine

@[simp] theorem State.msix1_mem (s : State) (fn : Nat) : (s.msix1 fn).mem = s.mem := by rfl

@[simp] theorem State.addRas_mem (s : State) (type struct die part addr : Nat) (info : List Word) :
    (s.addRas type struct die part addr info).mem = s.mem := by
  unfold State.addRas
  (repeat' split) <;> simp

@[simp] theorem State.walkRas_mem (s : State) (ctx va : Nat) : (s.walkRas ctx va).mem = s.mem := by
  fun_cases State.walkRas <;> simp

@[simp] theorem State.walksRas_mem (s : State) (ctx : Nat) (vas : List Nat) : (s.walksRas ctx vas).mem = s.mem := by
  simp [State.walksRas]

@[simp] theorem State.yieldWays_mem (s : State) : s.yieldWays.mem = s.mem := by rfl

@[simp] theorem State.dropLine_mem (s : State) (pl : Nat) : (s.dropLine pl).mem = s.mem := by rfl

@[simp] theorem State.loseLine_wf (s : State) (pl : Nat) (hs : Mem.wf s.mem) : Mem.wf (s.loseLine pl).mem := by
  fun_cases State.loseLine <;> simp [Mem.wf_writeBytes, hs]

@[simp] theorem State.tlbFill_mem (s : State) (ch : Nat) (t : TlbEntry) : (s.tlbFill ch t).mem = s.mem := by rfl

@[simp] theorem State.walkerFill_mem (s : State) (ctx va ch : Nat) : (s.walkerFill ctx va ch).mem = s.mem := by
  fun_cases State.walkerFill <;> simp

@[simp] theorem State.missCount_mem (s : State) (ctx va ch die : Nat) : (s.missCount ctx va ch die).mem = s.mem := by
  grind [State.missCount, State.tlbFill_mem, State.walkerFill_mem]

@[simp] theorem State.enterLine_mem (s : State) (ctx va pl die : Nat) (old : L2Line) :
    (s.enterLine ctx va pl die old).mem = s.mem := by
  grind [State.enterLine, State.missCount_mem, State.dropLine_mem]

@[simp] theorem State.leaveQueue_mem (s : State) (ctx va : Nat) : (s.leaveQueue ctx va).mem = s.mem := by
  fun_cases State.leaveQueue <;> simp

@[simp] theorem State.unpoison_mem (s : State) (pa n : Nat) : (s.unpoison pa n).mem = s.mem := by rfl

@[simp] theorem State.addPoison_mem (s : State) (xs : List Nat) : (s.addPoison xs).mem = s.mem := by rfl

@[simp] theorem State.zeroFrame_wf (s : State) (p : Partition) (size f : Nat) (hs : Mem.wf s.mem) :
    Mem.wf (s.zeroFrame p size f).mem :=
  Mem.wf_filter _ _ hs

theorem State.makeResident_wf (s : State) (ctx va : Nat) {u : State} (hs : Mem.wf s.mem)
    (hu : s.makeResident ctx va = some u) : Mem.wf u.mem := by
  grind [State.makeResident, State.setPart_mem, State.zeroFrame_wf]

@[simp] theorem State.resident_wf (s : State) (ctx va n : Nat) (hs : Mem.wf s.mem) :
    Mem.wf (s.resident ctx va n).mem := by
  exact foldl_wf (fun u a hu => by
    cases he : u.makeResident ctx a with
    | none => exact hu
    | some v => exact State.makeResident_wf _ _ _ hu he) _ _ hs

@[simp] theorem State.loaded_mem (s : State) (a : Asker) (ctx va : Nat) (m : BitVec 4) (src : Source) :
    (s.loaded a ctx va m src).mem = s.mem := by
  fun_cases State.loaded <;> simp

theorem State.readBytes_mem (s : State) (a : Asker) (ctx va n : Nat) {x : List Byte × State}
    (hu : s.readBytes a ctx va n = .ok x) : x.2.mem = s.mem := by
  unfold State.readBytes at hu
  split at hu
  · cases hu
  · cases hu
  · next ps he =>
    split at hu
    · cases hu
    · cases hu
      exact foldl_mem (fun _ _ => by simp) _ _

theorem State.homeBytes_mem (s : State) (a : Asker) (ctx va n : Nat) {x : List Byte × State}
    (hu : s.homeBytes a ctx va n = .ok x) : x.2.mem = s.mem := by
  grind [State.homeBytes, State.readTouch_mem]

@[simp] theorem State.writeChunk_wf (s : State) (a : Asker) (ctx va pa : Nat) (before : Option (Nat × Nat))
    (bs : List Byte) (hs : Mem.wf s.mem) : Mem.wf (s.writeChunk a ctx va pa before bs).mem := by
  simpa [State.writeChunk] using Mem.wf_writeBytes _ _ _ hs

@[simp] theorem State.writeChunks_wf (s : State) (a : Asker) (ctx : Nat) (before : Option (Nat × Nat))
    (cs : List (Chunk × Nat)) (bs : List Byte) (hs : Mem.wf s.mem) :
    Mem.wf (s.writeChunks a ctx before cs bs).mem := by
  fun_induction State.writeChunks with
  | case1 => exact hs
  | case2 s before c pa t bs u ih => exact ih (State.writeChunk_wf _ _ _ _ _ _ _ hs)

theorem State.writeAfter_wf (s : State) (a : Asker) (ctx va : Nat) (before : Option (Nat × Nat)) (bs : List Byte)
    {u : State} (hs : Mem.wf s.mem) (hu : s.writeAfter a ctx va before bs = .ok u) : Mem.wf u.mem := by
  grind [State.writeAfter, State.writeChunks_wf]

theorem State.writeBytes_wf (s : State) (a : Asker) (ctx va : Nat) (bs : List Byte) {u : State} (hs : Mem.wf s.mem)
    (hu : s.writeBytes a ctx va bs = .ok u) : Mem.wf u.mem := by
  grind [State.writeBytes, → State.writeAfter_wf]

end Sys2Proof.Machine
end

section
/-! SUPPORT. Canonical memory: what a home does with its queues (R207-R227). Each operation is one behind the home's checks
(`State.guarded`). -/

namespace Sys2Proof.Machine

@[simp] theorem State.putQueue_mem (s : State) (r : QRef) (q : Queue) : (s.putQueue r q).mem = s.mem := by
  fun_cases State.putQueue <;> simp

@[simp] theorem State.putQcb_wf (s : State) (r : QRef) (bs : List Byte) (hs : Mem.wf s.mem) :
    Mem.wf (s.putQcb r bs).mem := by
  fun_cases State.putQcb <;> simp [Mem.wf_writeBytes, hs]

@[simp] theorem State.touchQcb_mem (s : State) (r : QRef) (q : Queue) (a : Asker) :
    (s.touchQcb r q a).mem = s.mem := by
  fun_cases State.touchQcb <;> simp

@[simp] theorem State.store_wf (s : State) (r : QRef) (q : Queue) (b : List Byte) (hs : Mem.wf s.mem) :
    Mem.wf (s.store r q b).mem := by
  simp [State.store, hs]

@[simp] theorem State.addChore_mem (s : State) (c : Chore) : (s.addChore c).mem = s.mem := by
  fun_cases State.addChore <;> simp

@[simp] theorem State.resettle_mem (s : State) (r : QRef) (q : Queue) : (s.resettle r q).mem = s.mem := by
  simp [State.resettle]

@[simp] theorem State.freeze_mem (s : State) (r : QRef) (q : Queue) (m : Nat) : (s.freeze r q m).s.mem = s.mem := by
  simp [State.freeze]

@[simp] theorem State.unpin_mem (s : State) (r : QRef) : (s.unpin r).mem = s.mem := by
  fun_cases State.unpin <;> simp

@[simp] theorem State.pin_mem (s : State) (r : QRef) : (s.pin r).mem = s.mem := by
  fun_cases State.pin <;> simp

@[simp] theorem State.unbind_mem (s : State) (r : QRef) : (s.unbind r).mem = s.mem := by
  cases r <;> simp only [State.unbind] <;> (try split) <;> simp

@[simp] theorem State.slotReady_wf (s : State) (r : QRef) (q : Queue) (b : List Byte) (p : Nat) (hs : Mem.wf s.mem) :
    Mem.wf (s.slotReady r q b p).1.mem := by
  unfold State.slotReady
  (repeat' split) <;> simp [*]

@[simp] theorem State.writeSlot_wf (s : State) (r : QRef) (q : Queue) (b : List Byte) (p : Nat) (e : List Byte)
    (hs : Mem.wf s.mem) : Mem.wf (s.writeSlot r q b p e).mem := by
  fun_cases State.writeSlot <;> simp [*]

@[simp] theorem State.readSlot_mem (s : State) (r : QRef) (q : Queue) (b : List Byte) (p : Nat) :
    (s.readSlot r q b p).2.2.mem = s.mem := by
  fun_cases State.readSlot <;> simp

@[simp] theorem State.pushAll_wf (s : State) (r : QRef) (q : Queue) (b : List Byte) (a : List (List Byte))
    (hs : Mem.wf s.mem) : Mem.wf (s.pushAll r q b a).1.mem := by
  fun_induction State.pushAll with
  | case1 => exact hs
  | case2 s q b e t p u x y ih => exact ih (State.writeSlot_wf _ _ _ _ _ _ (State.slotReady_wf _ _ _ _ _ hs))

@[simp] theorem State.popAll_wf (s : State) (r : QRef) (q : Queue) (n : Nat) (b : List Byte) (hs : Mem.wf s.mem) :
    Mem.wf (s.popAll r q n b).1.mem := by
  fun_induction State.popAll with
  | case1 => exact hs
  | case2 s n b p e b1 b2 y ih => exact ih (by simp [e, State.slotReady_wf, hs])

@[simp] theorem State.wakeScalar_mem (s : State) (tid : Nat) (d : BitVec 6) (v : Word) (stamp : Nat) :
    (s.wakeScalar tid d v stamp).mem = s.mem := by
  fun_cases State.wakeScalar <;> simp

@[simp] theorem State.wake_mem (s : State) (w : Waiter) (ps : List Nat) (elems : List (List Byte)) (poison : Bool)
    (stamp : Nat) : (s.wake w ps elems poison stamp).mem = s.mem := by
  fun_cases State.wake <;> simp

@[simp] theorem State.servePush_wf (s : State) (r : QRef) (q : Queue) (b : List Byte) (w : Waiter)
    (ws : List Waiter) (hs : Mem.wf s.mem) : Mem.wf (s.servePush r q b w ws).mem := by
  unfold State.servePush
  (repeat' split) <;> simp [*]

@[simp] theorem State.servePop_wf (s : State) (r : QRef) (q : Queue) (b : List Byte) (w : Waiter) (ws : List Waiter)
    (hs : Mem.wf s.mem) : Mem.wf (s.servePop r q b w ws).mem := by
  simp [State.servePop, hs]

@[simp] theorem State.serve_wf (r : QRef) (fuel : Nat) (s : State) (hs : Mem.wf s.mem) :
    Mem.wf (State.serve r fuel s).mem := by
  fun_induction State.serve <;> grind [State.servePush_wf, State.servePop_wf]

@[simp] theorem State.drainDone_mem (s : State) (r : QRef) : (s.drainDone r).mem = s.mem := by
  unfold State.drainDone
  split
  · rfl
  · dsimp only
    split
    · rw [foldl_mem (fun u tid => by split <;> simp), State.unbind_mem]
    · rfl

@[simp] theorem State.settle_wf (s : State) (r : QRef) (hs : Mem.wf s.mem) : Mem.wf (s.settle r).mem := by
  grind [State.settle, State.serve_wf, State.resettle_mem, State.drainDone_mem]

/-- The machine that a home's operation leaves has its memory in canonical form. -/
def HomeOut.wf (h : HomeOut) : Prop := Mem.wf h.s.mem

@[simp] theorem HomeOut.wf_mk (s : State) (es : List Ended) (a : QAns) : HomeOut.wf ⟨s, es, a⟩ ↔ Mem.wf s.mem := Iff.rfl

/-- A home's operation keeps the form where what it does behind the home's checks does. -/
theorem State.guarded_wf {s : State} (r : QRef) (a : Asker) {k : State → Queue → List Byte → HomeOut}
    (hs : Mem.wf s.mem) (hk : ∀ u q b, Mem.wf u.mem → (k u q b).wf) : (s.guarded r a k).wf := by
  unfold State.guarded
  split
  · exact hs
  · dsimp only
    split
    · split
      · simpa [HomeOut.wf] using hs
      · exact hs
    · exact hk _ _ _ (by simpa using hs)

@[simp] theorem State.homePush_wf (s : State) (r : QRef) (a : Asker) (es : List (List Byte)) (hs : Mem.wf s.mem) :
    Mem.wf (s.homePush r a es).s.mem := by
  show (s.homePush r a es).wf
  unfold State.homePush
  refine State.guarded_wf r a hs fun u q b hu => ?_
  dsimp only
  (repeat' split) <;> simp [hu, State.settle_wf _ _ (State.store_wf _ _ _ _ (State.pushAll_wf _ _ _ _ _ hu))]

@[simp] theorem State.homePop_wf (s : State) (r : QRef) (a : Asker) (m : Nat) (hs : Mem.wf s.mem) :
    Mem.wf (s.homePop r a m).s.mem := by
  show (s.homePop r a m).wf
  unfold State.homePop
  refine State.guarded_wf r a hs fun u q b hu => ?_
  dsimp only
  (repeat' split) <;> simp [hu, State.settle_wf _ _ (State.store_wf _ _ _ _ (State.popAll_wf _ _ _ _ _ hu))]

@[simp] theorem State.homePeek_wf (s : State) (r : QRef) (a : Asker) (hs : Mem.wf s.mem) :
    Mem.wf (s.homePeek r a).s.mem := by
  show (s.homePeek r a).wf
  unfold State.homePeek
  refine State.guarded_wf r a hs fun u q b hu => ?_
  dsimp only
  (repeat' split) <;> simp [hu]

@[simp] theorem State.homeReserve_wf (s : State) (r : QRef) (a : Asker) (hs : Mem.wf s.mem) :
    Mem.wf (s.homeReserve r a).s.mem := by
  show (s.homeReserve r a).wf
  unfold State.homeReserve
  refine State.guarded_wf r a hs fun u q b hu => ?_
  dsimp only
  (repeat' split) <;> simp [hu]

@[simp] theorem State.homeCommit_wf (s : State) (r : QRef) (a : Asker) (p : Word) (hs : Mem.wf s.mem) :
    Mem.wf (s.homeCommit r a p).s.mem := by
  show (s.homeCommit r a p).wf
  unfold State.homeCommit
  refine State.guarded_wf r a hs fun u q b hu => ?_
  dsimp only
  (repeat' split) <;> simp [hu]

@[simp] theorem State.homeLen_wf (s : State) (r : QRef) (a : Asker) (sel : Nat) (hs : Mem.wf s.mem) :
    Mem.wf (s.homeLen r a sel).s.mem := by
  show (s.homeLen r a sel).wf
  exact State.guarded_wf r a hs fun _ _ _ hu => hu

@[simp] theorem State.homeClose_wf (s : State) (r : QRef) (a : Asker) (drain : Bool) (hs : Mem.wf s.mem) :
    Mem.wf (s.homeClose r a drain).s.mem := by
  show (s.homeClose r a drain).wf
  unfold State.homeClose
  refine State.guarded_wf r a hs fun u q b hu => ?_
  dsimp only
  simp [hu]

@[simp] theorem State.homeBind_wf (s : State) (r : QRef) (q : Queue) (a : Asker) (hs : Mem.wf s.mem) :
    Mem.wf (s.homeBind r q a).2.mem := by
  grind [State.homeBind, State.touchQcb_mem, State.pin_mem, State.store_wf]

@[simp] theorem State.joinWait_wf (s : State) (r : QRef) (push : Bool) (w : Waiter) (hs : Mem.wf s.mem) :
    Mem.wf (s.joinWait r push w).mem := by
  fun_cases State.joinWait <;> simp [*]

end Sys2Proof.Machine
end

section
/-! SUPPORT. Canonical memory: fault records, streams and windows, threads that end or wait, and a thread's own accesses
(R265-R283, R385-R391). -/

namespace Sys2Proof.Machine

@[simp] theorem State.lostRecord_mem (s : State) (ctx : Nat) (c : Ctx) : (s.lostRecord ctx c).mem = s.mem := by
  unfold State.lostRecord
  (repeat' split) <;> simp

@[simp] theorem State.raise_mem (s : State) (ctx : Nat) (a : Asker) (uid : Nat) (r : FRec) :
    (s.raise ctx a uid r).mem = s.mem := by
  unfold State.raise; dsimp only; (repeat' split) <;> simp

@[simp] theorem State.pushRecord_wf (s : State) (ctx : Nat) (a : Asker) (bs : List Byte) (hs : Mem.wf s.mem) :
    Mem.wf (s.pushRecord ctx a bs).1.mem := by
  grind [State.pushRecord, State.lostRecord_mem, State.homePush_wf, State.msix1_mem, State.setCtx_mem]

@[simp] theorem State.retire_mem (s : State) (stream pos : Nat) : (s.retire stream pos).mem = s.mem := by rfl

@[simp] theorem State.retireNow_wf (s : State) (stream pos : Nat) (hs : Mem.wf s.mem) :
    Mem.wf (s.retireNow stream pos).s.mem := by
  unfold State.retireNow
  dsimp only
  split
  · exact State.guarded_wf _ _ hs fun u q b hu => State.settle_wf _ _ (State.store_wf _ _ _ _ (by simpa using hu))
  · exact hs

@[simp] theorem State.commitFor_mem (s : State) (stream pos : Nat) : (s.commitFor stream pos).mem = s.mem := by
  fun_cases State.commitFor <;> simp

@[simp] theorem State.commitReserved_mem (s : State) (rs : List (Nat × Nat × Nat)) :
    (s.commitReserved rs).mem = s.mem := by rfl

@[simp] theorem State.dropWindow_mem (s : State) (wk : Nat) : (s.dropWindow wk).mem = s.mem := by rfl

@[simp] theorem State.placeClose_mem (s : State) (stream : Nat) (key : Word) :
    (s.placeClose stream key).mem = s.mem := by
  fun_cases State.placeClose <;> simp

@[simp] theorem State.placeCloses_mem (s : State) (stream : Nat) : (s.placeCloses stream).mem = s.mem := by
  simp [State.placeCloses]

@[simp] theorem State.setHead_mem (s : State) (stream : Nat) (key : Word) (new : List StepReq) :
    (s.setHead stream key new).mem = s.mem := by
  fun_cases State.setHead <;> simp

@[simp] theorem State.predFailed_mem (s : State) (stream : Nat) (ctl : StreamCtl) (pane : Window) :
    (s.predFailed stream ctl pane).mem = s.mem := by
  simp [State.predFailed]

@[simp] theorem State.paneCommitted_mem (s : State) (stream : Nat) (w : Window) (plen : Nat) :
    (s.paneCommitted stream w plen).mem = s.mem := by
  unfold State.paneCommitted
  split
  · rfl
  · exact foldl_mem (fun u r => by split <;> simp) _ _

@[simp] theorem State.dropKey_mem (s : State) (stream : Nat) (key : Word) : (s.dropKey stream key).mem = s.mem := by
  fun_cases State.dropKey <;> simp

@[simp] theorem State.stepFailed_mem (s : State) (stream wk : Nat) (counted : Bool) :
    (s.stepFailed stream wk counted).1.mem = s.mem := by
  grind [State.stepFailed, State.dropWindow_mem, State.setStream_mem, State.commitFor_mem, State.predFailed_mem,
    State.paneCommitted_mem, State.dropKey_mem, State.setWindow_mem]

@[simp] theorem State.askBack_mem (s : State) (uid : Nat) : (s.askBack uid).mem = s.mem := by
  fun_cases State.askBack <;> simp

@[simp] theorem State.leaveQueues_mem (s : State) (tid : Nat) (qs : List (QRef × Queue)) :
    (s.leaveQueues tid qs).mem = s.mem :=
  foldl_mem (fun u x => by split <;> simp) _ _

@[simp] theorem State.withdraw_mem (s : State) (tid : Nat) : (s.withdraw tid).mem = s.mem := by
  unfold State.withdraw
  have back : ((look s.threads tid).elim s fun t => s.askBack t.uid).mem = s.mem := by cases look s.threads tid <;> simp
  dsimp only
  (repeat' split) <;> simp [back]

@[simp] theorem State.unpinPages_mem (s : State) (ps : List Nat) : (s.unpinPages ps).mem = s.mem := by rfl

@[simp] theorem State.taskThreadEnds_mem (s : State) (t : Thread) (faulted : Bool) :
    (s.taskThreadEnds t faulted).mem = s.mem := by
  fun_cases State.taskThreadEnds <;> simp

@[simp] theorem State.leaveReserved_mem (s : State) (t : Thread) : (s.leaveReserved t).mem = s.mem := by
  fun_cases State.leaveReserved <;> simp

@[simp] theorem State.endThread_mem (s : State) (tid : Nat) (faulted : Bool) :
    (s.endThread tid faulted).mem = s.mem := by
  unfold State.endThread
  (repeat' split) <;> simp

@[simp] theorem State.countPriv_mem (s : State) (ctx code : Nat) : (s.countPriv ctx code).mem = s.mem := by
  fun_cases State.countPriv <;> simp

@[simp] theorem State.fault_mem (s : State) (tid : Nat) (f : FArg) : (s.fault tid f).mem = s.mem := by
  unfold State.fault
  (repeat' split) <;> simp

@[simp] theorem State.endOne_mem (s : State) (e : Ended) : (s.endOne e).mem = s.mem := by
  unfold State.endOne
  split
  · cases look s.threads _ <;> simp
  · simp
  · split <;> rfl
  · rfl

@[simp] theorem State.applyEnds_mem (s : State) (es : List Ended) : (s.applyEnds es).mem = s.mem := by
  simp [State.applyEnds]

@[simp] theorem State.homeActed_mem (s : State) (r : QRef) (h : HomeOut) : (s.homeActed r h).mem = h.s.mem := by
  unfold State.homeActed
  dsimp only
  (repeat' split) <;> simp

@[simp] theorem faultOut_wf (s : State) (tid : Nat) (f : FArg) (hs : Mem.wf s.mem) : (faultOut s tid f).wf := by
  simpa [faultOut] using hs

@[simp] theorem State.onLive_mem (s : State) (tid : Nat) (f : Thread → Thread) : (s.onLive tid f).mem = s.mem := by
  fun_cases State.onLive <;> simp

@[simp] theorem State.finish_mem (s : State) (tid : Nat) (d : BitVec 6) (v : Word) :
    (s.finish tid d v).mem = s.mem := by
  simp [State.finish]

@[simp] theorem State.hold_mem (s : State) (tid : Nat) (p : Party) (w : Wait) : (s.hold tid p w).mem = s.mem := by
  simp [State.hold]

@[simp] theorem State.trapAfter_mem (s : State) (tid : Nat) (fl : FFlags) (f : FArg) :
    (s.trapAfter tid fl f).mem = s.mem := by
  grind [State.trapAfter, State.setThread_mem, State.fault_mem]

@[simp] theorem State.redRecord_mem (s : State) (r : Red) (code : Nat) : (s.redRecord r code).mem = s.mem := by
  simp [State.redRecord]

theorem State.performRed_wf (s : State) (r : Red) {u : State} (hs : Mem.wf s.mem) (hu : s.performRed r = some u) :
    Mem.wf u.mem := by
  grind [State.performRed, State.redRecord_mem, State.writeTouch_mem, Mem.wf_writeN]

@[simp] theorem State.dropRed_mem (s : State) (r : Red) : (s.dropRed r).mem = s.mem := by
  fun_cases State.dropRed <;> simp

@[simp] theorem State.performAll_wf (s : State) (a : List Red) (hs : Mem.wf s.mem) :
    Mem.wf (s.performAll a).1.mem := by
  fun_induction State.performAll with
  | case1 => exact hs
  | case2 s r t u he ih => exact ih (State.performRed_wf _ _ (by simpa using hs) he)
  | case3 s r t he ih => exact ih hs

theorem State.ownFirst_wf (s : State) (tid : Nat) (t : Thread) (va n : Nat) {u : State} (hs : Mem.wf s.mem)
    (hu : s.ownFirst tid t va n = some u) : Mem.wf u.mem := by
  grind [State.ownFirst, State.performAll_wf]

@[simp] theorem State.release_wf (s : State) (uid : Nat) (hs : Mem.wf s.mem) : Mem.wf (s.release uid).1.mem := by
  simp [State.release, hs]

theorem State.loadT_wf (s : State) (tid : Nat) (t : Thread) (va n : Nat) {x : List Byte × State} (hs : Mem.wf s.mem)
    (hu : s.loadT tid t va n = .ok x) : Mem.wf x.2.mem := by
  grind [State.loadT, → State.ownFirst_wf, → State.readBytes_mem]

theorem State.loadHomeT_wf (s : State) (tid : Nat) (t : Thread) (va n : Nat) {x : List Byte × State}
    (hs : Mem.wf s.mem) (hu : s.loadHomeT tid t va n = .ok x) : Mem.wf x.2.mem := by
  grind [State.loadHomeT, → State.ownFirst_wf, → State.homeBytes_mem]

@[simp] theorem State.markStore_mem (s : State) (tid : Nat) (t : Thread) (va : Nat) :
    (s.markStore tid t va).mem = s.mem := by
  fun_cases State.markStore <;> simp

theorem State.storeT_wf (s : State) (tid : Nat) (t : Thread) (va : Nat) (bs : List Byte) {u : State}
    (hs : Mem.wf s.mem) (hu : s.storeT tid t va bs = .ok u) : Mem.wf u.mem := by
  grind [State.storeT, → State.ownFirst_wf, → State.writeAfter_wf, State.markStore_mem]

theorem State.atomT_wf (s : State) (tid : Nat) (t : Thread) (va n : Nat) (f : Nat → Nat) {x : Nat × State}
    (hs : Mem.wf s.mem) (hu : s.atomT tid t va n f = .ok x) : Mem.wf x.2.mem := by
  grind [State.atomT, → State.ownFirst_wf, State.writeTouch_mem, Mem.wf_writeN]

theorem State.bufferLoad_wf (s : State) (tid : Nat) (t : Thread) (a : Word) (n : Nat) {x : List Byte × State}
    (hs : Mem.wf s.mem) (hu : s.bufferLoad tid t a n = .ok x) : Mem.wf x.2.mem := by
  grind [State.bufferLoad, → State.loadT_wf]

theorem State.bufferStore_wf (s : State) (tid : Nat) (t : Thread) (a : Word) (bs : List Byte) {u : State}
    (hs : Mem.wf s.mem) (hu : s.bufferStore tid t a bs = .ok u) : Mem.wf u.mem := by
  grind [State.bufferStore, → State.storeT_wf, State.setCohort_mem]

@[simp] theorem State.joinQueue_mem (s : State) (w : ReqWho) (ctx va : Nat) : (s.joinQueue w ctx va).mem = s.mem := by
  fun_cases State.joinQueue <;> simp

@[simp] theorem State.leaveOthers_mem (s : State) (w : ReqWho) (keep : List Nat) :
    (s.leaveOthers w keep).mem = s.mem := by
  fun_cases State.leaveOthers <;> simp

@[simp] theorem State.join_mem (s : State) (tid : Nat) (t : Thread) (p : Party) (ctx : Nat) (vas : List Nat) :
    (s.join tid t p ctx vas).mem = s.mem := by
  simp [State.join]

@[simp] theorem State.await_mem (s : State) (tid : Nat) (t : Thread) (p : Party) (ctx sent : Nat)
    (got : List (Nat × Nat × FFlags)) (vas : List Nat) : (s.await tid t p ctx sent got vas).mem = s.mem := by
  simp [State.await]

/-- An access that goes on keeps the form where its continuation does; one that faults or waits writes nothing. -/
theorem accOut_wf {α : Type} {s : State} {r : Acc α} {k : α → Out} (tid : Nat) (t : Thread) (p : Party) (va : Word)
    (n : Nat) (hs : Mem.wf s.mem) (hk : ∀ x, r = .ok x → (k x).wf) : (accOut s tid t p va n r k).wf := by
  cases r with
  | ok x => exact hk x rfl
  | fault c => exact faultOut_wf _ _ _ hs
  | wait => simpa [accOut] using hs

@[simp] theorem State.sendDecrement_mem (s : State) (h : Word) (failed : Bool) :
    (s.sendDecrement h failed).mem = s.mem := by rfl

end Sys2Proof.Machine
end

section
/-! SUPPORT. Canonical memory: page tables (R346-R351), special registers, configuration, lane runs and the pool. -/

namespace Sys2Proof.Machine

@[simp] theorem State.newTable_mem (s : State) (part : Nat) : (s.newTable part).2.mem = s.mem := by rfl

theorem State.tableFor_mem (part va level fuel : Nat) (s : State) (table : Nat) {x : Nat × State}
    (hu : State.tableFor part va level fuel s table = some x) : x.2.mem = s.mem := by
  fun_induction State.tableFor with
  | case1 => cases hu; rfl
  | case2 => cases hu
  | case3 f s table a e h1 h2 ih => exact ih hu
  | case4 f s table a e h1 n ih =>
    rw [ih hu]
    exact State.newTable_mem s part

@[simp] theorem State.purgeCaches_mem (s : State) (asid : BitVec 16) (va size : Nat) :
    (s.purgeCaches asid va size).mem = s.mem := by rfl

@[simp] theorem State.purgePage_mem (s : State) (asid : BitVec 16) (va size : Nat) :
    (s.purgePage asid va size).mem = s.mem := by rfl

@[simp] theorem State.resetCounts_mem (s : State) (ctx va : Nat) : (s.resetCounts ctx va).mem = s.mem := by rfl

@[simp] theorem State.freeFrame_mem (s : State) (part : Nat) (e : Word) (size : Nat) :
    (s.freeFrame part e size).mem = s.mem := by
  fun_cases State.freeFrame <;> simp

/-- What a change of leaves makes of the machine, where it is made, has the memory of another. -/
def LeafAns.keeps (m : List Host.Cell) (x : LeafAns) : Prop := ∀ u, x = .ok u → u.mem = m

theorem State.setEntry_keeps (s : State) (ctx va level table : Nat) (e : Word) :
    (s.setEntry ctx va level table e).keeps s.mem := by
  grind [State.setEntry, LeafAns.keeps, foldl_mem, State.setPart_mem, State.freeFrame_mem, State.resetCounts_mem,
    State.purgePage_mem]

theorem State.writeLeaf_keeps (s : State) (ctx va level : Nat) (e : Word) :
    (s.writeLeaf ctx va level e).keeps s.mem := by
  grind [State.writeLeaf, LeafAns.keeps, State.setEntry_keeps, → State.tableFor_mem]

theorem State.clearLeaf_keeps (s : State) (ctx va level : Nat) : (s.clearLeaf ctx va level).keeps s.mem := by
  unfold State.clearLeaf
  dsimp only
  split
  · exact fun _ h => nomatch h
  · split
    · exact fun _ h => nomatch h
    · split
      · exact fun _ h => nomatch h
      · next x hx =>
        intro u hu
        rw [State.setEntry_keeps _ _ _ _ _ _ u hu]
        (repeat' split) <;> simp [State.tableFor_mem _ _ _ _ _ _ hx]

theorem leavesAll_keeps {α : Type} {f : State → α → LeafAns} (hf : ∀ s x, (f s x).keeps s.mem) (xs : List α)
    (s : State) : (leavesAll f xs s).keeps s.mem := by
  fun_induction leavesAll <;> grind [LeafAns.keeps]

@[simp] theorem execSrGet_wf (d : BitVec 6) (h l : BitVec 6) (s : State) (hs : Mem.wf s.mem) :
    (execSrGet d h l s).wf := by
  refine onThread_wf fun tid t => ?_
  (repeat' split) <;> simp [hs]

@[simp] theorem execSrSet_wf (d : BitVec 6) (h l : BitVec 6) (s : State) (hs : Mem.wf s.mem) :
    (execSrSet d h l s).wf := by
  refine onThread_wf fun tid t => ?_
  (repeat' split) <;> simp [hs]

@[simp] theorem execTimeRdtime_wf (d : BitVec 6) (s : State) (hs : Mem.wf s.mem) : (execTimeRdtime d s).wf := by
  refine onThread_wf fun tid t => ?_
  simp [hs]

@[simp] theorem execTimeRdtick_wf (d : BitVec 6) (s : State) (hs : Mem.wf s.mem) : (execTimeRdtick d s).wf := by
  refine onThread_wf fun tid t => ?_
  simp [hs]

@[simp] theorem execTimeRdpts_wf (d : BitVec 6) (s : State) (hs : Mem.wf s.mem) : (execTimeRdpts d s).wf := by
  refine onThread_wf fun tid t => ?_
  simp [hs]

@[simp] theorem execConfScset_wf (a b : BitVec 6) (s : State) (hs : Mem.wf s.mem) : (execConfScset a b s).wf := by
  refine onThread_wf fun tid t => ?_
  dsimp only
  split
  · exact faultOut_wf _ _ _ hs
  · split
    · exact faultOut_wf _ _ _ hs
    · split
      · exact faultOut_wf _ _ _ hs
      · refine accOut_wf _ _ _ _ _ hs fun x hx => ?_
        have loaded := State.loadT_wf _ _ _ _ _ hs hx
        (repeat' split) <;> simp [loaded]

@[simp] theorem execConfOpset_wf (a : BitVec 6) (s : State) (hs : Mem.wf s.mem) : (execConfOpset a s).wf := by
  refine onThread_wf fun tid t => ?_
  dsimp only
  (repeat' split) <;> simp [hs]

@[simp] theorem execLaneLrun_wf (a b : BitVec 6) (s : State) (hs : Mem.wf s.mem) : (execLaneLrun a b s).wf := by
  refine onThread_wf fun tid t => ?_
  dsimp only
  (repeat' split) <;> simp [hs]

@[simp] theorem State.passOps_mem (s : State) (tid uid : Nat) (old : Party → Bool) (new : Party) :
    (s.passOps tid uid old new).mem = s.mem := by
  grind [State.passOps, State.onLive_mem]

@[simp] theorem execLaneLwait_wf (n : BitVec 6) (s : State) (hs : Mem.wf s.mem) : (execLaneLwait n s).wf := by
  refine onThread_wf fun tid t => ?_
  (repeat' split) <;> simp [hs]

@[simp] theorem execLaneLres_wf (d k : BitVec 6) (s : State) (hs : Mem.wf s.mem) : (execLaneLres d k s).wf := by
  refine onThread_wf fun tid t => ?_
  (repeat' split) <;> simp [hs]

@[simp] theorem execPoolGive_wf (d k : BitVec 6) (s : State) (hs : Mem.wf s.mem) : (execPoolGive d k s).wf := by
  refine onThread_wf fun tid t => ?_
  dsimp only
  (repeat' split) <;> simp [hs]

@[simp] theorem execPoolClaim_wf (d k : BitVec 6) (s : State) (hs : Mem.wf s.mem) : (execPoolClaim d k s).wf := by
  refine onThread_wf fun tid t => ?_
  dsimp only
  (repeat' split) <;> simp [hs]

@[simp] theorem execPoolTgive_wf (d k : BitVec 6) (s : State) (hs : Mem.wf s.mem) : (execPoolTgive d k s).wf := by
  refine onThread_wf fun tid t => ?_
  dsimp only
  (repeat' split) <;> simp [hs]

@[simp] theorem execPoolTclaim_wf (d k : BitVec 6) (s : State) (hs : Mem.wf s.mem) : (execPoolTclaim d k s).wf := by
  refine onThread_wf fun tid t => ?_
  dsimp only
  (repeat' split) <;> simp [hs]

end Sys2Proof.Machine
end

section
/-! SUPPORT. Canonical memory: the QUEUE, WIN, TASK and SYS instructions. A queue operation goes on behind the checks of its
address, of its control block and of its home's turn (`withQueue`, `withIntact`, `atHome`, `homeDone`). -/

namespace Sys2Proof.Machine

@[simp] theorem sendRemote_wf (s : State) (tid : Nat) (t : Thread) (p : Party) (h : Nat) (a : Word) (op : WaitOp)
    (msg : List Word) (hs : Mem.wf s.mem) : (sendRemote s tid t p h a op msg).wf := by
  unfold sendRemote
  dsimp only
  split <;> simp [hs]

theorem withQueue_wf {s : State} {k : QRef → List Byte → Out} (tid : Nat) (t : Thread) (p : Party) (a : Word)
    (hs : Mem.wf s.mem) (hk : ∀ r b, (k r b).wf) : (withQueue s tid t p a k).wf := by
  unfold withQueue
  split
  · exact faultOut_wf _ _ _ hs
  · split
    · exact faultOut_wf _ _ _ hs
    · exact hk _ _

theorem homeDone_wf {h : HomeOut} {k : State → QAns → Out} (tid : Nat) (t : Thread) (p : Party) (a : Word)
    (hh : Mem.wf h.s.mem) (hk : ∀ u x, Mem.wf u.mem → (k u x).wf) : (homeDone h tid t p a k).wf := by
  unfold homeDone
  dsimp only
  split
  · simp [hh]
  · simp [hh]
  · exact hk _ _ (by simpa using hh)

theorem atHome_wf {s : State} {k : State → Out} (tid : Nat) (t : Thread) (p : Party) (r : QRef) (push : Bool)
    (n : Nat) (kept : Option (List Byte)) (hs : Mem.wf s.mem) (hk : (k s).wf) :
    (atHome s tid t p r push n kept k).wf := by
  unfold atHome
  split
  · simp [hs]
  · split
    · split
      · dsimp only
        split <;> simp [hs]
      · simp [hs]
    · exact hk

theorem withIntact_wf {s : State} {k : QRef → Queue → List Byte → Out} (tid : Nat) (t : Thread) (p : Party) (a : Word)
    (hs : Mem.wf s.mem) (hk : ∀ r q b, (k r q b).wf) : (withIntact s tid t p a k).wf := by
  refine withQueue_wf _ _ _ _ hs fun r b => atHome_wf _ _ _ _ _ _ _ hs ?_
  split
  · simp [hs]
  · dsimp only
    split
    · refine faultOut_wf _ _ _ ?_
      rw [State.applyEnds_mem]
      split
      · simpa using hs
      · exact hs
    · exact hk _ _ _

@[simp] theorem queueDone_wf (s : State) (tid : Nat) (d : BitVec 6) (v : Word) (hs : Mem.wf s.mem) :
    (queueDone s tid d v).wf := by
  simpa [queueDone] using hs

@[simp] theorem queueWait_wf (s : State) (tid : Nat) (r : QRef) (push : Bool) (p : Party) (op : WaitOp)
    (hs : Mem.wf s.mem) : (queueWait s tid r push p op).wf := by
  simp [queueWait, hs]

@[simp] theorem pushOp_wf (s : State) (d a b : BitVec 6) (blocks : Bool) (hs : Mem.wf s.mem) :
    (pushOp s d a b blocks).wf := by
  refine onThread_wf fun tid t => ?_
  have loaded (n : Nat) (x : List Byte × State) (hx : s.bufferLoad tid t (t.S b) n = .ok x) :=
    State.bufferLoad_wf _ _ _ _ _ hs hx
  dsimp only
  split
  · split
    · split <;> (try split) <;> simp [hs]
    · split
      · exact faultOut_wf _ _ _ hs
      · refine accOut_wf _ _ _ _ _ hs fun x hx => ?_
        split <;> (try split) <;> simp [loaded _ x hx]
  · refine withQueue_wf _ _ _ _ hs fun r bk => ?_
    have pushed (u : State) (bs : List Byte) (hu : Mem.wf u.mem) := State.homePush_wf u r (.core (coreOf tid)) [bs] hu
    split
    · split
      · have hr := State.release_wf s t.uid hs
        refine atHome_wf _ _ _ _ _ _ _ hr (homeDone_wf _ _ _ _ (pushed _ _ hr) fun w x hw => ?_)
        (repeat' split) <;> simp [hw]
      · simp [hs]
    · split
      · exact faultOut_wf _ _ _ hs
      · refine accOut_wf _ _ _ _ _ hs fun y hy => ?_
        have hr := State.release_wf y.2 t.uid (loaded _ y hy)
        split
        · refine atHome_wf _ _ _ _ _ _ _ hr (homeDone_wf _ _ _ _ (pushed _ _ hr) fun w x hw => ?_)
          (repeat' split) <;> simp [hw]
        · simpa using hr

@[simp] theorem storePopped_wf (s : State) (tid : Nat) (t : Thread) (d : BitVec 6) (e pos : Word) (bs : List Byte)
    (poison : Bool) (hs : Mem.wf s.mem) : (storePopped s tid t d e pos bs poison).wf := by
  unfold storePopped
  split
  · exact faultOut_wf _ _ _ hs
  · split
    · next u hu => exact queueDone_wf _ _ _ _ (State.bufferStore_wf _ _ _ _ _ hs hu)
    · exact faultOut_wf _ _ _ hs
    · simpa using hs

@[simp] theorem popOp_wf (s : State) (d a b : BitVec 6) (blocks : Bool) (hs : Mem.wf s.mem) :
    (popOp s d a b blocks).wf := by
  refine onThread_wf fun tid t => ?_
  dsimp only
  split
  · exact storePopped_wf _ _ _ _ _ _ _ _ hs
  · refine withQueue_wf _ _ _ _ hs fun r bk => ?_
    split
    · exact faultOut_wf _ _ _ hs
    · split
      · exact faultOut_wf _ _ _ hs
      · refine accOut_wf _ _ _ _ _ hs fun _ _ => atHome_wf _ _ _ _ _ _ _ hs
          (homeDone_wf _ _ _ _ (State.homePop_wf _ _ _ _ hs) fun u x hu => ?_)
        (repeat' split) <;> simp [hu]

@[simp] theorem execQueueQpeek_wf (d a b : BitVec 6) (s : State) (hs : Mem.wf s.mem) :
    (execQueueQpeek d a b s).wf := by
  refine onThread_wf fun tid t => withQueue_wf _ _ _ _ hs fun r b => ?_
  split
  · exact faultOut_wf _ _ _ hs
  · split
    · exact faultOut_wf _ _ _ hs
    · refine accOut_wf _ _ _ _ _ hs fun _ _ => atHome_wf _ _ _ _ _ _ _ hs
        (homeDone_wf _ _ _ _ (State.homePeek_wf _ _ _ hs) fun u x hu => ?_)
      split
      · split
        · exact faultOut_wf _ _ _ hu
        · exact accOut_wf _ _ _ _ _ hu fun v hv => queueDone_wf _ _ _ _ (State.bufferStore_wf _ _ _ _ _ hu hv)
      · simpa using hu
      · simpa using hu

@[simp] theorem execQueueQinit_wf (a k : BitVec 6) (s : State) (hs : Mem.wf s.mem) : (execQueueQinit a k s).wf := by
  refine onThread_wf fun tid t => ?_
  dsimp only
  (repeat' split) <;> simp [hs]

@[simp] theorem execQueueQres_wf (d a : BitVec 6) (s : State) (hs : Mem.wf s.mem) : (execQueueQres d a s).wf := by
  refine onThread_wf fun tid t => withQueue_wf _ _ _ _ hs fun r b => atHome_wf _ _ _ _ _ _ _ hs
    (homeDone_wf _ _ _ _ (State.homeReserve_wf _ _ _ hs) fun u x hu => ?_)
  split <;> simp [hu]

@[simp] theorem State.unreserve_mem (s : State) (key pos : Nat) : (s.unreserve key pos).mem = s.mem := by rfl

@[simp] theorem execQueueQcom_wf (a b : BitVec 6) (s : State) (hs : Mem.wf s.mem) : (execQueueQcom a b s).wf := by
  refine onThread_wf fun tid t => withQueue_wf _ _ _ _ hs fun r b => ?_
  have released := State.release_wf s t.uid hs
  dsimp only
  split
  · simpa using released
  · refine atHome_wf _ _ _ _ _ _ _ released (homeDone_wf _ _ _ _ (State.homeCommit_wf _ _ _ _ released) fun u x hu => ?_)
    split <;> simp [hu]

@[simp] theorem execQueueQlen_wf (d a n : BitVec 6) (s : State) (hs : Mem.wf s.mem) : (execQueueQlen d a n s).wf := by
  refine onThread_wf fun tid t => ?_
  dsimp only
  split
  · exact faultOut_wf _ _ _ hs
  · split
    · exact sendRemote_wf _ _ _ _ _ _ _ _ hs
    · refine withQueue_wf _ _ _ _ hs fun r b => atHome_wf _ _ _ _ _ _ _ hs
        (homeDone_wf _ _ _ _ (State.homeLen_wf _ _ _ _ hs) fun u x hu => ?_)
      split <;> simp [hu]

@[simp] theorem execQueueQclose_wf (a : BitVec 6) (s : State) (hs : Mem.wf s.mem) : (execQueueQclose a s).wf := by
  exact onThread_wf fun tid t => withQueue_wf _ _ _ _ hs fun r b => atHome_wf _ _ _ _ _ _ _ hs
    (homeDone_wf _ _ _ _ (State.homeClose_wf _ _ _ false hs) fun u x hu => by simpa using hu)

@[simp] theorem execQueueQdrain_wf (a : BitVec 6) (s : State) (hs : Mem.wf s.mem) : (execQueueQdrain a s).wf := by
  exact onThread_wf fun tid t => withQueue_wf _ _ _ _ hs fun r b => atHome_wf _ _ _ _ _ _ _ hs
    (homeDone_wf _ _ _ _ (State.homeClose_wf _ _ _ true hs) fun u x hu => by simpa using hu)

@[simp] theorem execQueueQcheck_wf (d a : BitVec 6) (s : State) (hs : Mem.wf s.mem) : (execQueueQcheck d a s).wf := by
  refine onThread_wf fun tid t => ?_
  dsimp only
  split
  · exact faultOut_wf _ _ _ hs
  · split
    · exact queueDone_wf _ _ _ _ hs
    · refine atHome_wf _ _ _ _ _ _ _ hs ?_
      split
      · simpa using hs
      · refine queueDone_wf _ _ _ _ ?_
        rw [State.applyEnds_mem]
        split
        · simpa using hs
        · exact hs

@[simp] theorem State.sampleCohort_mem (s : State) (ck : Nat) : (s.sampleCohort ck).mem = s.mem := by
  fun_cases State.sampleCohort <;> simp

@[simp] theorem State.keepReplays_mem (s : State) (stream : Nat) (key : Word) (n : Nat) :
    (s.keepReplays stream key n).mem = s.mem := by
  grind [State.keepReplays, State.setHead_mem]

@[simp] theorem State.commitStep_mem (s : State) (t : Thread) (st : StepRef) : (s.commitStep t st).mem = s.mem := by
  unfold State.commitStep
  dsimp only
  (repeat' split) <;> simp

@[simp] theorem State.onWindow_mem (s : State) (wk : Nat) (f : Window → Window) : (s.onWindow wk f).mem = s.mem := by
  fun_cases State.onWindow <;> simp

@[simp] theorem State.parkStep_wf (s : State) (tid : Nat) (t : Thread) (st : StepRef) (hs : Mem.wf s.mem) :
    Mem.wf (s.parkStep tid t st).mem := by
  grind [State.parkStep, State.hold_mem, State.release_wf, State.fault_mem, State.commitStep_mem, State.setDie_mem,
    State.sampleCohort_mem, State.onWindow_mem, State.endThread_mem]

@[simp] theorem execWinPark_wf (s : State) (hs : Mem.wf s.mem) : (execWinPark s).wf := by
  refine onThread_wf fun tid t => ?_
  (repeat' split) <;> simp [hs]

theorem withStream_wf {s : State} {k : Nat → Queue → List Byte → Out} (tid : Nat) (t : Thread) (a : Word)
    (hs : Mem.wf s.mem) (hk : ∀ pa q b, (k pa q b).wf) : (withStream s tid t a k).wf := by
  unfold withStream
  split
  · exact faultOut_wf _ _ _ hs
  · split
    · exact faultOut_wf _ _ _ hs
    · split
      · exact faultOut_wf _ _ _ hs
      · split
        · exact faultOut_wf _ _ _ hs
        · split
          · exact faultOut_wf _ _ _ hs
          · refine withIntact_wf _ _ _ _ hs fun r q b => ?_
            split
            · exact hk _ _ _
            · exact faultOut_wf _ _ _ hs

@[simp] theorem streamPush_wf (s : State) (tid : Nat) (t : Thread) (d : BitVec 6) (a : Word) (pa : Nat)
    (e : List Byte) (hs : Mem.wf s.mem) : (streamPush s tid t d a pa e).wf := by
  have released := State.release_wf s t.uid hs
  unfold streamPush
  dsimp only
  split
  · simpa using released
  · refine atHome_wf _ _ _ _ _ _ _ released (homeDone_wf _ _ _ _ (State.homePush_wf _ _ _ _ released) fun u x hu => ?_)
    split <;> simp [hu]

@[simp] theorem execWinWmark_wf (d a b : BitVec 6) (s : State) (hs : Mem.wf s.mem) : (execWinWmark d a b s).wf := by
  refine onThread_wf fun tid t => withStream_wf _ _ _ hs fun pa q b => ?_
  dsimp only
  split <;> simp [hs]

@[simp] theorem execWinWclose_wf (d a b : BitVec 6) (s : State) (hs : Mem.wf s.mem) : (execWinWclose d a b s).wf := by
  refine onThread_wf fun tid t => withStream_wf _ _ _ hs fun pa q b => ?_
  have released := State.release_wf s t.uid hs
  dsimp only
  split
  · simpa using released
  · split <;> simp [released]

@[simp] theorem execWinWemit_wf (d a b : BitVec 6) (s : State) (hs : Mem.wf s.mem) : (execWinWemit d a b s).wf := by
  refine onThread_wf fun tid t => withStream_wf _ _ _ hs fun pa q b => ?_
  dsimp only
  split
  · exact faultOut_wf _ _ _ hs
  · split
    · exact streamPush_wf _ _ _ _ _ _ _ hs
    · split
      · exact faultOut_wf _ _ _ hs
      · refine accOut_wf _ _ _ _ _ hs fun x hx => ?_
        have loaded := State.bufferLoad_wf _ _ _ _ _ hs hx
        (repeat' split) <;> simp [loaded]

@[simp] theorem execWinWstate_wf (d a b : BitVec 6) (s : State) (hs : Mem.wf s.mem) : (execWinWstate d a b s).wf := by
  refine onThread_wf fun tid t => ?_
  dsimp only
  split
  · exact faultOut_wf _ _ _ hs
  · refine accOut_wf _ _ _ _ _ hs fun x hx => ?_
    have loaded := State.loadT_wf _ _ _ _ _ hs hx
    refine withStream_wf _ _ _ loaded fun pa q b => ?_
    split
    · exact faultOut_wf _ _ _ loaded
    · split
      · exact faultOut_wf _ _ _ loaded
      · split
        · exact queueDone_wf _ _ _ _ loaded
        · split
          · exact faultOut_wf _ _ _ loaded
          · exact accOut_wf _ _ _ _ _ loaded fun u hu => queueDone_wf _ _ _ _ (State.storeT_wf _ _ _ _ _ loaded hu)

@[simp] theorem execWinWbind_wf (d a b : BitVec 6) (s : State) (hs : Mem.wf s.mem) : (execWinWbind d a b s).wf := by
  refine onThread_wf fun tid t => withStream_wf _ _ _ hs fun pa q b => ?_
  dsimp only
  split
  · exact faultOut_wf _ _ _ hs
  · split
    · exact faultOut_wf _ _ _ hs
    · split
      · exact faultOut_wf _ _ _ hs
      · split
        · simp [hs]
        · refine accOut_wf _ _ _ _ _ hs fun x hx => ?_
          have loaded := State.loadT_wf _ _ _ _ _ hs hx
          (repeat' split) <;> simp [loaded]

@[simp] theorem State.grantRas_mem (s : State) (ctx : Nat) (r : Range) : (s.grantRas ctx r).mem = s.mem := by
  simp [State.grantRas]

@[simp] theorem State.noteInstance_mem (s : State) (k : Nat) : (s.noteInstance k).mem = s.mem := by
  fun_cases State.noteInstance <;> simp

@[simp] theorem State.finishTask_mem (s : State) (k : Nat) (failed : Bool) :
    (s.finishTask k failed).1.mem = s.mem := by
  simp [State.finishTask]

@[simp] theorem State.taskRecord_mem (s : State) (k code : Nat) (addr : Word) :
    (s.taskRecord k code addr).mem = s.mem := by
  simp [State.taskRecord]

@[simp] theorem State.makeReady_wf (s : State) (k : Nat) (hs : Mem.wf s.mem) : Mem.wf (s.makeReady k).1.mem := by
  grind [State.makeReady, State.setTask_mem, State.finishTask_mem, State.taskRecord_mem, State.grantRas_mem,
    State.resident_wf, → State.readBytes_mem]

@[simp] theorem State.decrAll_wf (fuel : Nat) (s : State) (ds : List (Word × Bool)) (hs : Mem.wf s.mem) :
    Mem.wf (State.decrAll fuel s ds).mem := by
  fun_induction State.decrAll <;> grind [State.finishTask_mem, State.makeReady_wf, State.setTask_mem]

@[simp] theorem State.acceptPacket_wf (s : State) (die slot ctx : Nat) (b : List Byte) (paddr : Word) (prio : Nat)
    (tt : Option Nat) (hs : Mem.wf s.mem) : Mem.wf (s.acceptPacket die slot ctx b paddr prio tt).2.mem := by
  unfold State.acceptPacket
  (repeat' split) <;> simp [*]

@[simp] theorem spawnCopied_wf (s : State) (tid : Nat) (t : Thread) (d : BitVec 6) (p : Word) (b : List Byte)
    (hs : Mem.wf s.mem) : (spawnCopied s tid t d p b).wf := by
  unfold spawnCopied
  dsimp only
  (repeat' split) <;> simp [hs]

@[simp] theorem execTaskSpawn_wf (d a : BitVec 6) (s : State) (hs : Mem.wf s.mem) : (execTaskSpawn d a s).wf := by
  refine onThread_wf fun tid t => ?_
  dsimp only
  split
  · exact spawnCopied_wf _ _ _ _ _ _ hs
  · split
    · exact faultOut_wf _ _ _ hs
    · refine accOut_wf _ _ _ _ _ hs fun x hx => ?_
      have head := State.loadT_wf _ _ _ _ _ hs hx
      split
      · exact faultOut_wf _ _ _ head
      · split
        · exact faultOut_wf _ _ _ head
        · refine accOut_wf _ _ _ _ _ head fun y hy => ?_
          have packet := State.loadT_wf _ _ _ _ _ head hy
          split
          · exact faultOut_wf _ _ _ packet
          · exact spawnCopied_wf _ _ _ _ _ _ packet

@[simp] theorem State.oweOps_mem (s : State) (tid uid : Nat) : (s.oweOps tid uid).mem = s.mem := by
  grind [State.oweOps, State.onLive_mem]

@[simp] theorem execTaskDone_wf (s : State) (hs : Mem.wf s.mem) : (execTaskDone s).wf := by
  refine onThread_wf fun tid t => ?_
  (repeat' split) <;> simp [hs]

@[simp] theorem execTaskNote_wf (a : BitVec 6) (s : State) (hs : Mem.wf s.mem) : (execTaskNote a s).wf := by
  refine onThread_wf fun tid t => ?_
  dsimp only
  (repeat' split) <;> simp [hs]

@[simp] theorem execTaskRnext_wf (d : BitVec 6) (s : State) (hs : Mem.wf s.mem) : (execTaskRnext d s).wf := by
  refine onThread_wf fun tid t => ?_
  dsimp only
  (repeat' split) <;> simp [hs]

@[simp] theorem execTaskTquery_wf (d a : BitVec 6) (s : State) (hs : Mem.wf s.mem) : (execTaskTquery d a s).wf := by
  refine onThread_wf fun tid t => ?_
  dsimp only
  (repeat' split) <;> simp [hs]

@[simp] theorem execSysSys_wf (d a b : BitVec 6) (s : State) (hs : Mem.wf s.mem) : (execSysSys d a b s).wf := by
  refine onThread_wf fun tid t => ?_
  dsimp only
  (repeat' split) <;> simp [hs]

@[simp] theorem execSysTrap_wf (a : BitVec 6) (s : State) (hs : Mem.wf s.mem) : (execSysTrap a s).wf := by
  refine onThread_wf fun tid t => ?_
  simp [hs]

@[simp] theorem execSysUint_wf (a b : BitVec 6) (s : State) (hs : Mem.wf s.mem) : (execSysUint a b s).wf := by
  refine onThread_wf fun tid t => ?_
  dsimp only
  (repeat' split) <;> simp [hs]

@[simp] theorem State.sampleLast_mem (s : State) (tid ck : Nat) : (s.sampleLast tid ck).mem = s.mem := by
  fun_cases State.sampleLast <;> simp

@[simp] theorem execSysEnd_wf (s : State) (hs : Mem.wf s.mem) : (execSysEnd s).wf := by
  refine onThread_wf fun tid t => ?_
  (repeat' split) <;> simp [hs]

@[simp] theorem execSysHalt_wf (s : State) (hs : Mem.wf s.mem) : (execSysHalt s).wf := by
  refine onThread_wf fun tid t => ?_
  dsimp only
  (repeat' split) <;> simp [hs]

end Sys2Proof.Machine
end

section
/-! SUPPORT. Canonical memory: a window's state area, and the Carder's own steps (R268-R283, R322, R418). -/

namespace Sys2Proof.Machine

@[simp] theorem State.rekeyQueues_mem (s : State) (f : Nat → Nat) : (s.rekeyQueues f).mem = s.mem := by rfl

@[simp] theorem State.copyPage_wf (s : State) (ctx base size : Nat) (old new : Word) (hs : Mem.wf s.mem) :
    Mem.wf (s.copyPage ctx base size old new).mem := by
  fun_cases State.copyPage <;> simpa using Mem.wf_foldl _ (fun m i hm => Mem.wf_writeBytes _ _ _ hm) _ _ hs

theorem State.hostPage_wf (s : State) (ctx base size : Nat) (e : Word) {u : State} (hs : Mem.wf s.mem)
    (hu : s.hostPage ctx base size e = some u) : Mem.wf u.mem := by
  grind [State.hostPage, State.copyPage_wf, State.writeLeaf_keeps, LeafAns.keeps]

theorem State.ownPage_wf (s : State) (ctx base size : Nat) (e : Word) {u : State} (hs : Mem.wf s.mem)
    (hu : s.ownPage ctx base size e = some u) : Mem.wf u.mem := by
  grind [State.ownPage, State.copyPage_wf, State.writeLeaf_keeps, LeafAns.keeps, State.zeroFrame_wf,
    State.setPart_mem]

theorem State.areaOut_wf (s : State) (ctx : Nat) (w : Word) {u : State} (hs : Mem.wf s.mem)
    (hu : s.areaOut ctx w = some u) : Mem.wf u.mem :=
  foldl_bind_wf (fun s _ hs _ h => State.hostPage_wf s ctx _ _ _ hs h) _ hs hu

theorem State.areaBack_wf (s : State) (ctx : Nat) (w : Word) {u : State} (hs : Mem.wf s.mem)
    (hu : s.areaBack ctx w = some u) : Mem.wf u.mem :=
  foldl_bind_wf (fun s _ hs _ h => State.ownPage_wf s ctx _ _ _ hs h) _ hs hu

@[simp] theorem State.carderRecord_mem (s : State) (die ctx code : Nat) (addr info : Word) :
    (s.carderRecord die ctx code addr info).mem = s.mem := by
  simp [State.carderRecord]

@[simp] theorem State.setExt_wf (s : State) (stream off v : Nat) (hs : Mem.wf s.mem) :
    Mem.wf (s.setExt stream off v).mem := by
  fun_cases State.setExt <;> simp [*]

@[simp] theorem State.lateRecord_wf (s : State) (stream die ctx : Nat) (sr : StreamRec) (hs : Mem.wf s.mem) :
    Mem.wf (s.lateRecord stream die ctx sr).mem := by
  grind [State.lateRecord, State.setExt_wf, State.homePush_wf, State.applyEnds_mem, State.retire_mem]

theorem State.setTier_wf (s : State) (h : HatRec) (tier : Nat) {u : State} (hs : Mem.wf s.mem)
    (hu : s.setTier h tier = some u) : Mem.wf u.mem := by
  unfold State.setTier at hu
  dsimp only at hu
  grind [→ State.areaOut_wf, State.setWindow_mem, State.setStream_mem, State.yieldWays_mem, Option.map_eq_some_iff]

theorem State.roomIn_wf (s : State) (part die fuel tier : Nat) {u : State} (hs : Mem.wf s.mem)
    (hu : s.roomIn part die fuel tier = some u) : Mem.wf u.mem := by
  fun_induction State.roomIn generalizing u with
  | case1 => cases hu
  | case2 => cases hu; exact hs
  | case3 => cases hu; exact hs
  | case4 => cases hu
  | case5 part f tier _ h p _ he ih => exact bind_wf (fun v hv w hw => State.setTier_wf _ _ _ (ih hv) hw) u hu

@[simp] theorem State.promote_wf (s : State) (h : HatRec) (part tier : Nat) (key : Word) (hs : Mem.wf s.mem) :
    Mem.wf (s.promote h part tier key).mem := by
  unfold State.promote
  dsimp only
  split
  · exact hs
  · have room := getD_wf hs (o := s.roomIn part (s.dieOfKey part key) 2 0) fun u hu => State.roomIn_wf _ _ _ _ _ hs hu
    exact getD_wf room fun u hu => State.setTier_wf _ _ _ room hu

@[simp] theorem State.countRecord_wf (s : State) (stream : Nat) (ctl : StreamCtl) (key : Word) (hs : Mem.wf s.mem) :
    Mem.wf (s.countRecord stream ctl key).2.mem := by
  simp [State.countRecord, hs]

@[simp] theorem State.classify_wf (s : State) (stream die : Nat) (ctl : StreamCtl) (sr : StreamRec)
    (hs : Mem.wf s.mem) : Mem.wf (s.classify stream die ctl sr).mem := by
  grind [State.classify, State.placeCloses_mem, State.retire_mem, State.setExt_wf, State.setStream_mem,
    State.lateRecord_wf, State.countRecord_wf]

@[simp] theorem execCarderTakeRecord_wf (s : State) (hs : Mem.wf s.mem) : (execCarderTakeRecord s).wf := by
  unfold execCarderTakeRecord
  dsimp only
  (repeat' split) <;> simp [hs]

@[simp] theorem State.resolve_mem (fuel : Nat) (s : State) (stream : Nat) (key : Word) :
    (State.resolve fuel s stream key).mem = s.mem := by
  fun_induction State.resolve <;>
    grind [State.placeClose_mem, State.setHead_mem, State.retire_mem, State.setStream_mem, State.dropKey_mem]

@[simp] theorem State.resolved_mem (s : State) (stream : Nat) (key : Word) : (s.resolved stream key).mem = s.mem := by
  fun_cases State.resolved <;> simp

@[simp] theorem State.sendStall_mem (s : State) (event ctx die : Nat) (subject need : Word) :
    (s.sendStall event ctx die subject need).mem = s.mem := by
  simp [State.sendStall]

@[simp] theorem State.postStep_mem (s : State) (stream : Nat) (ctl : StreamCtl) (wk : Nat) (r : StepReq) :
    (s.postStep stream ctl wk r).mem = s.mem := by
  simp [State.postStep]

@[simp] theorem State.skipStep_mem (s : State) (stream : Nat) (r : StepReq) : (s.skipStep stream r).mem = s.mem := by
  unfold State.skipStep
  (repeat' split) <;> simp

@[simp] theorem deliver_wf (s : State) (stream : Nat) (key : Word) (reasons : List Reason) (phase : WinPhase)
    (hs : Mem.wf s.mem) : (deliver s stream key reasons phase).wf := by
  unfold deliver
  dsimp only
  (repeat' split) <;> simp [hs]

@[simp] theorem execWindowStepOpen_wf (s : State) (hs : Mem.wf s.mem) : (execWindowStepOpen s).wf := by
  grind [execWindowStepOpen, State.resolved_mem, State.sendStall_mem, State.setStream_mem, → State.roomIn_wf,
    State.setPart_mem, State.yieldWays_mem, State.setWindow_mem, State.postStep_mem, Out.wf_next, Out.wf_fault]

@[simp] theorem execWindowStepExpire_wf (s : State) (hs : Mem.wf s.mem) : (execWindowStepExpire s).wf := by
  unfold execWindowStepExpire
  dsimp only
  (repeat' split) <;> simp [hs]

@[simp] theorem execWindowTimeTrigger_wf (s : State) (hs : Mem.wf s.mem) : (execWindowTimeTrigger s).wf := by
  unfold execWindowTimeTrigger
  (repeat' split) <;> simp [hs]

@[simp] theorem State.expireKey_mem (s : State) (stream : Nat) (ctl : StreamCtl) (key : Word) :
    (s.expireKey stream ctl key).mem = s.mem :=
  foldl_mem (fun _ _ => by rfl) _ _

@[simp] theorem execWheelFire_wf (s : State) (hs : Mem.wf s.mem) : (execWheelFire s).wf := by
  unfold execWheelFire
  dsimp only
  (repeat' split) <;> simp only [Out.wf_next, State.expireKey_mem, hs]
  rw [foldl_mem (fun _ _ => by rfl)]
  exact hs

@[simp] theorem State.demote_wf (s : State) (h : HatRec) (part : Nat) (key : Word) (tier : Nat) (hs : Mem.wf s.mem) :
    Mem.wf (s.demote h part key tier).mem :=
  getD_wf hs (bind_wf fun _ hv _ hu => State.setTier_wf _ _ _ (State.roomIn_wf _ _ _ _ _ hs hv) hu)

@[simp] theorem execHatboxDemote_wf (s : State) (hs : Mem.wf s.mem) : (execHatboxDemote s).wf := by
  unfold execHatboxDemote
  dsimp only
  (repeat' split) <;> simp [hs]

@[simp] theorem execCarderEmitPush_wf (s : State) (hs : Mem.wf s.mem) : (execCarderEmitPush s).wf := by
  unfold execCarderEmitPush
  dsimp only
  (repeat' split) <;> simp [hs]

@[simp] theorem execHatboxFullRepeat_wf (s : State) (hs : Mem.wf s.mem) : (execHatboxFullRepeat s).wf := by
  unfold execHatboxFullRepeat
  dsimp only
  (repeat' split) <;> simp [hs]

end Sys2Proof.Machine
end

section
/-! SUPPORT. Canonical memory: memory barriers and the copy engine (R231-R249, R317). -/

namespace Sys2Proof.Machine

theorem State.arriveMem_wf (s : State) (a : Asker) (ctx va : Nat) (n : Option (BitVec 16)) {x : Barrier × State}
    (hs : Mem.wf s.mem) (hu : s.arriveMem a ctx va n = .ok x) : Mem.wf x.2.mem := by
  grind [State.arriveMem, → State.homeBytes_mem, → State.writeBytes_wf]

@[simp] theorem State.onCohort_mem (s : State) (uid : Nat) (f : Cohort → Cohort) :
    (s.onCohort uid f).mem = s.mem := by
  fun_cases State.onCohort <;> simp

@[simp] theorem State.takeLines_mem (s : State) (core ctx : Nat) (ids : List Nat) (es : List (CAddr × Nat)) :
    (s.takeLines core ctx ids es).mem = s.mem :=
  foldl_mem (fun u id => by split <;> simp) _ _

@[simp] theorem State.copyRecord_mem (s : State) (ck ctx code : Nat) (rec addr info : Word) (ends : Nat)
    (task : Word) : (s.copyRecord ck ctx code rec addr info ends task).mem = s.mem := by
  simp [State.copyRecord]

@[simp] theorem State.setChain_mem (s : State) (ck : Nat) (h : Chain) : (s.setChain ck h).mem = s.mem := by
  fun_cases State.setChain <;> simp

@[simp] theorem State.endChain_mem (s : State) (ck : Nat) : (s.endChain ck).mem = s.mem := by
  fun_cases State.endChain <;> simp

@[simp] theorem State.sendArrival_mem (s : State) (die ctx : Nat) (hd : Nat) (tgt : Word) :
    (s.sendArrival die ctx hd tgt).mem = s.mem := by
  fun_cases State.sendArrival <;> simp

theorem State.copyAction_wf (s : State) (ck : Nat) (h : Chain) (r : CopyRec) (code : Nat) {u : State}
    (hs : Mem.wf s.mem) (hu : s.copyAction ck h r code = some u) : Mem.wf u.mem := by
  grind [State.copyAction, State.onCohort_mem, State.sendArrival_mem, → State.arriveMem_wf, State.sendDecrement_mem,
    State.homeCommit_wf, State.applyEnds_mem]

theorem State.tellStatus_wf (s : State) (ck ctx : Nat) (r : CopyRec) (code : Nat) {u : State} (hs : Mem.wf s.mem)
    (hu : s.tellStatus ck ctx r code = some u) : Mem.wf u.mem := by
  grind [State.tellStatus, → State.writeBytes_wf]

@[simp] theorem State.tellFault_mem (s : State) (ck : Nat) (h : Chain) (r : CopyRec) (e : CopyEnd) :
    (s.tellFault ck h r e).mem = s.mem := by
  fun_cases State.tellFault <;> simp

@[simp] theorem State.leaveRecord_mem (s : State) (ck : Nat) (h : Chain) (r : CopyRec) (e : CopyEnd) :
    (s.leaveRecord ck h r e).mem = s.mem := by
  fun_cases State.leaveRecord <;> simp

@[simp] theorem State.finishRecord_wf (s : State) (ck : Nat) (h : Chain) (r : CopyRec) (e : CopyEnd)
    (hs : Mem.wf s.mem) : Mem.wf (s.finishRecord ck h r e).mem := by
  grind [State.finishRecord, State.leaveRecord_mem, State.setChain_mem, State.walksRas_mem, → State.copyAction_wf, →
    State.tellStatus_wf, State.tellFault_mem]

@[simp] theorem State.endRecord_wf (s : State) (ck : Nat) (h : Chain) (r : CopyRec) (code : Nat) (addr info : Word)
    (hs : Mem.wf s.mem) : Mem.wf (s.endRecord ck h r code addr info).mem := by
  simp [State.endRecord, hs]

/-- The machine that a QPUT's reservation leaves has its memory in canonical form. -/
def QputAt.wf : QputAt → Prop
  | .pos _ _ s => Mem.wf s.mem
  | .wait s => Mem.wf s.mem
  | .bad _ _ s => Mem.wf s.mem

theorem State.qputReserve_wf (s : State) (ck : Nat) (h : Chain) (b : List Byte) (hs : Mem.wf s.mem) :
    (s.qputReserve ck h b).wf := by
  unfold State.qputReserve
  dsimp only
  (repeat' split) <;> simp [QputAt.wf, hs]

theorem State.writeFixlist_wf (s : State) (ck ctx list : Nat) (fixes : List CSeg) {u : State} (hs : Mem.wf s.mem)
    (hu : s.writeFixlist ck ctx list fixes = .ok u) : Mem.wf u.mem := by
  grind [State.writeFixlist, → State.writeBytes_wf]

@[simp] theorem State.ownMore_mem (s : State) (h : Chain) (r : CopyRec) (es : List (CAddr × Nat)) :
    (s.ownMore h r es).1.mem = s.mem := by
  simp [State.ownMore]

@[simp] theorem State.holdRecord_wf (s : State) (ck : Nat) (h : Chain) (r : CopyRec) (hs : Mem.wf s.mem) :
    Mem.wf (s.holdRecord ck h r).mem := by
  grind [State.holdRecord, → State.writeFixlist_wf, State.ownMore_mem, State.walksRas_mem, State.setChain_mem]

@[simp] theorem State.claimLines_mem (s : State) (ck : Nat) (h : Chain) (operand : Bool) (ls : List Nat) :
    (s.claimLines ck h operand ls).1.mem = s.mem := by
  fun_cases State.claimLines <;> simp

@[simp] theorem State.takeRecord_wf (s : State) (ck : Nat) (h : Chain) (r : CopyRec) (hs : Mem.wf s.mem) :
    Mem.wf (s.takeRecord ck h r).mem := by
  unfold State.takeRecord
  have reserve := s.qputReserve_wf ck h r.raw hs
  dsimp only
  split
  · exact hs
  · split
    · split <;> simp_all [QputAt.wf]
    · split <;> simp [hs]

@[simp] theorem State.copyTouch_mem (s : State) (ck ctx : Nat) (a : CAddr) (n : Nat) :
    (s.copyTouch ck ctx a n).mem = s.mem := by
  unfold State.copyTouch
  split
  · exact foldl_mem (fun u c => by split <;> simp) _ _
  · rfl

@[simp] theorem State.reachRecord_wf (s : State) (ck : Nat) (h : Chain) (hs : Mem.wf s.mem) :
    Mem.wf (s.reachRecord ck h).mem := by
  fun_cases State.reachRecord <;> simp +zetaDelta [hs]

@[simp] theorem execCopyTakeRecord_wf (s : State) (hs : Mem.wf s.mem) : (execCopyTakeRecord s).wf := by
  unfold execCopyTakeRecord
  (repeat' split) <;> simp [hs]

@[simp] theorem execQputRetry_wf (s : State) (hs : Mem.wf s.mem) : (execQputRetry s).wf := by
  unfold execQputRetry
  dsimp only
  (repeat' split) <;> simp [hs]

@[simp] theorem State.fixPage_wf (s : State) (ctx va : Nat) (hs : Mem.wf s.mem) :
    Mem.wf (s.fixPage ctx va).1.mem := by
  simp [State.fixPage, hs]

@[simp] theorem State.pageBack_mem (s : State) (ck : Nat) (h : Chain) : (s.pageBack ck h).mem = s.mem := by
  unfold State.pageBack
  (repeat' split) <;> simp

@[simp] theorem execCopyPageResident_wf (s : State) (hs : Mem.wf s.mem) : (execCopyPageResident s).wf := by
  unfold execCopyPageResident
  dsimp only
  (repeat' split) <;> simp [hs]

@[simp] theorem State.copyWrite_wf (ck ctx cuid fuel : Nat) (s : State) (a : CAddr) (bs : List (Byte × Bool))
    (hs : Mem.wf s.mem) : Mem.wf (State.copyWrite ck ctx cuid fuel s a bs).mem := by
  fun_induction State.copyWrite with
  | case1 => exact hs
  | case2 => exact hs
  | case3 fuel s a bs m now bad plain u hne ih =>
    refine ih ?_
    simp only [u]
    (repeat' split) <;> simp [hs]

@[simp] theorem State.moveBytes_mem (s : State) (ck : Nat) (f : CFor) (len : Nat) (m : CMove) :
    (s.moveBytes ck f len m).2.mem = s.mem := by
  unfold State.moveBytes
  (repeat' split) <;> simp

theorem State.sendPiece_mem (s : State) (ck : Nat) (h : Chain) (dst : CAddr) (bs : List (Byte × Bool)) {u : State}
    (hu : s.sendPiece ck h dst bs = some u) : u.mem = s.mem := by
  grind [State.sendPiece]

@[simp] theorem State.doMoves_wf (ck : Nat) (h : Chain) (remote : Bool) (len : Nat) (ms : List CMove) (s : State)
    (hs : Mem.wf s.mem) : Mem.wf (State.doMoves ck h remote len ms s).s.mem := by
  fun_induction State.doMoves with
  | case1 => exact hs
  | case2 => exact hs
  | case3 m t s hm x bad hr u hu y ih => exact ih (by simpa [x, State.sendPiece_mem _ _ _ _ _ hu] using hs)
  | case4 m t s hm x bad hr y ih => exact ih (State.copyWrite_wf _ _ _ _ _ _ _ (by simpa [x] using hs))
  | case5 => exact hs

theorem State.qputWrite_wf (s : State) (ck : Nat) (h : Chain) (r : CopyRec) (p : Nat) {x : State × Bool}
    (hs : Mem.wf s.mem) (hu : s.qputWrite ck h r p = some x) : Mem.wf x.1.mem := by
  grind [State.qputWrite, State.moveBytes_mem, State.slotReady_wf, State.copyWrite_wf]

@[simp] theorem State.movesDone_wf (s : State) (ck : Nat) (h : Chain) (r : CopyRec) (hs : Mem.wf s.mem) :
    Mem.wf (s.movesDone ck h r).mem := by
  fun_cases State.movesDone <;> simp [*]

theorem afterMoves_wf (ck : Nat) (h : Chain) (r : CopyRec) (y : Moved) (rest : List CMove) (hy : Mem.wf y.s.mem) :
    Mem.wf (afterMoves ck h r y rest).mem := by
  unfold afterMoves
  dsimp only
  (repeat' split) <;> simp [hy]

@[simp] theorem State.performRecord_wf (s : State) (ck : Nat) (h : Chain) (r : CopyRec) (n : Nat)
    (hs : Mem.wf s.mem) : Mem.wf (s.performRecord ck h r n).mem := by
  unfold State.performRecord
  dsimp only
  generalize hv : (if crKind r.raw = 5 ∨ (s.chanAt ck).linebuf = [] then s
      else s.setChan ck { s.chanAt ck with linebuf := [] }) = v
  have clear : Mem.wf v.mem := by rw [← hv]; split <;> exact hs
  split
  · split
    · split
      · exact clear
      · split
        · next x hx => exact State.movesDone_wf _ _ _ _ (State.qputWrite_wf _ _ _ _ _ clear hx)
        · split <;> simp [clear]
    · exact State.endRecord_wf _ _ _ _ _ _ _ clear
  · exact afterMoves_wf _ _ _ _ _ (State.doMoves_wf _ _ _ _ _ _ clear)

@[simp] theorem execCopyRecordComplete_wf (s : State) (hs : Mem.wf s.mem) : (execCopyRecordComplete s).wf := by
  unfold execCopyRecordComplete
  dsimp only
  (repeat' split) <;> simp [hs]

@[simp] theorem State.fixSeg_wf (s : State) (ctx : Nat) (g : CSeg) (hs : Mem.wf s.mem) :
    Mem.wf (s.fixSeg ctx g).1.mem :=
  List.foldlRecOn (motive := fun x : State × Bool => Mem.wf x.1.mem) _ _ hs fun _ hx _ _ => State.fixPage_wf _ _ _ hx

@[simp] theorem execCopyFixupReplay_wf (s : State) (hs : Mem.wf s.mem) : (execCopyFixupReplay s).wf := by
  grind [execCopyFixupReplay, State.fixSeg_wf, State.endRecord_wf, State.setChain_mem, State.ownMore_mem,
    State.doMoves_wf, State.movesDone_wf, Out.wf_next, Out.wf_fault]

@[simp] theorem State.startChain_mem (s : State) (tid : Nat) (t : Thread) (ck : Nat) (f : CFor) (at_ : Word)
    (raw : List Byte) : (s.startChain tid t ck f at_ raw).mem = s.mem := by
  unfold State.startChain
  (repeat' split) <;> simp

@[simp] theorem execCopyCstart_wf (d a b : BitVec 6) (s : State) (hs : Mem.wf s.mem) :
    (execCopyCstart d a b s).wf := by
  refine onThread_wf fun tid t => ?_
  dsimp only
  split
  · exact faultOut_wf _ _ _ hs
  · split
    · exact faultOut_wf _ _ _ hs
    · refine accOut_wf _ _ _ _ _ hs fun x hx => ?_
      have loaded := State.loadT_wf _ _ _ _ _ hs hx
      (repeat' split) <;> simp [loaded]

@[simp] theorem execCopyCstat_wf (d a : BitVec 6) (s : State) (hs : Mem.wf s.mem) : (execCopyCstat d a s).wf := by
  refine onThread_wf fun tid t => ?_
  (repeat' split) <;> simp [hs]

@[simp] theorem State.abortHead_wf (s : State) (ck : Nat) (hs : Mem.wf s.mem) : Mem.wf (s.abortHead ck).mem := by
  fun_cases State.abortHead <;> simp [*]

@[simp] theorem State.abortChains_wf (s : State) (ck : Nat) (sel : Chain → Bool) (hs : Mem.wf s.mem) :
    Mem.wf (s.abortChains ck sel).mem := by
  grind [State.abortChains, State.setChan_mem, State.abortHead_wf]

@[simp] theorem execCopyCabort_wf (a b : BitVec 6) (s : State) (hs : Mem.wf s.mem) : (execCopyCabort a b s).wf := by
  refine onThread_wf fun tid t => ?_
  dsimp only
  (repeat' split) <;> simp [hs]

end Sys2Proof.Machine
end

section
/-! SUPPORT. Canonical memory: the frame of the lane groups (R32, R33) and the matrix engine (R113-R139). -/

namespace Sys2Proof.Machine

theorem onGangFirst_wf {s : State} {first : Nat → Thread → Nat → List Nat → Option Out}
    {k : Nat → Thread → Nat → List Nat → Out} (op fn : BitVec 8) (o : LaneOps) (hs : Mem.wf s.mem)
    (hf : ∀ tid t g ls x, first tid t g ls = some x → x.wf) (hk : ∀ tid t g ls, (k tid t g ls).wf) :
    (onGangFirst s op fn o first k).wf := by
  unfold onGangFirst
  split
  · split
    · trivial
    · split
      · exact hf _ _ _ _ _ (by assumption)
      · split
        · exact faultOut_wf _ _ _ hs
        · exact hk _ _ _ _
  · trivial

theorem onGang_wf {s : State} {k : Nat → Thread → Nat → List Nat → Out} (op fn : BitVec 8) (o : LaneOps)
    (hs : Mem.wf s.mem) (hk : ∀ tid t g ls, (k tid t g ls).wf) : (onGang s op fn o k).wf :=
  onGangFirst_wf op fn o hs (fun _ _ _ _ _ h => nomatch h) hk

@[simp] theorem laneDone_wf (s : State) (tid : Nat) (t0 t : Thread) (g : Nat) (fls : List (Nat × FFlags))
    (hs : Mem.wf s.mem) : (laneDone s tid t0 t g fls).wf := by
  simpa [laneDone] using hs

@[simp] theorem laneDoneOn_wf (s : State) (tid : Nat) (t0 : Thread) (g : Nat) (fls : List (Nat × FFlags))
    (f : Thread → Thread) (hs : Mem.wf s.mem) : (laneDoneOn s tid t0 g fls f).wf := by
  simpa [laneDoneOn] using hs

@[simp] theorem laneHold_wf (s : State) (tid g : Nat) (hs : Mem.wf s.mem) : (laneHold s tid g).wf := by
  simpa [laneHold] using hs

theorem laneVector_wf {s : State} (op fn : BitVec 8) (o : LaneOps) (f : Thread → Nat → Nat → Nat)
    (hs : Mem.wf s.mem) : (laneVector s op fn o f).wf :=
  onGang_wf _ _ _ hs fun _ _ _ _ => laneDone_wf _ _ _ _ _ _ hs

theorem lanePred_wf {s : State} (op fn : BitVec 8) (o : LaneOps) (f : Thread → Nat → Bool) (hs : Mem.wf s.mem) :
    (lanePred s op fn o f).wf :=
  onGang_wf _ _ _ hs fun _ _ _ _ => laneDone_wf _ _ _ _ _ _ hs

theorem laneFlags_wf {s : State} (op fn : BitVec 8) (o : LaneOps) (f : Thread → Nat → Nat × FFlags)
    (hs : Mem.wf s.mem) : (laneFlags s op fn o f).wf :=
  onGang_wf _ _ _ hs fun _ _ _ _ => laneDone_wf _ _ _ _ _ _ hs

theorem mxOpFirst_wf {s : State} {first : Nat → Thread → Nat → List Nat → Option Out}
    {k : Nat → Thread → Nat → List Nat → Cohort → Out} (fn : BitVec 8) (o : LaneOps) (hs : Mem.wf s.mem)
    (hf : ∀ tid t g ls x, first tid t g ls = some x → x.wf) (hk : ∀ tid t g ls c, (k tid t g ls c).wf) :
    (mxOpFirst s fn o first k).wf := by
  refine onGangFirst_wf _ _ _ hs hf fun tid t g ls => ?_
  split
  · exact laneDone_wf _ _ _ _ _ _ hs
  · split
    · exact laneHold_wf _ _ _ hs
    · split
      · exact hk _ _ _ _ _
      · exact laneHold_wf _ _ _ hs

theorem mxOp_wf {s : State} {k : Nat → Thread → Nat → List Nat → Cohort → Out} (fn : BitVec 8) (o : LaneOps)
    (hs : Mem.wf s.mem) (hk : ∀ tid t g ls c, (k tid t g ls c).wf) : (mxOp s fn o k).wf :=
  mxOpFirst_wf fn o hs (fun _ _ _ _ _ h => nomatch h) hk

@[simp] theorem mxFault_wf (s : State) (tid : Nat) (t : Thread) (g : Nat) (ls : List Nat) (code : Nat) (addr : Word)
    (hs : Mem.wf s.mem) : (mxFault s tid t g ls code addr).wf :=
  faultOut_wf _ _ _ hs

@[simp] theorem mxAcceptTo_wf (s : State) (tid : Nat) (t : Thread) (g : Nat) (ls recs owned lines : List Nat)
    (kind : MxKind) (effect : Bool) (hs : Mem.wf s.mem) :
    (mxAcceptTo s tid t g ls recs owned lines kind effect).wf :=
  laneDoneOn_wf _ _ _ _ _ _ hs

@[simp] theorem mxAccept_wf (s : State) (tid : Nat) (t : Thread) (g : Nat) (ls recs owned : List Nat) (kind : MxKind)
    (effect : Bool) (hs : Mem.wf s.mem) : (mxAccept s tid t g ls recs owned kind effect).wf :=
  mxAcceptTo_wf _ _ _ _ _ _ _ _ _ _ hs

@[simp] theorem execMxMres_wf (o : LaneOps) (s : State) (hs : Mem.wf s.mem) : (execMxMres o s).wf := by
  refine mxOp_wf _ _ hs fun tid t g ls c => ?_
  dsimp only
  (repeat' split) <;> simp [hs]

@[simp] theorem execMxMfree_wf (o : LaneOps) (s : State) (hs : Mem.wf s.mem) : (execMxMfree o s).wf := by
  refine mxOp_wf _ _ hs fun tid t g ls c => ?_
  dsimp only
  (repeat' split) <;> simp [hs]

@[simp] theorem execMxMfill_wf (o : LaneOps) (s : State) (hs : Mem.wf s.mem) : (execMxMfill o s).wf := by
  refine mxOp_wf _ _ hs fun tid t g ls c => ?_
  dsimp only
  (repeat' split) <;> simp [hs]

@[simp] theorem execMxMma_wf (o : LaneOps) (s : State) (hs : Mem.wf s.mem) : (execMxMma o s).wf := by
  refine mxOp_wf _ _ hs fun tid t g ls c => ?_
  dsimp only
  (repeat' split) <;> simp [hs]

@[simp] theorem execMxMmag_wf (o : LaneOps) (s : State) (hs : Mem.wf s.mem) : (execMxMmag o s).wf := by
  refine mxOp_wf _ _ hs fun tid t g ls c => ?_
  dsimp only
  (repeat' split) <;> simp [hs]

@[simp] theorem execMxMzero_wf (o : LaneOps) (s : State) (hs : Mem.wf s.mem) : (execMxMzero o s).wf := by
  refine mxOp_wf _ _ hs fun tid t g ls c => ?_
  dsimp only
  (repeat' split) <;> simp [hs]

@[simp] theorem execMxMrd_wf (o : LaneOps) (s : State) (hs : Mem.wf s.mem) : (execMxMrd o s).wf := by
  refine mxOp_wf _ _ hs fun tid t g ls c => ?_
  dsimp only
  (repeat' split) <;> simp [hs]

@[simp] theorem execMxMwr_wf (o : LaneOps) (s : State) (hs : Mem.wf s.mem) : (execMxMwr o s).wf := by
  refine mxOp_wf _ _ hs fun tid t g ls c => ?_
  dsimp only
  (repeat' split) <;> simp [hs]

@[simp] theorem execMxMst_wf (o : LaneOps) (s : State) (hs : Mem.wf s.mem) : (execMxMst o s).wf := by
  refine mxOp_wf _ _ hs fun tid t g ls c => ?_
  dsimp only
  (repeat' split) <;> simp [hs]

@[simp] theorem execMxMstx_wf (o : LaneOps) (s : State) (hs : Mem.wf s.mem) : (execMxMstx o s).wf := by
  refine mxOp_wf _ _ hs fun tid t g ls c => ?_
  dsimp only
  (repeat' split) <;> simp [hs]

@[simp] theorem execMxMrow_wf (o : LaneOps) (s : State) (hs : Mem.wf s.mem) : (execMxMrow o s).wf := by
  refine mxOp_wf _ _ hs fun tid t g ls c => ?_
  (repeat' split) <;> simp [hs]

@[simp] theorem execMxMnote_wf (o : LaneOps) (s : State) (hs : Mem.wf s.mem) : (execMxMnote o s).wf := by
  refine mxOpFirst_wf _ _ hs (fun tid t g ls x hx => ?_) fun tid t g ls c => ?_
  · split at hx <;> cases hx
    exact mxFault_wf _ _ _ _ _ _ _ hs
  · dsimp only
    split <;> simp [hs]

@[simp] theorem State.mxFlag_mem (s : State) (op : MxOp) (fl : FFlags) : (s.mxFlag op fl).mem = s.mem := by
  simp [State.mxFlag]

@[simp] theorem State.setTile_mem (s : State) (op : MxOp) (n : Nat) (tile : Tile) :
    (s.setTile op n tile).mem = s.mem := by
  fun_cases State.setTile <;> simp

@[simp] theorem State.mxRecord_mem (s : State) (op : MxOp) (code : Nat) (addr : Word) :
    (s.mxRecord op code addr).mem = s.mem := by
  fun_cases State.mxRecord <;> simp

@[simp] theorem State.mxPoison_mem (s : State) (op : MxOp) (tile : Nat) : (s.mxPoison op tile).mem = s.mem := by
  simp [State.mxPoison]

@[simp] theorem State.mxMultiply_mem (s : State) (op : MxOp) (tile : Nat) (ra rb : Resv) (e : OpEntry) (z : Bool)
    (k : Nat) (rows : List (Nat × Option Nat)) : (s.mxMultiply op tile ra rb e z k rows).mem = s.mem := by
  fun_cases State.mxMultiply <;> simp

theorem State.mxPerform_wf (s : State) (op : MxOp) {u : State} (hs : Mem.wf s.mem) (hu : s.mxPerform op = some u) :
    Mem.wf u.mem := by
  unfold State.mxPerform at hu
  dsimp only at hu
  split at hu
  case h_8 =>
    split at hu <;> cases hu
    next v f hv =>
    rw [State.mxFlag_mem]
    refine List.foldlRecOn (motive := fun p : Option (State × FFlags) => ∀ x, p = some x → Mem.wf x.1.mem)
      _ _ ?_ ?_ _ hv
    · rintro x ⟨⟩; exact hs
    · intro p hp x _ y hy
      split at hy
      · cases hy
      · next w g =>
        split at hy <;> cases hy
        · next w' hw => exact State.writeBytes_wf _ _ _ _ _ (hp _ rfl) hw
        · simpa using hp _ rfl
  all_goals (try split at hu) <;> (try split at hu) <;> cases hu <;> simp [hs]

@[simp] theorem State.freeRecs_mem (s : State) (core ck : Nat) : (s.freeRecs core ck).mem = s.mem := by
  fun_cases State.freeRecs <;> simp

theorem State.mxLeave_wf (s : State) (n : Nat) (op : MxOp) {u : State} (hs : Mem.wf s.mem)
    (hu : s.mxLeave n op = some u) : Mem.wf u.mem := by
  grind [State.mxLeave, → State.mxPerform_wf, State.setCore_mem]

@[simp] theorem execMxRetire_wf (s : State) (hs : Mem.wf s.mem) : (execMxRetire s).wf := by
  unfold execMxRetire
  dsimp only
  split
  · exact hs
  · next op u hu =>
    obtain ⟨op', -, hop⟩ := List.exists_of_findSome?_eq_some hu
    obtain ⟨v, hv, he⟩ := Option.map_eq_some_iff.mp hop
    cases he
    simpa using State.mxLeave_wf _ _ _ hs hv

end Sys2Proof.Machine
end

section
/-! SUPPORT. Canonical memory: grants and placement, the SL instructions, the task engine and pre-emption (R140-R153,
R286-R299, R352, R353, R398-R407). -/

namespace Sys2Proof.Machine

@[simp] theorem State.holdLeaf_mem (s : State) (ctx base size : Nat) (e : Word) :
    (s.holdLeaf ctx base size e).mem = s.mem :=
  foldl_mem (fun u ch => by split <;> simp) _ _

/-- The machine on which a grant was given has its memory in canonical form. -/
def Granted.wf (g : Granted) : Prop := ∀ u ks, g = .given u ks → Mem.wf u.mem

theorem State.grantPage_wf (s : State) (ctx base size : Nat) (hs : Mem.wf s.mem) :
    (s.grantPage ctx base size).wf := by
  grind [State.grantPage, Granted.wf, → State.makeResident_wf, State.holdLeaf_mem]

theorem State.grantPages_wf (ctx : Nat) (ps : List (Nat × Nat × Word)) (s : State) (hs : Mem.wf s.mem) :
    (s.grantPages ctx ps).wf := by
  induction ps generalizing s with
  | nil => intro u ks h; cases h; exact hs
  | cons p t ih =>
    have first := s.grantPage_wf ctx p.1 p.2.1 hs
    grind [State.grantPages, Granted.wf]

theorem State.grant_wf (s : State) (ctx : Nat) (rs : List Range) (hs : Mem.wf s.mem) : (s.grant ctx rs).wf := by
  unfold State.grant
  dsimp only
  split
  · exact fun _ _ h => nomatch h
  · exact s.grantPages_wf ctx _ hs

theorem State.grantStep_wf (s : State) (ctx : Nat) (area : Word) (rs : List Range) (hs : Mem.wf s.mem) :
    (s.grantStep ctx area rs).wf := by
  unfold State.grantStep
  split
  · split <;> exact fun _ _ h => nomatch h
  · next u hu => exact u.grant_wf ctx rs (State.areaBack_wf _ _ _ hs hu)

theorem State.grantAll_wf (ctx : Nat) (rs : List Range) (n : Nat) (s : State) (hs : Mem.wf s.mem) :
    (s.grantAll ctx rs n).wf := by
  induction n generalizing s with
  | zero => intro u ks h; cases h; exact hs
  | succ n ih =>
    have one := s.grant_wf ctx rs hs
    grind [State.grantAll, Granted.wf]

@[simp] theorem State.bearAll_mem (s : State) (mk : Nat → Nat → Nat → Thread) (step : Nat) (a : List (Nat × Nat)) :
    (s.bearAll mk step a).mem = s.mem := by
  fun_induction State.bearAll with
  | case1 => rfl
  | case2 s tid i t u ih => exact ih.trans (by rfl)

@[simp] theorem State.launch_mem (s : State) (core : Nat) (r : Request) (regs : SMap Word) (rs : List Range)
    (grant : List Nat) (window : Bool) (fill : Nat → Thread → Thread) :
    (s.launch core r regs rs grant window fill).1.mem = s.mem := by
  simp [State.launch]

@[simp] theorem State.placed_mem (s : State) (die : Nat) (r : Request) : (s.placed die r).mem = s.mem := by rfl

theorem State.placeTask_wf (s : State) (die core : Nat) (r : Request) (k i : Nat) {u : State} (hs : Mem.wf s.mem)
    (hu : s.placeTask die core r k i = some u) : Mem.wf u.mem := by
  have granted := s.grantAll_wf r.ctx ((pkRanges (s.taskAt k).packet).getD []) r.csize hs
  unfold State.placeTask at hu
  dsimp only at hu
  split at hu
  · cases hu
  · cases hu
  · cases hu; simp [hs]
  · next v keys hv => cases hu; simp [granted v keys hv]

@[simp] theorem State.refuseStep_mem (s : State) (die : Nat) (r : Request) (wk : Nat) (w : Window) (va : Nat) :
    (s.refuseStep die r wk w va).mem = s.mem := by
  simp [State.refuseStep]

theorem State.placeWindow_wf (s : State) (die core : Nat) (r : Request) (wk : Nat) {u : State} (hs : Mem.wf s.mem)
    (hu : s.placeWindow die core r wk = some u) : Mem.wf u.mem := by
  unfold State.placeWindow at hu
  dsimp only at hu
  split at hu
  · cases hu; simp [hs]
  · next w hw =>
    split at hu
    · split at hu
      · cases hu
      · split at hu
        · cases hu; simp [hs]
        · next rs hr =>
          have granted := s.grantStep_wf r.ctx w.state rs hs
          split at hu
          · cases hu
          · cases hu
          · cases hu; simp [hs]
          · next v keys hv => cases hu; simp [granted v keys hv]
    · cases hu; simp [hs]

theorem State.placeSaved_mem (s : State) (die core : Nat) (r : Request) (k : Nat) {u : State}
    (hu : s.placeSaved die core r k = some u) : u.mem = s.mem := by
  unfold State.placeSaved at hu
  split at hu
  · cases hu; simp
  · cases hu
    rw [foldl_mem (fun _ _ => by rfl)]
    simp

theorem State.tryPlace_wf (s : State) (die : Nat) (r : Request) {u : State} (hs : Mem.wf s.mem)
    (hu : s.tryPlace die r = some u) : Mem.wf u.mem := by
  grind [State.tryPlace, → State.placeTask_wf, → State.placeWindow_wf, → State.placeSaved_mem]

theorem State.firstPlaced_wf (s : State) (die : Nat) (a : List Request) {x : Request × State} (hs : Mem.wf s.mem)
    (hu : s.firstPlaced die a = some x) : Mem.wf x.2.mem := by
  fun_induction State.firstPlaced <;> grind [→ State.tryPlace_wf]

theorem State.nextPlaced_wf (s : State) (die : Nat) {x : Request × State} (hs : Mem.wf s.mem)
    (hu : s.nextPlaced die = some x) : Mem.wf x.2.mem := by
  grind [State.nextPlaced, → State.firstPlaced_wf]

@[simp] theorem State.stall_mem (s : State) (die : Nat) (r : Request) : (s.stall die r).mem = s.mem := by
  simp [State.stall]

@[simp] theorem execPlacement_wf (s : State) (hs : Mem.wf s.mem) : (execPlacement s).wf := by
  grind [execPlacement, → State.nextPlaced_wf, State.stall_mem, Out.wf_next, Out.wf_fault]

@[simp] theorem execCohortRestore_wf (s : State) (hs : Mem.wf s.mem) : (execCohortRestore s).wf := by
  grind [execCohortRestore, → State.nextPlaced_wf, Out.wf_next, Out.wf_fault]

@[simp] theorem execPlacementStallRepeat_wf (s : State) (hs : Mem.wf s.mem) : (execPlacementStallRepeat s).wf := by
  unfold execPlacementStallRepeat
  (repeat' split) <;> simp [hs]

@[simp] theorem execStarveTimeout_wf (s : State) (hs : Mem.wf s.mem) : (execStarveTimeout s).wf := by
  unfold execStarveTimeout
  dsimp only
  (repeat' split) <;> simp [hs]

@[simp] theorem State.askPreempt_mem (s : State) (ck : Nat) (q : PreReq) : (s.askPreempt ck q).mem = s.mem := by
  fun_cases State.askPreempt <;> simp

@[simp] theorem execEvictTimeout_wf (s : State) (hs : Mem.wf s.mem) : (execEvictTimeout s).wf := by
  unfold execEvictTimeout
  dsimp only
  (repeat' split) <;> simp [hs]

@[simp] theorem slAccept_wf (s : State) (tid : Nat) (t : Thread) (op : SlOp) (hs : Mem.wf s.mem) :
    (slAccept s tid t op).wf := by
  simpa [slAccept] using hs

theorem slOp_wf (s : State) (fn : Nat) (o : LaneOps) (hs : Mem.wf s.mem) : (slOp s fn o).wf := by
  unfold slOp
  refine onGangFirst_wf _ _ _ hs (fun tid t g ls x hx => ?_) fun tid t g ls => ?_
  · split at hx <;> cases hx
    exact laneDone_wf _ _ _ _ _ _ hs
  · dsimp only
    (repeat' split) <;> simp [hs]

@[simp] theorem execSlRng_wf (o : LaneOps) (s : State) (hs : Mem.wf s.mem) : (execSlRng o s).wf := by
  refine onGang_wf _ _ _ hs fun tid t g ls => ?_
  dsimp only
  (repeat' split) <;> simp [hs]

@[simp] theorem State.slDeliver_mem (s : State) (op : SlOp) (fl : FFlags) (f : Thread → Thread) :
    (s.slDeliver op fl f).mem = s.mem := by
  fun_cases State.slDeliver <;> simp

@[simp] theorem State.slPerform_mem (s : State) (op : SlOp) : (s.slPerform op).mem = s.mem := by
  grind [State.slPerform, State.slDeliver_mem, State.setCohort_mem, State.fault_mem]

@[simp] theorem State.slTouch_mem (s : State) (n : Nat) (op : SlOp) (rest : List SlOp) (w : Nat) :
    (s.slTouch n op rest w).mem = s.mem := by
  grind [State.slTouch, State.setCore_mem, State.setCohort_mem]

@[simp] theorem execSlRetire_wf (s : State) (hs : Mem.wf s.mem) : (execSlRetire s).wf := by
  unfold execSlRetire
  dsimp only
  (repeat' split) <;> simp [hs]

@[simp] theorem State.dropPacket_mem (s : State) (die ctx code : Nat) (addr info : Word) :
    (s.dropPacket die ctx code addr info).mem = s.mem := by
  simp [State.dropPacket]

@[simp] theorem execTaskEnginePop_wf (s : State) (hs : Mem.wf s.mem) : (execTaskEnginePop s).wf := by
  unfold execTaskEnginePop
  dsimp only
  (repeat' split) <;> simp [hs]

@[simp] theorem execTaskDecrement_wf (s : State) (hs : Mem.wf s.mem) : (execTaskDecrement s).wf := by
  unfold execTaskDecrement
  dsimp only
  (repeat' split) <;> simp [hs]

@[simp] theorem State.postTask_mem (s : State) (die k i : Nat) : (s.postTask die k i).mem = s.mem := by rfl

@[simp] theorem execTaskLaunch_wf (s : State) (hs : Mem.wf s.mem) : (execTaskLaunch s).wf := by
  unfold execTaskLaunch
  dsimp only
  (repeat' split) <;> simp [hs]

@[simp] theorem execTaskComplete_wf (s : State) (hs : Mem.wf s.mem) : (execTaskComplete s).wf := by
  unfold execTaskComplete
  dsimp only
  (repeat' split) <;> simp [hs]

@[simp] theorem execRangeSplit_wf (s : State) (hs : Mem.wf s.mem) : (execRangeSplit s).wf := by
  unfold execRangeSplit
  dsimp only
  (repeat' split) <;> simp [hs]

@[simp] theorem State.setTT_mem (s : State) (part n : Nat) (t : TTSlot) : (s.setTT part n t).mem = s.mem := by rfl

@[simp] theorem execTtRelease_wf (s : State) (hs : Mem.wf s.mem) : (execTtRelease s).wf := by
  unfold execTtRelease
  dsimp only
  split
  · exact hs
  · next t _ =>
    split
    · exact hs
    · have mapped := State.resident_wf s t.ctx t.templ.toNat 256 hs
      split
      · exact mapped
      · simpa using mapped
      · next u hu =>
        have head : Mem.wf u.mem := by rwa [State.readBytes_mem _ _ _ _ _ hu]
        split
        · simpa using head
        · split
          · exact head
          · simpa using head
          · next v hv =>
            have packet : Mem.wf v.mem := by rwa [State.readBytes_mem _ _ _ _ _ hv]
            (repeat' split) <;> simp [packet]

@[simp] theorem execTtReleaseSkip_wf (s : State) (hs : Mem.wf s.mem) : (execTtReleaseSkip s).wf := by
  unfold execTtReleaseSkip
  dsimp only
  (repeat' split) <;> simp [hs]

@[simp] theorem State.boundMissed_mem (s : State) (c : Cohort) (die : Nat) (q : PreReq) :
    (s.boundMissed c die q).mem = s.mem := by
  simp [State.boundMissed]

@[simp] theorem State.cancelOps_mem (s : State) (core uid : Nat) : (s.cancelOps core uid).mem = s.mem := by
  fun_cases State.cancelOps <;> simp

@[simp] theorem State.flush_mem (s : State) (ck : Nat) : (s.flush ck).mem = s.mem :=
  foldl_mem (fun u m => by dsimp only; split <;> simp) _ _

@[simp] theorem execPreemptRequest_wf (s : State) (hs : Mem.wf s.mem) : (execPreemptRequest s).wf := by
  unfold execPreemptRequest
  dsimp only
  (repeat' split) <;> simp [hs]

@[simp] theorem execDrainBoundExpire_wf (s : State) (hs : Mem.wf s.mem) : (execDrainBoundExpire s).wf := by
  unfold execDrainBoundExpire
  dsimp only
  (repeat' split) <;> simp [hs]

@[simp] theorem State.withdrawAll_mem (s : State) (ck : Nat) : (s.withdrawAll ck).mem = s.mem :=
  foldl_mem (fun u m => by dsimp only; (repeat' split) <;> simp) _ _

@[simp] theorem State.rejoin_mem (s : State) (k : Nat) : (s.rejoin k).mem = s.mem := by
  unfold State.rejoin
  (repeat' split) <;> simp

@[simp] theorem State.saveCohort_mem (s : State) (ck : Nat) (c : Cohort) : (s.saveCohort ck c).mem = s.mem := by
  grind [State.saveCohort, State.withdrawAll_mem, State.boundMissed_mem, State.setCore_mem, State.rejoin_mem]

@[simp] theorem State.askAll_mem (s : State) (ck : Nat) : (s.askAll ck).mem = s.mem := by
  simp [State.askAll]

@[simp] theorem execCohortSave_wf (s : State) (hs : Mem.wf s.mem) : (execCohortSave s).wf := by
  unfold execCohortSave
  dsimp only
  (repeat' split) <;> simp [hs]

@[simp] theorem execCohortFree_wf (s : State) (hs : Mem.wf s.mem) : (execCohortFree s).wf := by
  unfold execCohortFree
  dsimp only
  (repeat' split) <;> simp [hs]

@[simp] theorem State.stopCores_mem (s : State) (part die : Nat) (on : Bool) :
    (s.stopCores part die on).mem = s.mem :=
  foldl_mem (fun _ _ => by rfl) _ _

@[simp] theorem execPartitionSwapOut_wf (s : State) (hs : Mem.wf s.mem) : (execPartitionSwapOut s).wf := by
  unfold execPartitionSwapOut
  have withdrawn (cs : List (Nat × Cohort)) : (cs.foldl (fun s c => s.withdrawAll c.1) s).mem = s.mem := by simp
  have asked (cs : List (Nat × Cohort)) (u : State) :
      (cs.foldl (fun s c => if s.unasked c.1 then s.askAll c.1 else s) u).mem = u.mem :=
    foldl_mem (fun v c => by split <;> simp) _ _
  dsimp only
  (repeat' split) <;> simp [hs, asked]

@[simp] theorem execPartitionSwapIn_wf (s : State) (hs : Mem.wf s.mem) : (execPartitionSwapIn s).wf := by
  unfold execPartitionSwapIn
  dsimp only
  split
  · rw [Out.wf_next, foldl_mem (fun u x => by split <;> simp)]
    simpa using hs
  · exact hs

@[simp] theorem execWatchdog_wf (s : State) (hs : Mem.wf s.mem) : (execWatchdog s).wf := by
  unfold execWatchdog
  dsimp only
  (repeat' split) <;> simp [hs]

@[simp] theorem State.endSavedThread_mem (s : State) (die : Nat) (t : Thread) (code source : Nat) (pc info : Word) :
    (s.endSavedThread die t code source pc info).mem = s.mem := by
  unfold State.endSavedThread
  (repeat' split) <;> simp

@[simp] theorem State.dropSaved_mem (s : State) (k : Nat) : (s.dropSaved k).mem = s.mem := by rfl

@[simp] theorem State.failSaved_mem (s : State) (uid code source : Nat) (pc info : Word) :
    (s.failSaved uid code source pc info).mem = s.mem := by
  unfold State.failSaved
  dsimp only
  split
  · rfl
  · rw [foldl_mem (fun u t => by simp)]
    split <;> simp

@[simp] theorem State.onSaved_mem (s : State) (uid : Nat) (f : Thread → Thread) : (s.onSaved uid f).mem = s.mem := by rfl

@[simp] theorem execSysResponse_wf (s : State) (hs : Mem.wf s.mem) : (execSysResponse s).wf := by
  unfold execSysResponse
  dsimp only
  split
  · exact hs
  · next r _ =>
    generalize (match look s.threads r.tid with
      | some t => if t.uid = r.uid && !t.ended then some t else none
      | none => none) = live
    split
    · split
      · exact faultOut_wf _ _ _ hs
      · split <;> simp [hs]
    · split
      · split <;> exact hs
      · split
        · exact hs
        · split
          · exact hs
          · split
            · exact faultOut_wf _ _ _ hs
            · exact hs
          · next u hu =>
            have written := State.writeBytes_wf _ _ _ _ _ hs hu
            split <;> simp [written]

end Sys2Proof.Machine
end

section
/-! SUPPORT. Canonical memory: the security alarm and the mailbox (R358-R360, R372-R380). -/

namespace Sys2Proof.Machine

@[simp] theorem State.endSaved_mem (s : State) (k code source : Nat) : (s.endSaved k code source).mem = s.mem := by
  fun_cases State.endSaved <;> simp

@[simp] theorem State.markRefused_mem (s : State) (part : Nat) : (s.markRefused part).mem = s.mem :=
  foldl_mem (fun u t => by split <;> simp) _ _

@[simp] theorem State.quarantine_wf (s : State) (part : Nat) (hs : Mem.wf s.mem) :
    Mem.wf (s.quarantine part).mem := by
  unfold State.quarantine
  dsimp only
  refine foldl_wf (fun u c hu => State.abortChains_wf _ _ _ hu) _ _ ?_
  rw [foldl_mem (fun u x => by split <;> simp), foldl_mem (fun u p => by (repeat' split) <;> simp),
    foldl_mem (fun u p => by split <;> simp)]
  simpa using hs

@[simp] theorem State.clearQuads_mem (s : State) (quads : BitVec 96) : (s.clearQuads quads).mem = s.mem := by rfl

@[simp] theorem State.dropSlices_wf (s : State) (sel : Nat → Bool) (hs : Mem.wf s.mem) :
    Mem.wf (s.dropSlices sel).mem :=
  foldl_wf (fun _ _ hu => State.loseLine_wf _ _ hu) _ _ hs

@[simp] theorem State.clearChannels_wf (s : State) (sel : Nat → Bool) (hs : Mem.wf s.mem) :
    Mem.wf (s.clearChannels sel).mem :=
  Mem.wf_filter _ _ (State.dropSlices_wf _ _ hs)

@[simp] theorem State.dropDecs_mem (s : State) (part : Nat) : (s.dropDecs part).mem = s.mem := by
  fun_cases State.dropDecs <;> simp

@[simp] theorem State.zeroise_wf (s : State) (part : Nat) (hs : Mem.wf s.mem) : Mem.wf (s.zeroise part).mem := by
  simp [State.zeroise, hs]

@[simp] theorem State.alarmPart_wf (s : State) (part level : Nat) (hs : Mem.wf s.mem) :
    Mem.wf (s.alarmPart part level).mem := by
  grind [State.alarmPart, State.quarantine_wf, State.zeroise_wf, State.setPart_mem]

@[simp] theorem State.alarmAll_wf (s : State) (level : Nat) (hs : Mem.wf s.mem) : Mem.wf (s.alarmAll level).mem :=
  foldl_wf (fun _ _ hu => State.alarmPart_wf _ _ _ hu) _ _ hs

@[simp] theorem State.haltDevice_mem (s : State) : s.haltDevice.mem = s.mem := by rfl

@[simp] theorem State.alarmRecord_mem (s : State) (source : Nat) (scope : Option Nat) (level : Nat) :
    (s.alarmRecord source scope level).mem = s.mem := by
  simp [State.alarmRecord]

@[simp] theorem State.alarmDevice_wf (s : State) (level : Nat) (hs : Mem.wf s.mem) :
    Mem.wf (s.alarmDevice level).mem := by
  unfold State.alarmDevice
  (repeat' split) <;> simp [*]

@[simp] theorem State.alarm_wf (s : State) (source : Nat) (scope : Option Nat) (level : Nat) (hs : Mem.wf s.mem) :
    Mem.wf (s.alarm source scope level).mem := by
  unfold State.alarm
  (repeat' split) <;> simp [*]

@[simp] theorem execAlarmVolt_wf (s : State) (hs : Mem.wf s.mem) : (execAlarmVolt s).wf := by
  unfold execAlarmVolt
  (repeat' split) <;> simp [hs]

@[simp] theorem execAlarmClock_wf (s : State) (hs : Mem.wf s.mem) : (execAlarmClock s).wf := by
  unfold execAlarmClock
  (repeat' split) <;> simp [hs]

@[simp] theorem execAlarmTemp_wf (s : State) (hs : Mem.wf s.mem) : (execAlarmTemp s).wf := by
  unfold execAlarmTemp
  (repeat' split) <;> simp [hs]

@[simp] theorem execAlarmMesh_wf (s : State) (hs : Mem.wf s.mem) : (execAlarmMesh s).wf := by
  unfold execAlarmMesh
  (repeat' split) <;> simp [hs]

@[simp] theorem State.measure_wf (s : State) (part : Nat) (hs : Mem.wf s.mem) : Mem.wf (s.measure part).mem := by
  fun_cases State.measure <;> simp [*]

@[simp] theorem execAlarmPrivrep_wf (s : State) (hs : Mem.wf s.mem) : (execAlarmPrivrep s).wf := by
  unfold execAlarmPrivrep
  dsimp only
  (repeat' split) <;> simp [hs]

@[simp] theorem State.alarmRequest_wf (s : State) (level : Nat) (hs : Mem.wf s.mem) :
    Mem.wf (s.alarmRequest level).mem := by
  unfold State.alarmRequest
  dsimp only
  split
  · exact State.alarm_wf _ _ _ _ hs
  · exact foldl_wf (fun u p hu => State.alarmPart_wf _ _ _ hu) _ _ (by simpa using hs)

@[simp] theorem execDoeAlarmRequest_wf (s : State) (hs : Mem.wf s.mem) : (execDoeAlarmRequest s).wf := by
  unfold execDoeAlarmRequest
  dsimp only
  (repeat' split) <;> simp [hs]

@[simp] theorem execDoeAlarmClear_wf (s : State) (hs : Mem.wf s.mem) : (execDoeAlarmClear s).wf := by
  unfold execDoeAlarmClear
  dsimp only
  (repeat' split) <;> simp [hs]

/-- The machine that a mailbox request leaves has its memory in canonical form. -/
def MboxAns.wf : MboxAns → Prop
  | .done s => Mem.wf s.mem
  | .refused => True
  | .malformed => True
  | .wait => True

@[simp] theorem MboxAns.wf_done (s : State) : (MboxAns.done s).wf ↔ Mem.wf s.mem := Iff.rfl

@[simp] theorem MboxAns.wf_refused : MboxAns.refused.wf := trivial

@[simp] theorem MboxAns.wf_malformed : MboxAns.malformed.wf := trivial

@[simp] theorem MboxAns.wf_wait : MboxAns.wait.wf := trivial

@[simp] theorem State.ring_mem (s : State) (r : MboxReq) (code : Nat) : (s.ring r code).mem = s.mem := by rfl

@[simp] theorem State.ringBusy_mem (s : State) (fn : Nat) : (s.ringBusy fn).mem = s.mem := by rfl

@[simp] theorem State.respond_mem (s : State) (r : MboxReq) (code : Nat) : (s.respond r code).mem = s.mem := by rfl

@[simp] theorem State.postpone_mem (s : State) (i : Instr) : (s.postpone i).mem = s.mem := by rfl

theorem mbox_wf (i : Instr) (code : Nat) {act : State → MboxReq → MboxAns} (s : State) (hs : Mem.wf s.mem)
    (hact : ∀ s r, Mem.wf s.mem → (act s r).wf) : (mbox i code act s).wf := by
  unfold mbox
  dsimp only
  split
  · exact hs
  · split
    · exact hs
    · split
      · exact hs
      · generalize hv : (if s.arg.flag then s else s.ring s.arg.req code) = v
        have rung : Mem.wf v.mem := by rw [← hv]; split <;> exact hs
        have answer := hact v s.arg.req rung
        split
        · exact rung
        · split
          · next w hw =>
            split at hw
            · cases hw
            · rw [hw] at answer
              exact answer
          · exact rung
          · exact rung
          · exact rung

theorem State.bindSubmit_wf (s : State) (ctx : Nat) (va : Word) {u : State} (hs : Mem.wf s.mem)
    (hu : s.bindSubmit ctx va = some u) : Mem.wf u.mem := by
  have made := getD_wf hs fun u hu => State.makeResident_wf s ctx va.toNat hs hu
  unfold State.bindSubmit at hu
  dsimp only at hu
  (repeat' split at hu) <;> cases hu
  exact State.homeBind_wf _ _ _ _ made

@[simp] theorem State.dropEmits_mem (s : State) (ctx : Nat) : (s.dropEmits ctx).mem = s.mem :=
  foldl_mem (fun u q => by split <;> simp) _ _

@[simp] theorem State.removeContext_mem (s : State) (ctx : Nat) : (s.removeContext ctx).mem = s.mem := by
  unfold State.removeContext
  dsimp only
  rw [State.setPart_mem, foldl_mem (fun u m => by simp), State.purgePage_mem]
  dsimp only
  rw [foldl_mem (fun u q => by split <;> simp), State.dropEmits_mem, foldl_mem (fun u t => by split <;> simp)]

@[simp] theorem State.stopContext_mem (s : State) : s.stopContext.mem = s.mem := by
  fun_cases State.stopContext <;> simp

@[simp] theorem State.unallocate_mem (s : State) (part : Nat) : (s.unallocate part).mem = s.mem := by
  refine foldl_mem (fun u c => ?_) _ _
  split
  · exact foldl_mem (fun v m => by split <;> simp) _ _
  · rfl

@[simp] theorem State.endPartition_wf (s : State) (part : Nat) (hs : Mem.wf s.mem) :
    Mem.wf (s.endPartition part).mem := by
  unfold State.endPartition
  dsimp only
  have removed := foldl_mem (f := fun s (c : Nat × Ctx) => if partOfCtx c.1 = part then s.removeContext c.1 else s)
    (fun u c => by split <;> simp) s.ctxs s
  simpa using State.clearChannels_wf _ _ (by simpa [removed] using hs)

theorem createContext_wf (s : State) (r : MboxReq) (hs : Mem.wf s.mem) : (createContext s r).wf := by
  unfold createContext
  dsimp only
  split
  · trivial
  · split
    · trivial
    · split
      · trivial
      · split
        · next u hu =>
          split
          · next v hv =>
            refine State.bindSubmit_wf _ _ _ ?_ hv
            rw [leavesAll_keeps (fun s x => s.writeLeaf_keeps _ _ _ _) _ _ u hu]
            split <;> simpa using hs
          · trivial
        · trivial
        · trivial

theorem endContext_wf (s : State) (r : MboxReq) (hs : Mem.wf s.mem) : (endContext s r).wf := by
  unfold endContext
  (repeat' split) <;> simp [hs]

theorem writeLeaves_wf (s : State) (r : MboxReq) (hs : Mem.wf s.mem) : (writeLeaves s r).wf := by
  unfold writeLeaves
  (repeat' split) <;> try trivial
  next u hu =>
  have kept := leavesAll_keeps (fun s x => s.writeLeaf_keeps _ _ _ _) _ _ u hu
  simpa [kept] using hs

theorem clearLeaves_wf (s : State) (r : MboxReq) (hs : Mem.wf s.mem) : (clearLeaves s r).wf := by
  unfold clearLeaves
  (repeat' split) <;> try trivial
  next u hu =>
  have kept := leavesAll_keeps (fun s x => s.clearLeaf_keeps _ _ _) _ _ u hu
  simpa [kept] using hs

theorem writeTtSlot_wf (s : State) (r : MboxReq) (hs : Mem.wf s.mem) : (writeTtSlot s r).wf := by
  unfold writeTtSlot
  dsimp only
  (repeat' split) <;> simp [hs]

theorem mapPort_wf (s : State) (r : MboxReq) (hs : Mem.wf s.mem) : (mapPort s r).wf := by
  unfold mapPort
  dsimp only
  (repeat' split) <;> try trivial
  next x hx _ u hu =>
  have kept : u.mem = s.mem := (State.setEntry_keeps _ _ _ _ _ _ u hu).trans (State.tableFor_mem _ _ _ _ _ _ hx)
  simpa [kept] using hs

theorem writeUintEntry_wf (s : State) (r : MboxReq) (hs : Mem.wf s.mem) : (writeUintEntry s r).wf := by
  unfold writeUintEntry
  dsimp only
  (repeat' split) <;> simp [hs]

theorem writeCoreWord_wf (s : State) (core : Nat) (w : Word) (hs : Mem.wf s.mem) : (writeCoreWord s core w).wf := by
  unfold writeCoreWord
  dsimp only
  (repeat' split) <;> simp [hs]

@[simp] theorem State.battWays_mem (s : State) (part : Nat) : (s.battWays part).mem = s.mem := by rfl

theorem writeDescriptor_wf (s : State) (part : Nat) (b : List Byte) (hs : Mem.wf s.mem) :
    (writeDescriptor s part b).wf := by
  fun_cases writeDescriptor
  case case6 => split <;> simp [hs]
  case case8 =>
    rename_i u v m sets p w
    have moved : Mem.wf u.mem := by
      simp only [u]
      (repeat' split) <;> simp [hs]
    have fenced : Mem.wf v.mem := by
      simp only [v]
      split <;> simpa using moved
    exact State.measure_wf _ _ fenced
  all_goals trivial

theorem writePartition_wf (s : State) (r : MboxReq) (hs : Mem.wf s.mem) : (writePartition s r).wf := by
  unfold writePartition
  dsimp only
  (repeat' split) <;> simp [hs, writeCoreWord_wf, writeDescriptor_wf]

@[simp] theorem State.closeCore_mem (s : State) : s.closeCore.mem = s.mem := by
  fun_cases State.closeCore <;> simp

@[simp] theorem execMboxBadRequest_wf (s : State) (hs : Mem.wf s.mem) : (execMboxBadRequest s).wf := by
  unfold execMboxBadRequest
  dsimp only
  split
  · exact mbox_wf _ _ _ hs fun _ _ _ => trivial
  · split
    · exact mbox_wf _ _ _ hs fun _ _ _ => trivial
    · exact hs

@[simp] theorem execMboxDoorbellBusy_wf (s : State) (hs : Mem.wf s.mem) : (execMboxDoorbellBusy s).wf := by
  unfold execMboxDoorbellBusy
  (repeat' split) <;> simp [hs]

@[simp] theorem execMboxstWrite_wf (s : State) (hs : Mem.wf s.mem) : (execMboxstWrite s).wf := by
  unfold execMboxstWrite
  (repeat' split) <;> simp [hs]

@[simp] theorem execPathsyncRead_wf (s : State) (hs : Mem.wf s.mem) : (execPathsyncRead s).wf := by
  unfold execPathsyncRead
  (repeat' split) <;> simp [hs]

@[simp] theorem State.countScp_mem (s : State) (part : Nat) : (s.countScp part).mem = s.mem := by rfl

@[simp] theorem State.writePort_wf (s : State) (ctx : Nat) (c : Ctx) (v : Word) (hs : Mem.wf s.mem) :
    Mem.wf (s.writePort ctx c v).mem := by
  unfold State.writePort
  dsimp only
  refine Mem.wf_writeN _ _ _ _ (Mem.wf_writeN _ _ _ _ ?_)
  split <;> simpa using hs

@[simp] theorem execUserPortWrite_wf (s : State) (hs : Mem.wf s.mem) : (execUserPortWrite s).wf := by
  unfold execUserPortWrite
  dsimp only
  (repeat' split) <;> simp [hs]

@[simp] theorem execBar0WriteOther_wf (s : State) (hs : Mem.wf s.mem) : (execBar0WriteOther s).wf := by
  unfold execBar0WriteOther
  dsimp only
  (repeat' split) <;> simp [hs]

end Sys2Proof.Machine
end

section
/-! SUPPORT. Canonical memory: the coherent port, host extents and page migration, boot and what the host asks over DOE
(R184, R361, R362, R383, R384). -/

namespace Sys2Proof.Machine

@[simp] theorem State.answer_mem (s : State) (ws : List Word) : (s.answer ws).mem = s.mem := by rfl

@[simp] theorem State.hostNone_mem (s : State) (ctx : Nat) : (s.hostNone ctx).mem = s.mem := by
  unfold State.hostNone
  (repeat' split) <;> simp

theorem State.hostHome_wf {s : State} {k : Asker → Out} (i : Instr) (r : QRef) (push : Bool) (n : Nat)
    (hs : Mem.wf s.mem) (hk : ∀ a, (k a).wf) : (s.hostHome i r push n k).wf := by
  unfold State.hostHome
  split
  · exact hs
  · exact hk _

@[simp] theorem execScpQpush_wf (s : State) (hs : Mem.wf s.mem) : (execScpQpush s).wf := by
  unfold execScpQpush
  dsimp only
  split
  · simpa using hs
  · split
    · exact hs
    · refine State.hostHome_wf _ _ _ _ hs fun a => ?_
      split <;> simp [hs]

@[simp] theorem execScpQtrypop_wf (s : State) (hs : Mem.wf s.mem) : (execScpQtrypop s).wf := by
  unfold execScpQtrypop
  dsimp only
  split
  · simpa using hs
  · split
    · split
      · exact hs
      · refine State.hostHome_wf _ _ _ _ hs fun a => ?_
        split <;> simp [hs]
    · exact hs

@[simp] theorem execScpQlen_wf (s : State) (hs : Mem.wf s.mem) : (execScpQlen s).wf := by
  unfold execScpQlen
  dsimp only
  split
  · simpa using hs
  · refine State.hostHome_wf _ _ _ _ hs fun a => ?_
    split <;> simp [hs]

@[simp] theorem execScpAccess_wf (s : State) (hs : Mem.wf s.mem) : (execScpAccess s).wf := by
  unfold execScpAccess
  dsimp only
  (repeat' split) <;> simp [hs]

@[simp] theorem State.hostPut_wf (s : State) (a : Nat) (bs : List Byte) (hs : Mem.wf s.mem) :
    Mem.wf (s.hostPut a bs).mem := by
  refine Mem.wf_writeBytes _ _ _ ?_
  simpa using hs

@[simp] theorem execScpSnoop_wf (s : State) (hs : Mem.wf s.mem) : (execScpSnoop s).wf := by
  unfold execScpSnoop
  dsimp only
  (repeat' split) <;> simp [hs]

@[simp] theorem execExtentMarkMigratable_wf (s : State) (hs : Mem.wf s.mem) : (execExtentMarkMigratable s).wf := by
  simp [execExtentMarkMigratable, hs]

@[simp] theorem State.unmapExtent_mem (s : State) (base size : Nat) : (s.unmapExtent base size).mem = s.mem := by
  simp [State.unmapExtent]

@[simp] theorem State.ackExtent_mem (s : State) (base size : Nat) : (s.ackExtent base size).mem = s.mem := by rfl

@[simp] theorem execHostExtentRelease_wf (s : State) (hs : Mem.wf s.mem) : (execHostExtentRelease s).wf := by
  unfold execHostExtentRelease
  dsimp only
  (repeat' split) <;> simp [hs]

@[simp] theorem execHostForcedRelease_wf (s : State) (hs : Mem.wf s.mem) : (execHostForcedRelease s).wf := by
  unfold execHostForcedRelease
  split
  · exact hs
  · dsimp only
    rw [Out.wf_next, State.ackExtent_mem]
    exact foldl_wf (fun u l hu => by split <;> simp [hu]) _ _ (by simpa using hs)

@[simp] theorem State.abandon_mem (s : State) (ctx base : Nat) (e : Word) : (s.abandon ctx base e).mem = s.mem := by
  simp [State.abandon]

@[simp] theorem State.moveFrame_wf (s : State) (ctx base size : Nat) (hostPa : Nat) (e : Word) (hs : Mem.wf s.mem) :
    Mem.wf (s.moveFrame ctx base size hostPa e).mem := by
  have moved := Mem.wf_foldl
    (fun (m : List Host.Cell) (l : Nat × L2Line) => if l.2.dirty then Mem.writeBytes m (l.1 * 128) l.2.shadow else m)
    (fun m l hm => by split <;> simp [Mem.wf_writeBytes, hm])
  unfold State.moveFrame
  dsimp only
  split <;> simp only [State.rekeyQueues_mem] <;>
    exact moved _ _ (Mem.wf_foldl _ (fun m c hm => Mem.wf_write _ _ _ hm) _ _ hs)

@[simp] theorem execPageMigrate_wf (s : State) (hs : Mem.wf s.mem) : (execPageMigrate s).wf := by
  unfold execPageMigrate
  dsimp only
  (repeat' split) <;> simp [hs]

@[simp] theorem State.pend_wf (s : State) (m : UintMsg) (u : UintEntry) (hs : Mem.wf s.mem) :
    Mem.wf (s.pend m u).mem := by
  simp [State.pend, hs]

@[simp] theorem execUintDeliver_wf (s : State) (hs : Mem.wf s.mem) : (execUintDeliver s).wf := by
  grind [execUintDeliver, State.pend_wf, Out.wf_next, Out.wf_fault]

@[simp] theorem execPendingRingHeadAdvance_wf (s : State) (hs : Mem.wf s.mem) :
    (execPendingRingHeadAdvance s).wf := by
  unfold execPendingRingHeadAdvance
  (repeat' split) <;> simp [hs]

@[simp] theorem State.powerOn_wf (s : State) (hs : Mem.wf s.mem) : Mem.wf s.powerOn.mem :=
  Mem.wf_filter _ _ hs

@[simp] theorem State.boot_wf (s : State) (m : BootImage) (hs : Mem.wf s.mem) : Mem.wf (s.boot m).mem := by
  grind [State.boot, State.setPart_mem, State.alarm_wf]

@[simp] theorem execPowerUp_wf (s : State) (hs : Mem.wf s.mem) : (execPowerUp s).wf := by
  unfold execPowerUp
  dsimp only
  (repeat' split) <;> simp [hs]

@[simp] theorem execDoeRecoveryImage_wf (s : State) (hs : Mem.wf s.mem) : (execDoeRecoveryImage s).wf := by
  unfold execDoeRecoveryImage
  (repeat' split) <;> simp [hs]

@[simp] theorem State.doe_mem (s : State) (fn : Nat) (bs : List Byte) : (s.doe fn bs).mem = s.mem := by rfl

@[simp] theorem execDoeAttest_wf (s : State) (hs : Mem.wf s.mem) : (execDoeAttest s).wf := by
  unfold execDoeAttest
  dsimp only
  (repeat' split) <;> simp [hs]

@[simp] theorem execSpdmSession_wf (s : State) (hs : Mem.wf s.mem) : (execSpdmSession s).wf := by
  unfold execSpdmSession
  dsimp only
  (repeat' split) <;> simp [hs]

@[simp] theorem execExpectedMeasurementInstall_wf (s : State) (hs : Mem.wf s.mem) :
    (execExpectedMeasurementInstall s).wf := by
  unfold execExpectedMeasurementInstall
  dsimp only
  (repeat' split) <;> simp [hs]

@[simp] theorem execSectionMarkedLoaded_wf (s : State) (hs : Mem.wf s.mem) : (execSectionMarkedLoaded s).wf := by
  unfold execSectionMarkedLoaded
  dsimp only
  (repeat' split) <;> simp [hs]

@[simp] theorem execDoeCensus_wf (s : State) (hs : Mem.wf s.mem) : (execDoeCensus s).wf := by
  unfold execDoeCensus
  dsimp only
  split
  · rw [Out.wf_next, State.setPart_mem, foldl_mem (fun u c => by split <;> simp)]
    exact hs
  · exact hs

@[simp] theorem execCensusDone_wf (s : State) (hs : Mem.wf s.mem) : (execCensusDone s).wf := by
  unfold execCensusDone
  dsimp only
  (repeat' split) <;> simp [hs]

@[simp] theorem execDoeCensusResume_wf (s : State) (hs : Mem.wf s.mem) : (execDoeCensusResume s).wf := by
  unfold execDoeCensusResume
  dsimp only
  (repeat' split) <;> simp [hs]

end Sys2Proof.Machine
end

section
/-! SUPPORT. Canonical memory: waits and barriers, peer packages, issue gating, error correction and inspection (R313-R319,
R368-R371, R408-R416). -/

namespace Sys2Proof.Machine

@[simp] theorem State.syncReturn_mem (s : State) (tid : Nat) (d : BitVec 6) (cs : List Word) (m : Nat) :
    (s.syncReturn tid d cs m).mem = s.mem := by
  simp [State.syncReturn]

@[simp] theorem State.freezeFound_mem (s : State) (t : Thread) (addr : Word) :
    (s.freezeFound t addr).mem = s.mem := by
  unfold State.freezeFound
  (repeat' split) <;> simp

@[simp] theorem execSyncWait_wf (d a b : BitVec 6) (s : State) (hs : Mem.wf s.mem) : (execSyncWait d a b s).wf := by
  refine onThread_wf fun tid t => ?_
  dsimp only
  (repeat' split) <;> simp [hs]

@[simp] theorem State.askPhase_wf (s : State) (tid : Nat) (t : Thread) (h : Nat) (w : Word) (p : BitVec 16)
    (hs : Mem.wf s.mem) : (s.askPhase tid t h w p).wf := by
  unfold State.askPhase
  dsimp only
  (repeat' split) <;> simp [hs]

@[simp] theorem State.setMessage_mem (s : State) (k i : Nat) (f : List Word → List Word) :
    (s.setMessage k i f).mem = s.mem := by rfl

@[simp] theorem State.addArrival_mem (s : State) (k : Nat) (head : List Word) :
    (s.addArrival k head).mem = s.mem := by
  fun_cases State.addArrival <;> simp

@[simp] theorem State.arrivalTold_mem (s : State) (k : Nat) (head : List Word) (p : BitVec 16) :
    (s.arrivalTold k head p).mem = s.mem := by
  grind [State.arrivalTold, State.setMessage_mem]

@[simp] theorem sendArrival_wf (s : State) (tid : Nat) (t : Thread) (h va : Nat) (d : BitVec 6) (w : Word)
    (n : BitVec 16) (waits : Bool) (hs : Mem.wf s.mem) : (sendArrival s tid t h va d w n waits).wf := by
  unfold sendArrival
  dsimp only
  (repeat' split) <;> simp [hs]

@[simp] theorem State.arriveDone_mem (s : State) (tid : Nat) (d : BitVec 6) (w : Word) (p : BitVec 16)
    (waits : Bool) : (s.arriveDone tid d w p waits).mem = s.mem := by
  simp [State.arriveDone]

@[simp] theorem execSyncArrive_wf (d a b : BitVec 6) (s : State) (hs : Mem.wf s.mem) :
    (execSyncArrive d a b s).wf := by
  refine onThread_wf fun tid t => ?_
  have released := State.release_wf s t.uid hs
  dsimp only
  split
  · simpa using hs
  · split
    · exact faultOut_wf _ _ _ hs
    · split
      · exact faultOut_wf _ _ _ hs
      · split
        · split
          · exact faultOut_wf _ _ _ hs
          · split
            · split <;> simp [released]
            · split
              · split
                · simpa using released
                · split
                  · split
                    · exact faultOut_wf _ _ _ released
                    · exact accOut_wf _ _ _ _ _ released fun r hr => by
                        simpa using State.arriveMem_wf _ _ _ _ _ released hr
                  · exact faultOut_wf _ _ _ released
                  · simpa using released
              · simpa using released
            · exact faultOut_wf _ _ _ hs
        · split
          · split
            · simpa using released
            · split <;> simp [released]
          · simpa using released

@[simp] theorem execSyncBinit_wf (a b : BitVec 6) (s : State) (hs : Mem.wf s.mem) : (execSyncBinit a b s).wf := by
  refine onThread_wf fun tid t => ?_
  dsimp only
  split
  · split
    · exact faultOut_wf _ _ _ hs
    · split
      · exact faultOut_wf _ _ _ hs
      · refine accOut_wf _ _ _ _ _ hs fun r hr => ?_
        have loaded := State.loadHomeT_wf _ _ _ _ _ hs hr
        split
        · exact faultOut_wf _ _ _ loaded
        · exact accOut_wf _ _ _ _ _ loaded fun u hu => by simpa using State.storeT_wf _ _ _ _ _ loaded hu
  · split
    · exact faultOut_wf _ _ _ hs
    · split
      · simpa using hs
      · split <;> simp [hs]

@[simp] theorem execSyncBphase_wf (d a : BitVec 6) (s : State) (hs : Mem.wf s.mem) : (execSyncBphase d a s).wf := by
  refine onThread_wf fun tid t => ?_
  dsimp only
  split
  · exact faultOut_wf _ _ _ hs
  · split
    · split
      · exact faultOut_wf _ _ _ hs
      · exact accOut_wf _ _ _ _ _ hs fun r hr => by simpa using State.loadHomeT_wf _ _ _ _ _ hs hr
    · exact aluDone_wf _ _ _ _ _ hs

@[simp] theorem execWaitSatisfied_wf (s : State) (hs : Mem.wf s.mem) : (execWaitSatisfied s).wf := by
  unfold execWaitSatisfied
  dsimp only
  (repeat' split) <;> simp [hs]

@[simp] theorem execWaitTimeout_wf (s : State) (hs : Mem.wf s.mem) : (execWaitTimeout s).wf := by
  unfold execWaitTimeout
  dsimp only
  (repeat' split) <;> simp [hs]

@[simp] theorem State.setFlow_mem (s : State) (k : Nat) (f : Flow) : (s.setFlow k f).mem = s.mem := by rfl

@[simp] theorem State.reply_mem (s : State) (k : Nat) (ws : List Word) : (s.reply k ws).mem = s.mem := by rfl

theorem State.netPush_wf (s : State) (k ctx : Nat) (q : Word) (es : List (List Byte)) (wait : Bool) {u : State}
    (hs : Mem.wf s.mem) (hu : s.netPush k ctx q es wait = some u) : Mem.wf u.mem := by
  unfold State.netPush at hu
  dsimp only at hu
  (repeat' split at hu) <;> cases hu <;> simp [hs]

theorem State.netLen_wf (s : State) (k ctx : Nat) (q : Word) (sel : Nat) {u : State} (hs : Mem.wf s.mem)
    (hu : s.netLen k ctx q sel = some u) : Mem.wf u.mem := by
  unfold State.netLen at hu
  dsimp only at hu
  (repeat' split at hu) <;> cases hu <;> simp [hs]

@[simp] theorem State.netWithdraw_mem (s : State) (k ctx : Nat) (q : Word) (n : Nat) :
    (s.netWithdraw k ctx q n).mem = s.mem := by
  fun_cases State.netWithdraw <;> simp

theorem State.netRed_wf (s : State) (k ctx : Nat) (a : Word) (op n : Nat) (v : BitVec 128) {u : State}
    (hs : Mem.wf s.mem) (hu : s.netRed k ctx a op n v = some u) : Mem.wf u.mem := by
  unfold State.netRed at hu
  dsimp only at hu
  grind [State.reply_mem, State.writeTouch_mem, Mem.wf_writeN, State.walkRas_mem]

theorem State.netCopy_wf (s : State) (k ctx : Nat) (a : Word) (bs : List Byte) (bad : List Nat) {u : State}
    (hs : Mem.wf s.mem) (hu : s.netCopy k ctx a bs bad = some u) : Mem.wf u.mem := by
  grind [State.netCopy, State.reply_mem, → State.writeBytes_wf, State.addPoison_mem, State.walksRas_mem]

theorem State.netPhase_mem (s : State) (k ctx va : Nat) (v : BitVec 16) {u : State}
    (hu : s.netPhase k ctx va v = some u) : u.mem = s.mem := by
  grind [State.netPhase, State.reply_mem]

@[simp] theorem execNetRemoteOp_wf (s : State) (hs : Mem.wf s.mem) : (execNetRemoteOp s).wf := by
  have done (x : Option State) (hx : ∀ u, x = some u → Mem.wf u.mem) :
      Out.wf (.next (x.getD (s.postpone .netRemoteOp))) := getD_wf hs hx
  unfold execNetRemoteOp
  dsimp only
  split
  · exact hs
  · split
    · exact hs
    · split
      · exact hs
      · split
        · exact done _ fun u hu => State.netPush_wf _ _ _ _ _ _ hs hu
        · exact done _ fun u hu => State.netLen_wf _ _ _ _ _ hs hu
        · exact done _ fun u hu => State.netRed_wf _ _ _ _ _ _ _ hs hu
        · exact done _ fun u hu => State.netCopy_wf _ _ _ _ _ _ hs hu
        · simpa using hs
        · exact done _ fun u hu => by rwa [State.netPhase_mem _ _ _ _ _ hu]

@[simp] theorem State.netFail_mem (s : State) (w : NetWait) (code : Nat) (info : Word) :
    (s.netFail w code info).mem = s.mem := by
  fun_cases State.netFail <;> simp

@[simp] theorem State.pieceAnswered_wf (s : State) (c : Nat × Nat) (refused : Option Nat) (hs : Mem.wf s.mem) :
    Mem.wf (s.pieceAnswered c refused).mem := by
  fun_cases State.pieceAnswered <;> simp [*]

@[simp] theorem execNetFlowDown_wf (s : State) (hs : Mem.wf s.mem) : (execNetFlowDown s).wf := by
  unfold execNetFlowDown
  dsimp only
  split
  · exact hs
  · refine foldl_wf (fun u c hu => State.pieceAnswered_wf _ _ _ hu) _ _ ?_
    simpa using hs

@[simp] theorem State.netBack_mem (s : State) (w : NetWait) : (s.netBack w).mem = s.mem := by
  fun_cases State.netBack <;> simp

@[simp] theorem State.netAnswer_mem (s : State) (k : Nat) (w : NetWait) (v : Word) :
    (s.netAnswer k w v).mem = s.mem := by
  unfold State.netAnswer
  (repeat' split) <;> simp

@[simp] theorem execNetRemoteResponse_wf (s : State) (hs : Mem.wf s.mem) : (execNetRemoteResponse s).wf := by
  unfold execNetRemoteResponse
  dsimp only
  (repeat' split) <;> simp [hs]

theorem arriveMany_wf (a : Asker) (ctx va : Nat) (n : Option (BitVec 16)) (k : Nat) (s : State)
    {x : List (Option (BitVec 16)) × State} (hs : Mem.wf s.mem) (hu : arriveMany a ctx va n k s = .ok x) :
    Mem.wf x.2.mem := by
  induction k generalizing s x with
  | zero => cases hu; exact hs
  | succ k ih =>
    simp only [arriveMany] at hu
    split at hu
    · split at hu <;> cases hu
      next y hy => exact ih (x := y) _ hs hy
    · split at hu <;> try cases hu
      next y hy =>
      split at hu <;> cases hu
      next z hz => exact ih (x := z) _ (State.arriveMem_wf _ _ _ _ _ hs hy) hz

@[simp] theorem execPodBarrierMessage_wf (s : State) (hs : Mem.wf s.mem) : (execPodBarrierMessage s).wf := by
  grind [execPodBarrierMessage, State.postpone_mem, State.reply_mem, → arriveMany_wf, Out.wf_next, Out.wf_fault]

@[simp] theorem execFlowKeyInstall_wf (s : State) (hs : Mem.wf s.mem) : (execFlowKeyInstall s).wf := by
  unfold execFlowKeyInstall
  (repeat' split) <;> simp [hs]

@[simp] theorem State.rebaseTime_mem (s : State) (step : Nat) (slew : Int) :
    (s.rebaseTime step slew).mem = s.mem := by rfl

@[simp] theorem execTimeSourceSelect_wf (s : State) (hs : Mem.wf s.mem) : (execTimeSourceSelect s).wf := by
  unfold execTimeSourceSelect
  (repeat' split) <;> simp [hs]

@[simp] theorem execTimeSync_wf (s : State) (hs : Mem.wf s.mem) : (execTimeSync s).wf := by
  unfold execTimeSync
  dsimp only
  (repeat' split) <;> simp [hs]

@[simp] theorem execIssueGatingStart_wf (s : State) (hs : Mem.wf s.mem) : (execIssueGatingStart s).wf := by
  unfold execIssueGatingStart
  (repeat' split) <;> simp [hs]

@[simp] theorem execIssueGatingEnd_wf (s : State) (hs : Mem.wf s.mem) : (execIssueGatingEnd s).wf := by
  simp [execIssueGatingEnd, hs]

@[simp] theorem State.countEcc_mem (s : State) (die row k : Nat) : (s.countEcc die row k).2.mem = s.mem := by rfl

@[simp] theorem State.onImage_mem (s : State) (k : Nat) (f : Saved → Saved) : (s.onImage k f).mem = s.mem := by
  fun_cases State.onImage <;> simp

@[simp] theorem State.eccHurts_mem (s : State) (a : EccPlace) : (s.eccHurts a).mem = s.mem := by
  fun_cases State.eccHurts <;> simp

@[simp] theorem execEccUncorrected_wf (s : State) (hs : Mem.wf s.mem) : (execEccUncorrected s).wf := by
  unfold execEccUncorrected
  dsimp only
  (repeat' split) <;> simp [hs]

@[simp] theorem execEccCorrected_wf (s : State) (hs : Mem.wf s.mem) : (execEccCorrected s).wf := by
  unfold execEccCorrected
  dsimp only
  (repeat' split) <;> simp [hs]

@[simp] theorem execNonInstructionScalar_wf (s : State) (hs : Mem.wf s.mem) : (execNonInstructionScalar s).wf := by
  refine onThread_wf fun tid t => ?_
  simp [hs]

@[simp] theorem execNonInstructionLane_wf (s : State) (hs : Mem.wf s.mem) : (execNonInstructionLane s).wf := by
  refine onThread_wf fun tid t => ?_
  simp [hs]

@[simp] theorem State.inspectNext_mem (s : State) (fn : Nat) (r : InspRead) : (s.inspectNext fn r).mem = s.mem := by
  fun_cases State.inspectNext <;> simp

@[simp] theorem execDoeInspectRead_wf (s : State) (hs : Mem.wf s.mem) : (execDoeInspectRead s).wf := by
  unfold execDoeInspectRead
  dsimp only
  (repeat' split) <;> simp [hs]

@[simp] theorem execDoeQueueUnbind_wf (s : State) (hs : Mem.wf s.mem) : (execDoeQueueUnbind s).wf := by
  unfold execDoeQueueUnbind
  dsimp only
  (repeat' split) <;> simp [hs]

end Sys2Proof.Machine
end

section
/-! SUPPORT. Canonical memory: the lane groups that reach no memory: LB, VX, VF, VC, VI and VP. -/

namespace Sys2Proof.Machine

@[simp] theorem lbOp_wf (s : State) (f : Thread → Nat → Slice → Option Slice) (hs : Mem.wf s.mem) :
    (lbOp s f).wf := by
  unfold lbOp
  dsimp only
  (repeat' split) <;> simp [hs]

@[simp] theorem execLaneBlockStart_wf (s : State) (hs : Mem.wf s.mem) : (execLaneBlockStart s).wf := by
  simp [execLaneBlockStart, hs]

@[simp] theorem execLaneBlockEnd_wf (s : State) (hs : Mem.wf s.mem) : (execLaneBlockEnd s).wf := by
  unfold execLaneBlockEnd
  dsimp only
  (repeat' split) <;> simp [hs]

@[simp] theorem vxPermute_wf (s : State) (fn : BitVec 8) (o : LaneOps) (src : Thread → Nat → Int)
    (hs : Mem.wf s.mem) : (vxPermute s fn o src).wf :=
  laneVector_wf _ _ _ _ hs

@[simp] theorem execVxScan_wf (o : LaneOps) (s : State) (hs : Mem.wf s.mem) : (execVxScan o s).wf := by
  refine onGang_wf _ _ _ hs fun tid t g ls => ?_
  simp [hs]

@[simp] theorem execVxRed_wf (o : LaneOps) (s : State) (hs : Mem.wf s.mem) : (execVxRed o s).wf := by
  refine onGang_wf _ _ _ hs fun tid t g ls => ?_
  simp [hs]

@[simp] theorem execVxVote_wf (o : LaneOps) (s : State) (hs : Mem.wf s.mem) : (execVxVote o s).wf := by
  refine onGang_wf _ _ _ hs fun tid t g ls => ?_
  simp [hs]

@[simp] theorem execVxBallot_wf (o : LaneOps) (s : State) (hs : Mem.wf s.mem) : (execVxBallot o s).wf := by
  refine onGang_wf _ _ _ hs fun tid t g ls => ?_
  simp [hs]

@[simp] theorem vfOp_wf (s : State) (fn : BitVec 8) (o : LaneOps) (f : Fmt → RMode → Nat → Nat → Nat → Nat × FFlags)
    (hs : Mem.wf s.mem) : (vfOp s fn o f).wf := by
  refine onGang_wf _ _ _ hs fun tid t g ls => ?_
  simp [hs]

@[simp] theorem vfCmp_wf (s : State) (fn : BitVec 8) (o : LaneOps) (f : FVal → FVal → Bool) (hs : Mem.wf s.mem) :
    (vfCmp s fn o f).wf :=
  lanePred_wf _ _ _ _ hs

@[simp] theorem execVfClass_wf (o : LaneOps) (s : State) (hs : Mem.wf s.mem) : (execVfClass o s).wf := by
  refine onGang_wf _ _ _ hs fun tid t g ls => ?_
  simp [hs]

@[simp] theorem execVcCvts_wf (o : LaneOps) (s : State) (hs : Mem.wf s.mem) : (execVcCvts o s).wf := by
  refine onGang_wf _ _ _ hs fun tid t g ls => ?_
  simp [hs]

@[simp] theorem execVcQnpack_wf (o : LaneOps) (s : State) (hs : Mem.wf s.mem) : (execVcQnpack o s).wf := by
  refine onGang_wf _ _ _ hs fun tid t g ls => ?_
  simp [hs]

@[simp] theorem execVcQnunpack_wf (o : LaneOps) (s : State) (hs : Mem.wf s.mem) : (execVcQnunpack o s).wf := by
  refine onGang_wf _ _ _ hs fun tid t g ls => ?_
  simp [hs]

@[simp] theorem execVcPack_wf (o : LaneOps) (s : State) (hs : Mem.wf s.mem) : (execVcPack o s).wf := by
  refine onGang_wf _ _ _ hs fun tid t g ls => ?_
  simp [hs]

@[simp] theorem execVcUnpack_wf (o : LaneOps) (s : State) (hs : Mem.wf s.mem) : (execVcUnpack o s).wf := by
  refine onGang_wf _ _ _ hs fun tid t g ls => ?_
  simp [hs]

@[simp] theorem viBin_wf (s : State) (fn : BitVec 8) (o : LaneOps) (f : Nat → Nat → Nat → Nat) (hs : Mem.wf s.mem) :
    (viBin s fn o f).wf :=
  laneVector_wf _ _ _ _ hs

@[simp] theorem viUn_wf (s : State) (fn : BitVec 8) (o : LaneOps) (f : Nat → Nat → Nat) (hs : Mem.wf s.mem) :
    (viUn s fn o f).wf :=
  laneVector_wf _ _ _ _ hs

@[simp] theorem viCmp_wf (s : State) (fn : BitVec 8) (o : LaneOps) (f : Nat → Nat → Nat → Bool) (hs : Mem.wf s.mem) :
    (viCmp s fn o f).wf :=
  lanePred_wf _ _ _ _ hs

@[simp] theorem viShift_wf (s : State) (fn : BitVec 8) (o : LaneOps) (f : Nat → Nat → Nat → Nat) (hs : Mem.wf s.mem) :
    (viShift s fn o f).wf :=
  laneVector_wf _ _ _ _ hs

end Sys2Proof.Machine
end

section
/-! SUPPORT. Canonical memory: scalar and lane loads, stores, atomics and reductions, fences and cache control (R190-R205), and
the LQ group (R222-R224). -/

namespace Sys2Proof.Machine

theorem onMemory_wf {s : State} {k : Nat → Thread → Out} (hs : Mem.wf s.mem) (hk : ∀ tid t, (k tid t).wf) :
    (onMemory s k).wf := by
  refine onThread_wf fun tid t => ?_
  split
  · simpa using hs
  · exact hk _ _

@[simp] theorem loadOp_wf (s : State) (d a : BitVec 6) (o : BitVec 11) (sz : Nat) (signed : Bool)
    (hs : Mem.wf s.mem) : (loadOp s d a o sz signed).wf := by
  refine onMemory_wf hs fun tid t => ?_
  dsimp only
  split
  · exact faultOut_wf _ _ _ hs
  · exact accOut_wf _ _ _ _ _ hs fun r hr => by simpa using State.loadT_wf _ _ _ _ _ hs hr

@[simp] theorem storeOp_wf (s : State) (d a : BitVec 6) (o : BitVec 11) (sz : Nat) (hs : Mem.wf s.mem) :
    (storeOp s d a o sz).wf := by
  refine onMemory_wf hs fun tid t => ?_
  dsimp only
  split
  · exact faultOut_wf _ _ _ hs
  · exact accOut_wf _ _ _ _ _ hs fun r hr => by simpa using State.storeT_wf _ _ _ _ _ hs hr

@[simp] theorem atomOp_wf (s : State) (d a : BitVec 6) (op n x : Nat) (flags : FFlags) (give : Nat → Word)
    (hs : Mem.wf s.mem) : (atomOp s d a op n x flags give).wf := by
  refine onMemory_wf hs fun tid t => ?_
  dsimp only
  split
  · exact faultOut_wf _ _ _ hs
  · exact accOut_wf _ _ _ _ _ hs fun r hr => by simpa using State.atomT_wf _ _ _ _ _ _ hs hr

@[simp] theorem atomInt_wf (s : State) (d a b : BitVec 6) (op : Nat) (hs : Mem.wf s.mem) :
    (atomInt s d a b op).wf := by
  refine onThread_wf fun tid t => ?_
  simp [hs]

@[simp] theorem execAtomFadd32_wf (d a b : BitVec 6) (s : State) (hs : Mem.wf s.mem) :
    (execAtomFadd32 d a b s).wf := by
  refine onThread_wf fun tid t => ?_
  simp [hs]

@[simp] theorem execAtomFadd64_wf (d a b : BitVec 6) (s : State) (hs : Mem.wf s.mem) :
    (execAtomFadd64 d a b s).wf := by
  refine onThread_wf fun tid t => ?_
  simp [hs]

@[simp] theorem execAtomFxadd_wf (d a b : BitVec 6) (s : State) (hs : Mem.wf s.mem) : (execAtomFxadd d a b s).wf := by
  refine onThread_wf fun tid t => ?_
  simp [hs]

@[simp] theorem execAtomFxread_wf (d a i : BitVec 6) (s : State) (hs : Mem.wf s.mem) :
    (execAtomFxread d a i s).wf := by
  refine onMemory_wf hs fun tid t => ?_
  dsimp only
  split
  · exact faultOut_wf _ _ _ hs
  · split
    · exact faultOut_wf _ _ _ hs
    · exact accOut_wf _ _ _ _ _ hs fun r hr => by simpa using State.loadHomeT_wf _ _ _ _ _ hs hr

@[simp] theorem redOp_wf (s : State) (a : BitVec 6) (op n x : Nat) (flags : FFlags) (hs : Mem.wf s.mem) :
    (redOp s a op n x flags).wf := by
  refine onMemory_wf hs fun tid t => ?_
  dsimp only
  (repeat' split) <;> simp [hs]

@[simp] theorem redInt_wf (s : State) (a b : BitVec 6) (op : Nat) (hs : Mem.wf s.mem) : (redInt s a b op).wf := by
  refine onThread_wf fun tid t => ?_
  simp [hs]

@[simp] theorem execRedFadd32_wf (a b : BitVec 6) (s : State) (hs : Mem.wf s.mem) : (execRedFadd32 a b s).wf := by
  refine onThread_wf fun tid t => ?_
  simp [hs]

@[simp] theorem execRedFadd64_wf (a b : BitVec 6) (s : State) (hs : Mem.wf s.mem) : (execRedFadd64 a b s).wf := by
  refine onThread_wf fun tid t => ?_
  simp [hs]

@[simp] theorem execRedFxadd_wf (a b : BitVec 6) (s : State) (hs : Mem.wf s.mem) : (execRedFxadd a b s).wf := by
  refine onThread_wf fun tid t => ?_
  simp [hs]

@[simp] theorem execFenceFence_wf (sc : BitVec 6) (s : State) (hs : Mem.wf s.mem) : (execFenceFence sc s).wf := by
  refine onThread_wf fun tid t => ?_
  dsimp only
  (repeat' split) <;> simp [hs]

theorem State.sendPref_mem (s : State) (tid : Nat) (t : Thread) (p : PrefLine) (l1 : Bool) {u : State}
    (hu : s.sendPref tid t p l1 = some u) : u.mem = s.mem := by
  grind [State.sendPref, State.walkRas_mem]

@[simp] theorem State.sendPrefs_mem (s : State) (tid : Nat) (t : Thread) (l1 : Bool) (a : List PrefLine) :
    (s.sendPrefs tid t l1 a).1.mem = s.mem := by
  fun_induction State.sendPrefs with
  | case1 => rfl
  | case2 s p r u he y ih => exact ih.trans (State.sendPref_mem _ _ _ _ _ he)
  | case3 => rfl

theorem prefOut_wf {s : State} {done : State → Out} (tid : Nat) (t : Thread) (p : Party) (l1 : Bool)
    (ls : List PrefLine) (hs : Mem.wf s.mem) (hk : ∀ u, Mem.wf u.mem → (done u).wf) :
    (prefOut s tid t p l1 ls done).wf := by
  unfold prefOut
  dsimp only
  split
  · simpa using hs
  · split
    · exact hk _ (by simpa using hs)
    · simpa using hs

@[simp] theorem execCachePref_wf (a l : BitVec 6) (s : State) (hs : Mem.wf s.mem) : (execCachePref a l s).wf := by
  refine onMemory_wf hs fun tid t => ?_
  dsimp only
  split
  · exact faultOut_wf _ _ _ hs
  · exact prefOut_wf _ _ _ _ _ hs fun u hu => by simpa using hu

@[simp] theorem State.purgeLine_mem (s : State) (part : Nat) (asid : BitVec 16) (vline : Nat) :
    (s.purgeLine part asid vline).mem = s.mem := by rfl

@[simp] theorem execCacheEvict_wf (a : BitVec 6) (s : State) (hs : Mem.wf s.mem) : (execCacheEvict a s).wf := by
  refine onMemory_wf hs fun tid t => ?_
  dsimp only
  (repeat' split) <;> simp [hs]

theorem onPort_wf {s : State} {k : Nat → Thread → Out} (hs : Mem.wf s.mem) (hk : ∀ tid t, (k tid t).wf) :
    (onPort s k).wf := by
  refine onMemory_wf hs fun tid t => ?_
  split
  · simpa using hs
  · exact hk _ _

@[simp] theorem execCacheEvstep_wf (d a : BitVec 6) (s : State) (hs : Mem.wf s.mem) : (execCacheEvstep d a s).wf := by
  refine onPort_wf hs fun tid t => ?_
  (repeat' split) <;> simp [hs]

@[simp] theorem execConfEvset_wf (a b : BitVec 6) (s : State) (hs : Mem.wf s.mem) : (execConfEvset a b s).wf := by
  refine onMemory_wf hs fun tid t => ?_
  (repeat' split) <;> simp [hs]

theorem State.ownFirstAll_wf (s : State) (tid : Nat) (t : Thread) (n : Nat) (a : List (Nat × Word)) {u : State}
    (hs : Mem.wf s.mem) (hu : s.ownFirstAll tid t n a = some u) : Mem.wf u.mem := by
  fun_induction State.ownFirstAll <;> grind [→ State.ownFirst_wf]

/-- The machine that a line request leaves has its memory in canonical form. -/
def LineOut.wf : LineOut → Prop
  | .done s _ => Mem.wf s.mem
  | .fault _ _ _ => True
  | .wait => True

@[simp] theorem LineOut.wf_done (s : State) (got : List (Nat × Nat × FFlags)) :
    (LineOut.done s got).wf ↔ Mem.wf s.mem := Iff.rfl

@[simp] theorem LineOut.wf_fault (lane code : Nat) (va : Word) : (LineOut.fault lane code va).wf := trivial

@[simp] theorem LineOut.wf_wait : LineOut.wait.wf := trivial

/-- The lines of a lane access, request by request. -/
theorem runLines_wf {f : State → List LaneAt → LineOut} (hf : ∀ s ps, Mem.wf s.mem → (f s ps).wf) (m : Option Nat)
    (s : State) (rs : List (List LaneAt)) (hs : Mem.wf s.mem) : Mem.wf (runLines f m s rs).1.mem := by
  fun_induction runLines with
  | case1 => exact hs
  | case2 => exact hs
  | case3 m s ps r u got hne hu y ih =>
    have line := hf s ps hs
    rw [hu] at line
    exact ih line
  | case4 => exact hs

theorem onGangMem_wf {s : State} {k : Nat → Thread → Nat → List Nat → Out} (fn : BitVec 8) (o : LaneOps)
    (hs : Mem.wf s.mem) (hk : ∀ tid t g ls, (k tid t g ls).wf) : (onGangMem s fn o k).wf := by
  refine onGangFirst_wf _ _ _ hs (fun tid t g ls x hx => ?_) hk
  split at hx <;> cases hx
  exact laneHold_wf _ _ _ hs

theorem vmGlobal_wf {s : State} {f : State → List LaneAt → LineOut} {k : State → List (Nat × Nat × FFlags) → Out}
    (tid : Nat) (t : Thread) (g n : Nat) (kind : Kind) (vas : List (Nat × Word)) (hs : Mem.wf s.mem)
    (hf : ∀ s ps, Mem.wf s.mem → (f s ps).wf) (hk : ∀ u got, Mem.wf u.mem → (k u got).wf) :
    (vmGlobal s tid t g n kind vas f k).wf := by
  unfold vmGlobal
  dsimp only
  split
  · exact faultOut_wf _ _ _ hs
  · split
    · simpa using hs
    · next u hu =>
      have owned := State.ownFirstAll_wf _ _ _ _ _ hs hu
      have ran := runLines_wf hf u.cur.lines u
      split
      · exact faultOut_wf _ _ _ owned
      · split
        · exact hk _ _ (ran _ owned)
        · exact faultOut_wf _ _ _ (ran _ owned)
        · simpa using ran _ owned

theorem loadLine_wf (core ctx n : Nat) (cached : Bool) (give : Nat → Nat × FFlags) (s : State) (ps : List LaneAt)
    (hs : Mem.wf s.mem) : (loadLine core ctx n cached give s ps).wf := by
  unfold loadLine
  dsimp only
  (repeat' split) <;> simp [hs]

theorem vmLoad_wf (s : State) (fn : BitVec 8) (o : LaneOps) (addr : Thread → List Nat → List (Nat × Word))
    (hs : Mem.wf s.mem) : (vmLoad s fn o addr).wf :=
  onGangMem_wf _ _ hs fun _ _ _ _ => vmGlobal_wf _ _ _ _ _ _ hs (loadLine_wf _ _ _ _ _) fun _ _ hu =>
    laneDoneOn_wf _ _ _ _ _ _ hu

theorem storeLine_wf (tid : Nat) (t : Thread) (n : Nat) (val : Nat → Nat) (s : State) (ps : List LaneAt)
    (hs : Mem.wf s.mem) : (storeLine tid t n val s ps).wf := by
  unfold storeLine
  split
  · exact hs
  · split
    · trivial
    · trivial
    · show Mem.wf (State.markStore _ _ _ _).mem
      rw [State.markStore_mem]
      exact Mem.wf_foldl _ (fun m q hm => Mem.wf_writeN _ _ _ _ hm) _ _ (by simpa using hs)

theorem vmStore_wf (s : State) (fn : BitVec 8) (o : LaneOps) (code : BitVec 8)
    (addr : Thread → List Nat → List (Nat × Word)) (hs : Mem.wf s.mem) : (vmStore s fn o code addr).wf :=
  onGangMem_wf _ _ hs fun _ _ _ _ => vmGlobal_wf _ _ _ _ _ _ hs (storeLine_wf _ _ _ _) fun _ _ hu =>
    laneDoneOn_wf _ _ _ _ _ _ hu

theorem vmScratch_wf {s : State} {k : Nat → Thread → Nat → Cohort → List (Nat × Nat) → Out} (fn : BitVec 8)
    (o : LaneOps) (store : Bool) (hs : Mem.wf s.mem) (hk : ∀ tid t g c offs, (k tid t g c offs).wf) :
    (vmScratch s fn o store k).wf := by
  refine onGangMem_wf _ _ hs fun tid t g ls => ?_
  dsimp only
  split
  · exact faultOut_wf _ _ _ hs
  · split
    · exact faultOut_wf _ _ _ hs
    · split
      · exact laneHold_wf _ _ _ hs
      · exact hk _ _ _ _ _

@[simp] theorem execVmSld_wf (o : LaneOps) (s : State) (hs : Mem.wf s.mem) : (execVmSld o s).wf := by
  refine vmScratch_wf _ _ _ hs fun tid t g c offs => ?_
  dsimp only
  split
  · exact faultOut_wf _ _ _ hs
  · exact laneDone_wf _ _ _ _ _ _ hs

@[simp] theorem execVmSst_wf (o : LaneOps) (s : State) (hs : Mem.wf s.mem) : (execVmSst o s).wf := by
  refine vmScratch_wf _ _ _ hs fun tid t g c offs => ?_
  dsimp only
  split
  · exact laneHold_wf _ _ _ hs
  · exact laneDone_wf _ _ _ _ _ _ hs

@[simp] theorem State.atomAll_wf (s : State) (core : Nat) (t : Thread) (o : LaneOps) (at' : LaneAt → Nat)
    (a : List (List LaneAt)) (hs : Mem.wf s.mem) : Mem.wf (s.atomAll core t o at' a).1.mem := by
  fun_induction State.atomAll with
  | case1 => exact hs
  | case2 s r ih => exact ih hs
  | case3 s p ps r n m x v y ih => exact ih (Mem.wf_writeN _ _ _ _ (by simpa [v] using hs))

theorem atomLine_wf (core : Nat) (t : Thread) (o : LaneOps) (s : State) (ps : List LaneAt) (hs : Mem.wf s.mem) :
    (atomLine core t o s ps).wf := by
  unfold atomLine
  dsimp only
  (repeat' split) <;> simp [hs]

@[simp] theorem execVmAtom_wf (o : LaneOps) (s : State) (hs : Mem.wf s.mem) : (execVmAtom o s).wf := by
  refine onGangMem_wf _ _ hs fun tid t g ls => ?_
  dsimp only
  split
  · exact vmGlobal_wf _ _ _ _ _ _ hs (loadLine_wf _ _ _ _ _) fun _ _ hu => laneDoneOn_wf _ _ _ _ _ _ hu
  · exact vmGlobal_wf _ _ _ _ _ _ hs (atomLine_wf _ _ _) fun _ _ hu => laneDoneOn_wf _ _ _ _ _ _ hu

@[simp] theorem execVmRed_wf (o : LaneOps) (s : State) (hs : Mem.wf s.mem) : (execVmRed o s).wf := by
  refine onGangMem_wf _ _ hs fun tid t g ls => ?_
  dsimp only
  (repeat' split) <;> simp [hs]

@[simp] theorem execVmPref_wf (o : LaneOps) (s : State) (hs : Mem.wf s.mem) : (execVmPref o s).wf :=
  onGangMem_wf _ _ hs fun _ _ _ _ => prefOut_wf _ _ _ _ _ hs fun _ hu => laneDoneOn_wf _ _ _ _ _ _ hu

theorem lqFirst_wf {s : State} {o : LaneOps} {fn : BitVec 8} {pop : Bool} {tid : Nat} {t : Thread} {g : Nat}
    {ls : List Nat} {x : Out} (hs : Mem.wf s.mem) (hx : lqFirst s o fn pop tid t g ls = some x) : x.wf := by
  unfold lqFirst at hx
  dsimp only at hx
  (repeat' split at hx) <;> cases hx <;> simp [hs]

@[simp] theorem execLqQpushv_wf (o : LaneOps) (s : State) (hs : Mem.wf s.mem) : (execLqQpushv o s).wf := by
  refine onGangFirst_wf _ _ _ hs (fun _ _ _ _ _ hx => lqFirst_wf hs hx) fun tid t g ls => ?_
  have released := State.release_wf s t.uid hs
  dsimp only
  split
  · split
    · exact faultOut_wf _ _ _ hs
    · split <;> simp [released]
  · refine withIntact_wf _ _ _ _ hs fun r q b => ?_
    split
    · exact faultOut_wf _ _ _ hs
    · split
      · exact faultOut_wf _ _ _ hs
      · split
        · exact laneHold_wf _ _ _ released
        · refine atHome_wf _ _ _ _ _ _ _ released
            (homeDone_wf _ _ _ _ (State.homePush_wf _ _ _ _ released) fun u x hu => ?_)
          split <;> simp [hu]

@[simp] theorem execLqQpopv_wf (o : LaneOps) (s : State) (hs : Mem.wf s.mem) : (execLqQpopv o s).wf := by
  refine onGangFirst_wf _ _ _ hs (fun _ _ _ _ _ hx => lqFirst_wf hs hx) fun tid t g ls => ?_
  dsimp only
  split
  · exact faultOut_wf _ _ _ hs
  · refine withIntact_wf _ _ _ _ hs fun r q b => ?_
    split
    · exact faultOut_wf _ _ _ hs
    · refine atHome_wf _ _ _ _ _ _ _ hs (homeDone_wf _ _ _ _ (State.homePop_wf _ _ _ _ hs) fun u x hu => ?_)
      (repeat' split) <;> simp [hu]

end Sys2Proof.Machine
end

section
/-! SUPPORT. Canonical memory: the memory hierarchy's own events (R161, R178, R205), scalar arithmetic and control flow. -/

namespace Sys2Proof.Machine

@[simp] theorem State.serveReq_mem (s : State) (r : MemReq) : (s.serveReq r).mem = s.mem :=
  (s.touches_serveReq r).mem

@[simp] theorem execL2ServeRequest_wf (s : State) (hs : Mem.wf s.mem) : (execL2ServeRequest s).wf := by
  unfold execL2ServeRequest
  dsimp only
  (repeat' split) <;> simp [hs]

@[simp] theorem execL2MissFill_wf (s : State) (hs : Mem.wf s.mem) : (execL2MissFill s).wf := by
  unfold execL2MissFill
  dsimp only
  (repeat' split) <;> simp [hs]

@[simp] theorem execMemoryResponse_wf (s : State) (hs : Mem.wf s.mem) : (execMemoryResponse s).wf := by
  unfold execMemoryResponse
  dsimp only
  (repeat' split) <;> simp [hs]

@[simp] theorem execPtsRebase_wf (s : State) (hs : Mem.wf s.mem) : (execPtsRebase s).wf := by
  unfold execPtsRebase
  (repeat' split) <;> simp [hs]

@[simp] theorem State.unpost_mem (s : State) (core : Nat) : (s.unpost core).mem = s.mem := by
  fun_cases State.unpost <;> simp

@[simp] theorem execReductionCombinerAccept_wf (s : State) (hs : Mem.wf s.mem) :
    (execReductionCombinerAccept s).wf := by
  unfold execReductionCombinerAccept
  dsimp only
  (repeat' split) <;> simp [hs]

theorem State.performFirst_wf (s : State) (die : Nat) (a : List Red) {u : State} (hs : Mem.wf s.mem)
    (hu : s.performFirst die a = some u) : Mem.wf u.mem := by
  fun_induction State.performFirst <;> grind [State.performRed_wf, State.setDie_mem]

@[simp] theorem execReductionPerform_wf (s : State) (hs : Mem.wf s.mem) : (execReductionPerform s).wf := by
  grind [execReductionPerform, → State.performFirst_wf, Out.wf_next, Out.wf_fault]

@[simp] theorem intOp_wf (s : State) (d a b : BitVec 6) (f : Word → Word → Word) (hs : Mem.wf s.mem) :
    (intOp s d a b f).wf := by
  refine onThread_wf fun tid t => ?_
  simp [hs]

@[simp] theorem intOp1_wf (s : State) (d a : BitVec 6) (f : Word → Word) (hs : Mem.wf s.mem) :
    (intOp1 s d a f).wf := by
  refine onThread_wf fun tid t => ?_
  simp [hs]

@[simp] theorem execIntSel_wf (d a b : BitVec 6) (s : State) (hs : Mem.wf s.mem) : (execIntSel d a b s).wf := by
  refine onThread_wf fun tid t => ?_
  simp [hs]

@[simp] theorem execLi_wf (d : BitVec 6) (i : BitVec 20) (s : State) (hs : Mem.wf s.mem) : (execLi d i s).wf := by
  refine onThread_wf fun tid t => ?_
  simp [hs]

@[simp] theorem execLih_wf (d : BitVec 6) (i : BitVec 20) (s : State) (hs : Mem.wf s.mem) : (execLih d i s).wf := by
  refine onThread_wf fun tid t => ?_
  simp [hs]

@[simp] theorem goTo_wf (s : State) (tid : Nat) (t : Thread) (pc : Word) (hs : Mem.wf s.mem) :
    (goTo s tid t pc).wf := by
  simp [goTo, hs]

@[simp] theorem branchIf_wf (s : State) (a : BitVec 6) (o : BitVec 16) (c : Word → Bool) (hs : Mem.wf s.mem) :
    (branchIf s a o c).wf := by
  refine onThread_wf fun tid t => ?_
  simp [hs]

@[simp] theorem execJmp_wf (o : BitVec 26) (s : State) (hs : Mem.wf s.mem) : (execJmp o s).wf := by
  refine onThread_wf fun tid t => ?_
  simp [hs]

@[simp] theorem execCall_wf (o : BitVec 26) (s : State) (hs : Mem.wf s.mem) : (execCall o s).wf := by
  refine onThread_wf fun tid t => ?_
  simp [hs]

@[simp] theorem execJrJr_wf (a : BitVec 6) (s : State) (hs : Mem.wf s.mem) : (execJrJr a s).wf := by
  refine onThread_wf fun tid t => ?_
  (repeat' split) <;> simp [hs]

@[simp] theorem execJrJrl_wf (a : BitVec 6) (s : State) (hs : Mem.wf s.mem) : (execJrJrl a s).wf := by
  refine onThread_wf fun tid t => ?_
  (repeat' split) <;> simp [hs]

end Sys2Proof.Machine
end

section
/-! SUPPORT. Canonical memory: the work put off to the end of a step, and the choice of a turn with the fetch that it makes. -/

namespace Sys2Proof.Machine

@[simp] theorem State.endSyncWaits_mem (s : State) (r : QRef) (m : Nat) : (s.endSyncWaits r m).mem = s.mem :=
  foldl_mem (fun u p => by split <;> simp) _ _

@[simp] theorem State.settleNow_wf (s : State) (r : QRef) (q : Queue) (hs : Mem.wf s.mem) :
    Mem.wf (s.settleNow r q).mem := by
  unfold State.settleNow
  split
  · simpa using hs
  · rw [State.homeActed_mem]
    exact State.guarded_wf _ _ hs fun u q b hu => State.settle_wf _ _ (State.store_wf _ _ _ _ hu)

@[simp] theorem State.doChore_wf (s : State) (kept : List Chore) (c : Chore) (hs : Mem.wf s.mem) :
    Mem.wf (s.doChore kept c).1.mem := by
  unfold State.doChore
  dsimp only
  (repeat' split) <;> simp [hs]

@[simp] theorem State.runChores_wf (cs kept : List Chore) (s : State) (hs : Mem.wf s.mem) :
    Mem.wf (State.runChores cs kept s).mem := by
  fun_induction State.runChores with
  | case1 => exact hs
  | case2 kept s c t x ih => exact ih (State.doChore_wf _ _ _ hs)

@[simp] theorem State.doChores_wf (s : State) (hs : Mem.wf s.mem) : Mem.wf s.doChores.mem := by
  fun_cases State.doChores <;> simp [*]

@[simp] theorem State.asEvent_mem (s : State) (a : EvArg) : (s.asEvent a).mem = s.mem := by rfl

theorem State.codeLine_mem (s : State) (core ctx vline : Nat) {x : List Byte × State}
    (hu : s.codeLine core ctx vline = .ok x) : x.2.mem = s.mem := by
  grind [State.codeLine, → State.readBytes_mem, State.setCore_mem]

theorem State.codeWord_mem (s : State) (core ctx va : Nat) {x : List Byte × State}
    (hu : s.codeWord core ctx va = .ok x) : x.2.mem = s.mem := by
  grind [State.codeWord, → State.codeLine_mem]

theorem State.fetchScalar_mem (s : State) (tid : Nat) (t : Thread) {x : BitVec 32 × State}
    (hu : s.fetchScalar tid t = .ok x) : x.2.mem = s.mem := by
  grind [State.fetchScalar, → State.codeWord_mem]

@[simp] theorem State.laneFill_mem (s : State) (core ctx base : Nat) (ws : List (Nat × List Byte)) :
    (s.laneFill core ctx base ws).mem = s.mem := by rfl

theorem State.laneWindow_mem (s : State) (core ctx : Nat) (x : Section) (off : Nat) {u : State}
    (hu : s.laneWindow core ctx x off = .ok u) : u.mem = s.mem := by
  grind [State.laneWindow, → State.readBytes_mem, State.laneFill_mem]

theorem State.fetchLane_mem (s : State) (tid : Nat) (t : Thread) (pc : BitVec 32) {x : List Byte × State}
    (hu : s.fetchLane tid t pc = .ok x) : x.2.mem = s.mem := by
  grind [State.fetchLane, → State.laneWindow_mem]

/-- The machine that a turn has chosen to go on from has its memory in canonical form. -/
def Choice.wf : Choice → Prop
  | .idle s _ => Mem.wf s.mem
  | .run _ s => Mem.wf s.mem

@[simp] theorem Choice.wf_idle (s : State) (n : Nat) : (Choice.idle s n).wf ↔ Mem.wf s.mem := Iff.rfl

@[simp] theorem Choice.wf_run (i : Instr) (s : State) : (Choice.run i s).wf ↔ Mem.wf s.mem := Iff.rfl

theorem State.turnScalar_wf (s : State) (tid : Nat) (hs : Mem.wf s.mem) : (s.turnScalar tid).wf := by
  unfold State.turnScalar
  dsimp only
  split
  · exact hs
  · split
    · exact hs
    · split
      · exact hs
      · split
        · simpa using hs
        · simpa using hs
        · next w u hu =>
          have kept : u.mem = s.mem := State.fetchScalar_mem _ _ _ hu
          split <;> simpa [kept] using hs

theorem State.turnLane_wf (s : State) (tid g : Nat) (lines : Option Nat) (hs : Mem.wf s.mem) :
    (s.turnLane tid g lines).wf := by
  unfold State.turnLane
  split
  · exact hs
  · split
    · exact hs
    · split
      · exact hs
      · split
        · simpa using hs
        · simpa using hs
        · next bs u hu =>
          have kept : u.mem = s.mem := State.fetchLane_mem _ _ _ _ hu
          split <;> simpa [kept] using hs

theorem State.issueOn_mem (s : State) (core : Nat) (lane : Bool) {x : Ready × State}
    (hu : s.issueOn core lane = some x) : x.2.mem = s.mem := by
  grind [State.issueOn, State.setCore_mem]

theorem State.issueAny_mem (s : State) (lane : Bool) (a : List Nat) {x : Ready × State}
    (hu : s.issueAny lane a = some x) : x.2.mem = s.mem := by
  fun_induction State.issueAny <;> grind [→ State.issueOn_mem]

@[simp] theorem State.issued_mem (s : State) (r : Ready) : (s.issued r).mem = s.mem := by
  simp [State.issued]

theorem State.partyTurn_wf (s : State) (r : Ready) (lines : Option Nat) (hs : Mem.wf s.mem) :
    (s.partyTurn r lines).wf := by
  unfold State.partyTurn
  split
  · exact State.turnScalar_wf _ _ (by simpa using hs)
  · exact State.turnLane_wf _ _ _ _ (by simpa using hs)

theorem State.namedTurn_wf (s : State) (tid : Nat) (g lines : Option Nat) (hs : Mem.wf s.mem) :
    (s.namedTurn tid g lines).wf := by
  unfold State.namedTurn
  split
  · split
    · next r u hu =>
      split
      · exact State.partyTurn_wf _ _ _ (by rwa [State.issueOn_mem _ _ _ hu])
      · exact hs
    · exact hs
  · split
    · exact s.turnScalar_wf tid hs
    · exact s.turnLane_wf tid _ lines hs

theorem State.nextParty_wf (s : State) (hs : Mem.wf s.mem) (c : Choice) (hc : s.nextParty = some c) : c.wf := by
  have issued (lane : Bool) (x : Ready × State) (hx : s.issueAny lane s.coreOrder = some x) :
      (x.2.partyTurn x.1 none).wf :=
    State.partyTurn_wf _ _ _ (by rwa [State.issueAny_mem _ _ _ hx])
  unfold State.nextParty at hc
  dsimp only at hc
  split at hc
  · next hx => cases hc; exact issued _ _ hx
  · obtain ⟨x, hx, he⟩ := Option.map_eq_some_iff.mp hc
    exact he ▸ issued _ _ hx

theorem State.ownTurn_wf (s : State) (hs : Mem.wf s.mem) : s.ownTurn.wf := by
  unfold State.ownTurn
  dsimp only
  split
  · split
    · exact hs
    · split
      · exact s.nextParty_wf hs _ (by assumption)
      · exact hs
  · split
    · exact s.nextParty_wf hs _ (by assumption)
    · split <;> exact hs

theorem State.turn_wf (s : State) (hs : Mem.wf s.mem) : s.turn.wf := by
  unfold State.turn
  split
  · split
    · exact s.ownTurn_wf hs
    · split
      · exact hs
      · exact s.ownTurn_wf hs
  · exact State.namedTurn_wf _ _ _ _ hs
  · exact State.namedTurn_wf _ _ _ _ hs
  · exact State.namedTurn_wf _ _ _ _ hs
  · exact hs
  · exact hs

@[simp] theorem State.advance_wf (s : State) (n : Nat) (hs : Mem.wf s.mem) : Mem.wf (s.advance n).mem := by
  simp [State.advance, hs]

end Sys2Proof.Machine
end

section
/-! SUPPORT. Canonical memory at every step (R154, R172, R419): one arm of the dispatch for each instruction and event, and the
step around it. -/

namespace Sys2Proof.Machine

/-- A context's end first stops the core where it runs, which leaves memory alone. -/
theorem endContextReady_wf (s : State) (hs : Mem.wf s.mem) :
    Mem.wf (if s.run == .running then s.stopContext else s).mem := by
  split
  · simpa using hs
  · exact hs

/-- The rule of the whole dispatch: from
      canonical memory, no instruction and no event leaves memory in another form. -/
theorem exec_wf (i : Instr) (s : State) (hs : Mem.wf s.mem) : Out.wf (exec i s) :=
  match i with
  | .intAdd d a b => show Out.wf (execIntAdd d a b s) from intOp_wf _ _ _ _ _ hs
  | .intSub d a b => show Out.wf (execIntSub d a b s) from intOp_wf _ _ _ _ _ hs
  | .intMul d a b => show Out.wf (execIntMul d a b s) from intOp_wf _ _ _ _ _ hs
  | .intMulh d a b => show Out.wf (execIntMulh d a b s) from intOp_wf _ _ _ _ _ hs
  | .intMulhn d a b => show Out.wf (execIntMulhn d a b s) from intOp_wf _ _ _ _ _ hs
  | .intDiv d a b => show Out.wf (execIntDiv d a b s) from intOp_wf _ _ _ _ _ hs
  | .intDivn d a b => show Out.wf (execIntDivn d a b s) from intOp_wf _ _ _ _ _ hs
  | .intRem d a b => show Out.wf (execIntRem d a b s) from intOp_wf _ _ _ _ _ hs
  | .intRemn d a b => show Out.wf (execIntRemn d a b s) from intOp_wf _ _ _ _ _ hs
  | .intAnd d a b => show Out.wf (execIntAnd d a b s) from intOp_wf _ _ _ _ _ hs
  | .intOr d a b => show Out.wf (execIntOr d a b s) from intOp_wf _ _ _ _ _ hs
  | .intXor d a b => show Out.wf (execIntXor d a b s) from intOp_wf _ _ _ _ _ hs
  | .intAndn d a b => show Out.wf (execIntAndn d a b s) from intOp_wf _ _ _ _ _ hs
  | .intShl d a b => show Out.wf (execIntShl d a b s) from intOp_wf _ _ _ _ _ hs
  | .intShr d a b => show Out.wf (execIntShr d a b s) from intOp_wf _ _ _ _ _ hs
  | .intSar d a b => show Out.wf (execIntSar d a b s) from intOp_wf _ _ _ _ _ hs
  | .intMin d a b => show Out.wf (execIntMin d a b s) from intOp_wf _ _ _ _ _ hs
  | .intMax d a b => show Out.wf (execIntMax d a b s) from intOp_wf _ _ _ _ _ hs
  | .intMinn d a b => show Out.wf (execIntMinn d a b s) from intOp_wf _ _ _ _ _ hs
  | .intMaxn d a b => show Out.wf (execIntMaxn d a b s) from intOp_wf _ _ _ _ _ hs
  | .intClz d a => show Out.wf (execIntClz d a s) from intOp1_wf _ _ _ _ hs
  | .intCtz d a => show Out.wf (execIntCtz d a s) from intOp1_wf _ _ _ _ hs
  | .intPopc d a => show Out.wf (execIntPopc d a s) from intOp1_wf _ _ _ _ hs
  | .intEq d a b => show Out.wf (execIntEq d a b s) from intOp_wf _ _ _ _ _ hs
  | .intNe d a b => show Out.wf (execIntNe d a b s) from intOp_wf _ _ _ _ _ hs
  | .intLt d a b => show Out.wf (execIntLt d a b s) from intOp_wf _ _ _ _ _ hs
  | .intLtn d a b => show Out.wf (execIntLtn d a b s) from intOp_wf _ _ _ _ _ hs
  | .intLe d a b => show Out.wf (execIntLe d a b s) from intOp_wf _ _ _ _ _ hs
  | .intLen d a b => show Out.wf (execIntLen d a b s) from intOp_wf _ _ _ _ _ hs
  | .intSel .. => execIntSel_wf _ _ _ s hs
  | .addi d a imm => show Out.wf (execAddi d a imm s) from intOp1_wf _ _ _ _ hs
  | .andi d a imm => show Out.wf (execAndi d a imm s) from intOp1_wf _ _ _ _ hs
  | .ori d a imm => show Out.wf (execOri d a imm s) from intOp1_wf _ _ _ _ hs
  | .xori d a imm => show Out.wf (execXori d a imm s) from intOp1_wf _ _ _ _ hs
  | .shiShl d a n => show Out.wf (execShiShl d a n s) from intOp1_wf _ _ _ _ hs
  | .shiShr d a n => show Out.wf (execShiShr d a n s) from intOp1_wf _ _ _ _ hs
  | .shiSar d a n => show Out.wf (execShiSar d a n s) from intOp1_wf _ _ _ _ hs
  | .li .. => execLi_wf _ _ s hs
  | .lih .. => execLih_wf _ _ s hs
  | .bcEq0 a o => show Out.wf (execBcEq0 a o s) from branchIf_wf _ _ _ _ hs
  | .bcNe0 a o => show Out.wf (execBcNe0 a o s) from branchIf_wf _ _ _ _ hs
  | .bcLt0 a o => show Out.wf (execBcLt0 a o s) from branchIf_wf _ _ _ _ hs
  | .bcGe0 a o => show Out.wf (execBcGe0 a o s) from branchIf_wf _ _ _ _ hs
  | .bcLe0 a o => show Out.wf (execBcLe0 a o s) from branchIf_wf _ _ _ _ hs
  | .bcGt0 a o => show Out.wf (execBcGt0 a o s) from branchIf_wf _ _ _ _ hs
  | .jmp .. => execJmp_wf _ s hs
  | .call .. => execCall_wf _ s hs
  | .jrJr .. => execJrJr_wf _ s hs
  | .jrJrl .. => execJrJrl_wf _ s hs
  | .ldN8 d a o => show Out.wf (execLdN8 d a o s) from loadOp_wf _ _ _ _ _ _ hs
  | .ldI8 d a o => show Out.wf (execLdI8 d a o s) from loadOp_wf _ _ _ _ _ _ hs
  | .ldN16 d a o => show Out.wf (execLdN16 d a o s) from loadOp_wf _ _ _ _ _ _ hs
  | .ldI16 d a o => show Out.wf (execLdI16 d a o s) from loadOp_wf _ _ _ _ _ _ hs
  | .ldN32 d a o => show Out.wf (execLdN32 d a o s) from loadOp_wf _ _ _ _ _ _ hs
  | .ldI32 d a o => show Out.wf (execLdI32 d a o s) from loadOp_wf _ _ _ _ _ _ hs
  | .ldN64 d a o => show Out.wf (execLdN64 d a o s) from loadOp_wf _ _ _ _ _ _ hs
  | .stN8 d a o => show Out.wf (execStN8 d a o s) from storeOp_wf _ _ _ _ _ hs
  | .stN16 d a o => show Out.wf (execStN16 d a o s) from storeOp_wf _ _ _ _ _ hs
  | .stN32 d a o => show Out.wf (execStN32 d a o s) from storeOp_wf _ _ _ _ _ hs
  | .stN64 d a o => show Out.wf (execStN64 d a o s) from storeOp_wf _ _ _ _ _ hs
  | .atomAdd d a b => show Out.wf (execAtomAdd d a b s) from atomInt_wf _ _ _ _ _ hs
  | .atomAnd d a b => show Out.wf (execAtomAnd d a b s) from atomInt_wf _ _ _ _ _ hs
  | .atomOr d a b => show Out.wf (execAtomOr d a b s) from atomInt_wf _ _ _ _ _ hs
  | .atomXor d a b => show Out.wf (execAtomXor d a b s) from atomInt_wf _ _ _ _ _ hs
  | .atomMin d a b => show Out.wf (execAtomMin d a b s) from atomInt_wf _ _ _ _ _ hs
  | .atomMax d a b => show Out.wf (execAtomMax d a b s) from atomInt_wf _ _ _ _ _ hs
  | .atomMinn d a b => show Out.wf (execAtomMinn d a b s) from atomInt_wf _ _ _ _ _ hs
  | .atomMaxn d a b => show Out.wf (execAtomMaxn d a b s) from atomInt_wf _ _ _ _ _ hs
  | .atomSwap d a b => show Out.wf (execAtomSwap d a b s) from atomInt_wf _ _ _ _ _ hs
  | .atomCas d a b => show Out.wf (execAtomCas d a b s) from atomInt_wf _ _ _ _ _ hs
  | .atomFadd32 .. => execAtomFadd32_wf _ _ _ s hs
  | .atomFadd64 .. => execAtomFadd64_wf _ _ _ s hs
  | .atomFxadd .. => execAtomFxadd_wf _ _ _ s hs
  | .atomFxread .. => execAtomFxread_wf _ _ _ s hs
  | .redAdd a b => show Out.wf (execRedAdd a b s) from redInt_wf _ _ _ _ hs
  | .redAnd a b => show Out.wf (execRedAnd a b s) from redInt_wf _ _ _ _ hs
  | .redOr a b => show Out.wf (execRedOr a b s) from redInt_wf _ _ _ _ hs
  | .redXor a b => show Out.wf (execRedXor a b s) from redInt_wf _ _ _ _ hs
  | .redMin a b => show Out.wf (execRedMin a b s) from redInt_wf _ _ _ _ hs
  | .redMax a b => show Out.wf (execRedMax a b s) from redInt_wf _ _ _ _ hs
  | .redMinn a b => show Out.wf (execRedMinn a b s) from redInt_wf _ _ _ _ hs
  | .redMaxn a b => show Out.wf (execRedMaxn a b s) from redInt_wf _ _ _ _ hs
  | .redFadd32 .. => execRedFadd32_wf _ _ s hs
  | .redFadd64 .. => execRedFadd64_wf _ _ s hs
  | .redFxadd .. => execRedFxadd_wf _ _ s hs
  | .fenceFence .. => execFenceFence_wf _ s hs
  | .cachePref .. => execCachePref_wf _ _ s hs
  | .cacheEvict .. => execCacheEvict_wf _ s hs
  | .cacheEvstep .. => execCacheEvstep_wf _ _ s hs
  | .srGet .. => execSrGet_wf _ _ _ s hs
  | .srSet .. => execSrSet_wf _ _ _ s hs
  | .laneLrun .. => execLaneLrun_wf _ _ s hs
  | .laneLwait .. => execLaneLwait_wf _ s hs
  | .laneLres .. => execLaneLres_wf _ _ s hs
  | .poolGive .. => execPoolGive_wf _ _ s hs
  | .poolClaim .. => execPoolClaim_wf _ _ s hs
  | .poolTgive .. => execPoolTgive_wf _ _ s hs
  | .poolTclaim .. => execPoolTclaim_wf _ _ s hs
  | .queueQinit .. => execQueueQinit_wf _ _ s hs
  | .queueQpush d a b => show Out.wf (execQueueQpush d a b s) from pushOp_wf _ _ _ _ _ hs
  | .queueQpop d a b => show Out.wf (execQueueQpop d a b s) from popOp_wf _ _ _ _ _ hs
  | .queueQtrypush d a b => show Out.wf (execQueueQtrypush d a b s) from pushOp_wf _ _ _ _ _ hs
  | .queueQtrypop d a b => show Out.wf (execQueueQtrypop d a b s) from popOp_wf _ _ _ _ _ hs
  | .queueQres .. => execQueueQres_wf _ _ s hs
  | .queueQcom .. => execQueueQcom_wf _ _ s hs
  | .queueQlen .. => execQueueQlen_wf _ _ _ s hs
  | .queueQpeek .. => execQueueQpeek_wf _ _ _ s hs
  | .queueQclose .. => execQueueQclose_wf _ s hs
  | .queueQdrain .. => execQueueQdrain_wf _ s hs
  | .queueQcheck .. => execQueueQcheck_wf _ _ s hs
  | .copyCstart .. => execCopyCstart_wf _ _ _ s hs
  | .copyCstat .. => execCopyCstat_wf _ _ s hs
  | .copyCabort .. => execCopyCabort_wf _ _ s hs
  | .taskSpawn .. => execTaskSpawn_wf _ _ s hs
  | .taskNote .. => execTaskNote_wf _ s hs
  | .taskRnext .. => execTaskRnext_wf _ s hs
  | .taskTquery .. => execTaskTquery_wf _ _ s hs
  | .winWmark .. => execWinWmark_wf _ _ _ s hs
  | .winWclose .. => execWinWclose_wf _ _ _ s hs
  | .winWemit .. => execWinWemit_wf _ _ _ s hs
  | .winWstate .. => execWinWstate_wf _ _ _ s hs
  | .winWbind .. => execWinWbind_wf _ _ _ s hs
  | .syncWait .. => execSyncWait_wf _ _ _ s hs
  | .syncArrive .. => execSyncArrive_wf _ _ _ s hs
  | .syncBinit .. => execSyncBinit_wf _ _ s hs
  | .syncBphase .. => execSyncBphase_wf _ _ s hs
  | .confScset .. => execConfScset_wf _ _ s hs
  | .confOpset .. => execConfOpset_wf _ s hs
  | .confEvset .. => execConfEvset_wf _ _ s hs
  | .sysSys .. => execSysSys_wf _ _ _ s hs
  | .sysTrap .. => execSysTrap_wf _ s hs
  | .sysUint .. => execSysUint_wf _ _ s hs
  | .timeRdtime .. => execTimeRdtime_wf _ s hs
  | .timeRdtick .. => execTimeRdtick_wf _ s hs
  | .timeRdpts .. => execTimeRdpts_wf _ s hs
  | .viAdd o => show Out.wf (execViAdd o s) from viBin_wf _ _ _ _ hs
  | .viSub o => show Out.wf (execViSub o s) from viBin_wf _ _ _ _ hs
  | .viMul o => show Out.wf (execViMul o s) from viBin_wf _ _ _ _ hs
  | .viMulh o => show Out.wf (execViMulh o s) from viBin_wf _ _ _ _ hs
  | .viMulhn o => show Out.wf (execViMulhn o s) from viBin_wf _ _ _ _ hs
  | .viMad o => show Out.wf (execViMad o s) from laneVector_wf _ _ _ _ hs
  | .viAnd o => show Out.wf (execViAnd o s) from viBin_wf _ _ _ _ hs
  | .viOr o => show Out.wf (execViOr o s) from viBin_wf _ _ _ _ hs
  | .viXor o => show Out.wf (execViXor o s) from viBin_wf _ _ _ _ hs
  | .viAndn o => show Out.wf (execViAndn o s) from viBin_wf _ _ _ _ hs
  | .viShl o => show Out.wf (execViShl o s) from viShift_wf _ _ _ _ hs
  | .viShr o => show Out.wf (execViShr o s) from viShift_wf _ _ _ _ hs
  | .viSar o => show Out.wf (execViSar o s) from viShift_wf _ _ _ _ hs
  | .viMin o => show Out.wf (execViMin o s) from viBin_wf _ _ _ _ hs
  | .viMax o => show Out.wf (execViMax o s) from viBin_wf _ _ _ _ hs
  | .viMinn o => show Out.wf (execViMinn o s) from viBin_wf _ _ _ _ hs
  | .viMaxn o => show Out.wf (execViMaxn o s) from viBin_wf _ _ _ _ hs
  | .viAbs o => show Out.wf (execViAbs o s) from viUn_wf _ _ _ _ hs
  | .viClz o => show Out.wf (execViClz o s) from viUn_wf _ _ _ _ hs
  | .viPopc o => show Out.wf (execViPopc o s) from viUn_wf _ _ _ _ hs
  | .viAddsat o => show Out.wf (execViAddsat o s) from viBin_wf _ _ _ _ hs
  | .viSubsat o => show Out.wf (execViSubsat o s) from viBin_wf _ _ _ _ hs
  | .viCmpeq o => show Out.wf (execViCmpeq o s) from viCmp_wf _ _ _ _ hs
  | .viCmpne o => show Out.wf (execViCmpne o s) from viCmp_wf _ _ _ _ hs
  | .viCmplt o => show Out.wf (execViCmplt o s) from viCmp_wf _ _ _ _ hs
  | .viCmpltn o => show Out.wf (execViCmpltn o s) from viCmp_wf _ _ _ _ hs
  | .viCmple o => show Out.wf (execViCmple o s) from viCmp_wf _ _ _ _ hs
  | .viCmplen o => show Out.wf (execViCmplen o s) from viCmp_wf _ _ _ _ hs
  | .viSel o => show Out.wf (execViSel o s) from laneVector_wf _ _ _ _ hs
  | .viMov o => show Out.wf (execViMov o s) from viUn_wf _ _ _ _ hs
  | .viLi o => show Out.wf (execViLi o s) from laneVector_wf _ _ _ _ hs
  | .viIota o => show Out.wf (execViIota o s) from laneVector_wf _ _ _ _ hs
  | .vfAdd o => show Out.wf (execVfAdd o s) from vfOp_wf _ _ _ _ hs
  | .vfSub o => show Out.wf (execVfSub o s) from vfOp_wf _ _ _ _ hs
  | .vfMul o => show Out.wf (execVfMul o s) from vfOp_wf _ _ _ _ hs
  | .vfFma o => show Out.wf (execVfFma o s) from vfOp_wf _ _ _ _ hs
  | .vfFms o => show Out.wf (execVfFms o s) from vfOp_wf _ _ _ _ hs
  | .vfMin o => show Out.wf (execVfMin o s) from vfOp_wf _ _ _ _ hs
  | .vfMax o => show Out.wf (execVfMax o s) from vfOp_wf _ _ _ _ hs
  | .vfDiv o => show Out.wf (execVfDiv o s) from vfOp_wf _ _ _ _ hs
  | .vfSqrt o => show Out.wf (execVfSqrt o s) from vfOp_wf _ _ _ _ hs
  | .vfRcp o => show Out.wf (execVfRcp o s) from vfOp_wf _ _ _ _ hs
  | .vfRsq o => show Out.wf (execVfRsq o s) from vfOp_wf _ _ _ _ hs
  | .vfExp2 o => show Out.wf (execVfExp2 o s) from vfOp_wf _ _ _ _ hs
  | .vfLog2 o => show Out.wf (execVfLog2 o s) from vfOp_wf _ _ _ _ hs
  | .vfAbs o => show Out.wf (execVfAbs o s) from vfOp_wf _ _ _ _ hs
  | .vfNeg o => show Out.wf (execVfNeg o s) from vfOp_wf _ _ _ _ hs
  | .vfCopysign o => show Out.wf (execVfCopysign o s) from vfOp_wf _ _ _ _ hs
  | .vfCmpeq o => show Out.wf (execVfCmpeq o s) from vfCmp_wf _ _ _ _ hs
  | .vfCmplt o => show Out.wf (execVfCmplt o s) from vfCmp_wf _ _ _ _ hs
  | .vfCmple o => show Out.wf (execVfCmple o s) from vfCmp_wf _ _ _ _ hs
  | .vfCmpun o => show Out.wf (execVfCmpun o s) from vfCmp_wf _ _ _ _ hs
  | .vfClass .. => execVfClass_wf _ s hs
  | .vfMov o => show Out.wf (execVfMov o s) from vfOp_wf _ _ _ _ hs
  | .vfLi o => show Out.wf (execVfLi o s) from laneVector_wf _ _ _ _ hs
  | .vcCvt o => show Out.wf (execVcCvt o s) from laneFlags_wf _ _ _ _ hs
  | .vcCvts .. => execVcCvts_wf _ s hs
  | .vcQnpack .. => execVcQnpack_wf _ s hs
  | .vcQnunpack .. => execVcQnunpack_wf _ s hs
  | .vcPack .. => execVcPack_wf _ s hs
  | .vcUnpack .. => execVcUnpack_wf _ s hs
  | .vxShfl o => show Out.wf (execVxShfl o s) from vxPermute_wf _ _ _ _ hs
  | .vxShup o => show Out.wf (execVxShup o s) from vxPermute_wf _ _ _ _ hs
  | .vxShdn o => show Out.wf (execVxShdn o s) from vxPermute_wf _ _ _ _ hs
  | .vxShxor o => show Out.wf (execVxShxor o s) from vxPermute_wf _ _ _ _ hs
  | .vxBcast o => show Out.wf (execVxBcast o s) from vxPermute_wf _ _ _ _ hs
  | .vxScan .. => execVxScan_wf _ s hs
  | .vxRed .. => execVxRed_wf _ s hs
  | .vxVote .. => execVxVote_wf _ s hs
  | .vxBallot .. => execVxBallot_wf _ s hs
  | .vpPand o => show Out.wf (execVpPand o s) from lanePred_wf _ _ _ _ hs
  | .vpPor o => show Out.wf (execVpPor o s) from lanePred_wf _ _ _ _ hs
  | .vpPxor o => show Out.wf (execVpPxor o s) from lanePred_wf _ _ _ _ hs
  | .vpPnot o => show Out.wf (execVpPnot o s) from lanePred_wf _ _ _ _ hs
  | .vpPmov o => show Out.wf (execVpPmov o s) from lanePred_wf _ _ _ _ hs
  | .vpPset o => show Out.wf (execVpPset o s) from lanePred_wf _ _ _ _ hs
  | .lbBrc o => show Out.wf (execLbBrc o s) from lbOp_wf _ _ hs
  | .lbBrk o => show Out.wf (execLbBrk o s) from lbOp_wf _ _ hs
  | .lbCont o => show Out.wf (execLbCont o s) from lbOp_wf _ _ hs
  | .lbJmp o => show Out.wf (execLbJmp o s) from lbOp_wf _ _ hs
  | .vmLd o => show Out.wf (execVmLd o s) from vmLoad_wf _ _ _ _ hs
  | .vmSt o => show Out.wf (execVmSt o s) from vmStore_wf _ _ _ _ _ hs
  | .vmLdx o => show Out.wf (execVmLdx o s) from vmLoad_wf _ _ _ _ hs
  | .vmStx o => show Out.wf (execVmStx o s) from vmStore_wf _ _ _ _ _ hs
  | .vmSld .. => execVmSld_wf _ s hs
  | .vmSst .. => execVmSst_wf _ s hs
  | .vmAtom .. => execVmAtom_wf _ s hs
  | .vmRed .. => execVmRed_wf _ s hs
  | .vmPref .. => execVmPref_wf _ s hs
  | .mxMres .. => execMxMres_wf _ s hs
  | .mxMfree .. => execMxMfree_wf _ s hs
  | .mxMfill .. => execMxMfill_wf _ s hs
  | .mxMma .. => execMxMma_wf _ s hs
  | .mxMmag .. => execMxMmag_wf _ s hs
  | .mxMzero .. => execMxMzero_wf _ s hs
  | .mxMrd .. => execMxMrd_wf _ s hs
  | .mxMwr .. => execMxMwr_wf _ s hs
  | .mxMst .. => execMxMst_wf _ s hs
  | .mxMstx .. => execMxMstx_wf _ s hs
  | .mxMrow .. => execMxMrow_wf _ s hs
  | .mxMnote .. => execMxMnote_wf _ s hs
  | .slTopk o => show Out.wf (execSlTopk o s) from slOp_wf _ _ _ hs
  | .slSmax o => show Out.wf (execSlSmax o s) from slOp_wf _ _ _ hs
  | .slSamp o => show Out.wf (execSlSamp o s) from slOp_wf _ _ _ hs
  | .slRng .. => execSlRng_wf _ s hs
  | .lqQpushv .. => execLqQpushv_wf _ s hs
  | .lqQpopv .. => execLqQpopv_wf _ s hs
  | .taskDone => execTaskDone_wf s hs
  | .winPark => execWinPark_wf s hs
  | .sysEnd => execSysEnd_wf s hs
  | .sysHalt => execSysHalt_wf s hs
  | .lbJoin => show Out.wf (execLbJoin s) from lbOp_wf _ _ hs
  | .lbRegang => show Out.wf (execLbRegang s) from lbOp_wf _ _ hs
  | .lbLend => show Out.wf (execLbLend s) from lbOp_wf _ _ hs
  | .lbNop => show Out.wf (execLbNop s) from lbOp_wf _ _ hs
  | .laneBlockStart => execLaneBlockStart_wf s hs
  | .laneBlockEnd => execLaneBlockEnd_wf s hs
  | .mxRetire => execMxRetire_wf s hs
  | .slRetire => execSlRetire_wf s hs
  | .l2ServeRequest => execL2ServeRequest_wf s hs
  | .l2MissFill => execL2MissFill_wf s hs
  | .memoryResponse => execMemoryResponse_wf s hs
  | .ptsRebase => execPtsRebase_wf s hs
  | .reductionPerform => execReductionPerform_wf s hs
  | .copyTakeRecord => execCopyTakeRecord_wf s hs
  | .copyRecordComplete => execCopyRecordComplete_wf s hs
  | .qputRetry => execQputRetry_wf s hs
  | .copyFixupReplay => execCopyFixupReplay_wf s hs
  | .copyPageResident => execCopyPageResident_wf s hs
  | .carderTakeRecord => execCarderTakeRecord_wf s hs
  | .windowStepOpen => execWindowStepOpen_wf s hs
  | .windowStepRecord => show Out.wf (execWindowStepRecord s) from deliver_wf _ _ _ _ _ hs
  | .windowStepMerge => show Out.wf (execWindowStepMerge s) from deliver_wf _ _ _ _ _ hs
  | .windowStepClose => show Out.wf (execWindowStepClose s) from deliver_wf _ _ _ _ _ hs
  | .windowStepExpire => execWindowStepExpire_wf s hs
  | .windowTimeTrigger => execWindowTimeTrigger_wf s hs
  | .wheelFire => execWheelFire_wf s hs
  | .hatboxDemote => execHatboxDemote_wf s hs
  | .carderEmitPush => execCarderEmitPush_wf s hs
  | .hatboxFullRepeat => execHatboxFullRepeat_wf s hs
  | .taskEnginePop => execTaskEnginePop_wf s hs
  | .taskDecrement => execTaskDecrement_wf s hs
  | .taskLaunch => execTaskLaunch_wf s hs
  | .taskComplete => execTaskComplete_wf s hs
  | .rangeSplit => execRangeSplit_wf s hs
  | .ttRelease => execTtRelease_wf s hs
  | .ttReleaseSkip => execTtReleaseSkip_wf s hs
  | .placement => execPlacement_wf s hs
  | .starveTimeout => execStarveTimeout_wf s hs
  | .evictTimeout => execEvictTimeout_wf s hs
  | .preemptRequest => execPreemptRequest_wf s hs
  | .drainBoundExpire => execDrainBoundExpire_wf s hs
  | .cohortSave => execCohortSave_wf s hs
  | .cohortRestore => execCohortRestore_wf s hs
  | .cohortFree => execCohortFree_wf s hs
  | .partitionSwapOut => execPartitionSwapOut_wf s hs
  | .partitionSwapIn => execPartitionSwapIn_wf s hs
  | .watchdog => execWatchdog_wf s hs
  | .waitSatisfied => execWaitSatisfied_wf s hs
  | .waitTimeout => execWaitTimeout_wf s hs
  | .sysResponse => execSysResponse_wf s hs
  | .issueGatingStart => execIssueGatingStart_wf s hs
  | .issueGatingEnd => execIssueGatingEnd_wf s hs
  | .alarmVolt => execAlarmVolt_wf s hs
  | .alarmClock => execAlarmClock_wf s hs
  | .alarmTemp => execAlarmTemp_wf s hs
  | .alarmMesh => execAlarmMesh_wf s hs
  | .alarmPrivrep => execAlarmPrivrep_wf s hs
  | .mboxCreateContext => mbox_wf _ _ _ hs createContext_wf
  | .mboxEndContext => mbox_wf _ _ _ (endContextReady_wf s hs) endContext_wf
  | .mboxWriteLeaf => mbox_wf _ _ _ hs writeLeaves_wf
  | .mboxClearLeaf => mbox_wf _ _ _ hs clearLeaves_wf
  | .mboxWriteTtSlot => mbox_wf _ _ _ hs writeTtSlot_wf
  | .mboxMapUserPort => mbox_wf _ _ _ hs mapPort_wf
  | .mboxWriteUintEntry => mbox_wf _ _ _ hs writeUintEntry_wf
  | .mboxWritePartition => mbox_wf _ _ _ (by simpa using hs) writePartition_wf
  | .mboxBadRequest => execMboxBadRequest_wf s hs
  | .mboxDoorbellBusy => execMboxDoorbellBusy_wf s hs
  | .mboxstWrite => execMboxstWrite_wf s hs
  | .pathsyncRead => execPathsyncRead_wf s hs
  | .userPortWrite => execUserPortWrite_wf s hs
  | .bar0WriteOther => execBar0WriteOther_wf s hs
  | .scpQpush => execScpQpush_wf s hs
  | .scpQtrypop => execScpQtrypop_wf s hs
  | .scpQlen => execScpQlen_wf s hs
  | .scpAccess => execScpAccess_wf s hs
  | .scpSnoop => execScpSnoop_wf s hs
  | .doeInspectRead => execDoeInspectRead_wf s hs
  | .doeQueueUnbind => execDoeQueueUnbind_wf s hs
  | .doeCensus => execDoeCensus_wf s hs
  | .censusDone => execCensusDone_wf s hs
  | .doeCensusResume => execDoeCensusResume_wf s hs
  | .doeAttest => execDoeAttest_wf s hs
  | .doeRecoveryImage => execDoeRecoveryImage_wf s hs
  | .doeAlarmRequest => execDoeAlarmRequest_wf s hs
  | .doeAlarmClear => execDoeAlarmClear_wf s hs
  | .netRemoteOp => execNetRemoteOp_wf s hs
  | .netFlowDown => execNetFlowDown_wf s hs
  | .podBarrierMessage => execPodBarrierMessage_wf s hs
  | .timeSync => execTimeSync_wf s hs
  | .powerUp => execPowerUp_wf s hs
  | .pageMigrate => execPageMigrate_wf s hs
  | .hostExtentRelease => execHostExtentRelease_wf s hs
  | .hostForcedRelease => execHostForcedRelease_wf s hs
  | .uintDeliver => execUintDeliver_wf s hs
  | .eccUncorrected => execEccUncorrected_wf s hs
  | .eccCorrected => execEccCorrected_wf s hs
  | .nonInstructionScalar => execNonInstructionScalar_wf s hs
  | .nonInstructionLane => execNonInstructionLane_wf s hs
  | .reductionCombinerAccept => execReductionCombinerAccept_wf s hs
  | .netRemoteResponse => execNetRemoteResponse_wf s hs
  | .placementStallRepeat => execPlacementStallRepeat_wf s hs
  | .sectionMarkedLoaded => execSectionMarkedLoaded_wf s hs
  | .spdmSession => execSpdmSession_wf s hs
  | .timeSourceSelect => execTimeSourceSelect_wf s hs
  | .flowKeyInstall => execFlowKeyInstall_wf s hs
  | .expectedMeasurementInstall => execExpectedMeasurementInstall_wf s hs
  | .extentMarkMigratable => execExtentMarkMigratable_wf s hs
  | .pendingRingHeadAdvance => execPendingRingHeadAdvance_wf s hs

theorem step_wf (s t : State) (hs : Mem.wf s.mem) (h : step s = .next t) : Mem.wf t.mem := by
  have hc := s.turn_wf hs
  unfold step at h
  split at h
  · next u n he =>
    rw [he] at hc
    cases h
    exact u.advance_wf n hc
  · next i u he =>
    rw [he] at hc
    have hx := exec_wf i u hc
    split at h
    · next v hv =>
      rw [hv] at hx
      cases h
      exact v.advance_wf 1 hx
    · cases h
    · cases h

/-- Settles O6: what the turn chooses has the machine's memory or canonical memory again (`State.turn_wf`), every
instruction and event keeps the form (`exec_wf`), and so does the clk that follows (`State.advance_wf`). -/
theorem memoryStaysCanonical : Obligations.MemoryStaysCanonical :=
  fun s t hs h => step_wf s t hs h

end Sys2Proof.Machine
end

section
/-! SUPPORT. Scalar atomics on integers (R174, R192): the operations on numbers as those on words, and an instruction that is
`atomInt` at its code. -/

namespace Sys2Proof.Machine

theorem leNat_lt (bs : List Byte) : leNat bs < 256 ^ bs.length := by
  induction bs with
  | nil => simp [leNat]
  | cons b t ih =>
    have hb : b.toNat < 256 := b.isLt
    rw [leNat, List.length_cons, Nat.pow_succ']
    omega

/-- A number of n bytes (R2). -/
theorem Mem.readN_lt (m : List Host.Cell) (a n : Nat) : Mem.readN m a n < 2 ^ (8 * n) := by
  have h := leNat_lt (Mem.readBytes m a n)
  rwa [Mem.readBytes_length, ← Mem.readN_eq, show 256 = 2 ^ 8 from rfl, ← Nat.pow_mul] at h

/-- Eight bytes as a word are the number they are. -/
theorem toNat_word_readN (m : List Host.Cell) (a : Nat) : (word (Mem.readN m a 8)).toNat = Mem.readN m a 8 := by
  rw [word, BitVec.toNat_ofNat, Nat.mod_eq_of_lt (Mem.readN_lt m a 8)]

section operations
variable (M B : Word) (cmp : Nat)

theorem sext_toNat : sext M.toNat 64 = M.toInt := by
  rw [sext_eq_toInt _ (by decide), BitVec.ofNat_toNat, BitVec.setWidth_eq]

theorem atomNew_add : atomNew 0 64 M.toNat B.toNat cmp = ((M + B).toNat, 0) := by
  rw [BitVec.toNat_add]; rfl

theorem atomNew_and : atomNew 1 64 M.toNat B.toNat cmp = ((M &&& B).toNat, 0) := by
  rw [BitVec.toNat_and]; rfl

theorem atomNew_or : atomNew 2 64 M.toNat B.toNat cmp = ((M ||| B).toNat, 0) := by
  rw [BitVec.toNat_or]; rfl

theorem atomNew_xor : atomNew 3 64 M.toNat B.toNat cmp = ((M ^^^ B).toNat, 0) := by
  rw [BitVec.toNat_xor]; rfl

theorem atomNew_min : atomNew 4 64 M.toNat B.toNat cmp = ((wordI (min M.toInt B.toInt)).toNat, 0) := by
  rw [atomNew, sext_toNat, sext_toNat, min_comm, ← signedMin_eq, apply_ite BitVec.toNat]
  simp only [BitVec.slt_iff_toInt_lt]

theorem atomNew_max : atomNew 5 64 M.toNat B.toNat cmp = ((wordI (max M.toInt B.toInt)).toNat, 0) := by
  rw [atomNew, sext_toNat, sext_toNat, ← signedMax_eq, apply_ite BitVec.toNat]
  simp only [BitVec.slt_iff_toInt_lt]

theorem atomNew_minn : atomNew 6 64 M.toNat B.toNat cmp = ((word (min M.toNat B.toNat)).toNat, 0) := by
  have h : min M.toNat B.toNat < 2 ^ 64 := lt_of_le_of_lt (min_le_left _ _) M.isLt
  rw [word, BitVec.toNat_ofNat, Nat.mod_eq_of_lt h]; rfl

theorem atomNew_maxn : atomNew 7 64 M.toNat B.toNat cmp = ((word (max M.toNat B.toNat)).toNat, 0) := by
  have h : max M.toNat B.toNat < 2 ^ 64 := max_lt M.isLt B.isLt
  rw [word, BitVec.toNat_ofNat, Nat.mod_eq_of_lt h]; rfl

theorem atomNew_swap : atomNew 8 64 M.toNat B.toNat cmp = (B.toNat, 0) := rfl

theorem atomNew_cas (D : Word) : atomNew 9 64 M.toNat B.toNat D.toNat = ((if M = D then B else M).toNat, 0) := by
  rw [apply_ite BitVec.toNat]
  simp only [atomNew, BitVec.toNat_inj]

end operations

@[simp] theorem State.afterAtomic_cohorts (s : State) (t : Thread) (va : Word) (pa n new : Nat) :
    (s.afterAtomic t va pa n new).cohorts = s.cohorts := (s.touches_writeTouch _ _ _ _ _).cohorts

/-- A 64-bit integer atomic completes in one access: the location takes what its operation makes of the old word, d takes
the old word, and every other byte is as before (R191, R192). -/
theorem atomInt_completes {s : State} {t : Thread} {d a b : BitVec 6} {pa op : Nat} {i : Instr} {v : Word} (hi : Issues s t)
    (hk : s.check t (t.S a) 8 .atomic true = none) (hl : LeadsTo s t (t.S a) 8 pa) (hp : s.poisoned pa 8 = false)
    (hx : exec i s = atomInt s d a b op)
    (hr : atomNew op 64 (word (Mem.readN s.mem pa 8)).toNat (t.S b).toNat (t.S d).toNat = (v.toNat, 0)) :
    ∃ u : State, BecomesOn s u i ((t.setS d (word (Mem.readN s.mem pa 8))).dirty.step4) ∧ u.threads = s.threads
      ∧ u.cohorts = s.cohorts ∧ Mem.readN u.mem pa 8 = v.toNat
      ∧ ∀ j : Nat, (j < pa ∨ pa + 8 ≤ j) → u.byteAt j = s.byteAt j := by
  refine ⟨s.afterAtomic t (t.S a) pa 8 v.toNat, ?_, s.afterAtomic_threads _ _ _ _ _, s.afterAtomic_cohorts _ _ _ _ _, ?_,
    fun j hj => s.byteAt_afterAtomic _ _ _ hj⟩
  · rw [toNat_word_readN] at hr
    have h := atomOp_of (d := d) (flags := 0) (give := fun old => word old) hi hk hl hp hr (BitVec.or_zero ..)
      (BitVec.zero_and ..)
    rw [BecomesOn, hx, atomInt, onThread_of hi, h]
    simp
  · rw [State.readN_afterAtomic, Nat.mod_eq_of_lt v.isLt]

/-- Settles O15: each atomic is `atomInt` at its code, whose operation on numbers is the statement's on words. -/
theorem scalarAtomics : Obligations.ScalarAtomics := by
  intro s t hi d a b pa hk hl hp M B atom
  have completes {i : Instr} {op : Nat} {v : Word} (hx : exec i s = atomInt s d a b op)
      (hr : atomNew op 64 M.toNat B.toNat (t.S d).toNat = (v.toNat, 0)) : atom i v :=
    atomInt_completes hi hk hl hp hx hr
  exact ⟨completes rfl (atomNew_add ..), completes rfl (atomNew_and ..), completes rfl (atomNew_or ..),
    completes rfl (atomNew_xor ..), completes rfl (atomNew_min ..), completes rfl (atomNew_max ..),
    completes rfl (atomNew_minn ..), completes rfl (atomNew_maxn ..), completes rfl (atomNew_swap ..),
    completes rfl (atomNew_cas ..)⟩

end Sys2Proof.Machine
end

section
/-! SUPPORT. Scalar reductions (R181, R193): posted in the thread's store buffer, performed at their home. -/

namespace Sys2Proof.Machine

section posted
variable {s : State} {t : Thread} {a b : BitVec 6}

/-- A reduction whose check passes and whose flags no trap is enabled for joins the store buffer (R181, R193, R205). -/
theorem redOp_of {op n x : Nat} {fl : FFlags} (hi : Issues s t) (hr : t.redBuf.length < Config.storeBuffer)
    (hk : s.check t (t.S a) n .atomic true = none) (hz : fl &&& t.fpctl.setWidth 6 = 0) :
    redOp s a op n x fl = .next (s.setThread s.cur.tid (({ t.dirty.step4 with
      redBuf := t.redBuf ++ [t.red s.cur.tid .scalar 0xFF t.pc (t.S a) op n x] } : Thread).orFlags fl)) := by
  rw [redOp, onMemory_of hi hr]
  simp only [hk]
  rw [hi.trapAfter_onLive rfl rfl rfl hz]

/-- An instruction whose meaning is a reduction posts it. -/
theorem becomes_of_redOp {i : Instr} {op n x : Nat} {fl : FFlags} (hi : Issues s t)
    (hr : t.redBuf.length < Config.storeBuffer) (hx : exec i s = redOp s a op n x fl)
    (hk : s.check t (t.S a) n .atomic true = none) (hz : fl &&& t.fpctl.setWidth 6 = 0) :
    Becomes s i (({ t.dirty.step4 with
      redBuf := t.redBuf ++ [t.red s.cur.tid .scalar 0xFF t.pc (t.S a) op n x] } : Thread).orFlags fl) :=
  hx.trans (redOp_of hi hr hk hz)

theorem redInt_of (hi : Issues s t) (op : Nat) : redInt s a b op = redOp s a op 8 (t.S b).toNat 0 := onThread_of hi _

theorem execRedFadd32_of (hi : Issues s t) : execRedFadd32 a b s = redOp s a 10 4 ((t.S b).toNat % 2 ^ 32) 0 :=
  onThread_of hi _

theorem execRedFadd64_of (hi : Issues s t) : execRedFadd64 a b s = redOp s a 10 8 (t.S b).toNat 0 := onThread_of hi _

theorem execRedFxadd_of (hi : Issues s t) :
    let c := fxConvert (Fmt.f64.value (t.S b).toNat)
    execRedFxadd a b s = redOp s a 12 16 (wrap c.1 128) c.2 := onThread_of hi _

end posted

section performed
variable (s : State) (r : Red) (pa : Nat)

/-- What a reduction makes of its location's number at a byte (R193). -/
def State.reduced : Nat :=
  (atomNew r.op (8 * r.bytes) (Mem.readN s.mem pa r.bytes) r.value.toNat 0).1

/-- The machine as a reduction performed at a byte leaves it (R174, R193). -/
def State.afterRed : State :=
  { s.writeTouch (.core r.core) r.ctx r.addr pa none with mem := Mem.writeN s.mem pa r.bytes (s.reduced r pa) }

@[simp] theorem State.afterRed_threads : (s.afterRed r pa).threads = s.threads := (s.touches_writeTouch _ _ _ _ _).threads

theorem State.readN_afterRed : Mem.readN (s.afterRed r pa).mem pa r.bytes = s.reduced r pa % 2 ^ (8 * r.bytes) := by
  rw [State.afterRed, Mem.writeN_eq, Mem.readN_writeBytes_leBytes, Nat.pow_mul]

/-- The frame of a reduction. -/
theorem State.byteAt_afterRed {j : Nat} (h : j < pa ∨ pa + r.bytes ≤ j) : (s.afterRed r pa).byteAt j = s.byteAt j := by
  rw [State.byteAt, State.afterRed, Mem.writeN_eq]
  exact Mem.read_writeBytes_outside (by rwa [leBytes_length])

variable {s r pa}

/-- A reduction that waits for nothing and meets no control block and no poison changes its location (R193). -/
theorem State.performRed_byte (hp : s.place r.ctx r.addr = .byte pa) (hw : s.mustWait r.ctx r.addr pa = false)
    (hq : s.hitsQcb pa r.bytes = false) (hz : s.poisoned pa r.bytes = false) : s.performRed r = some (s.afterRed r pa) := by
  simp [State.performRed, hp, hw, hq, hz, State.afterRed, State.reduced]

end performed

/-- What each reduction leaves of two numbers of w bits: those of the operations on bits and of the comparisons are
numbers of w bits as they are. -/
theorem atomNew_mod {M x w : Nat} (hM : M < 2 ^ w) (hx : x < 2 ^ w) (op : Nat) :
    let new := (atomNew op w M x 0).1 % 2 ^ w
    (op = 0 ∨ op = 12 → new = (M + x) % 2 ^ w)
    ∧ (op = 1 → new = Nat.land M x) ∧ (op = 2 → new = Nat.lor M x) ∧ (op = 3 → new = Nat.xor M x)
    ∧ (op = 4 → new = if sext x w < sext M w then x else M) ∧ (op = 5 → new = if sext M w < sext x w then x else M)
    ∧ (op = 6 → new = min M x) ∧ (op = 7 → new = max M x)
    ∧ (op = 10 → new = (addF (if w = 32 then .f32 else .f64) M x).1 % 2 ^ w) := by
  refine ⟨?sum, ?land, ?lor, ?xor, ?min, ?max, ?minn, ?maxn, ?fadd⟩
  case sum => rintro (rfl | rfl) <;> exact Nat.mod_mod _ _
  case land => rintro rfl; exact Nat.mod_eq_of_lt (Nat.and_lt_two_pow M hx)
  case lor => rintro rfl; exact Nat.mod_eq_of_lt (Nat.or_lt_two_pow hM hx)
  case xor => rintro rfl; exact Nat.mod_eq_of_lt (Nat.xor_lt_two_pow hM hx)
  case min => rintro rfl; exact Nat.mod_eq_of_lt (by rw [atomNew]; split <;> assumption)
  case max => rintro rfl; exact Nat.mod_eq_of_lt (by rw [atomNew]; split <;> assumption)
  case minn => rintro rfl; exact Nat.mod_eq_of_lt (lt_of_le_of_lt (min_le_left _ _) hM)
  case maxn => rintro rfl; exact Nat.mod_eq_of_lt (max_lt hM hx)
  case fadd => rintro rfl; rfl

/-- Settles O17: each instruction is `redOp` at its code, size and operand; performed, a reduction writes what its
operation makes of the old number, cut to its bytes. -/
theorem scalarReductions : Obligations.ScalarReductions := by
  refine ⟨fun s t hi hr a b => ?_, fun s r pa hp hw hq hz _ => ?_⟩
  · intro posts B c
    have post {i : Instr} {op n x : Nat} {fl : FFlags} (h : exec i s = redOp s a op n x fl) : posts i op n x fl :=
      becomes_of_redOp hi hr h
    exact ⟨post (redInt_of hi 0), post (redInt_of hi 1), post (redInt_of hi 2), post (redInt_of hi 3),
      post (redInt_of hi 4), post (redInt_of hi 5), post (redInt_of hi 6), post (redInt_of hi 7),
      post (execRedFadd32_of hi), post (execRedFadd64_of hi), post (execRedFxadd_of hi)⟩
  · intro M w x hx
    refine ⟨s.afterRed r pa, State.performRed_byte hp hw hq hz, s.afterRed_threads r pa,
      fun j hj => s.byteAt_afterRed r pa hj, ?_⟩
    rw [s.readN_afterRed r pa]
    exact atomNew_mod (Mem.readN_lt _ _ _) hx r.op

end Sys2Proof.Machine
end

section
/-! SUPPORT. Fences, prefetches and cache control (R180, R194-R199): what a fence of each scope waits for, a prefetch sent to its
slice, and the instructions that leave by the core's issue port. -/

namespace Sys2Proof.Machine

section fences
variable {s : State} {t : Thread} {sc : BitVec 6}

@[simp] theorem State.covers_zero (s : State) (ctx core : Nat) (h : HomeAt) : s.covers ctx core 0 h = false := rfl

@[simp] theorem State.covers_six (s : State) (ctx core : Nat) (h : HomeAt) : s.covers ctx core 6 h = true := rfl

/-- Scope 0 waits for no engine (R180). -/
theorem State.fenceWaits_zero (s : State) (tid : Nat) (t : Thread) : s.fenceWaits tid t 0 = false := by
  simp only [State.fenceWaits, Bool.or_eq_false_iff, List.any_eq_false, Bool.and_eq_true, not_and, Bool.not_eq_true]
  refine ⟨fun c _ h _ _ raw _ x _ => s.covers_zero _ _ x, fun o _ _ => ?_⟩
  cases o.kind <;> simp

theorem mem_of_look {α : Type} {m : SMap α} {k : Nat} {v : α} (h : look m k = some v) : (k, v) ∈ m := by
  induction m with
  | nil => cases h
  | cons x r ih =>
    rw [look] at h
    split at h
    · next e => cases h; simp [← e]
    · exact List.mem_cons_of_mem _ (ih h)

/-- A matrix operation in flight is one of its core's. -/
theorem State.mem_cores_of_mx {s : State} {n : Nat} {o : MxOp} (h : o ∈ (s.coreAt n).mx) :
    (n, s.coreAt n) ∈ s.cores := by
  cases hl : look s.cores n with
  | none =>
    have : (s.coreAt n).mx = [] := by rw [State.coreAt, hl]; rfl
    rw [this] at h; cases h
  | some c =>
    rw [State.coreAt, hl]
    exact mem_of_look hl

/-- A thread whose attached engine operations are done waits for none, whatever the scope (R182). -/
theorem State.fenceWaits_done {s : State} {t : Thread} (h : s.enginesDone t.uid = true) (tid sc : Nat) :
    s.fenceWaits tid t sc = false := by
  simp only [State.enginesDone, Bool.and_eq_true, List.all_eq_true, Bool.or_eq_true, bne_iff_ne] at h
  obtain ⟨hc, hm⟩ := h
  simp only [State.fenceWaits, Bool.or_eq_false_iff, List.any_eq_false, Bool.and_eq_true, beq_iff_eq, not_and,
    Bool.not_eq_true]
  refine ⟨fun c hin h hh hu raw hraw => ?_, fun o ho hu => ?_⟩
  · have he := (hc c hin h hh).resolve_left (not_not_intro hu)
    rw [List.isEmpty_iff.mp he] at hraw
    cases hraw
  · have hk := (hm _ (State.mem_cores_of_mx ho) o ho).resolve_left (not_not_intro hu.1)
    revert hk
    cases o.kind <;> simp

/-- The issuing thread's own reductions that a fence performs (R180, R194). -/
def State.fenced (s : State) (t : Thread) (sc : BitVec 6) : List Red :=
  (s.postedBy t.uid).filter (fun r => r.party == .scalar && (match s.redHome r with
    | some h => s.covers t.ctx (coreOf s.cur.tid) sc.toNat h
    | none => sc != 0))

/-- Whether a reduction of the thread's scalar sequencer waits for a peer's acknowledgment (R194). -/
def State.awaitsPeer (s : State) (t : Thread) : Bool :=
  s.flows.any (fun f => f.2.reds.any (fun r => r.uid == t.uid && r.party == .scalar))

theorem State.awaitsPeer_of_remoteReds {s : State} {t : Thread} (h : s.remoteReds t.uid = false) :
    s.awaitsPeer t = false := by
  refine List.any_eq_false.mpr fun f hin hf => List.any_eq_false.mp h f hin ?_
  obtain ⟨r, hr, hu⟩ := List.any_eq_true.mp hf
  exact List.any_eq_true.mpr ⟨r, hr, (Bool.and_eq_true_iff.mp hu).1⟩

/-- A fence performs the reductions it covers, and completes once nothing else it covers is in flight (R194). -/
theorem execFenceFence_of (hi : Issues s t) (hs : sc.toNat ≤ 31) : execFenceFence sc s =
    (let x := s.performAll (s.fenced t sc)
    if x.2 && !x.1.fenceWaits s.cur.tid t sc.toNat
        && !(x.1.awaitsPeer t && x.1.covers t.ctx (coreOf s.cur.tid) sc.toNat .remote) then
      .next (x.1.onLive s.cur.tid Thread.step4)
    else .next (x.1.hold s.cur.tid .scalar .stall)) := by
  rw [execFenceFence, onThread_of hi, if_neg (Nat.not_lt.mpr hs)]
  rfl

/-- A fence whose reductions are performed, with nothing else left to wait for, completes (R194). -/
theorem fence_completes {u : State} (hi : Issues s t) (hs : sc.toNat ≤ 31) (hu : s.performAll (s.fenced t sc) = (u, true))
    (he : u.fenceWaits s.cur.tid t sc.toNat = false)
    (hr : u.remoteReds t.uid = false ∨ u.covers t.ctx (coreOf s.cur.tid) sc.toNat .remote = false) :
    exec (.fenceFence sc) s = .next (u.onLive s.cur.tid Thread.step4) := by
  have hf : (u.awaitsPeer t && u.covers t.ctx (coreOf s.cur.tid) sc.toNat .remote) = false :=
    Bool.and_eq_false_iff.mpr (hr.imp_left State.awaitsPeer_of_remoteReds)
  show execFenceFence sc s = _
  simp only [execFenceFence_of hi hs, hu, he, hf, Bool.not_false, Bool.and_self, if_true]

theorem fence_illegal (hi : Issues s t) (hs : 31 < sc.toNat) : Faults s t (.fenceFence sc) 0x01 0 0 := by
  show execFenceFence sc s = _
  rw [execFenceFence, onThread_of hi, if_pos hs, faultOut]

/-- With nothing posted or in flight a fence of every scope completes at once (R194). -/
theorem fence_quiet (hi : Issues s t) (hs : sc.toNat ≤ 31) (hq : Quiet s t) : Becomes s (.fenceFence sc) t.step4 := by
  have hn : s.fenced t sc = [] := by rw [State.fenced, hq.posted]; rfl
  have h := fence_completes (sc := sc) (u := s) hi hs (by rw [hn]; rfl) (State.fenceWaits_done hq.engines _ _) (.inl hq.remote)
  rwa [hi.onLive rfl] at h

/-- A fence of scope 0 orders nothing (R180). -/
theorem fence_zero (hi : Issues s t) : Becomes s (.fenceFence 0) t.step4 := by
  have hn : s.fenced t 0 = [] := by
    refine List.filter_eq_nil_iff.mpr fun r _ => ?_
    cases s.redHome r <;> simp
  have h := fence_completes (sc := 0) (u := s) hi (by decide) (by rw [hn]; rfl) (s.fenceWaits_zero _ _)
    (.inr (s.covers_zero _ _ _))
  rwa [hi.onLive rfl] at h

/-- A fence of scope 6 covers every reduction of the scalar sequencer. -/
theorem State.fenced_six (s : State) (t : Thread) :
    s.fenced t 6 = (s.postedBy t.uid).filter (fun r => r.party == .scalar) := by
  refine List.filter_congr fun r _ => ?_
  cases s.redHome r <;> simp

end fences

section port
variable {s : State} {t : Thread} {a b d l : BitVec 6}

theorem pref_illegal (hi : Issues s t) (hf : PortFree s t) (hl : 1 < l.toNat) : Faults s t (.cachePref a l) 0x01 0 0 := by
  show execCachePref a l s = _
  rw [execCachePref, onMemory_of hi hf.room, if_pos hl, faultOut]

/-- Prefetches that leave by a free port are sent from the first one the party has not sent (R160). -/
theorem prefOut_free {s : State} {t : Thread} (hf : PortFree s t) (p : Party) (l1 : Bool) (ls : List PrefLine)
    (done : State → Out) : prefOut s s.cur.tid t p l1 ls done =
      (let n := (t.sentBefore p).1
      let x := s.sendPrefs s.cur.tid t l1 (ls.drop n)
      if x.2.2 then done x.1 else .next (x.1.hold s.cur.tid p (.port (n + x.2.1) []))) := by
  simp [prefOut, hf.port, hf.ports]

theorem pref_dropped (hi : Issues s t) (hf : PortFree s t) (hl : l.toNat ≤ 1)
    (hr : inRanges t.ranges (t.S a).toNat 1 .read = false) : Becomes s (.cachePref a l) t.step4 := by
  show execCachePref a l s = _
  rw [execCachePref, onMemory_of hi hf.room, if_neg (Nat.not_lt.mpr hl)]
  simp [hr, prefOut_free hf, State.sendPrefs, hi.onLive]

/-- The request of a prefetch of a line (R161, R196). -/
def State.prefRequest (s : State) (t : Thread) (v : Nat) (m : BitVec 4) (l1 : Bool) : MemReq :=
  { who := none, core := coreOf s.cur.tid, pts := s.pts (coreOf s.cur.tid), ctx := t.ctx, asid := s.asidOf t.ctx,
    vline := v, sectors := m, l1 }

/-- The machine with a request behind the others of a slice (R161). -/
def State.enqueue (s : State) (ch : Nat) (r : MemReq) : State :=
  { s with slices := put s.slices ch { s.sliceAt ch with reqs := (s.sliceAt ch).reqs ++ [r] } }

@[simp] theorem State.enqueue_threads (s : State) (ch : Nat) (r : MemReq) : (s.enqueue ch r).threads = s.threads := rfl

@[simp] theorem State.enqueue_mem (s : State) (ch : Nat) (r : MemReq) : (s.enqueue ch r).mem = s.mem := rfl

theorem State.sliceAt_enqueue (s : State) (ch : Nat) (r : MemReq) :
    ((s.enqueue ch r).sliceAt ch).reqs = (s.sliceAt ch).reqs ++ [r] := by
  rw [State.sliceAt, State.enqueue, look_put_same]
  rfl

theorem State.sendPref_room {pa v : Nat} {m : BitVec 4} {l1 : Bool} (hp : s.place t.ctx (v * 128) = .byte pa)
    (hz : s.poisoned (pa / 128 * 128) 128 = false)
    (hq : (s.sliceAt (s.homeOf t.ctx (v * 128))).reqs.length < Config.requestQueue) :
    s.sendPref s.cur.tid t { vline := v, sectors := m } l1
      = some (s.enqueue (s.homeOf t.ctx (v * 128)) (s.prefRequest t v m l1)) := by
  simp [State.sendPref, hp, hz, Nat.not_le.mpr hq, State.enqueue, State.prefRequest]

/-- A prefetch inside the declared ranges joins its slice's queue where that has room (R161, R196). -/
theorem pref_sent (hi : Issues s t) (hf : PortFree s t) (hl : l.toNat ≤ 1)
    (hr : inRanges t.ranges (t.S a).toNat 1 .read = true) (hn : t.sentBefore .scalar = (0, [])) {pa : Nat}
    (hp : s.place t.ctx ((t.S a).toNat / 128 * 128) = .byte pa) (hz : s.poisoned (pa / 128 * 128) 128 = false)
    (hq : (s.sliceAt (s.homeOf t.ctx ((t.S a).toNat / 128 * 128))).reqs.length < Config.requestQueue) :
    BecomesOn s (s.enqueue (s.homeOf t.ctx ((t.S a).toNat / 128 * 128))
      (s.prefRequest t ((t.S a).toNat / 128) (sectorMask (t.S a).toNat 1) (l == 0))) (.cachePref a l) t.step4 := by
  show execCachePref a l s = _
  rw [execCachePref, onMemory_of hi hf.room, if_neg (Nat.not_lt.mpr hl)]
  simp only [hr, if_true, prefOut_free hf, hn, List.drop_zero, State.sendPrefs, State.sendPref_room hp hz hq,
    hi.onLive (State.enqueue_threads _ _ _)]

/-- An evicted line leaves L2 and the caches of its partition's cores; memory keeps its bytes (R43, R197). -/
theorem evict_drops (hi : Issues s t) (hf : PortFree s t) {pa : Nat}
    (hk : s.check t (t.S a &&& ~~~127#64) 1 .read false = none)
    (hp : s.place t.ctx (t.S a &&& ~~~127#64).toNat = .byte pa) (ho : s.ownedByte pa = false) :
    BecomesOn s ((s.dropLine (pa / 128)).purgeLine (partOfCtx t.ctx) (s.asidOf t.ctx) ((t.S a &&& ~~~127#64).toNat / 128))
      (.cacheEvict a) t.step4 := by
  show execCacheEvict a s = _
  rw [execCacheEvict, onMemory_of hi hf.room]
  simp only [hk, hp, ho, hf.port, hf.ports, Bool.or_self, Bool.false_eq_true, if_false]
  exact congrArg Host.Outcome.next (hi.onLive (u := (s.dropLine (pa / 128)).purgeLine _ _ _) rfl _)

theorem onPort_free (hi : Issues s t) (hf : PortFree s t) (k : Nat → Thread → Out) : onPort s k = k s.cur.tid t := by
  rw [onPort, onMemory_of hi hf.room]
  simp [hf.port, hf.ports]

theorem evstep_advances (hi : Issues s t) (hf : PortFree s t) {c : Ctx} (hc : look s.ctxs t.ctx = some c) :
    let e := c.evstep + (t.S a).setWidth 32
    BecomesOn s (s.setCtx t.ctx { c with evstep := e }) (.cacheEvstep d a) (((t.setS d (e.setWidth 64)).dirty).step4) := by
  intro e
  show execCacheEvstep d a s = _
  rw [execCacheEvstep, onPort_free hi hf]
  simp only [hc, hi.onLive (State.setCtx_threads s _ _), e]

theorem evset_sets (hi : Issues s t) (hf : PortFree s t) {c : Ctx} (hc : look s.ctxs t.ctx = some c)
    (ha : (t.S a).toNat < 64) (hb : (t.S b).toNat < 2 ^ 34) :
    BecomesOn s (s.setCtx t.ctx { c with sched := put c.sched (t.S a).toNat (t.S b) }) (.confEvset a b) t.dirty.step4 := by
  have hn : ¬ (64 ≤ (t.S a).toNat ∨ 2 ^ 34 ≤ (t.S b).toNat) := by omega
  show execConfEvset a b s = _
  rw [execConfEvset, onMemory_of hi hf.room]
  simp only [if_neg hn, hf.port, hf.ports, Bool.or_self, Bool.false_eq_true, if_false, hc,
    hi.onLive (State.setCtx_threads s _ _)]

theorem evset_illegal (hi : Issues s t) (hr : t.redBuf.length < Config.storeBuffer)
    (h : 64 ≤ (t.S a).toNat ∨ 2 ^ 34 ≤ (t.S b).toNat) : Faults s t (.confEvset a b) 0x01 0 0 := by
  show execConfEvset a b s = _
  rw [execConfEvset, onMemory_of hi hr, if_pos h, faultOut]

end port

/-- Settles O18: each instruction by its own rules above; the scopes of a fence through the reductions it performs. -/
theorem fencesAndCaches : Obligations.FencesAndCaches := by
  refine ⟨fun s t hi sc => ⟨fence_illegal hi, fence_quiet hi, ?zero, ?six⟩, fun s t hi a l hf => ⟨pref_illegal hi hf,
    pref_dropped hi hf, ?sent⟩, fun s t hi d a b => ⟨?evict, fun c hc hf => evstep_advances hi hf hc,
      fun c hc hf ha hb => evset_sets hi hf hc ha hb, evset_illegal hi⟩⟩
  case zero =>
    rintro rfl
    exact fence_zero hi
  case six =>
    rintro rfl u mine hu _ he hr
    exact fence_completes hi (by decide) (by rwa [s.fenced_six]) (State.fenceWaits_done he _ _) (.inl hr)
  case sent =>
    intro hl hr hn pa va hp hz hq
    exact ⟨_, pref_sent hi hf hl hr hn hp hz hq, rfl, rfl, _, rfl, rfl, rfl, rfl,
      s.sliceAt_enqueue _ _⟩
  case evict =>
    intro pa va hk hp ho hf
    refine ⟨_, evict_drops hi hf hk hp ho, rfl, rfl, ?_⟩
    exact (look_del s.l2 _ _).trans (if_pos rfl)

end Sys2Proof.Machine
end

section
/-! SUPPORT. The coherent port (R183, R184, R361, R362): what the operations it shares with other events leave of the machine,
and the host's accesses, queue operations and stores, case by case. -/

namespace Sys2Proof.Machine

/-! What the shared operations leave of the machine. -/

/-- A fold whose steps keep a part of the machine keeps it. -/
theorem foldl_field {β γ : Type} (p : State → γ) {f : State → β → State} (hf : ∀ s x, p (f s x) = p s) (l : List β)
    (s : State) : p (l.foldl f s) = p s := by
  induction l generalizing s with
  | nil => rfl
  | cons x t ih => rw [List.foldl_cons, ih, hf]

/-- A RAS record changes the dies' logs and counts the functions' interrupts, and nothing else (R417). -/
theorem State.addRas_eq (s : State) (type struct die part addr : Nat) (info : List Word) :
    ∃ dies fns, s.addRas type struct die part addr info = { s with dies := dies, fns := fns } := by
  have sent (l : List (Nat × Partition)) (u : State) :
      ∃ fns, l.foldl (fun s p => s.msix1 p.1) u = { u with fns := fns } := by
    induction l generalizing u with
    | nil => exact ⟨_, rfl⟩
    | cons x t ih =>
      obtain ⟨fns, h⟩ := ih (u.msix1 x.1)
      exact ⟨fns, h⟩
  unfold State.addRas
  dsimp only
  split
  · obtain ⟨fns, h⟩ := sent s.parts (s.setDie die _)
    exact ⟨_, fns, h⟩
  · exact ⟨_, _, rfl⟩

theorem State.walkRas_threads (s : State) (ctx va : Nat) : (s.walkRas ctx va).threads = s.threads := by
  fun_cases State.walkRas
  · obtain ⟨_, _, h⟩ := s.addRas_eq 10 0 (s.homeOf ctx va / 128) (partOfCtx ctx) _ [(s.asidOf ctx).setWidth 64]
    rw [h]
  · rfl

theorem State.hostNone_threads (s : State) (ctx : Nat) : (s.hostNone ctx).threads = s.threads := by
  unfold State.hostNone
  split
  · exact s.walkRas_threads _ _
  · rfl

/-- L2 without some lines, written back. -/
def State.dropLines (s : State) (ls : List (Nat × L2Line)) : State := ls.foldl (fun s l => s.dropLine l.1) s

theorem State.dropLines_mem (s : State) (ls : List (Nat × L2Line)) : (s.dropLines ls).mem = s.mem :=
  foldl_field State.mem (f := fun s (l : Nat × L2Line) => s.dropLine l.1) (fun _ _ => rfl) ls s

theorem State.hostPut_mem (s : State) (a : Nat) (bs : List Byte) :
    (s.hostPut a bs).mem = Mem.writeBytes s.mem (hostKey a) bs :=
  congrArg (fun m => Mem.writeBytes m (hostKey a) bs) (s.dropLines_mem _)

theorem State.hostPut_threads (s : State) (a : Nat) (bs : List Byte) : (s.hostPut a bs).threads = s.threads :=
  foldl_field State.threads (f := fun s (l : Nat × L2Line) => s.dropLine l.1) (fun _ _ => rfl) (s.hostLines a bs.length) s

/-- The frame of bytes written to host memory. -/
theorem State.byteAt_hostPut (s : State) {a j : Nat} {bs : List Byte} (h : j < hostKey a ∨ hostKey a + bs.length ≤ j) :
    (s.hostPut a bs).byteAt j = s.byteAt j := by
  rw [State.byteAt, State.hostPut_mem]
  exact Mem.read_writeBytes_outside h

section answer
variable (s : State) (ws : List Word) (part : Nat)

@[simp] theorem State.answer_scpResp : (s.answer ws).scpResp = ws := rfl

@[simp] theorem State.answer_threads : (s.answer ws).threads = s.threads := rfl

@[simp] theorem State.countScp_threads : (s.countScp part).threads = s.threads := rfl

end answer

/-! The coherent port (R361, R362). -/

section port
variable {s : State}

/-- A transaction of the coherent port on n bytes of one line, which are exposed and lead to byte pa of device memory (R361). -/
structure ScpReaches (s : State) (n pa : Nat) : Prop where
  nonempty : 0 < n
  line     : s.arg.word.toNat % 128 + n ≤ 128
  takes    : s.scpTakes s.arg.obj s.arg.word.toNat n = true
  place    : s.place s.arg.obj s.arg.word.toNat = .byte pa
  device   : isHost pa = false

/-- Nothing makes it wait: not its home, not what waits for its line, not a census (R161, R173, R183, R412). -/
structure ScpGoes (s : State) (n pa : Nat) : Prop extends ScpReaches s n pa where
  goes    : s.mustWait s.arg.obj s.arg.word.toNat pa = false
  first   : s.behind .scpAccess = false
  resumed : s.counted (partOfCtx s.arg.obj) = false

theorem scpAccess_reads {pa : Nat} (h : ScpGoes s s.arg.obj2 pa) (hf : s.arg.flag = false)
    (hz : s.poisoned pa s.arg.obj2 = false) :
    exec .scpAccess s = .next ((s.readTouch (s.homeUnitOf s.arg.obj s.arg.word.toNat) s.arg.obj s.arg.word.toNat
      (sectorMask s.arg.word.toNat s.arg.obj2) pa).answer (bytesWords (Mem.readBytes s.mem pa s.arg.obj2))) := by
  show execScpAccess s = _
  simp [execScpAccess, hf, h.takes, h.place, h.device, h.goes, h.first, h.resumed, hz, Nat.ne_of_gt h.nonempty,
    Nat.not_lt.mpr h.line]

theorem scpAccess_writes {pa : Nat} (h : ScpGoes s s.arg.bytes.length pa) (hf : s.arg.flag = true) :
    exec .scpAccess s = .next (((s.writeChunk (s.homeUnitOf s.arg.obj s.arg.word.toNat) s.arg.obj s.arg.word.toNat pa none
      s.arg.bytes).countScp (partOfCtx s.arg.obj)).answer [0]) := by
  have hn : s.arg.bytes ≠ [] := List.length_pos_iff.mp h.nonempty
  show execScpAccess s = _
  simp [execScpAccess, hf, h.takes, h.place, h.device, h.goes, h.first, h.resumed, hn, Nat.not_lt.mpr h.line]

theorem scpAccess_waits {pa : Nat} (h : ScpReaches s (if s.arg.flag then s.arg.bytes.length else s.arg.obj2) pa)
    (hw : s.mustWait s.arg.obj s.arg.word.toNat pa = true ∨ s.behind .scpAccess = true
      ∨ s.counted (partOfCtx s.arg.obj) = true) :
    exec .scpAccess s = .next (s.postpone .scpAccess) := by
  have hw' :
      (s.mustWait s.arg.obj s.arg.word.toNat pa || s.behind .scpAccess || s.counted (partOfCtx s.arg.obj)) = true := by
    simpa only [Bool.or_eq_true, or_assoc] using hw
  show execScpAccess s = _
  simp only [execScpAccess, Nat.ne_of_gt h.nonempty, Nat.not_lt.mpr h.line, h.takes, h.place, h.device, hw', Bool.not_true,
    Bool.false_eq_true, or_self, if_false, if_true]

theorem scpAccess_outside (ht : s.scpTakes s.arg.obj s.arg.word.toNat s.arg.obj2 = false) (hf : s.arg.flag = false) :
    exec .scpAccess s = .next (s.answer []) := by
  show execScpAccess s = _
  simp [execScpAccess, hf, ht]

theorem scp_noQueue (h : s.hostQueue s.arg.obj s.arg.word.toNat = none) :
    exec .scpQpush s = .next (s.hostNone s.arg.obj) ∧ exec .scpQtrypop s = .next (s.hostNone s.arg.obj)
      ∧ exec .scpQlen s = .next (s.hostNone s.arg.obj) := by
  refine ⟨?_, ?_, ?_⟩
  · show execScpQpush s = _
    simp only [execScpQpush, h]
  · show execScpQtrypop s = _
    simp only [execScpQtrypop, h]
  · show execScpQlen s = _
    simp only [execScpQlen, h]

/-- A host transaction at a queue's home that nothing makes wait (R362). -/
theorem State.hostHome_free {i : Instr} {r : QRef} {push : Bool} {n : Nat} {k : Asker → Out}
    (hq : s.queueBusy r push n = false) (hb : s.behind i = false) (hc : s.counted (partOfCtx s.arg.obj) = false) :
    s.hostHome i r push n k = k ((s.queueAt r).elim (.unit 0) (s.homeUnit r)) := by
  simp [State.hostHome, hq, hb, hc]

section queue
variable {r : QRef} (hr : s.hostQueue s.arg.obj s.arg.word.toNat = some r)
  (hc : s.counted (partOfCtx s.arg.obj) = false)
include hr hc

theorem scpQpush_pushes (hq : s.queueBusy r true 1 = false) (hb : s.behind .scpQpush = false)
    (hl : s.later.any waitingWrite = false) {p : Nat} {ps : List Nat} {es : List (List Byte)} {z : Bool}
    (ha : (s.homePush r ((s.queueAt r).elim (.unit 0) (s.homeUnit r))
      [padBytes s.arg.bytes (qEsize (s.qcbBytes r 64))]).ans = .many (p :: ps) es z) :
    exec .scpQpush s = .next ((s.homeActed r (s.homePush r ((s.queueAt r).elim (.unit 0) (s.homeUnit r))
      [padBytes s.arg.bytes (qEsize (s.qcbBytes r 64))])).answer [word p]) := by
  show execScpQpush s = _
  simp only [execScpQpush, hr, hl, Bool.false_eq_true, if_false, State.hostHome_free hq hb hc, ha]

theorem scpQtrypop_pops {q : Queue} (hs : s.queueAt r = some q) (he : s.engineOnly r = false)
    (hq : s.queueBusy r false 1 = false) (hb : s.behind .scpQtrypop = false) {p : Nat} {ps : List Nat} {e : List Byte}
    {es : List (List Byte)} {z : Bool}
    (ha : (s.homePop r ((s.queueAt r).elim (.unit 0) (s.homeUnit r)) 1).ans = .many (p :: ps) (e :: es) z) :
    exec .scpQtrypop s = .next ((s.homeActed r (s.homePop r ((s.queueAt r).elim (.unit 0) (s.homeUnit r)) 1)).answer
      (word p :: bytesWords e)) := by
  show execScpQtrypop s = _
  rw [hs] at ha ⊢
  simp only [execScpQtrypop, hr, hs, he, Bool.false_eq_true, if_false, State.hostHome_free hq hb hc, ha]

theorem scpQlen_counts (hq : s.queueBusy r true 0 = false) (hb : s.behind .scpQlen = false) {m : Nat}
    (ha : (s.homeLen r ((s.queueAt r).elim (.unit 0) (s.homeUnit r)) 0).ans = .pos m) :
    exec .scpQlen s = .next ((s.homeActed r (s.homeLen r ((s.queueAt r).elim (.unit 0) (s.homeUnit r)) 0)).answer
      [word m]) := by
  show execScpQlen s = _
  simp only [execScpQlen, hr, State.hostHome_free hq hb hc, ha]

end queue

theorem scpSnoop_waits (h : s.hostOwned s.arg.word.toNat s.arg.bytes.length = true ∨ s.behind .scpSnoop = true) :
    exec .scpSnoop s = .next (s.postpone .scpSnoop) := by
  show execScpSnoop s = _
  simp only [execScpSnoop, Bool.or_eq_true, h, if_true]

theorem scpSnoop_stores (ho : s.hostOwned s.arg.word.toNat s.arg.bytes.length = false)
    (hb : s.behind .scpSnoop = false) : exec .scpSnoop s = .next (s.hostPut s.arg.word.toNat s.arg.bytes) := by
  show execScpSnoop s = _
  simp [execScpSnoop, ho, hb]

end port

end Sys2Proof.Machine
end

section
/-! SUPPORT. Host extents (R354, R356, R357): lines that no engine owns are owned by none once they are dropped, so that a
release is acknowledged. -/

namespace Sys2Proof.Machine

section dropped
variable {s : State} {ls : List (Nat × L2Line)}

theorem del_eq_filter {α : Type} (m : SMap α) (k : Nat) : del m k = m.filter (fun p => p.1 != k) := by
  induction m with
  | nil => rfl
  | cons x t ih =>
    obtain ⟨k', v⟩ := x
    by_cases h : k' = k <;> simp [del, h, ih]

/-- Dropped lines leave L2 and nothing else changes. -/
theorem State.dropLines_eq (s : State) (ls : List (Nat × L2Line)) :
    s.dropLines ls = { s with l2 := s.l2.filter (fun p => ls.all (fun l => p.1 != l.1)) } := by
  induction ls generalizing s with
  | nil => simp [State.dropLines]
  | cons l t ih =>
    have h : s.dropLines (l :: t) = (s.dropLine l.1).dropLines t := rfl
    rw [h, ih, State.dropLine, del_eq_filter, List.filter_filter]
    simp only [List.all_cons, Bool.and_comm]

theorem find?_filter_of_keeps {α : Type} {p q : α → Bool} {l : List α} (h : ∀ y, l.find? q = some y → p y = true) :
    (l.filter p).find? q = l.find? q := by
  induction l with
  | nil => rfl
  | cons x t ih =>
    by_cases hq : q x = true
    · rw [List.filter_cons_of_pos (h x (List.find?_cons_of_pos hq)), List.find?_cons_of_pos hq, List.find?_cons_of_pos hq]
    · rw [List.find?_cons_of_neg hq] at h ⊢
      rw [← ih h, List.filter_cons]
      split
      · exact List.find?_cons_of_neg hq
      · rfl

/-- Two machines with one page table place an address alike where L2 names it alike (R349). -/
theorem State.place_congr {s u : State} {ctx va : Nat}
    (hn : u.lineNamed (u.asidOf ctx) (va / 128) = s.lineNamed (s.asidOf ctx) (va / 128)) (hw : u.walk ctx va = s.walk ctx va)
    (hp : u.parts = s.parts) : u.place ctx va = s.place ctx va := by
  simp only [State.place, hn, hw, State.partAt, hp]

/-- Dropped lines change no place that they do not name themselves (R349). -/
theorem State.place_dropLines {ctx va : Nat}
    (h : ∀ y, s.lineNamed (s.asidOf ctx) (va / 128) = some y → ∀ l ∈ ls, l.1 ≠ y.1) :
    (s.dropLines ls).place ctx va = s.place ctx va := by
  rw [s.dropLines_eq]
  exact State.place_congr (find?_filter_of_keeps fun y hy => List.all_eq_true.mpr fun l hl => bne_iff_ne.mpr (h y hy l hl).symm)
    rfl rfl

/-- The line an address names in L2 is the one it leads to (R349). -/
theorem State.place_named {ctx va : Nat} {y : Nat × L2Line} (h : s.lineNamed (s.asidOf ctx) (va / 128) = some y) :
    s.place ctx va = .byte (y.1 * 128 + va % 128) := by
  simp only [State.place, h]

theorem State.mem_fixLines {h : Chain} {id : Nat} : id ∈ s.fixLines h ↔
    ∃ m ∈ h.taken.elim [] CopyRec.skipped, ∃ v, m.dst = .global v ∧ ∃ c ∈ chunks v.toNat m.n,
      ∃ pa, s.place h.ctx c.va = .byte pa ∧ pa / 128 = id := by
  rw [State.fixLines, List.mem_flatMap]
  refine exists_congr fun m => and_congr_right fun _ => ?_
  cases m.dst with
  | global v =>
    simp only [CAddr.global.injEq, exists_eq_left', List.mem_filterMap]
    refine exists_congr fun c => and_congr_right fun _ => ?_
    cases s.place h.ctx c.va <;> simp
  | scratch a => simp
  | operand b a => simp

theorem State.chainOwns_iff {h : Chain} {id : Nat} :
    s.chainOwns h id = true ↔ h.owns id = true ∨ id ∈ s.fixLines h := by
  simp [State.chainOwns]

theorem State.ownsLine_iff {id : Nat} : s.ownsLine id = true ↔
    (∃ c ∈ s.cores, ∃ o ∈ c.2.mx, id ∈ o.owned) ∨ ∃ c ∈ s.chans, ∃ h ∈ c.2.chains, s.chainOwns h id = true := by
  simp [State.ownsLine]

/-- Lines that no engine owns are owned by none once they are dropped: what a chain has skipped would have led to a line
that is dropped only where the chain owned it before (R183, R241). -/
theorem State.ownsLine_dropLines (h : ∀ l ∈ ls, s.ownsLine l.1 = false) {l : Nat × L2Line} (hl : l ∈ ls) :
    (s.dropLines ls).ownsLine l.1 = false := by
  have notOwned {id : Nat} {l : Nat × L2Line} (hl : l ∈ ls) (hid : l.1 = id) : ¬ s.ownsLine id = true := by
    rw [← hid, h l hl]; exact Bool.false_ne_true
  refine Bool.eq_false_iff.mpr fun ho => notOwned hl rfl (State.ownsLine_iff.mpr ?_)
  have hcores : (s.dropLines ls).cores = s.cores := by rw [s.dropLines_eq]
  have hchans : (s.dropLines ls).chans = s.chans := by rw [s.dropLines_eq]
  rw [State.ownsLine_iff, hcores, hchans] at ho
  refine ho.imp_right ?_
  rintro ⟨c, hc, k, hk, hown⟩
  refine ⟨c, hc, k, hk, State.chainOwns_iff.mpr ((State.chainOwns_iff.mp hown).imp_right fun hf => ?_)⟩
  obtain ⟨m, hm, v, hv, p, hp, pa, hpl, hid⟩ := State.mem_fixLines.mp hf
  refine State.mem_fixLines.mpr ⟨m, hm, v, hv, p, hp, pa, ?_, hid⟩
  rw [← hpl]
  refine (State.place_dropLines fun y hy l' hl' he => ?_).symm
  refine notOwned hl' he (State.ownsLine_iff.mpr (.inr ⟨c, hc, k, hk, State.chainOwns_iff.mpr (.inr ?_)⟩))
  exact State.mem_fixLines.mpr ⟨m, hm, v, hv, p, hp, _, State.place_named hy, by omega⟩

/-- The marks of an extent whose release is acknowledged (R356). -/
theorem State.ackExtent_marks (s : State) (base size : Nat) :
    (look (s.ackExtent base size).extents base).map (fun e => (e.migratable, e.released)) = some (false, true) := by
  rw [State.ackExtent, look_put_same]
  rfl

theorem hostExtentRelease_acks (hr : s.run ≠ .halted)
    (h : ∀ l ∈ (s.unmapExtent s.arg.obj s.arg.obj2).hostLines s.arg.obj s.arg.obj2,
      (s.unmapExtent s.arg.obj s.arg.obj2).ownsLine l.1 = false) :
    exec .hostExtentRelease s = .next (((s.unmapExtent s.arg.obj s.arg.obj2).dropLines
      ((s.unmapExtent s.arg.obj s.arg.obj2).hostLines s.arg.obj s.arg.obj2)).ackExtent s.arg.obj s.arg.obj2) := by
  have hall : ((s.unmapExtent s.arg.obj s.arg.obj2).hostLines s.arg.obj s.arg.obj2).filter
      (fun l => !(s.unmapExtent s.arg.obj s.arg.obj2).ownsLine l.1)
      = (s.unmapExtent s.arg.obj s.arg.obj2).hostLines s.arg.obj s.arg.obj2 :=
    List.filter_eq_self.mpr fun l hl => by rw [h l hl]; rfl
  have hnone := List.any_eq_false.mpr fun l hl => Bool.eq_false_iff.mp (State.ownsLine_dropLines h (l := l) hl)
  show execHostExtentRelease s = _
  rw [execHostExtentRelease, if_neg (by simpa using hr)]
  dsimp only
  rw [hall]
  exact (congrArg (fun b => if b = true then _ else _) hnone).trans (if_neg Bool.false_ne_true)

theorem hostForcedRelease_acks (hr : s.run ≠ .halted) :
    ∃ u : State, exec .hostForcedRelease s = .next (u.ackExtent s.arg.obj s.arg.obj2) := by
  exact ⟨_, show execHostForcedRelease s = _ from if_neg (by simpa using hr)⟩

end dropped

end Sys2Proof.Machine
end

section
/-! SUPPORT. Page migration (R354, R355): one given up is not due again, and every name of a page that moves is given its new
frame. -/

namespace Sys2Proof.Machine

section migration
variable {s : State}

theorem le_levelShift (l : Nat) : 16 ≤ levelShift l := by
  unfold levelShift
  split <;> omega

/-- A leaf that a walk finds maps 64 KiB at least (R347). -/
theorem le_of_walkFrom {tables : SMap Word} {part k va size a : Nat} {e : Word} :
    ∀ {l table : Nat}, walkFrom tables part k va l table = .leaf e size a → 2 ^ 16 ≤ size
  | 0, table, h => by
    simp only [walkFrom] at h
    split at h
    · cases h
    · split at h
      · cases h; exact le_rfl
      · cases h
  | l + 1, table, h => by
    simp only [walkFrom] at h
    split at h
    · cases h
    · split at h
      · split at h
        · cases h; exact Nat.pow_le_pow_right (by decide) (le_levelShift (l + 1))
        · cases h
      · split at h
        · exact le_of_walkFrom h
        · cases h

theorem mem_addNat (l : List Nat) (k : Nat) : k ∈ addNat l k := by
  induction l with
  | nil => simp [addNat]
  | cons x t ih =>
    rw [addNat]
    split
    · simp
    · split
      · next h => simp [h]
      · simp [ih]

/-- The host page whose migration is due is the leaf at its address. -/
theorem State.walk_of_migrates {ctx va : Nat} {e : Word} {size : Nat} (h : s.migrates ctx va = some (e, size)) :
    ∃ a, s.walk ctx va = .leaf e size a := by
  unfold State.migrates at h
  split at h
  · next e' size' a hw =>
    dsimp only at h
    split at h
    · cases h; exact ⟨a, hw⟩
    · cases h
  · cases h

/-- A page marked never to be migrated is not (R355). -/
theorem State.migrates_never {ctx va : Nat} {e : Word} {size a : Nat} (hw : s.walk ctx va = .leaf e size a)
    (hn : s.neverMoves e size = true) : s.migrates ctx va = none := by
  simp [State.migrates, hw, hn]

/-- A migration given up is not due again (R355). -/
theorem State.migrates_abandon {ctx va : Nat} {e : Word} {size : Nat} (h : s.migrates ctx va = some (e, size)) (base : Nat) :
    (s.abandon ctx base e).migrates ctx va = none := by
  obtain ⟨a, hw⟩ := State.walk_of_migrates h
  obtain ⟨dies, fns, hr⟩ := State.addRas_eq { s with noMigrate := addNat s.noMigrate (leafFrame e) } 6 0 0 (partOfCtx ctx) base
    [(s.asidOf ctx).setWidth 64]
  have hs : 2 ^ 16 ≤ size := by
    unfold State.walk at hw
    split at hw
    · exact le_of_walkFrom hw
    · cases hw
  have hu : s.abandon ctx base e = { s with noMigrate := addNat s.noMigrate (leafFrame e), dies := dies, fns := fns } := hr
  rw [hu]
  refine State.migrates_never (size := size) (a := a) hw ?_
  exact List.any_eq_true.mpr ⟨leafFrame e, mem_addNat _ _, by simp; omega⟩

/-- One name of a migrated page given its new frame (R350, R354). -/
def State.renamed (part f : Nat) (s : State) (x : Nat × Mapped) : State :=
  (State.purgeCaches { s with tables := put s.tables (tableKey part x.2.addr) (leafMoved x.2.entry f) }
    (s.asidOf x.1) x.2.va x.2.size).resetCounts x.1 x.2.va

/-- The machine as a migration leaves it: the page's bytes in their frame, its names moved to it (R354, log 28). -/
def State.migrated (s : State) (ctx base size : Nat) (e : Word) (f : Nat) (p : Partition) : State :=
  (s.aliases (partOfCtx ctx) e size).foldl (State.renamed (partOfCtx ctx) f)
    (((s.setPart (partOfCtx ctx) p).zeroFrame p size f).moveFrame ctx base size (hostKey (leafFrame e * 2 ^ 16)) (leafMoved e f))

/-- Of entries written in turn, that of an address holds what the last one of its names gives. -/
theorem State.look_renamed (part f : Nat) (xs : List (Nat × Mapped)) (s : State) : ∀ x ∈ xs, ∃ y ∈ xs,
    y.2.addr = x.2.addr
      ∧ look (xs.foldl (State.renamed part f) s).tables (tableKey part x.2.addr) = some (leafMoved y.2.entry f) := by
  induction xs using List.reverseRecOn with
  | nil => simp
  | append_singleton xs z ih =>
    intro x hx
    have ht : ((xs ++ [z]).foldl (State.renamed part f) s).tables
        = put (xs.foldl (State.renamed part f) s).tables (tableKey part z.2.addr) (leafMoved z.2.entry f) := by
      rw [List.foldl_append]; rfl
    rw [ht, look_put]
    by_cases hz : x.2.addr = z.2.addr
    · exact ⟨z, by simp, hz.symm, if_pos (by rw [hz])⟩
    · have hk : ¬ tableKey part x.2.addr = tableKey part z.2.addr := by unfold tableKey; omega
      rcases List.mem_append.mp hx with hx | hx
      · obtain ⟨y, hy, ha, hl⟩ := ih x hx
        exact ⟨y, List.mem_append_left _ hy, ha, (if_neg hk).trans hl⟩
      · rw [List.mem_singleton.mp hx] at hz
        exact absurd rfl hz

/-- A page moved that no queue is bound in leaves every thread as it is. -/
theorem State.moveFrame_threads {ctx base size pa : Nat} {e : Word} (h : ∀ q ∈ s.queues, q.1 < pa ∨ pa + size ≤ q.1) :
    (s.moveFrame ctx base size pa e).threads = s.threads := by
  have hq : (s.queues.any fun q => decide (pa ≤ q.1) && decide (q.1 < pa + size)) = false :=
    List.any_eq_false.mpr fun q hin => by
      have := h q hin
      simp; omega
  simp only [State.moveFrame, hq, Bool.false_eq_true, if_false]

theorem State.migrated_threads {ctx base size : Nat} {e : Word} (f : Nat) (p : Partition)
    (h : ∀ q ∈ s.queues, q.1 < hostKey (leafFrame e * 2 ^ 16) ∨ hostKey (leafFrame e * 2 ^ 16) + size ≤ q.1) :
    (s.migrated ctx base size e f p).threads = s.threads :=
  (foldl_field State.threads (f := State.renamed (partOfCtx ctx) f) (fun _ _ => rfl) _ _).trans
    (State.moveFrame_threads (s := (s.setPart (partOfCtx ctx) p).zeroFrame p size f) h)

theorem pageMigrate_none (h : s.migrates s.arg.obj s.arg.word.toNat = none) : Skips s .pageMigrate := by
  show execPageMigrate s = _
  simp only [execPageMigrate, h]

section due
variable {e : Word} {size f : Nat} {p : Partition} (h : s.migrates s.arg.obj s.arg.word.toNat = some (e, size))
  (hf : (s.partAt (partOfCtx s.arg.obj)).takeFrame size = some (f, p))
include h hf

theorem pageMigrate_abandons (hz : s.poisoned (hostKey (leafFrame e * 2 ^ 16)) size = true) :
    exec .pageMigrate s = .next (s.abandon s.arg.obj (pageBase s.arg.word.toNat size) e) := by
  show execPageMigrate s = _
  simp only [execPageMigrate, h, hf, hz, if_true]

theorem pageMigrate_moves (hz : s.poisoned (hostKey (leafFrame e * 2 ^ 16)) size = false) (hn : s.arg.obj2 = 0) :
    exec .pageMigrate s = .next (s.migrated s.arg.obj (pageBase s.arg.word.toNat size) size e f p) := by
  show execPageMigrate s = _
  simp only [execPageMigrate, h, hf, hz, hn, Bool.false_eq_true, if_false]
  rfl

end due
end migration

end Sys2Proof.Machine
end

section
/-! SUPPORT. User interrupts (R365, R366), and the events of the host together. -/

namespace Sys2Proof.Machine

section interrupts
variable {s : State} {m : UintMsg} {u : UintEntry} (hr : s.run = .running) (hm : s.uintReady [] s.uints = some m)
  (hu : s.uintEntry m = some u)
include hr hm hu

theorem uintDeliver_direct (hh : s.hostRuns u = true) (hf : m.refused = false) (ha : s.arg.flag = false) :
    exec .uintDeliver s = .next { s with
      uints := s.uints.erase m, uintOut := s.uintOut ++ [[u.target, u.vector.setWidth 64, m.data]] } := by
  show execUintDeliver s = _
  simp [execUintDeliver, hr, hm, hu, hh, hf, ha]

theorem uintDeliver_pending (hh : s.hostRuns u = false ∨ m.refused = true ∨ s.arg.flag = true) :
    exec .uintDeliver s = .next (if s.ringRoom u then ({ s with uints := s.uints.erase m } : State).pend m u
      else { s with uints := s.uints.map (fun x => if x = m then { m with refused := true } else x) }) := by
  have hd : (s.hostRuns u && !m.refused && !s.arg.flag) = false := by
    rcases hh with hh | hh | hh <;> simp [hh]
  show execUintDeliver s = _
  simp only [execUintDeliver, hr, hm, hu, hd]
  cases s.ringRoom u <;> rfl

end interrupts

theorem pendingRingHeadAdvance_stores {s : State} {c : Ctx} {u : UintEntry} (hc : look s.ctxs s.arg.obj = some c)
    (hu : look c.uints s.arg.obj2 = some u) (ho : s.hostOwned u.pendq.toNat 8 = false)
    (hb : s.behind .pendingRingHeadAdvance = false) :
    exec .pendingRingHeadAdvance s = .next (s.hostPut u.pendq.toNat (leBytes 8 s.arg.word.toNat)) := by
  show execPendingRingHeadAdvance s = _
  simp [execPendingRingHeadAdvance, hc, hu, ho, hb]

/-- Settles O58: each event by its own rule above; that a release is acknowledged rests on `ownsLine_dropLines`, that an
abandoned page stays on `migrates_abandon`, that its names move on `look_renamed`. -/
theorem hostEvents : Obligations.HostEvents := by
  intro s ctx va n free
  refine ⟨?reads, ?writes, ?waits, scpAccess_outside, ?noQueue, ?queue, scpSnoop_waits, ?snoop, rfl, ?release, pageMigrate_none,
    ?migrates, ?uint, ?head⟩
  case reads =>
    rintro pa h0 hl hf ht hp hh hw ⟨hb, hc⟩ hz
    exact ⟨_, scpAccess_reads ⟨⟨h0, hl, ht, hp, hh⟩, hw, hb, hc⟩ hf hz, State.answer_scpResp _ _, by simp, by simp⟩
  case writes =>
    rintro pa bs h0 hl hf ht hp hh hw ⟨hb, hc⟩
    refine ⟨_, scpAccess_writes ⟨⟨h0, hl, ht, hp, hh⟩, hw, hb, hc⟩ hf, State.answer_scpResp _ _,
      by simp [State.writeChunk_threads], ?_, fun j hj => ?_⟩
    · rw [State.answer_mem, State.countScp_mem, State.writeChunk_mem]
      exact Mem.readBytes_writeBytes _ _ _
    · rw [State.byteAt, State.answer_mem, State.countScp_mem, State.writeChunk_mem]
      exact Mem.read_writeBytes_outside hj
  case waits =>
    intro pa len h0 hl ht hp hh hw
    exact scpAccess_waits ⟨h0, hl, ht, hp, hh⟩ hw
  case noQueue =>
    intro h
    obtain ⟨hpush, hpop, hlen⟩ := scp_noQueue h
    exact ⟨hpush, hpop, hlen, rfl, s.hostNone_mem _, s.hostNone_threads _⟩
  case queue =>
    intro r hr a
    refine ⟨?_, ?_, ?_⟩
    · rintro hq ⟨hb, hc⟩ hl h p ps es z ha
      exact scpQpush_pushes hr hc hq hb hl ha
    · rintro q hs he hq ⟨hb, hc⟩ h p ps e es z ha
      exact scpQtrypop_pops hr hc hs he hq hb ha
    · rintro hq ⟨hb, hc⟩ h m ha
      exact scpQlen_counts hr hc hq hb ha
  case snoop =>
    intro ho hb
    refine ⟨_, scpSnoop_stores ho hb, ?_, s.hostPut_threads _ _, fun j hj => s.byteAt_hostPut hj⟩
    rw [s.hostPut_mem]
    exact Mem.readBytes_writeBytes _ _ _
  case release =>
    intro hr
    refine ⟨fun h => ⟨_, hostExtentRelease_acks hr h, State.ackExtent_marks _ _ _⟩, ?_⟩
    obtain ⟨u, hu⟩ := hostForcedRelease_acks hr
    exact ⟨_, hu, u.ackExtent_marks _ _⟩
  case migrates =>
    intro e size f p hm hf part pa
    exact ⟨fun hz => ⟨pageMigrate_abandons hm hf hz, State.migrates_abandon hm _⟩, fun hz hn =>
      ⟨_, pageMigrate_moves hm hf hz hn, State.look_renamed _ _ _ _, State.migrated_threads f p⟩⟩
  case uint =>
    intro hr m u hm hu t
    refine ⟨uintDeliver_direct hr hm hu, fun hh => ⟨fun hroom => ?_, fun hroom => ?_⟩⟩
    · rw [uintDeliver_pending hr hm hu hh, if_pos hroom]
    · rw [uintDeliver_pending hr hm hu hh, if_neg (by simp [hroom])]
  case head =>
    intro c u hc hu ho hb
    refine ⟨_, pendingRingHeadAdvance_stores hc hu ho hb, ?_, s.hostPut_threads _ _, fun j hj => s.byteAt_hostPut ?_⟩
    · rw [s.hostPut_mem, Mem.readN_writeBytes_leBytes]
      exact Nat.mod_eq_of_lt s.arg.word.isLt
    · rwa [leBytes_length]

end Sys2Proof.Machine
end

section
/-! SUPPORT. A `vm.atom` over two lines, the second of which L2 keeps under a name its page does not give it (R186, R349): the
first line request takes the name away, and the second performs its atomics elsewhere than the lanes' addresses led. -/

namespace Sys2Proof.Machine

/-- Line requests that run to their end, as the lanes' accesses perform them. -/
theorem lanesDo_of_runLines {s : State} {f : State → List LaneAt → LineOut} {ls : List Nat} {va : Nat → Word}
    {x : State × Nat × List (Nat × Nat × FFlags) × Option LineOut}
    (hx : runLines f none s (lineRequests (ls.map (fun l => (l, va l)))) = x) (hn : x.2.2.2 = none) :
    LanesDo s x.1 f ls va x.2.2.1 :=
  ⟨x.2.1, by rw [hx, ← hn]⟩

namespace StaleAtomic

/-- `vm.atom` with operation 0 on 32-bit elements: base b0, index v1, addend b1, the old values to v0. -/
def ops : LaneOps := { StaleName.ops with b := 1, c := 0xF9 }

/-- The thread of `StaleName`, its range open to atomics, with the index 4L in v1 of every lane L of its gang: the lanes'
addresses are the four words from 0x1007C on, the last of line 0x200 and the first three of line 0x201. -/
def thread : Thread :=
  { StaleName.thread with
    v := { init := 0, writes := [(vKey 1 1, 4), (vKey 2 1, 8), (vKey 3 1, 12)] }
    ranges := StaleName.thread.ranges.map (fun r => { r with atomic := true }) }

/-- The machine of `StaleName`, with that thread. -/
def machine : State := { StaleName.machine with threads := [(0, thread)] }

/-- The lanes' addresses. -/
def va (l : Nat) : Word :=
  word (thread.uniform (thread.activeLanes 0 ops) ops.a 64) + ops.im.signExtend 64
    + (BitVec.ofNat 32 (thread.laneRead l ops.b 32)).signExtend 64 <<< (ops.md.toNat % 4)

/-- Where they lead as the instruction begins. -/
def pa (l : Nat) : Nat := StaleName.byteOf machine (va l).toNat

theorem gangIssues : GangIssues machine thread 0 0x70 0x06 ops := ⟨rfl, rfl, by decide +kernel, by decide +kernel⟩

theorem posted : machine.postedBy thread.uid = [] := by decide +kernel

theorem lanesBegin : LanesBegin machine thread 0 (thread.activeLanes 0 ops) (tyWidth ops.ty / 8) .atomic va pa where
  check := by decide +kernel
  free l _ := ⟨by decide +kernel, by decide +kernel, by rw [posted]; rfl⟩
  place := by decide +kernel
  alike := by decide +kernel
  room := by decide +kernel
  fresh := by decide +kernel
  whole := rfl

/-- A line request of the atomics. -/
def request : State → List LaneAt → LineOut := atomLine (coreOf machine.cur.tid) thread ops

/-- The two line requests, run. -/
def run : State × Nat × List (Nat × Nat × FFlags) × Option LineOut :=
  runLines request none machine (lineRequests ((thread.activeLanes 0 ops).map (fun l => (l, va l))))

theorem lanesDo : LanesDo machine run.1 request (thread.activeLanes 0 ops) va run.2.2.1 :=
  lanesDo_of_runLines rfl (Option.isNone_iff_eq_none.mp (by decide +kernel))

theorem missed_apart :
    ∀ l ∈ thread.activeLanes 0 ops, StaleName.missed < pa l ∨ pa l + tyWidth ops.ty / 8 ≤ StaleName.missed := by
  decide +kernel

/-- The byte that the page gives to line 0x201 takes lane 1's sum, though no lane's address led there. -/
theorem missed_written : run.1.byteAt StaleName.missed ≠ machine.byteAt StaleName.missed := by decide +kernel

end StaleAtomic

/-- Refutes O42: that bytes outside those of the lanes are as before needs L2 to keep lines under the names their pages give
them (R186, R349), and the statement does not ask for it. In the witness L2 keeps the line of page address 0x10000 under the
name of line 0x201. An add over lines 0x200 and 0x201 moves that line to its own name with the first request, and the second
then adds to bytes that the page gives to line 0x201, to which no lane's address led as the instruction began. -/
theorem not_laneAtomics : ¬ Obligations.LaneAtomics := by
  intro h
  obtain ⟨vmAtom, -⟩ := h StaleAtomic.machine StaleAtomic.thread 0 StaleAtomic.ops StaleAtomic.pa (by decide)
  obtain ⟨-, performed⟩ := vmAtom (by decide) (by decide) StaleAtomic.gangIssues StaleAtomic.lanesBegin
  obtain ⟨-, -, -, -, frame, -⟩ := performed _ _ StaleAtomic.lanesDo
  exact StaleAtomic.missed_written (frame _ StaleAtomic.missed_apart)

end Sys2Proof.Machine
end

section
/-! SUPPORT. The fields of a queue's control block (R207), as its home writes one and reads another, and the accounts of a
push, a reservation, a commit and a pop (R215, R218, R225). -/

namespace Sys2Proof.Machine

theorem leAt_lt (b : List Byte) (off n : Nat) : leAt b off n < 256 ^ n :=
  (leNat_lt _).trans_le (Nat.pow_le_pow_right (by decide) (List.length_take_le n _))

section fields
variable {b : List Byte} {off n : Nat} (h : off + n ≤ b.length)
include h

theorem setField_length (v : Nat) : (setField b off n v).length = b.length := by
  simp only [setField, patchBytes, List.length_append, List.length_take, List.length_drop, leBytes_length]
  omega

/-- A field reads back what was written to it. -/
theorem leAt_setField_same (v : Nat) : leAt (setField b off n v) off n = v % 256 ^ n := by
  have before : (b.take off).length = off := by rw [List.length_take]; omega
  have field : ((setField b off n v).drop off).take n = leBytes n v := by
    rw [setField, patchBytes, List.append_assoc, List.drop_left' before, List.take_left' (leBytes_length n v)]
  rw [leAt, field, leNat_leBytes]

/-- Every other field stays. -/
theorem leAt_setField_ne {i m : Nat} (hd : i + m ≤ off ∨ off + n ≤ i) (v : Nat) :
    leAt (setField b off n v) i m = leAt b i m := by
  have bytes : ((setField b off n v).drop i).take m = (b.drop i).take m := by
    apply List.ext_getElem?
    intro j
    simp only [setField, patchBytes, List.getElem?_take, List.getElem?_drop, List.getElem?_append, List.length_append,
      List.length_take, leBytes_length]
    grind
  rw [leAt, bytes, leAt]

end fields

/-! One position of a block passed, taken or popped. -/

/-- The block after TAIL has passed one committed position (R218, R225). -/
def passTail (b : List Byte) : List Byte := (passPrefix [true] b).1

/-- The block after one element is popped (R215). -/
def popHead (b : List Byte) : List Byte :=
  let c := setField b 0 4 ((qHead b + 1) % 2 ^ 32)
  setField c 24 4 (qFree c + 1)

/-- The block after a position is taken, before any is passed (R215). -/
def takeSlot (b : List Byte) : List Byte :=
  let c := setField b 24 4 (qFree b - 1)
  setField c 28 4 (qResv c + 1)

theorem passPrefix_true (l : List Bool) (b : List Byte) : passPrefix (true :: l) b = passPrefix l (passTail b) := rfl

theorem passPrefix_of_head {l : List Bool} (h : l.head? ≠ some true) (b : List Byte) : passPrefix l b = (b, l) := by
  match l with
  | [] => rfl
  | false :: _ => rfl
  | true :: _ => exact absurd rfl h

section steps
variable {b : List Byte} (hb : 64 ≤ b.length)
include hb

theorem passTail_eq : passTail b =
    (let c := setField (setField (setField b 4 4 ((qTail b + 1) % 2 ^ 32)) 28 4 (qResv b - 1)) 0x2C 4
      ((leAt b 0x2C 4 + 1) % 2 ^ 32)
    if 128 ≤ b.length then setField c 0x60 8 ((leAt b 0x60 8 + 1) % 2 ^ 64) else c) := by
  simp only [passTail, passPrefix]
  grind [qResv, qTail, setField_length, leAt_setField_ne]

theorem passTail_length : (passTail b).length = b.length := by
  grind [passTail_eq, setField_length]

/-- Passing a position changes TAIL, RESV, PUSHES and, in a stream's block, SEQ. -/
theorem leAt_passTail {i m : Nat}
    (hi : i + m ≤ 4 ∨ 8 ≤ i ∧ i + m ≤ 28 ∨ 32 ≤ i ∧ i + m ≤ 0x2C ∨ 0x30 ≤ i ∧ i + m ≤ 0x60) :
    leAt (passTail b) i m = leAt b i m := by
  grind [passTail_eq, setField_length, leAt_setField_ne]

theorem qTail_passTail : qTail (passTail b) = (qTail b + 1) % 2 ^ 32 := by
  grind [passTail_eq, setField_length, leAt_setField_ne, leAt_setField_same, qTail]

theorem qResv_passTail : qResv (passTail b) = qResv b - 1 := by
  have bound : qResv b < 256 ^ 4 := leAt_lt b 28 4
  grind [passTail_eq, setField_length, leAt_setField_ne, leAt_setField_same, qResv]

theorem pushes_passTail : leAt (passTail b) 0x2C 4 = (leAt b 0x2C 4 + 1) % 2 ^ 32 := by
  grind [passTail_eq, setField_length, leAt_setField_ne, leAt_setField_same]

theorem seq_passTail (hs : 128 ≤ b.length) : leAt (passTail b) 0x60 8 = (leAt b 0x60 8 + 1) % 2 ^ 64 := by
  grind [passTail_eq, setField_length, leAt_setField_same]

theorem takeSlot_length : (takeSlot b).length = b.length := by
  grind [takeSlot, setField_length]

/-- Taking a position changes FREE and RESV. -/
theorem leAt_takeSlot {i m : Nat} (hi : i + m ≤ 24 ∨ 32 ≤ i) : leAt (takeSlot b) i m = leAt b i m := by
  grind [takeSlot, setField_length, leAt_setField_ne]

theorem qFree_takeSlot : qFree (takeSlot b) = qFree b - 1 := by
  have bound : qFree b < 256 ^ 4 := leAt_lt b 24 4
  grind [takeSlot, setField_length, leAt_setField_ne, leAt_setField_same, qFree]

theorem qResv_takeSlot (hr : qResv b < 64) : qResv (takeSlot b) = qResv b + 1 := by
  grind [takeSlot, setField_length, leAt_setField_ne, leAt_setField_same, qResv]

theorem popHead_length : (popHead b).length = b.length := by
  grind [popHead, setField_length]

/-- Popping an element changes HEAD and FREE. -/
theorem leAt_popHead {i m : Nat} (hi : 4 ≤ i ∧ i + m ≤ 24 ∨ 28 ≤ i) : leAt (popHead b) i m = leAt b i m := by
  grind [popHead, setField_length, leAt_setField_ne]

theorem qHead_popHead : qHead (popHead b) = (qHead b + 1) % 2 ^ 32 := by
  grind [popHead, setField_length, leAt_setField_ne, leAt_setField_same, qHead]

theorem qFree_popHead (hf : qFree b + 1 < 2 ^ 32) : qFree (popHead b) = qFree b + 1 := by
  grind [popHead, setField_length, leAt_setField_ne, leAt_setField_same, qFree]

end steps

/-! A number of positions passed, or of elements popped. -/

/-- The committed positions at the head of the commit map are passed, however many they are. -/
theorem passPrefix_committed {l : List Bool} (hl : l.head? ≠ some true) (n : Nat) (b : List Byte) :
    passPrefix (List.replicate n true ++ l) b = (passTail^[n] b, l) := by
  induction n generalizing b with
  | zero => exact passPrefix_of_head hl b
  | succ n ih => exact ih (passTail b)

/-- What a commit map leaves of a block is so many positions passed. -/
theorem exists_passPrefix_eq (l : List Bool) (b : List Byte) : ∃ n, (passPrefix l b).1 = passTail^[n] b := by
  induction l generalizing b with
  | nil => exact ⟨0, rfl⟩
  | cons c l ih =>
    cases c with
    | false => exact ⟨0, rfl⟩
    | true =>
      obtain ⟨n, hn⟩ := ih (passTail b)
      exact ⟨n + 1, hn⟩

section many
variable {b : List Byte} (hb : 64 ≤ b.length) (n : Nat)
include hb

theorem passTails_length : (passTail^[n] b).length = b.length := by
  induction n with
  | zero => rfl
  | succ n ih => rw [Function.iterate_succ_apply', passTail_length (ih ▸ hb), ih]

theorem passTails_room : 64 ≤ (passTail^[n] b).length := (passTails_length hb n).symm ▸ hb

theorem leAt_passTails {i m : Nat}
    (hi : i + m ≤ 4 ∨ 8 ≤ i ∧ i + m ≤ 28 ∨ 32 ≤ i ∧ i + m ≤ 0x2C ∨ 0x30 ≤ i ∧ i + m ≤ 0x60) :
    leAt (passTail^[n] b) i m = leAt b i m := by
  induction n with
  | zero => rfl
  | succ n ih => rw [Function.iterate_succ_apply', leAt_passTail (passTails_room hb n) hi, ih]

theorem qTail_passTails : qTail (passTail^[n] b) = (qTail b + n) % 2 ^ 32 := by
  induction n with
  | zero => exact (Nat.mod_eq_of_lt (leAt_lt b 4 4)).symm
  | succ n ih => rw [Function.iterate_succ_apply', qTail_passTail (passTails_room hb n), ih]; omega

theorem qResv_passTails : qResv (passTail^[n] b) = qResv b - n := by
  induction n with
  | zero => rfl
  | succ n ih => rw [Function.iterate_succ_apply', qResv_passTail (passTails_room hb n), ih]; omega

theorem pushes_passTails : leAt (passTail^[n] b) 0x2C 4 = (leAt b 0x2C 4 + n) % 2 ^ 32 := by
  induction n with
  | zero => exact (Nat.mod_eq_of_lt (leAt_lt b 0x2C 4)).symm
  | succ n ih => rw [Function.iterate_succ_apply', pushes_passTail (passTails_room hb n), ih]; omega

theorem seq_passTails (hs : 128 ≤ b.length) : leAt (passTail^[n] b) 0x60 8 = (leAt b 0x60 8 + n) % 2 ^ 64 := by
  induction n with
  | zero => exact (Nat.mod_eq_of_lt (leAt_lt b 0x60 8)).symm
  | succ n ih =>
    rw [Function.iterate_succ_apply', seq_passTail (passTails_room hb n) ((passTails_length hb n).symm ▸ hs), ih]
    omega

theorem popHeads_length : (popHead^[n] b).length = b.length := by
  induction n with
  | zero => rfl
  | succ n ih => rw [Function.iterate_succ_apply', popHead_length (ih ▸ hb), ih]

theorem popHeads_room : 64 ≤ (popHead^[n] b).length := (popHeads_length hb n).symm ▸ hb

theorem leAt_popHeads {i m : Nat} (hi : 4 ≤ i ∧ i + m ≤ 24 ∨ 28 ≤ i) : leAt (popHead^[n] b) i m = leAt b i m := by
  induction n with
  | zero => rfl
  | succ n ih => rw [Function.iterate_succ_apply', leAt_popHead (popHeads_room hb n) hi, ih]

theorem qHead_popHeads : qHead (popHead^[n] b) = (qHead b + n) % 2 ^ 32 := by
  induction n with
  | zero => exact (Nat.mod_eq_of_lt (leAt_lt b 0 4)).symm
  | succ n ih => rw [Function.iterate_succ_apply', qHead_popHead (popHeads_room hb n), ih]; omega

theorem qFree_popHeads (hf : qFree b + n < 2 ^ 32) : qFree (popHead^[n] b) = qFree b + n := by
  induction n with
  | zero => rfl
  | succ n ih =>
    have before : qFree (popHead^[n] b) = qFree b + n := ih (by omega)
    rw [Function.iterate_succ_apply', qFree_popHead (popHeads_room hb n) (by omega), before, Nat.add_assoc]

/-- The positions of n elements popped are those from HEAD on. -/
theorem State.popAll_positions (s : State) (r : QRef) (q : Queue) :
    (s.popAll r q n b).2.2.map (fun e => e.1) = (List.range n).map (fun i => (qHead b + i) % 2 ^ 32) := by
  induction n generalizing s b with
  | zero => rfl
  | succ n ih =>
    have first : qHead b = (qHead b + 0) % 2 ^ 32 := (Nat.mod_eq_of_lt (leAt_lt b 0 4)).symm
    have rest (i : Nat) : (qHead (popHead b) + i) % 2 ^ 32 = (qHead b + (i + 1)) % 2 ^ 32 := by
      rw [qHead_popHead hb]; omega
    rw [List.range_succ_eq_map, List.map_cons, List.map_map, ← first]
    refine congrArg (qHead b :: ·) ((ih (b := popHead b) ((popHead_length hb).symm ▸ hb) _).trans ?_)
    simp only [rest, Function.comp_def, Nat.succ_eq_add_one]

end many

/-- The block that a pop of n elements leaves. -/
theorem State.popAll_block (s : State) (r : QRef) (q : Queue) (n : Nat) (b : List Byte) :
    (s.popAll r q n b).2.1 = popHead^[n] b := by
  induction n generalizing s b with
  | zero => rfl
  | succ n ih => exact ih _ _

/-! A position taken (R215, R218). -/

theorem takePos_eq (q : Queue) (b : List Byte) (committed : Bool) : takePos q b committed =
    ((qTail b + qResv b) % 2 ^ 32, { q with commit := (passPrefix (q.commit ++ [committed]) (takeSlot b)).2 },
      (passPrefix (q.commit ++ [committed]) (takeSlot b)).1) := rfl

/-- With nothing reserved, a committed position is passed at once. -/
theorem takePos_passed {q : Queue} (hc : q.commit = []) (b : List Byte) :
    (takePos q b true).2 = (q, passTail (takeSlot b)) := by
  cases q
  subst hc
  rfl

/-- Behind a position that is not committed, or where it is not committed itself, a position is only taken. -/
theorem takePos_kept {q : Queue} {committed : Bool}
    (hc : q.commit = [] ∧ committed = false ∨ ∃ l, q.commit = false :: l) (b : List Byte) :
    (takePos q b committed).2 = ({ q with commit := q.commit ++ [committed] }, takeSlot b) := by
  have head : (q.commit ++ [committed]).head? ≠ some true := by
    rcases hc with ⟨hc, rfl⟩ | ⟨l, hc⟩ <;> simp [hc]
  rw [takePos_eq, passPrefix_of_head head]

section taken
variable {b : List Byte} (hb : 64 ≤ b.length) (q : Queue) (committed : Bool)
include hb

theorem takePos_length : (takePos q b committed).2.2.length = b.length := by
  obtain ⟨n, hn⟩ := exists_passPrefix_eq (q.commit ++ [committed]) (takeSlot b)
  rw [takePos_eq, hn, passTails_length ((takeSlot_length hb).symm ▸ hb), takeSlot_length hb]

/-- HEAD and CAP stay as a position is taken. -/
theorem leAt_takePos {i m : Nat} (hi : i + m ≤ 4 ∨ 8 ≤ i ∧ i + m ≤ 24) :
    leAt (takePos q b committed).2.2 i m = leAt b i m := by
  obtain ⟨n, hn⟩ := exists_passPrefix_eq (q.commit ++ [committed]) (takeSlot b)
  rw [takePos_eq, hn, leAt_passTails ((takeSlot_length hb).symm ▸ hb) n (by omega), leAt_takeSlot hb (by omega)]

theorem qFree_takePos : qFree (takePos q b committed).2.2 = qFree b - 1 := by
  obtain ⟨n, hn⟩ := exists_passPrefix_eq (q.commit ++ [committed]) (takeSlot b)
  rw [takePos_eq, hn, qFree, leAt_passTails ((takeSlot_length hb).symm ▸ hb) n (by omega)]
  exact qFree_takeSlot hb

end taken

theorem Queue.size_of_stream {q : Queue} (h : q.stream = true) : q.size = 128 := if_pos h

theorem Queue.le_size (q : Queue) : 64 ≤ q.size := by
  unfold Queue.size
  split <;> decide

/-- Settles O22: a position taken, passed or popped is one change of the block, and a commit or a pop so many of them. -/
theorem queueAccounts : Obligations.QueueAccounts := by
  unfold Obligations.QueueAccounts
  refine ⟨fun q b hl _ hr committed => ?_, fun n l b hb _ hl => ?_, fun s r q n b hb hf => ?_⟩
  · have hb : 64 ≤ b.length := hl ▸ q.le_size
    have taken : 64 ≤ (takeSlot b).length := (takeSlot_length hb).symm ▸ hb
    refine ⟨rfl, qFree_takePos hb q committed, leAt_takePos hb q committed (by omega),
      leAt_takePos hb q committed (by omega), takePos_length hb q committed, ?_, ?_⟩
    · rintro h0 hc rfl
      simp only [takePos_passed hc]
      refine ⟨trivial, ?_, ?_, ?_, fun hs => ?_⟩
      · rw [qTail_passTail taken, qTail, leAt_takeSlot hb (by omega), qTail]
      · rw [qResv_passTail taken, qResv_takeSlot hb hr, h0]
      · rw [pushes_passTail taken, leAt_takeSlot hb (by omega)]
      · rw [seq_passTail taken (by rw [takeSlot_length hb, hl, Queue.size_of_stream hs]), leAt_takeSlot hb (by omega)]
    · intro hc
      simp only [takePos_kept hc]
      exact ⟨trivial, leAt_takeSlot hb (by omega), qResv_takeSlot hb hr, leAt_takeSlot hb (by omega),
        fun _ => leAt_takeSlot hb (by omega)⟩
  · simp only [passPrefix_committed hl]
    exact ⟨trivial, qTail_passTails hb n, qResv_passTails hb n, pushes_passTails hb n, leAt_passTails hb n (by omega),
      leAt_passTails hb n (by omega), seq_passTails hb n⟩
  · simp only [State.popAll_block]
    exact ⟨qHead_popHeads hb n, qFree_popHeads hb n hf, leAt_popHeads hb n (by omega), leAt_popHeads hb n (by omega),
      leAt_popHeads hb n (by omega), State.popAll_positions hb n s r q⟩

end Sys2Proof.Machine
end

section
/-! SUPPORT. Which party issues stays as a home serves its queue (R207-R219) and as a thread loads and is released (R160, R182,
R216): `cur` names one party for the whole of an instruction. -/

namespace Sys2Proof.Machine

/-! Accesses at a home. -/

theorem State.addRas_cur (s : State) (type struct die part addr : Nat) (info : List Word) :
    (s.addRas type struct die part addr info).cur = s.cur := by
  obtain ⟨_, _, h⟩ := s.addRas_eq type struct die part addr info
  rw [h]

@[simp] theorem State.walkRas_cur (s : State) (ctx va : Nat) : (s.walkRas ctx va).cur = s.cur := by
  fun_cases State.walkRas <;> simp [State.addRas_cur]

@[simp] theorem State.raise_cur (s : State) (ctx : Nat) (a : Asker) (uid : Nat) (r : FRec) :
    (s.raise ctx a uid r).cur = s.cur := by
  unfold State.raise
  dsimp only
  (repeat' split) <;> simp

@[simp] theorem State.redRecord_cur (s : State) (r : Red) (code : Nat) : (s.redRecord r code).cur = s.cur := by
  simp [State.redRecord]

theorem State.makeResident_cur {s u : State} {ctx va : Nat} (hu : s.makeResident ctx va = some u) : u.cur = s.cur := by
  grind [State.makeResident, State.setPart_cur, State.zeroFrame]

@[simp] theorem State.resident_cur (s : State) (ctx va n : Nat) : (s.resident ctx va n).cur = s.cur :=
  foldl_field State.cur (fun u a => by
    cases h : u.makeResident ctx a with
    | none => rfl
    | some v => exact State.makeResident_cur h) _ s

@[simp] theorem State.writeChunks_cur (s : State) (a : Asker) (ctx : Nat) (before : Option (Nat × Nat))
    (cs : List (Chunk × Nat)) (bs : List Byte) : (s.writeChunks a ctx before cs bs).cur = s.cur := by
  fun_induction State.writeChunks with
  | case1 => rfl
  | case2 s before c pa t bs u ih => exact ih.trans (s.writeTouch_cur a ctx c.va pa before)

theorem State.readBytes_cur {s : State} {a : Asker} {ctx va n : Nat} {x : List Byte × State}
    (hx : s.readBytes a ctx va n = .ok x) : x.2.cur = s.cur := by
  unfold State.readBytes at hx
  split at hx
  · cases hx
  · cases hx
  · next ps _ =>
    split at hx
    · cases hx
    · cases hx
      exact foldl_field State.cur (fun u p => (u.touches_loaded a ctx p.1.va _ p.2).cur) ps s

/-! A thread's own reductions, its loads and its release. -/

@[simp] theorem State.dropRed_cur (s : State) (r : Red) : (s.dropRed r).cur = s.cur := by
  fun_cases State.dropRed <;> simp

theorem State.performRed_cur {s u : State} {r : Red} (hu : s.performRed r = some u) : u.cur = s.cur := by
  grind [State.performRed, State.redRecord_cur, State.writeTouch_cur]

@[simp] theorem State.performAll_cur (s : State) (rs : List Red) : (s.performAll rs).1.cur = s.cur := by
  fun_induction State.performAll with
  | case1 => rfl
  | case2 s r t u hu ih => rw [ih, State.performRed_cur hu, State.dropRed_cur]
  | case3 s r t hu ih => exact ih

theorem State.release_cur {s u : State} {uid : Nat} {done : Bool} (h : s.release uid = (u, done)) : u.cur = s.cur := by
  have left : (s.performAll (s.postedBy uid)).1 = u := congrArg Prod.fst h
  rw [← left, State.performAll_cur]

theorem State.bufferLoad_cur {s u : State} {tid : Nat} {t : Thread} {a : Word} {n : Nat} {bs : List Byte}
    (h : s.bufferLoad tid t a n = .ok (bs, u)) : u.cur = s.cur := by
  have own {v : State} {va : Nat} (hv : s.ownFirst tid t va n = some v) : v.cur = s.cur := by
    grind [State.ownFirst, State.performAll_cur]
  grind [State.bufferLoad, State.loadT, → State.readBytes_cur]

/-! A home's queue. -/

@[simp] theorem State.putQueue_cur (s : State) (r : QRef) (q : Queue) : (s.putQueue r q).cur = s.cur := by
  fun_cases State.putQueue <;> simp

@[simp] theorem State.putQcb_cur (s : State) (r : QRef) (bs : List Byte) : (s.putQcb r bs).cur = s.cur := by
  fun_cases State.putQcb <;> simp

@[simp] theorem State.touchQcb_cur (s : State) (r : QRef) (q : Queue) (a : Asker) : (s.touchQcb r q a).cur = s.cur := by
  fun_cases State.touchQcb <;> simp

@[simp] theorem State.store_cur (s : State) (r : QRef) (q : Queue) (b : List Byte) : (s.store r q b).cur = s.cur := by
  simp [State.store]

@[simp] theorem State.resettle_cur (s : State) (r : QRef) (q : Queue) : (s.resettle r q).cur = s.cur := by
  unfold State.resettle State.addChore
  split <;> rfl

@[simp] theorem State.unbind_cur (s : State) (r : QRef) : (s.unbind r).cur = s.cur := by
  have unpinned : (s.unpin r).cur = s.cur := by fun_cases State.unpin <;> simp
  cases r with
  | global pa => exact unpinned
  | scratch ck off =>
    simp only [State.unbind]
    split <;> exact unpinned

@[simp] theorem State.slotReady_cur (s : State) (r : QRef) (q : Queue) (b : List Byte) (p : Nat) :
    (s.slotReady r q b p).1.cur = s.cur := by
  cases r with
  | global pa => exact s.resident_cur _ _ _
  | scratch ck off => rfl

@[simp] theorem State.writeSlot_cur (s : State) (r : QRef) (q : Queue) (b : List Byte) (p : Nat) (e : List Byte) :
    (s.writeSlot r q b p e).cur = s.cur := by
  fun_cases State.writeSlot <;> simp

@[simp] theorem State.readSlot_cur (s : State) (r : QRef) (q : Queue) (b : List Byte) (p : Nat) :
    (s.readSlot r q b p).2.2.cur = s.cur := by
  fun_cases State.readSlot with
  | case1 pa => exact foldl_field State.cur (fun _ _ => State.readTouch_cur _ _ _ _ _ _) _ s
  | case2 => rfl
  | case3 => rfl

@[simp] theorem State.pushAll_cur (s : State) (r : QRef) (q : Queue) (b : List Byte) (es : List (List Byte)) :
    (s.pushAll r q b es).1.cur = s.cur := by
  fun_induction State.pushAll with
  | case1 => rfl
  | case2 s q b e t p u x y ih => rw [ih, State.writeSlot_cur, State.slotReady_cur]

@[simp] theorem State.popAll_cur (s : State) (r : QRef) (q : Queue) (n : Nat) (b : List Byte) :
    (s.popAll r q n b).1.cur = s.cur := by
  fun_induction State.popAll with
  | case1 => rfl
  | case2 s n b p e b1 b2 y ih => rw [ih, State.readSlot_cur, State.slotReady_cur]

@[simp] theorem State.wake_cur (s : State) (w : Waiter) (ps : List Nat) (elems : List (List Byte)) (poison : Bool)
    (stamp : Nat) : (s.wake w ps elems poison stamp).cur = s.cur := by
  have scalar (tid : Nat) (d : BitVec 6) (v : Word) : (s.wakeScalar tid d v stamp).cur = s.cur := by
    fun_cases State.wakeScalar <;> simp
  fun_cases State.wake <;> simp [scalar]

@[simp] theorem State.servePush_cur (s : State) (r : QRef) (q : Queue) (b : List Byte) (w : Waiter) (ws : List Waiter) :
    (s.servePush r q b w ws).cur = s.cur := by
  unfold State.servePush
  dsimp only
  split <;> simp

@[simp] theorem State.servePop_cur (s : State) (r : QRef) (q : Queue) (b : List Byte) (w : Waiter) (ws : List Waiter) :
    (s.servePop r q b w ws).cur = s.cur := by
  simp [State.servePop]

@[simp] theorem State.serve_cur (r : QRef) (fuel : Nat) (s : State) : (State.serve r fuel s).cur = s.cur := by
  fun_induction State.serve <;> grind [State.servePush_cur, State.servePop_cur]

@[simp] theorem State.drainDone_cur (s : State) (r : QRef) : (s.drainDone r).cur = s.cur := by
  unfold State.drainDone
  split
  · rfl
  · dsimp only
    split
    · rw [foldl_field State.cur (fun u tid => by split <;> rfl), State.unbind_cur]
    · rfl

@[simp] theorem State.settle_cur (s : State) (r : QRef) : (s.settle r).cur = s.cur := by
  grind [State.settle, State.serve_cur, State.resettle_cur, State.drainDone_cur]

end Sys2Proof.Machine
end

section
/-! SUPPORT. Pushes, pops and peeks of a thread (R211, R215-R217, R221): what a home answers of an intact queue, the way an
instruction takes to its home, and what it does with each answer. -/

namespace Sys2Proof.Machine

/-! The answers of a home that holds an intact queue (R214-R218). -/

section intact
variable {s : State} {r : QRef} {q : Queue} (hq : s.queueAt r = some q) (hc : s.causes r q = 0) (a : Asker)
include hq hc

/-- An intact queue passes its check. -/
theorem State.guarded_intact (k : State → Queue → List Byte → HomeOut) :
    s.guarded r a k = k (s.touchQcb r q a) q ((s.touchQcb r q a).qcbBytes r q.size) := by
  simp [State.guarded, hq, hc]

section touched
variable {a} {v : State} {k : List Byte} (hv : v = s.touchQcb r q a) (hk : k = v.qcbBytes r q.size)
include hv hk

theorem State.homePush_one (e : List Byte) (ho : qClosed k = false) (hp : q.pushers = []) (hf : canPush k 1 = true)
    (hr : v.slotsReady r q k (qTail k + qResv k) 1 = true) :
    (s.homePush r a [e]).ans = .many [(qTail k + qResv k) % 2 ^ 32] [] false := by
  subst hv hk
  rw [State.homePush, State.guarded_intact hq hc]
  simp [ho, hp, hf, hr, State.pushAll]

theorem State.homePop_one (hl : 1 ≤ qLen k) (hp : q.poppers = [] ∨ qClosed k = true)
    (hr : v.slotsReady r q k (qHead k) 1 = true) :
    let e := (v.slotReady r q k (qHead k)).1.readSlot r q k (qHead k)
    (s.homePop r a 1).ans = .many [qHead k] [e.1] e.2.1 := by
  subst hv hk
  rw [State.homePop, State.guarded_intact hq hc]
  rcases hp with hp | hp <;> simp [hp, hr, Nat.min_eq_left hl, Nat.not_lt.mpr hl, State.popAll]

theorem State.homePeek_one (hl : 1 ≤ qLen k) (hr : v.slotsReady r q k (qHead k) 1 = true) :
    let e := (v.slotReady r q k (qHead k)).1.readSlot r q k (qHead k)
    (s.homePeek r a).ans = .popped (qHead k) e.1 e.2.1 := by
  subst hv hk
  have ready := List.all_eq_true.mp hr _ List.mem_cons_self
  rw [State.homePeek, State.guarded_intact hq hc]
  simp [ready, Nat.ne_of_gt hl]

end touched

end intact

/-! On the way to the home (R160, R208, R221). -/

theorem Names.withQueue {s : State} {t : Thread} {a : Word} {r : QRef} {q : Queue} (h : Names s t a r q) (p : Party)
    (k : QRef → List Byte → Out) : withQueue s s.cur.tid t p a k = k r (s.qcbBytes r q.size) := by
  simp [Machine.withQueue, h.ref, h.admits, h.bound]

theorem Takes.atHome {s : State} {r : QRef} {push : Bool} {n tid : Nat} (h : Takes s r push n) (hc : s.cur.tid = tid)
    (t : Thread) (p : Party) (kept : Option (List Byte)) (k : State → Out) : atHome s tid t p r push n kept k = k s := by
  subst hc
  simp [Machine.atHome, h.port, h.free]

theorem homeDone_corrupt {h : HomeOut} {m : Nat} (ha : h.ans = .corrupt m) (tid : Nat) (t : Thread) (p : Party) (a : Word)
    (k : State → QAns → Out) :
    homeDone h tid t p a k = .next ((h.s.applyEnds h.ended).fault tid (partyF t p 0x08 a (word m))) := by
  simp [homeDone, ha, faultOut]

theorem homeDone_of {h : HomeOut} {x : QAns} (ha : h.ans = x) (hx : ∀ m, x ≠ .corrupt m) (hy : x ≠ .unmapped) (tid : Nat)
    (t : Thread) (p : Party) (a : Word) (k : State → QAns → Out) :
    homeDone h tid t p a k = k (h.s.applyEnds h.ended) x := by
  subst ha
  unfold homeDone
  dsimp only
  split
  · next e => exact absurd e (hx _)
  · next e => exact absurd e hy
  · rfl

theorem queueDone_of {u : State} {tid : Nat} {t : Thread} (h : look u.threads tid = some t) (he : t.ended = false)
    (d : BitVec 6) (v : Word) : queueDone u tid d v = .next (u.setThread tid (((t.setS d v).dirty).step4)) :=
  congrArg Host.Outcome.next (State.onLive_of h he _)

/-! Pushes (R215-R217, R221). -/

/-- What a push does with its home's answer. -/
def pushDone (tid : Nat) (t : Thread) (r : QRef) (d : BitVec 6) (q : Word) (bs : List Byte) (blocks : Bool) (s : State)
    (ans : QAns) : Out :=
  match ans with
  | .many (p :: _) _ _ => queueDone s tid d (word p)
  | .closed => if blocks then faultOut s tid (scalarF t 0x0A q 0) else .next (s.finish tid d wMinus1)
  | _ => if blocks then queueWait s tid r true .scalar (.push d bs) else .next (s.finish tid d wMinus2)

/-- The element of a push as it stands before its release: loaded earlier, or now (R221). -/
def ElementLoaded (s s1 : State) (t : Thread) (e : Word) (n : Nat) (bs : List Byte) : Prop :=
  (t.wait = some (.loaded bs) ∧ s1 = s)
    ∨ ((∀ e, t.wait ≠ some (.loaded e)) ∧ s.bufferCheck t e n .read = none
      ∧ s.bufferLoad s.cur.tid t e n = .ok (bs, s1))

theorem ElementLoaded.cur {s s1 : State} {t : Thread} {e : Word} {n : Nat} {bs : List Byte}
    (h : ElementLoaded s s1 t e n bs) : s1.cur = s.cur := by
  rcases h with ⟨-, rfl⟩ | ⟨-, -, hl⟩
  · rfl
  · exact State.bufferLoad_cur hl

/-- A push that has loaded its element and been released asks the home. -/
theorem pushOp_asks {s s1 s2 : State} {t : Thread} {a b : BitVec 6} {r : QRef} {q : Queue} {bs : List Byte}
    (hi : Issues s t) (hn : Names s t (t.S a) r q)
    (hl : ElementLoaded s s1 t (t.S b) (qEsize (s.qcbBytes r q.size)) bs) (hr : s1.release t.uid = (s2, true))
    (ht : Takes s2 r true 1) (d : BitVec 6) (blocks : Bool) :
    pushOp s d a b blocks = homeDone (s2.homePush r (.core (coreOf s.cur.tid)) [bs]) s.cur.tid t .scalar (t.S a)
      (pushDone s.cur.tid t r d (t.S a) bs blocks) := by
  have cur : s2.cur.tid = s.cur.tid := by rw [State.release_cur hr, hl.cur]
  rcases hl with ⟨hw, rfl⟩ | ⟨hw, hcheck, hload⟩
  · simp only [pushOp, onThread_of hi, hn.here, hn.withQueue, hw, hr, if_true, ht.atHome cur]
    rfl
  · simp only [pushOp, onThread_of hi, hn.here, hn.withQueue, hcheck, hload, accOut, hr, if_true, ht.atHome cur]
    rfl

/-- Settles O23: a push asks its home, and does with each answer as the statement says. -/
theorem queuePushes : Obligations.QueuePushes := by
  intro s s1 s2 t t' d a b r q bs hi hn hl hr ht h u v k hu he
  have qpush : exec (.queueQpush d a b) s = _ := pushOp_asks hi hn hl hr ht d true
  have qtrypush : exec (.queueQtrypush d a b) s = _ := pushOp_asks hi hn hl hr ht d false
  refine ⟨fun hq hc ho hp hf hr => State.homePush_one hq hc rfl rfl bs ho hp hf hr, ?_, ?_, ?_, ?_⟩
  · intro p ps es z ha
    rw [homeDone_of ha nofun nofun] at qpush qtrypush
    exact ⟨qpush.trans (queueDone_of hu he d _), qtrypush.trans (queueDone_of hu he d _)⟩
  · intro m ha
    rw [homeDone_corrupt ha] at qpush qtrypush
    exact ⟨qpush, qtrypush⟩
  · intro ha
    rw [homeDone_of ha nofun nofun] at qpush qtrypush
    exact ⟨qpush, qtrypush.trans (congrArg Host.Outcome.next (State.finish_of hu he d _))⟩
  · intro ha
    rw [homeDone_of ha nofun nofun] at qpush qtrypush
    exact ⟨qpush, qtrypush.trans (congrArg Host.Outcome.next (State.finish_of hu he d _))⟩

/-! Pops (R215-R217, R221). -/

theorem storePopped_of {s s2 : State} {tid : Nat} {t t' : Thread} {e : Word} {x : List Byte}
    (hs : s.bufferStore tid t e x = .ok s2) (hl : look s2.threads tid = some t') (he : t'.ended = false) (d : BitVec 6)
    (p : Word) : storePopped s tid t d e p x false = .next (s2.setThread tid (((t'.setS d p).dirty).step4)) := by
  simp [storePopped, hs, queueDone_of hl he]

/-- What a pop does with its home's answer. -/
def popDone (tid : Nat) (t : Thread) (r : QRef) (d : BitVec 6) (e : Word) (blocks : Bool) (s : State) (ans : QAns) : Out :=
  match ans with
  | .many (p :: _) (x :: _) poison => storePopped s tid t d e (word p) x poison
  | .closed => if blocks then queueDone s tid d wMinus1 else .next (s.finish tid d wMinus1)
  | _ => if blocks then queueWait s tid r false .scalar (.pop d e) else .next (s.finish tid d wMinus2)

/-- What a peek does with its home's answer. -/
def peekDone (tid : Nat) (t : Thread) (d : BitVec 6) (e : Word) (s : State) (ans : QAns) : Out :=
  match ans with
  | .popped p x poison =>
    if poison then faultOut s tid (scalarF t 0x07 e 0)
    else accOut s tid t .scalar e x.length (s.bufferStore tid t e x) (fun s => queueDone s tid d (word p))
  | .closed => .next (s.finish tid d wMinus1)
  | _ => .next (s.finish tid d wMinus2)

theorem peekDone_popped {s s2 : State} {tid : Nat} {t t' : Thread} {e : Word} {x : List Byte}
    (hs : s.bufferStore tid t e x = .ok s2) (hl : look s2.threads tid = some t') (he : t'.ended = false) (d : BitVec 6)
    (p : Nat) :
    peekDone tid t d e s (.popped p x false) = .next (s2.setThread tid (((t'.setS d (word p)).dirty).step4)) := by
  simp [peekDone, accOut, hs, queueDone_of hl he]

/-- A pop that a home has given an element while it waited stores it. -/
theorem popOp_delivered {s : State} {t : Thread} (hi : Issues s t) {d' : BitVec 6} {e p : Word} {x : List Byte}
    {poison : Bool} (hw : t.wait = some (.deliver d' e p x poison)) (d a b : BitVec 6) (blocks : Bool) :
    popOp s d a b blocks = storePopped s s.cur.tid t d' e p x poison := by
  simp only [popOp, onThread_of hi, hw]

section asks
variable {s : State} {t : Thread} {a b : BitVec 6} {r : QRef} {q : Queue} (hi : Issues s t) (hn : Names s t (t.S a) r q)
  (ht : Takes s r false 1) (he : s.engineOnly r = false)
  (hc : s.bufferCheck t (t.S b) (qEsize (s.qcbBytes r q.size)) .write = none)
  (hf : s.bufferFree t (t.S b) (qEsize (s.qcbBytes r q.size)) = .ok ())
include hi hn ht he hc hf

theorem popOp_asks (hw : ∀ d' e p x z, t.wait ≠ some (.deliver d' e p x z)) (d : BitVec 6) (blocks : Bool) :
    popOp s d a b blocks = homeDone (s.homePop r (.core (coreOf s.cur.tid)) 1) s.cur.tid t .scalar (t.S a)
      (popDone s.cur.tid t r d (t.S b) blocks) := by
  simp only [popOp, onThread_of hi, hn.withQueue, he, hc, hf, accOut, ht.atHome rfl, Bool.false_eq_true, if_false]
  rfl

theorem queueQpeek_asks (d : BitVec 6) : exec (.queueQpeek d a b) s =
    homeDone (s.homePeek r (.core (coreOf s.cur.tid))) s.cur.tid t .scalar (t.S a) (peekDone s.cur.tid t d (t.S b)) := by
  show execQueueQpeek d a b s = _
  simp only [execQueueQpeek, onThread_of hi, hn.withQueue, he, hc, hf, accOut, ht.atHome rfl, Bool.false_eq_true, if_false]
  rfl

end asks

/-- Settles O24: a pop that was given its element stores it, and any other asks its home and does with each answer as the
statement says. -/
theorem queuePops : Obligations.QueuePops := by
  intro s s2 t t' d a b r q hi
  refine ⟨fun d' e' p x hw hs hl he => ?_, ?_⟩
  · exact (popOp_delivered hi hw d a b true).trans (storePopped_of hs hl he d' p)
  · intro hw hn ht he hc hf h k u v z blk
    have qpop : exec (.queueQpop d a b) s = _ := popOp_asks hi hn ht he hc hf hw d true
    have qtrypop : exec (.queueQtrypop d a b) s = _ := popOp_asks hi hn ht he hc hf hw d false
    have qpeek := queueQpeek_asks hi hn ht he hc hf d
    refine ⟨?_, ?_, ?_, ?_, ?_⟩
    · intro intact hl hp hr
      exact ⟨State.homePop_one hn.bound intact rfl rfl hl hp hr, State.homePeek_one hn.bound intact rfl rfl hl hr⟩
    · intro p ps x xs ha hs hl ht'
      rw [homeDone_of ha nofun nofun] at qpop qtrypop
      exact ⟨qpop.trans (storePopped_of hs hl ht' d _), qtrypop.trans (storePopped_of hs hl ht' d _)⟩
    · intro p x ha hs hl ht'
      rw [homeDone_of ha nofun nofun] at qpeek
      exact qpeek.trans (peekDone_popped hs hl ht' d p)
    · intro ha hl ht'
      rw [homeDone_of ha nofun nofun] at qpop qtrypop
      exact ⟨qpop.trans (queueDone_of hl ht' d _),
        qtrypop.trans (congrArg Host.Outcome.next (State.finish_of hl ht' d _))⟩
    · intro ha hl ht'
      rw [homeDone_of ha nofun nofun] at qpop qtrypop
      exact ⟨qpop, qtrypop.trans (congrArg Host.Outcome.next (State.finish_of hl ht' d _))⟩

end Sys2Proof.Machine
end

section
/-! SUPPORT. The other queue instructions of a thread (R212, R214, R218-R220): bind, length, check, reserve, commit, close and
drain. -/

namespace Sys2Proof.Machine

@[simp] theorem State.touchQcb_threads (s : State) (r : QRef) (q : Queue) (a : Asker) :
    (s.touchQcb r q a).threads = s.threads := by
  fun_cases State.touchQcb <;> simp

theorem State.qcbBytes_touchQcb (s : State) (r : QRef) (q : Queue) (a : Asker) (r' : QRef) (n : Nat) :
    (s.touchQcb r q a).qcbBytes r' n = s.qcbBytes r' n := by
  have cohorts : (s.touchQcb r q a).cohorts = s.cohorts := by fun_cases State.touchQcb <;> simp
  cases r' <;> simp [State.qcbBytes, cohorts]

/-! The answers of a home that holds an intact queue. -/

section intact
variable {s : State} {r : QRef} {q : Queue} (hq : s.queueAt r = some q) (hc : s.causes r q = 0) (a : Asker)
include hq hc

theorem State.homeLen_intact (n : Nat) :
    s.homeLen r a n = ⟨s.touchQcb r q a, [], .pos (qSelect (s.qcbBytes r q.size) n)⟩ := by
  rw [State.homeLen, State.guarded_intact hq hc, State.qcbBytes_touchQcb]

/-- A reservation ends no waiter. -/
theorem State.homeReserve_ended : (s.homeReserve r a).ended = [] := by
  rw [State.homeReserve, State.guarded_intact hq hc]
  dsimp only
  (repeat' split) <;> rfl

theorem State.homeClose_ans (drain : Bool) : (s.homeClose r a drain).ans = .pos 0 := by
  rw [State.homeClose, State.guarded_intact hq hc]

section touched
variable {a} {k : List Byte} (hk : k = (s.touchQcb r q a).qcbBytes r q.size)
include hk

theorem State.homeReserve_room (ho : qClosed k = false) (hp : q.pushers = []) (hf : canPush k 1 = true) :
    (s.homeReserve r a).ans = .pos ((qTail k + qResv k) % 2 ^ 32) := by
  subst hk
  rw [State.homeReserve, State.guarded_intact hq hc]
  simp [ho, hp, hf, takePos]

/-- A commit answers by whether its position is reserved and not committed. -/
theorem State.homeCommit_ans (p : Word) {i : Nat} (hi : i = posSub p.toNat (qTail k)) : (s.homeCommit r a p).ans =
    if p.toNat < 2 ^ 32 ∧ i < qResv k ∧ nth q.commit i true = false then .pos i else .badPos := by
  subst hk hi
  rw [State.homeCommit, State.guarded_intact hq hc]
  dsimp only
  split <;> rfl

end touched

end intact

/-! Each instruction. -/

section control
variable {s : State} {t : Thread} {a : BitVec 6} {r : QRef} (hi : Issues s t)

section named
variable {q : Queue} (hn : Names s t (t.S a) r q)
include hi hn

section takes
variable (ht : Takes s r true 0) (hc : s.causes r q = 0)
include ht hc

theorem queueQlen_becomes (d : BitVec 6) {n : BitVec 6} (h3 : n.toNat ≤ 3) :
    BecomesOn s (s.touchQcb r q (.core (coreOf s.cur.tid))) (.queueQlen d a n)
      ((t.setS d (word (qSelect (s.qcbBytes r q.size) n.toNat))).step4) := by
  obtain ⟨hl, he⟩ := issuer_eq_some.mp hi
  have live : look (s.touchQcb r q (.core (coreOf s.cur.tid))).threads s.cur.tid = some t := by simpa using hl
  show execQueueQlen d a n s = _
  simp only [execQueueQlen, onThread_of hi, Nat.not_lt.mpr h3, if_false, hn.here, hn.withQueue, ht.atHome rfl,
    State.homeLen_intact hn.bound hc, homeDone, State.applyEnds, List.foldl_nil, State.finish_of live he]

theorem queueQcheck_intact (d : BitVec 6) : GivesS s t (.queueQcheck d a) d 0 := by
  obtain ⟨hl, he⟩ := issuer_eq_some.mp hi
  show execQueueQcheck d a s = _
  simp only [execQueueQcheck, onThread_of hi, hn.ref, hn.bound, ht.atHome rfl, hc, if_true, State.finish_of hl he]

/-- What a reservation does with its home's answer. -/
def reserveDone (tid : Nat) (t : Thread) (r : QRef) (bind : Nat) (d : BitVec 6) (q : Word) (s : State) (ans : QAns) : Out :=
  match ans with
  | .pos p => .next (s.onLive tid (fun t =>
      { (t.setS d (word p)).dirty.step4 with reserved := t.reserved ++ [(r.key, bind, p)] }))
  | .closed => faultOut s tid (scalarF t 0x0A q 0)
  | _ => queueWait s tid r true .scalar (.reserve d)

omit hc in
theorem queueQres_asks (d : BitVec 6) : exec (.queueQres d a) s =
    homeDone (s.homeReserve r (.core (coreOf s.cur.tid))) s.cur.tid t .scalar (t.S a)
      (reserveDone s.cur.tid t r q.bind d (t.S a)) := by
  show execQueueQres d a s = _
  simp only [execQueueQres, onThread_of hi, hn.withQueue, hn.bound, ht.atHome rfl]
  rfl

theorem queueQclose_closes : exec (.queueQclose a) s =
    (let h := s.homeClose r (.core (coreOf s.cur.tid)) false
    .next ((h.s.applyEnds h.ended).onLive s.cur.tid (fun t => t.dirty.step4))) := by
  show execQueueQclose a s = _
  simp only [execQueueQclose, onThread_of hi, hn.withQueue, ht.atHome rfl,
    homeDone_of (State.homeClose_ans hn.bound hc _ _) nofun nofun]

theorem queueQdrain_drains : exec (.queueQdrain a) s =
    (let h := s.homeClose r (.core (coreOf s.cur.tid)) true
    .next (((h.s.applyEnds h.ended).onLive s.cur.tid (fun t => t.dirty.block .scalar (drainWait r))).drainDone r)) := by
  show execQueueQdrain a s = _
  simp only [execQueueQdrain, onThread_of hi, hn.withQueue, ht.atHome rfl,
    homeDone_of (State.homeClose_ans hn.bound hc _ _) nofun nofun]

end takes

/-- What a commit does with its home's answer. -/
def commitDone (tid : Nat) (t : Thread) (r : QRef) (p : Word) (s : State) (ans : QAns) : Out :=
  match ans with
  | .badPos => faultOut s tid (scalarF t 0x0D 0 0)
  | _ => .next ((s.unreserve r.key p.toNat).onLive tid (fun t => t.dirty.step4))

/-- A commit that has been released asks the home. -/
theorem queueQcom_asks {s2 : State} (hr : s.release t.uid = (s2, true)) (ht : Takes s2 r true 0) (b : BitVec 6) :
    exec (.queueQcom a b) s = homeDone (s2.homeCommit r (.core (coreOf s.cur.tid)) (t.S b)) s.cur.tid t .scalar (t.S a)
      (commitDone s.cur.tid t r (t.S b)) := by
  have cur : s2.cur.tid = s.cur.tid := by rw [State.release_cur hr]
  show execQueueQcom a b s = _
  simp only [execQueueQcom, onThread_of hi, hn.withQueue, hr, Bool.not_true, Bool.false_eq_true, if_false, ht.atHome cur]
  rfl

end named

include hi

theorem queueQcheck_unbound (d : BitVec 6) (hr : s.queueRef t (t.S a) 64 = .inr r) (hq : s.queueAt r = none) :
    BecomesOn s s (.queueQcheck d a) (((t.setS d 0x100).dirty).step4) := by
  obtain ⟨hl, he⟩ := issuer_eq_some.mp hi
  show execQueueQcheck d a s = _
  simp only [execQueueQcheck, onThread_of hi, hr, hq, queueDone_of hl he]

/-- The queue that a thread of a core asks to bind (R212). -/
def Thread.newQueue (t : Thread) (core : Nat) (va : Word) (stream : Bool) : Queue :=
  { stream, va, ctx := t.ctx, core, uid := t.uid, bind := 0, commit := [], pushers := [], poppers := [], frozen := none }

/-- A block that meets the requirements is bound (R212). -/
theorem queueQinit_binds {s1 : State} {n : BitVec 6} {size : Nat} (hs : size = if n = 1 then 128 else 64)
    (h1 : n.toNat ≤ 1) (ha : n = 1 → (t.S a).toNat % 128 = 0) (hr : s.queueRef t (t.S a) size = .inr r)
    (hg : ∀ pa, r = .global pa → s.hitsQcb pa size = false)
    (hk : ∀ ck off, r = .scratch ck off → ∀ c, look s.cohorts ck = some c → c.hitsQcb off size = false)
    (ho : s.ringOwned r t.ctx (blockAddr r (t.newQueue (coreOf s.cur.tid) (t.S a) (n == 1))) size = false)
    (hp : s.portHeld (coreOf s.cur.tid) = false)
    (hb : s.homeBind r (t.newQueue (coreOf s.cur.tid) (t.S a) (n == 1)) (.core (coreOf s.cur.tid)) = (0, s1)) :
    exec (.queueQinit a n) s = .next (s1.onLive s.cur.tid (fun t => t.dirty.step4)) := by
  have aligned : ¬ ((n == 1) = true ∧ (t.S a).toNat % 128 ≠ 0) := fun h => h.2 (ha (beq_iff_eq.mp h.1))
  have bytes : (if (n == 1) = true then 128 else 64) = size := by simp [hs]
  have free : (s.ringWaits r t.ctx (blockAddr r (t.newQueue (coreOf s.cur.tid) (t.S a) (n == 1))) size).isEmpty = true := by
    simpa [State.ringOwned] using ho
  rw [Thread.newQueue] at hb free
  show execQueueQinit a n s = _
  simp only [execQueueQinit, onThread_of hi, Nat.not_lt.mpr h1, aligned, bytes, hr, if_false, hp, free, hb]
  cases r with
  | global pa => simp [hg]
  | scratch ck off =>
    have clear : (look s.cohorts ck).elim false (fun c => c.hitsQcb off size) = false := by
      cases hc : look s.cohorts ck with
      | none => rfl
      | some c => exact hk ck off rfl c hc
    simp [clear]

end control

/-! A drained queue (R219). -/

/-- A thread whose drain has ended goes on. -/
def State.goOn (s : State) (tid : Nat) : State :=
  match look s.threads tid with
  | some t => s.setThread tid t.step4
  | none => s

/-- Each of some threads, none named twice, goes on once. -/
theorem State.look_goOn {tid : Nat} (tids : List Nat) (hd : tids.Nodup) {s : State} {t : Thread}
    (ht : look s.threads tid = some t) :
    look (tids.foldl State.goOn s).threads tid = some (if tid ∈ tids then t.step4 else t) := by
  induction tids generalizing s t with
  | nil => simpa using ht
  | cons x xs ih =>
    obtain ⟨hx, rest⟩ := List.nodup_cons.mp hd
    rw [List.foldl_cons]
    by_cases e : tid = x
    · subst e
      have gone : look (s.goOn tid).threads tid = some t.step4 := by simp [State.goOn, ht, look_put]
      rw [ih rest gone, if_neg hx, if_pos List.mem_cons_self]
    · have kept : look (s.goOn x).threads tid = some t := by
        unfold State.goOn
        split
        · rw [State.setThread_threads, look_put_ne _ _ e, ht]
        · exact ht
      rw [ih rest kept]
      simp [e]

/-- A list of threads in order names no drainer twice. -/
theorem State.drainers_nodup {s : State} (hs : sorted s.threads = true) (r : QRef) : (s.drainers r).Nodup := by
  refine List.Pairwise.filterMap _ (fun p p' hlt a ha b hb => ?_) ((sorted_iff _).mp hs)
  have key {p : Nat × Thread} {c : Nat} (h : c ∈ if drainsHere r p.2.wait then some p.1 else none) : c = p.1 := by
    split at h
    · exact (Option.some.inj h).symm
    · cases h
  rw [key ha, key hb]
  exact Nat.ne_of_lt hlt

theorem State.mem_drainers {s : State} {pa tid : Nat} {t : Thread} (ht : look s.threads tid = some t)
    (hw : t.wait = some (.drain pa none)) : tid ∈ s.drainers (.global pa) :=
  List.mem_filterMap.mpr ⟨(tid, t), mem_of_look ht, by simp [drainsHere, hw]⟩

/-- Whether a queue is draining, empty, with nothing reserved, no waiter and no freeze (R219). -/
def drained (q : Queue) (b : List Byte) : Bool :=
  qDraining b && qLen b == 0 && qResv b == 0 && q.pushers.isEmpty && q.poppers.isEmpty && q.frozen == none

section drain
variable {s : State} {r : QRef} {q : Queue} (hq : s.queueAt r = some q)
include hq

theorem State.drainDone_kept (hd : drained q (s.qcbBytes r 64) = false) : s.drainDone r = s := by
  simp only [State.drainDone, hq]
  exact if_neg (Bool.eq_false_iff.mp hd)

theorem State.drainDone_unbinds (hd : drained q (s.qcbBytes r 64) = true) :
    s.drainDone r = (s.drainers r).foldl State.goOn (s.unbind r) := by
  simp only [State.drainDone, hq]
  exact if_pos hd

end drain

theorem State.foldl_goOn_queues (tids : List Nat) (s : State) : (tids.foldl State.goOn s).queues = s.queues :=
  foldl_field State.queues (fun s tid => by unfold State.goOn; split <;> rfl) tids s

section unbind
variable (s : State) (r : QRef) (pa : Nat)

theorem State.unpin_threads : (s.unpin r).threads = s.threads := by
  fun_cases State.unpin <;> rfl

theorem State.unpin_queues : (s.unpin r).queues = s.queues := by
  fun_cases State.unpin <;> rfl

theorem State.unbind_threads : (s.unbind (.global pa)).threads = s.threads := s.unpin_threads (.global pa)

theorem State.unbind_queues : (s.unbind (.global pa)).queues = del s.queues pa :=
  congrArg (del · pa) (s.unpin_queues (.global pa))

end unbind

/-- What `queue.qlen` reads by its selector (R220). -/
theorem qSelect_of_le {n : BitVec 6} (h : n.toNat ≤ 3) (b : List Byte) : qSelect b n.toNat =
    if n = 0 then (qTail b + 2 ^ 32 - qHead b % 2 ^ 32) % 2 ^ 32
    else if n = 1 then qFree b else if n = 2 then qResv b else qCap b := by
  have values : n = 0 ∨ n = 1 ∨ n = 2 ∨ n = 3 := by bv_omega
  rcases values with rfl | rfl | rfl | rfl <;> rfl

/-- Settles O25: each instruction by its own rule above; a drained queue unbinds and its drains go on, each thread once. -/
theorem queueControl : Obligations.QueueControl := by
  refine ⟨?_, ?_⟩
  · intro s t hi d a b n r q core tid
    refine ⟨?_, ?_, queueQcheck_unbound hi d⟩
    · intro s1 h1 ha hr hg hk ho hp hb
      refine queueQinit_binds hi rfl h1 ha hr hg hk ?_ hp hb
      cases r <;> exact ho
    · intro hn ht hc b64
      refine ⟨fun h3 => ?_, queueQcheck_intact hi hn ht hc d, ?_, ?_, queueQclose_closes hi hn ht hc,
        queueQdrain_drains hi hn ht hc⟩
      · rw [← qSelect_of_le h3]
        exact queueQlen_becomes hi hn ht hc d h3
      · have asks := queueQres_asks hi hn ht d
        have none := State.homeReserve_ended hn.bound hc (.core (coreOf s.cur.tid))
        refine ⟨State.homeReserve_room hn.bound hc rfl, fun p ha => ?_, fun ha => ?_⟩
        · rw [homeDone_of ha nofun nofun, none] at asks
          exact asks
        · rw [homeDone_of ha nofun nofun, none] at asks
          exact asks
      · intro s2 hr ht2 h u k i
        have asks := queueQcom_asks hi hn hr ht2 b
        refine ⟨fun hq hc2 => ?_, fun j ha => ?_, fun ha => ?_⟩
        · have ans : h.ans = _ := State.homeCommit_ans hq hc2 rfl (t.S b) rfl
          exact ⟨fun hp => ans.trans (if_pos hp), fun hp => ans.trans (if_neg hp)⟩
        · rw [homeDone_of ha nofun nofun] at asks
          exact asks
        · rw [homeDone_of ha nofun nofun] at asks
          exact asks
  · intro s pa q hq b done
    refine ⟨State.drainDone_kept hq, fun hd => ?_⟩
    have unbinds := State.drainDone_unbinds hq hd
    refine ⟨?_, State.drainDone_mem s _, fun tid t hs ht hw => ?_⟩
    · rw [unbinds, State.queueAt, State.foldl_goOn_queues, State.unbind_queues, look_del, if_pos rfl]
    · have here : look (s.unbind (.global pa)).threads tid = some t := by rw [State.unbind_threads, ht]
      rw [unbinds, State.look_goOn _ (State.drainers_nodup hs _) here, if_pos (State.mem_drainers ht hw)]

end Sys2Proof.Machine
end

section
/-! SUPPORT. The queue instructions of a gang (R222, R223): one operation of the active lanes' elements at the queue's home. -/

namespace Sys2Proof.Machine

/-! What a push or a pop at a home that holds an intact queue leaves: it ends no waiter, and the issuing party stays. -/

section intact
variable {s : State} {r : QRef} {q : Queue} (hq : s.queueAt r = some q) (hc : s.causes r q = 0) (a : Asker)
include hq hc

theorem State.homePush_ended (es : List (List Byte)) : (s.homePush r a es).ended = [] := by
  rw [State.homePush, State.guarded_intact hq hc]
  simp only [apply_ite HomeOut.ended, ite_self]

theorem State.homePush_cur (es : List (List Byte)) : (s.homePush r a es).s.cur = s.cur := by
  rw [State.homePush, State.guarded_intact hq hc]
  simp only [apply_ite HomeOut.s, apply_ite State.cur, State.settle_cur, State.store_cur, State.pushAll_cur,
    State.touchQcb_cur, ite_self]

theorem State.homePop_ended (m : Nat) : (s.homePop r a m).ended = [] := by
  rw [State.homePop, State.guarded_intact hq hc]
  simp only [apply_ite HomeOut.ended, ite_self]

theorem State.homePop_cur (m : Nat) : (s.homePop r a m).s.cur = s.cur := by
  rw [State.homePop, State.guarded_intact hq hc]
  simp only [apply_ite HomeOut.s, apply_ite State.cur, State.settle_cur, State.store_cur, State.popAll_cur,
    State.touchQcb_cur, ite_self]

end intact

@[simp] theorem Thread.pushvDeliver_ended (t : Thread) (o : LaneOps) (ls ps : List Nat) :
    (t.pushvDeliver o ls ps).ended = t.ended := t.writeN32_ended _ _

@[simp] theorem Thread.popvDeliver_ended (t : Thread) (o : LaneOps) (ls : List Nat) (es : List (List Byte)) :
    (t.popvDeliver o ls es).ended = t.ended := Thread.writePred_ended _ _ _

/-- What a gang's push does with its home's answer. -/
def pushvDone (tid : Nat) (t : Thread) (g : Nat) (r : QRef) (o : LaneOps) (ls : List Nat) (es : List (List Byte)) (s : State)
    (ans : QAns) : Out :=
  match ans with
  | .many ps _ _ => laneDoneOn s tid t g [] (fun t => (t.pushvDeliver o ls ps).dirty)
  | .closed => faultOut s tid (gangF t g 0x0A 0xFF (word (t.uniform ls o.a 64)) 0)
  | _ => queueWait s tid r true (.gang g) (.pushv o s.cur.len ls es)

/-- What a gang's pop does with its home's answer. -/
def popvDone (tid : Nat) (t : Thread) (g : Nat) (r : QRef) (o : LaneOps) (ls : List Nat) (s : State) (ans : QAns) : Out :=
  match ans with
  | .many _ es poison =>
    if poison then faultOut s tid (gangF t g 0x07 (ls.headD 0xFF) (word (t.uniform ls o.a 64)) 0)
    else laneDoneOn s tid t g [] (fun t => (t.popvDeliver o ls es).dirty)
  | .closed => laneDoneOn s tid t g [] (fun t => (t.popvDeliver o ls []).dirty)
  | _ => queueWait s tid r false (.gang g) (.popv o s.cur.len ls)

section gang
variable {s : State} {t : Thread} {g : Nat} {fn : BitVec 8} {o : LaneOps}

/-- What comes before the registers are checked decides, where it answers. -/
theorem onGangFirst_some {op : BitVec 8} (hi : GangIssues s t g op fn o)
    {first : Nat → Thread → Nat → List Nat → Option Out} {out : Out}
    (hf : first s.cur.tid t g (t.activeLanes g o) = some out) (k : Nat → Thread → Nat → List Nat → Out) :
    onGangFirst s op fn o first k = out := by
  simp [onGangFirst, hi.issues, hi.party, hi.slices, hf]

theorem onGangFirst_none {op : BitVec 8} (hi : GangIssues s t g op fn o)
    {first : Nat → Thread → Nat → List Nat → Option Out} (hf : first s.cur.tid t g (t.activeLanes g o) = none)
    (k : Nat → Thread → Nat → List Nat → Out) :
    onGangFirst s op fn o first k = k s.cur.tid t g (t.activeLanes g o) := by
  simp [onGangFirst, hi.issues, hi.party, hi.slices, hi.held, hf]

/-- With no active lane a queue operation has no effect (R223). -/
theorem lqFirst_idle (hl : t.activeLanes g o = []) (he : t.ended = false) (pop : Bool) :
    lqFirst s o fn pop s.cur.tid t g (t.activeLanes g o) = some (.next (s.setThread s.cur.tid (t.advance g s.cur.len))) := by
  simp [lqFirst, hl, laneDone_plain he]

variable {r : QRef} {q : Queue}

/-- A queue that admits the party lets it go on (R42, R208). -/
theorem Names.lqFirst_admitted (hn : Names s t (word (t.uniform (t.activeLanes g o) o.a 64)) r q)
    (hl : t.activeLanes g o ≠ []) {pop : Bool} (he : (pop && s.engineOnly r) = false) :
    lqFirst s o fn pop s.cur.tid t g (t.activeLanes g o) = none := by
  simp [lqFirst, hl, hn.ref, hn.admits, he]

theorem Names.withIntact {a : Word} (hn : Names s t a r q) (ht : Takes s r true 0) (hc : s.causes r q = 0) (p : Party)
    (k : QRef → Queue → List Byte → Out) : withIntact s s.cur.tid t p a k = k r q (s.qcbBytes r q.size) := by
  simp [Machine.withIntact, hn.withQueue, ht.atHome rfl, hn.bound, hc]

/-- Elements or positions delivered complete a gang's operation on the machine its home left. -/
theorem laneDoneOn_home {u : State} {t' : Thread} (hu : look u.threads s.cur.tid = some t') (he : t'.ended = false)
    (hc : u.cur = s.cur) {f : Thread → Thread} (hf : (f t').ended = false) :
    laneDoneOn u s.cur.tid t g [] f = .next (u.setThread s.cur.tid ((f t').advance g s.cur.len)) := by
  rw [laneDoneOn_plain hu f he hf, hc]

section push
variable (hi : GangIssues s t g 0xA0 0x00 o) (hl : t.activeLanes g o ≠ [])
  (hn : Names s t (word (t.uniform (t.activeLanes g o) o.a 64)) r q) (ht : Takes s r true 0) (hc : s.causes r q = 0)
  (hk : lqCheck t o.b.toNat (qEsize (s.qcbBytes r q.size) / 4) (t.activeLanes g o).length (qCap (s.qcbBytes r q.size)) = none)
include hi hl hn ht hc hk

theorem lqQpushv_closed (ho : qClosed (s.qcbBytes r q.size) = true) :
    GangFaults s t g (.lqQpushv o) 0x0A 0xFF (word (t.uniform (t.activeLanes g o) o.a 64)) 0 := by
  show execLqQpushv o s = _
  rw [execLqQpushv, onGangFirst_none hi (hn.lqFirst_admitted (pop := false) hl rfl)]
  simp only [hn.here, hn.withIntact ht hc, hk, ho, if_true, faultOut]

/-- A push with nothing to wait for asks the home. -/
theorem lqQpushv_asks (ho : qClosed (s.qcbBytes r q.size) = false) (hq : Quiet s t)
    (hm : Takes s r true (t.activeLanes g o).length) : exec (.lqQpushv o) s =
    (let es := (t.activeLanes g o).map (fun l => laneElem t l o.b.toNat (qEsize (s.qcbBytes r q.size) / 4))
    homeDone (s.homePush r (.core (coreOf s.cur.tid)) es) s.cur.tid t (.gang g)
      (word (t.uniform (t.activeLanes g o) o.a 64)) (pushvDone s.cur.tid t g r o (t.activeLanes g o) es)) := by
  show execLqQpushv o s = _
  rw [execLqQpushv, onGangFirst_none hi (hn.lqFirst_admitted (pop := false) hl rfl)]
  simp only [hn.here, hn.withIntact ht hc, hk, ho, Bool.false_eq_true, if_false,
    State.release_quiet hq.posted hq.engines hq.remote, Bool.not_true, hm.atHome rfl]
  rfl

end push

section pop
variable (hi : GangIssues s t g 0xA0 0x01 o) (hl : t.activeLanes g o ≠ [])
  (hn : Names s t (word (t.uniform (t.activeLanes g o) o.a 64)) r q) (hp : t.gangPoisoned g = false)
  (he : s.engineOnly r = false) (ht : Takes s r true 0) (hc : s.causes r q = 0)
  (hk : lqCheck t o.d.toNat (qEsize (s.qcbBytes r q.size) / 4) (t.activeLanes g o).length (qCap (s.qcbBytes r q.size)) = none)
  (hm : Takes s r false (t.activeLanes g o).length)
include hi hl hn hp he ht hc hk hm

theorem lqQpopv_asks : exec (.lqQpopv o) s =
    homeDone (s.homePop r (.core (coreOf s.cur.tid)) (t.activeLanes g o).length) s.cur.tid t (.gang g)
      (word (t.uniform (t.activeLanes g o) o.a 64)) (popvDone s.cur.tid t g r o (t.activeLanes g o)) := by
  show execLqQpopv o s = _
  rw [execLqQpopv, onGangFirst_none hi (hn.lqFirst_admitted (pop := true) hl he)]
  simp only [hp, hn.withIntact ht hc, hk, Bool.false_eq_true, if_false, hm.atHome rfl]
  rfl

end pop

theorem lqQpushv_idle (hi : GangIssues s t g 0xA0 0x00 o) (hl : t.activeLanes g o = []) :
    GangBecomes s (.lqQpushv o) g t := by
  show execLqQpushv o s = _
  exact onGangFirst_some hi (lqFirst_idle (fn := 0x00) hl hi.alive false) _

theorem lqQpopv_idle (hi : GangIssues s t g 0xA0 0x01 o) (hl : t.activeLanes g o = []) :
    GangBecomes s (.lqQpopv o) g t := by
  show execLqQpopv o s = _
  exact onGangFirst_some hi (lqFirst_idle (fn := 0x01) hl hi.alive true) _

end gang

/-- Settles O48: a gang's push or pop asks the home as a thread's does, and the lanes take what it answers. -/
theorem laneQueueOperations : Obligations.LaneQueueOperations := by
  intro s t t' g o r q ls a b n
  refine ⟨fun hl => ⟨fun hi => lqQpushv_idle hi hl, fun hi => lqQpopv_idle hi hl⟩, ?_, ?_⟩
  · intro hi hl hn ht hc hk
    refine ⟨lqQpushv_closed hi hl hn ht hc hk, ?_⟩
    intro ho hq hm h u hu he ps es z ha
    have asks := lqQpushv_asks hi hl hn ht hc hk ho hq hm
    have cur : u.cur = s.cur := by
      simp only [u, h, State.homePush_ended hn.bound hc, State.applyEnds, List.foldl_nil, State.homePush_cur hn.bound hc]
    exact (asks.trans (homeDone_of ha nofun nofun _ _ _ _ _)).trans (laneDoneOn_home hu he cur (by simpa using he))
  · intro hi hl hn hp hx ht hc hk hm h u hu he
    have asks := lqQpopv_asks hi hl hn hp hx ht hc hk hm
    have cur : u.cur = s.cur := by
      simp only [u, h, State.homePop_ended hn.bound hc, State.applyEnds, List.foldl_nil, State.homePop_cur hn.bound hc]
    refine ⟨fun ps es ha => ?_, fun ha => ?_⟩
    · exact (asks.trans (homeDone_of ha nofun nofun _ _ _ _ _)).trans (laneDoneOn_home hu he cur (by simpa using he))
    · exact (asks.trans (homeDone_of ha nofun nofun _ _ _ _ _)).trans (laneDoneOn_home hu he cur (by simpa using he))

end Sys2Proof.Machine
end

section
/-! SUPPORT. Peer packages and device time (R224, R318, R368-R371): what brings a peer's operation to its home, and each event
case by case. -/

namespace Sys2Proof.Machine

section events
variable {s : State}

@[simp] theorem State.setFlow_arg (s : State) (k : Nat) (f : Flow) : (s.setFlow k f).arg = s.arg := rfl

/-! A peer's operation (R224, R369). -/

/-- A flow that has its key and is not down reaches a context of this package that acts, in the flow's order and outside a
census (R368, R369, R379, R412). -/
structure FlowReaches (s : State) (fk ctx : Nat) : Prop where
  runs    : s.run = .running
  up      : (s.flowAt fk).down = false
  keyed   : (s.flowAt fk).key.isSome = true
  context : (look s.ctxs ctx).isSome = true
  level   : (s.partAt (partOfCtx ctx)).level = 0
  first   : s.later.any (aheadOn fk) = false
  resumed : s.counted (partOfCtx ctx) = false
  ours    : s.handleOurs s.arg.big.toNat ctx = true

section reaches
variable {fk ctx : Nat} (h : FlowReaches s fk ctx)
include h

theorem FlowReaches.brings : (s.run != .running || (s.flowAt fk).down || (s.flowAt fk).key.isNone) = false := by
  simp [h.runs, h.up, Option.isNone_eq_false_iff.mpr h.keyed]

theorem FlowReaches.goes : (s.later.any (aheadOn fk) || s.counted (partOfCtx ctx)) = false := by
  simp [h.first, h.resumed]

theorem FlowReaches.admits : ((look s.ctxs ctx).isNone || (s.partAt (partOfCtx ctx)).level != 0
    || !s.handleOurs s.arg.big.toNat ctx) = false := by
  simp [Option.isNone_eq_false_iff.mpr h.context, h.level, h.ours]

end reaches

/-- A peer's operation at its home. -/
def State.peerOp (s : State) (fk : Nat) : NetOp → State
  | .qpush _ ctx q es wait => (s.netPush fk ctx q es wait).getD (s.postpone .netRemoteOp)
  | .qlen _ ctx q sel => (s.netLen fk ctx q sel.toNat).getD (s.postpone .netRemoteOp)
  | .red _ ctx a op n v => (s.netRed fk ctx a op n v).getD (s.postpone .netRemoteOp)
  | .copy _ ctx a bs bad => (s.netCopy fk ctx a bs bad).getD (s.postpone .netRemoteOp)
  | .withdraw _ ctx q n => s.netWithdraw fk ctx q n
  | .phase _ ctx a v => (s.netPhase fk ctx a.toNat v).getD (s.postpone .netRemoteOp)

theorem netRemoteOp_silent (h : (s.flowAt (netFlow s.arg)).down = true ∨ (s.flowAt (netFlow s.arg)).key = none) :
    Skips s .netRemoteOp := by
  show execNetRemoteOp s = _
  rcases h with h | h <;> simp [execNetRemoteOp, h]

section arrives
variable (hr : s.run = .running) (hd : (s.flowAt (netFlow s.arg)).down = false)
  (hk : (s.flowAt (netFlow s.arg)).key.isSome = true)
include hr hd hk

theorem netRemoteOp_waits (h : s.later.any (aheadOn (netFlow s.arg)) = true
    ∨ s.counted (partOfCtx (netParty s.arg.net).2) = true) :
    exec .netRemoteOp s = .next (s.postpone .netRemoteOp) := by
  show execNetRemoteOp s = _
  simp only [execNetRemoteOp, hr, hd, Option.isNone_eq_false_iff.mpr hk, Bool.or_eq_true, h, if_true]
  rfl

theorem netRemoteOp_refused (hl : s.later.any (aheadOn (netFlow s.arg)) = false)
    (hc : s.counted (partOfCtx (netParty s.arg.net).2) = false)
    (ho : s.handleOurs s.arg.big.toNat (netParty s.arg.net).2 = false) :
    exec .netRemoteOp s = .next (s.reply (netFlow s.arg) (refusal 0x05 0)) := by
  show execNetRemoteOp s = _
  simp [execNetRemoteOp, hr, hd, Option.isNone_eq_false_iff.mpr hk, hl, hc, ho]

end arrives

theorem netRemoteOp_performs (h : FlowReaches s (netFlow s.arg) (netParty s.arg.net).2) :
    exec .netRemoteOp s = .next (s.peerOp (netFlow s.arg) s.arg.net) := by
  show execNetRemoteOp s = _
  simp only [execNetRemoteOp, h.brings, h.goes, h.admits, Bool.false_eq_true, if_false]
  cases s.arg.net <;> rfl

/-- A peer's reduction on mapped bytes that nothing guards (R193, R369). -/
theorem State.netRed_performs (fk : Nat) {ctx n pa : Nat} {a : Word} (op : Nat) (v : BitVec 128) (hn : n ≠ 0)
    (ha : a.toNat % n = 0) (hq : s.overlapsQcb ctx a.toNat n = false) (hp : s.place ctx a.toNat = .byte pa)
    (hw : s.mustWait ctx a.toNat pa = false) (hz : s.poisoned pa n = false) :
    ∃ u : State, s.netRed fk ctx a op n v = some u
      ∧ u.mem = Mem.writeN s.mem pa n (atomNew op (8 * n) (Mem.readN s.mem pa n) v.toNat 0).1 := by
  simp [State.netRed, hn, ha, hq, hp, hw, hz, State.reply]

/-! A flow that goes down, and answers (R224, R229, R368). -/

theorem netFlowDown_idle (h : (s.flowAt s.arg.obj).down = true) : Skips s .netFlowDown := by
  show execNetFlowDown s = _
  simp [execNetFlowDown, h]

theorem netFlowDown_records (hr : s.run ≠ .halted) (hd : (s.flowAt s.arg.obj).down = false)
    (hw : (s.flowAt s.arg.obj).waiting = []) (hs : (s.flowAt s.arg.obj).reds = []) (hc : (s.flowAt s.arg.obj).copies = []) :
    exec .netFlowDown s = .next ((s.setFlow s.arg.obj
      { s.flowAt s.arg.obj with down := true, waiting := [], reds := [], copies := [] }).addRas 9 0 (flowDie s.arg.obj)
        (if flowIn s.arg.obj then (s.flowAt s.arg.obj).part else 255) 0
        [word (s.flowAt s.arg.obj).pkg, word (s.flowAt s.arg.obj).part]) := by
  show execNetFlowDown s = _
  simp [execNetFlowDown, State.awake, hr, hd, hw, hs, hc]

theorem netRemoteResponse_silent (h : (s.flowAt s.arg.obj).down = true) : Skips s .netRemoteResponse := by
  show execNetRemoteResponse s = _
  simp [execNetRemoteResponse, h]

section answers
variable (hr : s.run ≠ .halted) (hd : (s.flowAt s.arg.obj).down = false)
include hr hd

/-- An answer to a waiting operation takes it from its flow, and completes it, fails it or gives it back. -/
theorem netRemoteResponse_answers (ho : s.arg.obj2 = 0) {w : NetWait}
    (hw : (s.flowAt s.arg.obj).waiting[s.arg.bound.getD 0]? = some w) :
    exec .netRemoteResponse s =
      (let f := s.flowAt s.arg.obj
      let u := s.setFlow s.arg.obj { f with waiting := f.waiting.eraseIdx (s.arg.bound.getD 0) }
      .next (if s.arg.flag then u.netFail w s.arg.obj3 s.arg.word
        else if s.arg.flag2 then u.netBack w else u.netAnswer s.arg.obj w s.arg.word)) := by
  show execNetRemoteResponse s = _
  simp [execNetRemoteResponse, State.awake, hr, hd, ho, hw]

theorem netRemoteResponse_reduces (ho : s.arg.obj2 = 1) {r : Red} {rs : List Red}
    (hw : (s.flowAt s.arg.obj).reds = r :: rs) (hf : s.arg.flag = false) : exec .netRemoteResponse s =
      .next (s.setFlow s.arg.obj { s.flowAt s.arg.obj with reds := rs }) := by
  show execNetRemoteResponse s = _
  simp [execNetRemoteResponse, State.awake, hr, hd, ho, hw, hf]

end answers

/-! Arrivals at a pod barrier (R318, R370). -/

/-- The state of a pod barrier is that of the object's bytes. -/
theorem State.podBarrier_some {ctx va : Nat} {l : Barrier} (h : s.podBarrier ctx va = some l) :
    barrierOf (s.peekBytes ctx va 16) = l := by
  unfold State.podBarrier at h
  dsimp only at h
  split at h
  · split at h
    · exact Option.some.inj h
    · cases h
  · cases h

section barrier

theorem podBarrierMessage_waits (hr : s.run = .running) (hd : (s.flowAt (podFlow s.arg)).down = false)
    (hk : (s.flowAt (podFlow s.arg)).key.isSome = true) (hl : s.later.any (aheadOn (podFlow s.arg)) = true) :
    exec .podBarrierMessage s = .next (s.postpone .podBarrierMessage) := by
  show execPodBarrierMessage s = _
  simp [execPodBarrierMessage, hr, hd, Option.isNone_eq_false_iff.mpr hk, hl]

/-- The arrivals of a message at the barrier it names. -/
def State.podArrivals (s : State) : Acc (List (Option (BitVec 16)) × State) :=
  arriveMany (s.homeUnitOf s.arg.obj s.arg.word.toNat) s.arg.obj s.arg.word.toNat
    (if s.arg.word2.setWidth 16 = 0 then none else some (s.arg.word2.setWidth 16)) s.arg.obj2 s

variable (h : FlowReaches s (podFlow s.arg) s.arg.obj) (hw : s.objectWaits s.arg.obj s.arg.word.toNat = false) {l : Barrier}
  (hb : s.podBarrier s.arg.obj s.arg.word.toNat = some l)
include h hw hb

theorem podBarrierMessage_arrives {x : List (Option (BitVec 16)) × State} (ha : s.podArrivals = .ok x) :
    exec .podBarrierMessage s = .next (x.2.reply (podFlow s.arg) (arrivalReply l (s.arg.word2.setWidth 16) x.1)) := by
  rw [State.podArrivals] at ha
  show execPodBarrierMessage s = _
  simp only [execPodBarrierMessage, h.brings, h.goes, h.admits, hw, hb, ha, Bool.false_eq_true, if_false]

theorem podBarrierMessage_miscounts (h1 : s.arg.obj2 = 1) (hl : l.count ≠ 0)
    (hn : (s.arg.word2.setWidth 16 : BitVec 16) ≠ 0) (hc : s.arg.word2.setWidth 16 ≠ l.count) :
    exec .podBarrierMessage s = .next (s.reply (podFlow s.arg)
      (refusal 0x0B (word (l.count.toNat * 2 ^ 16 + (s.arg.word2.setWidth 16 : BitVec 16).toNat)))) := by
  have object := State.podBarrier_some hb
  have arrivals : s.podArrivals = .ok ([none], s) := by
    simp only [State.podArrivals, h1, arriveMany, object, if_neg hn, Option.any_some, decide_eq_true hc, hl, ne_eq,
      not_false_eq_true, and_self, if_true]
  rw [podBarrierMessage_arrives h hw hb arrivals]
  simp [arrivalReply]

theorem podBarrierMessage_counts (h1 : s.arg.obj2 = 1)
    (hc : l.count = 0 ∨ (s.arg.word2.setWidth 16 : BitVec 16) = 0 ∨ s.arg.word2.setWidth 16 = l.count)
    {x : Barrier × State} (ha : s.arriveMem (s.homeUnitOf s.arg.obj s.arg.word.toNat) s.arg.obj s.arg.word.toNat
      (if s.arg.word2.setWidth 16 = (0 : BitVec 16) then none else some (s.arg.word2.setWidth 16)) = .ok x) :
    exec .podBarrierMessage s = .next (x.2.reply (podFlow s.arg) [x.1.phase.setWidth 64]) := by
  have object := State.podBarrier_some hb
  have counts : ¬ (l.count ≠ 0 ∧ Option.any (fun n => decide (n ≠ l.count))
      (if s.arg.word2.setWidth 16 = (0 : BitVec 16) then none else some (s.arg.word2.setWidth 16)) = true) := by
    rintro ⟨h0, hn⟩
    rcases hc with hc | hc | hc
    · exact h0 hc
    · simp [hc] at hn
    · rw [hc] at hn
      split at hn <;> simp at hn
  have arrivals : s.podArrivals = .ok ([some x.1.phase], x.2) := by
    simp only [State.podArrivals, h1, arriveMany, object, counts, if_false, ha]
  rw [podBarrierMessage_arrives h hw hb arrivals]
  simp [arrivalReply]

end barrier

/-! Keys and device time (R368, R371). -/

theorem flowKeyInstall_installs (hr : s.run ≠ .halted) : exec .flowKeyInstall s =
    .next (s.setFlow s.arg.obj { s.flowAt s.arg.obj with key := some s.arg.obj2 }) := by
  show execFlowKeyInstall s = _
  simp [execFlowKeyInstall, State.awake, hr]

/-- Device time counted anew takes its step at once, and slews a correction from then on (R371). -/
theorem State.rebaseTime_time (step : Nat) (slew : Int) : (s.rebaseTime step slew).time = s.time + step := by
  simp [State.rebaseTime, State.time, State.sinceSync]

theorem State.addRas_time (type struct die part addr : Nat) (info : List Word) :
    (s.addRas type struct die part addr info).time = s.time := by
  obtain ⟨_, _, h⟩ := s.addRas_eq type struct die part addr info
  rw [h]
  rfl

theorem timeSync_corrects (hs : s.timeSrc ≠ .none) : ∃ u : State, exec .timeSync s = .next u ∧ s.time ≤ u.time
    ∧ (1000000 < s.arg.offset → u.time = s.time + s.arg.offset.toNat)
    ∧ (s.arg.offset ≤ 1000000 → u.time = s.time) := by
  by_cases h : 1000000 < s.arg.offset
  · refine ⟨(s.rebaseTime s.arg.offset.toNat 0).addRas 8 0 0 255 0 [wordI s.arg.offset], ?_, ?_⟩
    · show execTimeSync s = _
      simp only [execTimeSync, hs, h, if_true, if_false]
    · rw [State.addRas_time, State.rebaseTime_time]
      exact ⟨Nat.le_add_right _ _, fun _ => rfl, fun h' => absurd h (Int.not_lt.mpr h')⟩
  · refine ⟨s.rebaseTime 0 s.arg.offset, ?_, ?_⟩
    · show execTimeSync s = _
      simp only [execTimeSync, hs, h, if_false]
    · rw [State.rebaseTime_time]
      exact ⟨Nat.le_refl _, fun h' => absurd h' h, fun _ => rfl⟩

theorem timeSync_free (hs : s.timeSrc = .none) : Skips s .timeSync := by
  show execTimeSync s = _
  simp [execTimeSync, hs]

theorem timeSourceSelect_source (hs : s.arg.src ≠ .none) :
    exec .timeSourceSelect s = .next { s with timeSrc := s.arg.src } := by
  show execTimeSourceSelect s = _
  simp [execTimeSourceSelect, hs]

/-- With no source, time goes on from where it stands, with no correction. -/
theorem timeSourceSelect_none (hs : s.arg.src = .none) : ∃ u : State, exec .timeSourceSelect s = .next u
    ∧ u.timeSrc = .none ∧ u.time = s.time ∧ u.slew = 0 := by
  refine ⟨{ s.rebaseTime 0 0 with timeSrc := .none }, ?_, rfl, State.rebaseTime_time 0 0, rfl⟩
  show execTimeSourceSelect s = _
  simp [execTimeSourceSelect, hs]

end events

/-- Settles O60: each event by its own rule above; a reduction's memory is one write, and time moves by `rebaseTime`. -/
theorem networkEvents : Obligations.NetworkEvents := by
  intro s k f p fk open_ does
  have performs {op : NetOp} (hn : s.arg.net = op) : open_ → exec .netRemoteOp s = .next (s.peerOp fk op) := by
    rintro ⟨hr, hd, hk, hx, hl, hf, hc, hh⟩
    rw [← hn]
    exact netRemoteOp_performs ⟨hr, hd, hk, hx, hl, hf, hc, hh⟩
  refine ⟨netRemoteOp_silent, fun hr hd hk => ⟨netRemoteOp_waits hr hd hk, netRemoteOp_refused hr hd hk⟩,
    fun _ _ _ _ _ _ hn => performs hn, fun _ _ _ _ _ hn => performs hn, fun _ _ _ _ _ hn => performs hn,
    fun _ _ _ _ hn => performs hn, fun _ _ _ _ hn => performs hn, fun _ _ _ _ hn => performs hn, ?_,
    netFlowDown_records, fun hd => ⟨netFlowDown_idle hd, netRemoteResponse_silent hd⟩, ?_, ?_, flowKeyInstall_installs,
    timeSourceSelect_source, timeSourceSelect_none, timeSync_corrects, timeSync_free⟩
  · intro ctx a op n v pa hn ha hq hp hw hz
    obtain ⟨u, hu, hm⟩ := State.netRed_performs fk op v hn ha hq hp hw hz
    rw [Mem.writeN_eq] at hm
    refine ⟨u, hu, ?_, fun j hj => ?_⟩
    · rw [hm, Mem.readN_writeBytes_leBytes]
    · rw [State.byteAt, hm, Mem.read_writeBytes_outside (by simpa using hj), State.byteAt]
  · intro hr hd
    refine ⟨fun w ho hw => ?_, fun r rs ho hw hf => netRemoteResponse_reduces hr hd ho hw hf⟩
    have answers := netRemoteResponse_answers hr hd ho hw
    refine ⟨fun hf => ?_, fun hf hg => ?_, fun hf hg => ?_⟩
    · simpa only [hf, if_true] using answers
    · simpa only [hf, hg, Bool.false_eq_true, if_false, if_true] using answers
    · simpa only [hf, hg, Bool.false_eq_true, if_false] using answers
  · intro va bf n hr hd hk hx hl hh
    refine ⟨podBarrierMessage_waits hr hd hk, fun hf hc hw l hb => ?_⟩
    have reaches : FlowReaches s (podFlow s.arg) s.arg.obj := ⟨hr, hd, hk, hx, hl, hf, hc, hh⟩
    exact ⟨fun x => podBarrierMessage_arrives reaches hw hb, podBarrierMessage_miscounts reaches hw hb,
      fun h1 hc x => podBarrierMessage_counts reaches hw hb h1 hc⟩

end Sys2Proof.Machine
end

section
/-! SUPPORT. `copy.cstart`, `copy.cstat` and `copy.cabort` (R244-R247): what a start comes to once its record is read, the chain
it adds to its channel, and each instruction case by case. -/

namespace Sys2Proof.Machine

@[simp] theorem State.chanAt_setChan (s : State) (k : Nat) (c : Channel) : (s.setChan k c).chanAt k = c := by
  simp [State.chanAt, State.setChan, look_put_same]

/-! The lines of a record taken (R183) leave the channels and the threads. -/

@[simp] theorem State.takeLines_chans (s : State) (core ctx : Nat) (ids : List Nat) (es : List (CAddr × Nat)) :
    (s.takeLines core ctx ids es).chans = s.chans :=
  foldl_field State.chans (fun u id => by split <;> simp) _ _

@[simp] theorem State.takeLines_threads (s : State) (core ctx : Nat) (ids : List Nat) (es : List (CAddr × Nat)) :
    (s.takeLines core ctx ids es).threads = s.threads :=
  foldl_field State.threads (fun u id => by split <;> simp) _ _

/-! The head record as it is checked (R238, R245). -/

section head
variable {s : State} {f : CFor} {raw : List Byte}

theorem State.headWaits_notOwned (h : crOwn raw = false) : s.headWaits f raw = false := by
  simp [State.headWaits, h]

theorem State.headFault_notOwned (h : crOwn raw = false) : s.headFault f raw = none := by
  simp [State.headFault, h]

theorem State.headWaits_badRecord (h : recordOk raw = false) : s.headWaits f raw = false := by
  simp [State.headWaits, h]

theorem State.headFault_badRecord (ho : crOwn raw = true) (h : recordOk raw = false) :
    s.headFault f raw = some (0x0D, 0) := by
  simp [State.headFault, ho, h]

/-- The kinds whose extension has fields to check are among those that need one (R236). -/
theorem extensionOk_of_not_needsExt {x : List Byte} (h : needsExt raw = false) : extensionOk raw x = true := by
  have kinds : crKind raw ≠ 4 ∧ crKind raw ≠ 5 := by
    simp only [needsExt, Bool.or_eq_false_iff, beq_eq_false_iff_ne] at h
    exact ⟨h.1.1.2, h.1.2⟩
  simp [extensionOk, h, kinds]

theorem State.headFault_none (ho : crOwn raw = true) (hn : needsExt raw = false) (hr : recordOk raw = true)
    (he : s.extentFault f raw (s.extBytes f.ctx raw) = none) : s.headFault f raw = none := by
  simp [State.headFault, ho, hn, hr, he, extensionOk_of_not_needsExt hn]

end head

/-! The chain that a start adds (R244, R245). -/

section chain
variable (s : State) (tid : Nat) (t : Thread) (ck : Nat) (f : CFor) (p : Word) (raw : List Byte)

/-- The chain of a start from a record the engine owns. -/
def State.newChain : Chain :=
  { claim := s.nextAge, ticket := (s.chanAt ck).ticket, ctx := t.ctx, uid := t.uid, core := coreOf tid, cohort := f.cuid,
    ranges := t.ranges, at_ := p, taken := none, st := .queued, pre := s.destLines f raw (s.extBytes t.ctx raw),
    stamped := (s.destLines f raw (s.extBytes t.ctx raw)).filter (fun l => !s.ownsLine l), owed := false }

variable {raw} in
theorem State.startChain_notOwned (h : crOwn raw = false) : s.startChain tid t ck f p raw =
    s.setChan ck { s.chanAt ck with ticket := (s.chanAt ck).ticket + 1, linebuf := [] } := by
  simp [State.startChain, h]

variable {raw} in
theorem State.startChain_chanAt (h : crOwn raw = true) : (s.startChain tid t ck f p raw).chanAt ck =
    { s.chanAt ck with
      ticket := (s.chanAt ck).ticket + 1
      chains := (s.chanAt ck).chains ++ [s.newChain tid t ck f p raw] } := by
  simp [State.startChain, State.newChain, h]

@[simp] theorem State.startChain_threads : (s.startChain tid t ck f p raw).threads = s.threads := by
  unfold State.startChain
  split <;> simp

end chain

/-! Each instruction. -/

theorem State.chanWord_idle {s : State} {ck ctx : Nat} (h : (s.chanAt ck).chains = []) : s.chanWord ck ctx = 0 := by
  simp [State.chanWord, h]

/-- The party that a thread's start moves bytes for. -/
def State.starter (s : State) (t : Thread) : CFor :=
  { ctx := t.ctx, cuid := (look s.cohorts t.cohort).elim 0 (fun c => c.uid), ranges := t.ranges }

section commands
variable {s : State} {t : Thread} {d a b : BitVec 6} (hi : Issues s t)
include hi

theorem copyCstart_noChannel (h : 15 < (t.S a).toNat) : Faults s t (.copyCstart d a b) 0x0D 0 0 := by
  show execCopyCstart d a b s = _
  simp [execCopyCstart, onThread_of hi, h, faultOut]

theorem copyCstat_noChannel (h : 15 < (t.S a).toNat) : Faults s t (.copyCstat d a) 0x0D 0 0 := by
  show execCopyCstat d a s = _
  simp [execCopyCstat, onThread_of hi, h, faultOut]

theorem copyCabort_noChannel (h : 15 < (t.S a).toNat) : Faults s t (.copyCabort a b) 0x0D 0 0 := by
  show execCopyCabort a b s = _
  simp [execCopyCabort, onThread_of hi, h, faultOut]

theorem copyCstat_gives (h : (t.S a).toNat ≤ 15) :
    GivesS s t (.copyCstat d a) d (word (s.chanWord (chanKey s.cur.tid (t.S a).toNat) t.ctx)) := by
  show execCopyCstat d a s = _
  simp [execCopyCstat, onThread_of hi, Nat.not_lt.mpr h, aluDone]

/-- A ticket of the context's own chains, or of none, is not refused (R247). -/
theorem copyCabort_stops (h : (t.S a).toNat ≤ 15)
    (hk : t.S b = BitVec.allOnes 64
      ∨ ∀ c ∈ (s.chanAt (chanKey s.cur.tid (t.S a).toNat)).chains, word c.ticket = t.S b → c.ctx = t.ctx) :
    exec (.copyCabort a b) s = .next ((s.abortChains (chanKey s.cur.tid (t.S a).toNat) (fun c => c.ctx == t.ctx
      && (t.S b == wMinus1 || word c.ticket == t.S b))).onLive s.cur.tid Thread.step4) := by
  have allowed : ¬ (t.S b ≠ wMinus1 ∧ (s.chanAt (chanKey s.cur.tid (t.S a).toNat)).chains.any
      (fun c => word c.ticket == t.S b && c.ctx != t.ctx) = true) := by
    rintro ⟨hne, hany⟩
    obtain ⟨c, hc, hother⟩ := List.any_eq_true.mp hany
    simp only [Bool.and_eq_true, beq_iff_eq, bne_iff_ne] at hother
    obtain ⟨hticket, hctx⟩ := hother
    exact hk.elim hne fun own => hctx (own c hc hticket)
  show execCopyCabort a b s = _
  simp only [execCopyCabort, onThread_of hi, Nat.not_lt.mpr h, if_false, if_neg allowed]

/-! A start whose record is read (R245). -/

section read
variable {s1 : State} {raw : List Byte} (ha : (t.S a).toNat ≤ 15) (hc : s.check t (t.S b) 64 .write true = none)
  (hl : s.loadT s.cur.tid t (t.S b).toNat 64 = .ok (raw, s1))
include ha hc hl

theorem copyCstart_waits (hw : s1.headWaits (s1.starter t) raw = true) :
    exec (.copyCstart d a b) s = .next (s1.hold s.cur.tid .scalar .stall) := by
  rw [State.starter] at hw
  show execCopyCstart d a b s = _
  simp only [execCopyCstart, onThread_of hi, Nat.not_lt.mpr ha, if_false, hc, hl, accOut, hw, if_true]

variable (hw : s1.headWaits (s1.starter t) raw = false)
include hw

theorem copyCstart_faults {code : Nat} {v : Word} (hf : s1.headFault (s1.starter t) raw = some (code, v)) :
    exec (.copyCstart d a b) s = .next (s1.fault s.cur.tid (scalarF t code v 0)) := by
  rw [State.starter] at hw hf
  show execCopyCstart d a b s = _
  simp only [execCopyCstart, onThread_of hi, Nat.not_lt.mpr ha, if_false, hc, hl, accOut, hw, hf, Bool.false_eq_true,
    faultOut]

variable (hf : s1.headFault (s1.starter t) raw = none)
include hf

theorem copyCstart_full (h : 5 ≤ (s1.chanAt (chanKey s.cur.tid (t.S a).toNat)).chains.length) :
    exec (.copyCstart d a b) s = .next (s1.hold s.cur.tid .scalar .again) := by
  rw [State.starter] at hw hf
  show execCopyCstart d a b s = _
  simp only [execCopyCstart, onThread_of hi, Nat.not_lt.mpr ha, if_false, hc, hl, accOut, hw, hf, Bool.false_eq_true, h,
    if_true]

theorem copyCstart_starts (h : (s1.chanAt (chanKey s.cur.tid (t.S a).toNat)).chains.length < 5)
    (ht : look s1.threads s.cur.tid = some t) :
    BecomesOn s (s1.startChain s.cur.tid t (chanKey s.cur.tid (t.S a).toNat) (s1.starter t) (t.S b) raw) (.copyCstart d a b)
      (((t.setS d (word (s1.chanAt (chanKey s.cur.tid (t.S a).toNat)).ticket)).dirty).step4) := by
  have here := (s1.startChain_threads s.cur.tid t (chanKey s.cur.tid (t.S a).toNat) (s1.starter t) (t.S b) raw).symm ▸ ht
  rw [State.starter] at hw hf here ⊢
  show execCopyCstart d a b s = _
  simp only [execCopyCstart, onThread_of hi, Nat.not_lt.mpr ha, if_false, hc, hl, accOut, hw, hf, Bool.false_eq_true,
    Nat.not_le.mpr h, hi.onLive_at here]

end read
end commands

/-- Settles O26: each instruction case by case; a start is its head record's check, then the chain of `startChain`. -/
theorem copyCommands : Obligations.CopyCommands := by
  intro s t hi d a b ck
  refine ⟨fun h => ⟨copyCstart_noChannel hi h, copyCstat_noChannel hi h, copyCabort_noChannel hi h⟩,
    fun h => ⟨copyCstat_gives hi h, State.chanWord_idle⟩, copyCabort_stops hi, fun ha hc raw s1 hl ht => ?_⟩
  intro f ext room
  refine ⟨fun ho hroom => ?_, copyCstart_waits hi ha hc hl, State.headFault_none, fun ho hr =>
      copyCstart_faults hi ha hc hl (State.headWaits_badRecord hr) (State.headFault_badRecord ho hr),
    fun ho hw hf hroom => ?_, fun hw hf hroom => copyCstart_full hi ha hc hl hw hf (Nat.not_lt.mp hroom)⟩
  · have starts := copyCstart_starts (d := d) hi ha hc hl (State.headWaits_notOwned ho) (State.headFault_notOwned ho) hroom ht
    rwa [State.startChain_notOwned _ _ _ _ _ _ ho] at starts
  · have added := s1.startChain_chanAt s.cur.tid t ck f (t.S b) ho
    exact ⟨_, copyCstart_starts hi ha hc hl hw hf hroom ht, congrArg Channel.ticket added, _,
      congrArg Channel.chains added, rfl, rfl, rfl, rfl, rfl, rfl, rfl⟩

end Sys2Proof.Machine
end

section
/-! SUPPORT. The steps of a copy channel (R232, R238-R243, R249): each by the state of the chain at its head and of the record
that chain has taken. -/

namespace Sys2Proof.Machine

section events
variable {s : State}

/-! A channel with no chain, and a chain that takes its next record (R232). -/

section idle
variable (h : s.headChain s.arg.obj = none)
include h

theorem copyTakeRecord_idle : Skips s .copyTakeRecord := by
  show execCopyTakeRecord s = _
  rw [execCopyTakeRecord, h]

theorem copyRecordComplete_idle : Skips s .copyRecordComplete := by
  show execCopyRecordComplete s = _
  simp only [execCopyRecordComplete, h]

theorem qputRetry_idle : Skips s .qputRetry := by
  show execQputRetry s = _
  simp only [execQputRetry, h]

theorem copyFixupReplay_idle : Skips s .copyFixupReplay := by
  show execCopyFixupReplay s = _
  simp only [execCopyFixupReplay, h]

theorem copyPageResident_idle : Skips s .copyPageResident := by
  show execCopyPageResident s = _
  simp only [execCopyPageResident, h]

end idle

variable {h : Chain} (hh : s.headChain s.arg.obj = some h)

include hh in
theorem copyTakeRecord_takes (ht : h.taken = none) (hp : s.partRuns (partOfCtx h.ctx) = true) :
    exec .copyTakeRecord s = .next (s.reachRecord s.arg.obj h) := by
  show execCopyTakeRecord s = _
  simp [execCopyTakeRecord, hh, ht, hp]

theorem State.reachRecord_end (ck : Nat) (ha : h.at_ = 0) : s.reachRecord ck h = s.endChain ck := by
  rw [State.reachRecord, if_pos ha]

/-- The starting cohort of a record that writes into it stands on its core (R249). -/
def State.destHere (s : State) (h : Chain) (r : CopyRec) : Prop :=
  cohortDest r.raw = false ∨ (s.cohortBy h.cohort).isSome = true

variable {r : CopyRec}

theorem State.destHere_iff : s.destHere h r ↔ (cohortDest r.raw && (s.cohortBy h.cohort).isNone) = false := by
  cases hc : cohortDest r.raw <;> simp [State.destHere, hc, Option.isSome_iff_ne_none]

/-- A record that has nothing left to move, and every segment replayed, ends with its code (R238, R240). -/
theorem State.performRecord_done (ck n : Nat) (ha : crAction r.raw ≠ 4)
    (hb : crKind r.raw = 5 ∨ (s.chanAt ck).linebuf = []) (hl : r.left = []) (hx : r.fixes.length = r.fixed)
    (h0 : r.acks = 0) : s.performRecord ck h r n = s.endRecord ck h r r.doneCode 0 0 := by
  have nothing : firstPieces n [] = ([], []) := by cases n <;> rfl
  obtain ⟨addr, raw, ext, lines, qpos, qbind, left, fixes, fixed, acks, bad, ending⟩ := r
  dsimp only at ha hb hl hx h0
  subst hl h0
  simp [State.performRecord, ha, hb, nothing, State.doMoves, afterMoves, hx, State.movesDone]

/-! A chain that waits at a page (R241). -/

section page
variable (hst : h.st = .waitPage) (hg : s.chainGoes h = true)
include hh hst hg

theorem copyPageResident_back (hw : s.waitsAt h = none) :
    exec .copyPageResident s = .next (s.pageBack s.arg.obj h) := by
  show execCopyPageResident s = _
  simp only [execCopyPageResident, hh, hst, hg, true_or, and_self, if_true, hw]

theorem copyPageResident_fixes {va : Nat} (hw : s.waitsAt h = some va) : exec .copyPageResident s
    = .next (if (s.fixPage h.ctx va).2 then (s.fixPage h.ctx va).1.pageBack s.arg.obj h else (s.fixPage h.ctx va).1) := by
  show execCopyPageResident s = _
  simp only [execCopyPageResident, hh, hst, hg, true_or, and_self, if_true, hw]

end page

/-! A QPUT at the taking of its record (R240): with no fix-up list it goes by the answer to its reservation. -/

section qput
variable {ck : Nat} (ha : crAction r.raw = 4) (hf : crFixlist r.raw = 0)
include ha hf

theorem State.takeRecord_position {p bind : Nat} {u : State} (hq : s.qputReserve ck h r.raw = .pos p bind u) :
    s.takeRecord ck h r = u.holdRecord ck h { r with qpos := some p, qbind := bind } := by
  simp [State.takeRecord, State.fixlistExtent, hf, ha, hq]

theorem State.takeRecord_noRoom {u : State} (hq : s.qputReserve ck h r.raw = .wait u) :
    s.takeRecord ck h r = u.setChain ck { h with taken := some r, pre := [], st := .waitSlot } := by
  simp [State.takeRecord, State.fixlistExtent, hf, ha, hq]

theorem State.takeRecord_refused {code m : Nat} {u : State} (hq : s.qputReserve ck h r.raw = .bad code m u) :
    s.takeRecord ck h r = u.endRecord ck h r code (crTarget r.raw) (word m) := by
  simp [State.takeRecord, State.fixlistExtent, hf, ha, hq]

end qput

/-! The lines and the bytes of a listed segment (R183, R241). -/

/-- The machine and the record once the record owns the lines of a segment on this package (R183, R241). -/
def State.segOwned (s : State) (h : Chain) (r : CopyRec) (g : CSeg) : State × CopyRec :=
  if crKind r.raw == 7 then (s, r) else s.ownMore h r (g.moves.map (fun m => (m.dst, m.n)))

theorem State.segOwned_eq (x : State) (h : Chain) (r : CopyRec) (g : CSeg) : x.segOwned h r g
    = if crKind r.raw = 7 then (x, r) else x.ownMore h r (g.moves.map (fun m => (m.dst, m.n))) := by
  simp [State.segOwned]

theorem State.segOwned_fixes (x : State) (h : Chain) (r : CopyRec) (g : CSeg) : (x.segOwned h r g).2.fixes = r.fixes := by
  unfold State.segOwned
  split <;> rfl

theorem State.segOwned_fixed (x : State) (h : Chain) (r : CopyRec) (g : CSeg) : (x.segOwned h r g).2.fixed = r.fixed := by
  unfold State.segOwned
  split <;> rfl

/-- What moving a segment's bytes comes to. -/
def State.segMoved (s : State) (ck : Nat) (h : Chain) (r : CopyRec) (g : CSeg) : Moved :=
  State.doMoves ck { h with taken := some (s.segOwned h r g).2 } (crKind r.raw == 7) (crLen r.raw) g.moves (s.segOwned h r g).1

section taken
variable (ht : h.taken = some r)
include hh ht

/-! A record that is performed, or that is ending (R237-R240, R249). -/

theorem copyRecordComplete_performs (hst : h.st = .running) (he : r.ending = none)
    (hl : r.left ≠ [] ∨ r.fixes.length = r.fixed) (hd : s.destHere h r) :
    exec .copyRecordComplete s = .next (s.performRecord s.arg.obj h r s.arg.obj2) := by
  have goes : ¬ (h.st ≠ .running ∨ (r.left.isEmpty && r.fixes.length != r.fixed) = true) := by
    rcases hl with hl | hl <;> simp [hst, hl]
  show execCopyRecordComplete s = _
  simp only [execCopyRecordComplete, hh, ht, he, State.destHere_iff.mp hd, if_neg goes, Bool.false_eq_true, if_false]

theorem copyRecordComplete_finishes {e : CopyEnd} (he : r.ending = some e) :
    exec .copyRecordComplete s = .next (s.finishRecord s.arg.obj h r e) := by
  show execCopyRecordComplete s = _
  simp only [execCopyRecordComplete, hh, ht, he]

theorem copyRecordComplete_away (hd : ¬ s.destHere h r) (he : r.ending = none) : exec .copyRecordComplete s
    = if s.isSaved h.cohort then .next s else .next (s.endRecord s.arg.obj h r 0x07 0 0) := by
  rw [State.destHere_iff, Bool.not_eq_false] at hd
  show execCopyRecordComplete s = _
  simp only [execCopyRecordComplete, hh, ht, he, hd, if_true]

/-! A QPUT that waits for a slot (R240). -/

theorem qputRetry_takes (hst : h.st = .waitSlot) (hp : s.partRuns (partOfCtx h.ctx) = true) :
    exec .qputRetry s = .next (s.takeRecord s.arg.obj h r) := by
  show execQputRetry s = _
  simp only [execQputRetry, hh, ht, hst, hp, if_true]

/-! A listed segment (R241). -/

section replay
variable {g : CSeg} (hst : h.st = .running) (he : r.ending = none) (hl : r.left = []) (hg : r.fixes[r.fixed]? = some g)
  (hd : s.destHere h r)
include hst he hl hg hd

theorem copyFixupReplay_fails (hx : (s.fixSeg h.ctx g).2 = false) : exec .copyFixupReplay s
    = .next ((s.fixSeg h.ctx g).1.endRecord s.arg.obj h r 0x0A 0 0) := by
  show execCopyFixupReplay s = _
  simp [execCopyFixupReplay, hh, ht, hst, hg, he, hl, State.destHere_iff.mp hd, hx]

variable (hx : (s.fixSeg h.ctx g).2 = true)
include hx

theorem copyFixupReplay_qput (ha : crAction r.raw = 4) : exec .copyFixupReplay s
    = .next ((s.fixSeg h.ctx g).1.setChain s.arg.obj { h with taken := some { r with fixed := r.fixed + 1 } }) := by
  show execCopyFixupReplay s = _
  simp [execCopyFixupReplay, hh, ht, hst, hg, he, hl, State.destHere_iff.mp hd, hx, ha]

variable (ha : crAction r.raw ≠ 4)
include ha

theorem copyFixupReplay_waits (ho : (s.fixSeg h.ctx g).1.canOwn h r g.moves = false) :
    exec .copyFixupReplay s = .next (s.fixSeg h.ctx g).1 := by
  show execCopyFixupReplay s = _
  simp [execCopyFixupReplay, hh, ht, hst, hg, he, hl, State.destHere_iff.mp hd, hx, ha, ho]

/-- A segment whose pages are there, whose lines can be owned and whose bytes all move is replayed; the last one has the
record's moves done. -/
theorem copyFixupReplay_replays (ho : (s.fixSeg h.ctx g).1.canOwn h r g.moves = true) :
    let x := (s.fixSeg h.ctx g).1
    let z := x.segOwned h r g
    let h' : Chain := { h with taken := some z.2 }
    let y := x.segMoved s.arg.obj h r g
    let r' : CopyRec := { z.2 with bad := r.bad || y.bad, acks := r.acks + y.acks, fixed := r.fixed + 1 }
    y.down = false → y.left = [] → exec .copyFixupReplay s
      = .next (if r.fixes.length = r.fixed + 1 then y.s.movesDone s.arg.obj h' r'
          else y.s.setChain s.arg.obj { h' with taken := some r' }) := by
  intro x z h' y r' hdown hleft
  simp only [h', z, x, y, r', State.segMoved, hst] at hdown hleft ⊢
  show execCopyFixupReplay s = _
  simp only [execCopyFixupReplay, hh, ht, hst, hg, he, hl, State.destHere_iff.mp hd, hx, if_neg ha, ho, ← State.segOwned_eq,
    State.segOwned_fixes, State.segOwned_fixed, hdown, hleft, List.isEmpty_nil, Option.isSome_none, Bool.not_true,
    Bool.or_self, Bool.false_eq_true, if_true, if_false]

end replay
end taken
end events

/-- Settles O51: each event by its own rule above, by the state of the head chain and of its record. -/
theorem copyEvents : Obligations.CopyEvents := by
  intro s ck
  refine ⟨fun h => ⟨copyTakeRecord_idle h, copyRecordComplete_idle h, qputRetry_idle h, copyFixupReplay_idle h,
    copyPageResident_idle h⟩, fun h hh => copyTakeRecord_takes hh, fun h => State.reachRecord_end ck, fun h r hh ht => ?_⟩
  refine ⟨copyRecordComplete_performs hh ht, fun e => copyRecordComplete_finishes hh ht, fun hd he => ?_,
    State.performRecord_done ck, fun hst hp ha hf => ?_, fun hst hg => ?_, fun g hst he hl hg hd => ?_⟩
  · have away := copyRecordComplete_away hh ht hd he
    exact ⟨fun hs => by rwa [hs, if_pos rfl] at away, fun hs => by simpa only [hs, Bool.false_eq_true, if_false] using away⟩
  · rw [qputRetry_takes hh ht hst hp]
    exact ⟨fun _ _ _ hq => congrArg _ (State.takeRecord_position ha hf hq),
      fun _ hq => congrArg _ (State.takeRecord_noRoom ha hf hq), fun _ _ _ hq => congrArg _ (State.takeRecord_refused ha hf hq)⟩
  · refine ⟨copyPageResident_back hh hst hg, fun va hw => ?_⟩
    have fixes := copyPageResident_fixes hh hst hg hw
    exact ⟨fun hx => by rwa [hx, if_pos rfl] at fixes,
      fun hx => by simpa only [hx, Bool.false_eq_true, if_false] using fixes⟩
  · exact ⟨copyFixupReplay_fails hh ht hst he hl hg hd, copyFixupReplay_qput hh ht hst he hl hg hd,
      copyFixupReplay_waits hh ht hst he hl hg hd, copyFixupReplay_replays hh ht hst he hl hg hd⟩

end Sys2Proof.Machine
end

section
/-! SUPPORT. The machine after boot (R373, R419), special registers and the time reads (R34, R35, R331, R332). -/

namespace Sys2Proof.Machine

/-- Settles O5: the state after boot lists no memory and no party, and absent entries read as fresh ones. -/
theorem resetState : Obligations.ResetState :=
  ⟨rfl, fun _ => rfl, rfl, rfl, rfl, rfl, rfl, rfl, rfl, rfl, rfl, rfl, fun _ => ⟨rfl, rfl⟩, fun _ => rfl, rfl, rfl, rfl⟩

section special
variable {s : State} {t : Thread} {d h l : BitVec 6} {v : Word}

/-- A number that the table of R34 lists is read as its value. -/
theorem srGet_gives (hi : Issues s t) (hv : s.srValue s.cur.tid t (srNumber h l) = some v) : GivesS s t (.srGet d h l) d v := by
  show execSrGet d h l s = _
  simp only [execSrGet, onThread_of hi, hv, aluDone]

theorem srGet_faults (hi : Issues s t) (hv : s.srValue s.cur.tid t (srNumber h l) = none) :
    Faults s t (.srGet d h l) 0x01 0 0 := by
  show execSrGet d h l s = _
  simp only [execSrGet, onThread_of hi, hv, faultOut]

theorem srSet_writes {t' : Thread} (hi : Issues s t) (hv : t.srWrite (srNumber h l) (t.S d) = some t') :
    Becomes s (.srSet d h l) t'.step4 := by
  show execSrSet d h l s = _
  simp only [execSrSet, onThread_of hi, hv]

theorem srSet_faults (hi : Issues s t) (hv : t.srWrite (srNumber h l) (t.S d) = none) :
    Faults s t (.srSet d h l) 0x01 0 0 := by
  show execSrSet d h l s = _
  simp only [execSrSet, onThread_of hi, hv, faultOut]

/-- A number that R34 does not list has no value. -/
theorem State.srValue_unlisted (tid : Nat) {n : Nat} (hn : n ∉ [0x000, 0x001, 0x002, 0x003, 0x004, 0x008, 0x009, 0x00A, 0x00B,
    0x00C, 0x00D, 0x00E, 0x010, 0x011, 0x012, 0x020, 0x021, 0x028, 0x029, 0x030, 0x031, 0x032, 0x033, 0x040, 0x041, 0x042,
    0x043, 0x044, 0x050, 0x058, 0x060]) : s.srValue tid t n = none := by
  unfold State.srValue
  split
  case h_32 => rfl
  all_goals exact absurd (by decide) hn

/-- A number that is none of the four writable ones cannot be written (R35). -/
theorem Thread.srWrite_unlisted {n : Nat} (hn : n ≠ 0x020 ∧ n ≠ 0x021 ∧ n ≠ 0x028 ∧ n ≠ 0x029) (v : Word) :
    t.srWrite n v = none := by
  obtain ⟨h20, h21, h28, h29⟩ := hn
  unfold Thread.srWrite
  split
  case h_5 => rfl
  all_goals contradiction

end special

/-- The words of the time reads have zero a and b fields (R332). -/
theorem decodeScalar_time (d : BitVec 6) :
    decodeScalar (0x29#6 ++ d ++ 0#12 ++ 0x00#8) = some (.timeRdtime d)
      ∧ decodeScalar (0x29#6 ++ d ++ 0#12 ++ 0x01#8) = some (.timeRdtick d)
      ∧ decodeScalar (0x29#6 ++ d ++ 0#12 ++ 0x02#8) = some (.timeRdpts d) := by
  have major (c : BitVec 8) : f31_26 (0x29#6 ++ d ++ 0#12 ++ c) = 0x29#6 := by
    simp (disch := decide) only [f31_26, BitVec.extractLsb'_append_eq_of_le, BitVec.extractLsb'_eq_self, Nat.reduceSub]
  have dest (c : BitVec 8) : f25_20 (0x29#6 ++ d ++ 0#12 ++ c) = d := by
    simp (disch := decide) only [f25_20, BitVec.extractLsb'_append_eq_of_le,
      BitVec.extractLsb'_append_eq_of_add_le, BitVec.extractLsb'_eq_self, Nat.reduceSub]
  have fn (c : BitVec 8) : f7_0 (0x29#6 ++ d ++ 0#12 ++ c) = c := by
    simp (disch := decide) only [f7_0, BitVec.extractLsb'_append_eq_of_add_le, BitVec.extractLsb'_eq_self]
  have zeros (c : BitVec 8) : f19_14 (0x29#6 ++ d ++ 0#12 ++ c) = 0 ∧ f13_8 (0x29#6 ++ d ++ 0#12 ++ c) = 0 := by
    simp (disch := decide) only [f19_14, f13_8, BitVec.extractLsb'_append_eq_of_le, Nat.reduceSub,
      BitVec.extractLsb'_append_eq_of_add_le]
    decide
  simp [decodeScalar, decTime, major, dest, fn, zeros]

/-- Settles O12: each listed number by its row of R34, any other by the table's end. -/
theorem specialRegisters : Obligations.SpecialRegisters := by
  refine ⟨?_, ?_⟩
  · intro s t hi d h l n core reads
    have row {m : Nat} {v : Word} (hv : s.srValue s.cur.tid t m = some v) : reads m v :=
      fun e => srGet_gives hi (by rw [show srNumber h l = m from e, hv])
    obtain ⟨rdtime, rdtick, rdpts⟩ := decodeScalar_time d
    refine ⟨row rfl, row rfl, row (congrArg some (setWidth_eq_word _)), row rfl, row rfl, row rfl, row rfl, row ?_,
      row (congrArg some (setWidth_eq_word _)), row rfl, row rfl, fun c hc => ⟨row ?_, row ?_⟩, row rfl, row rfl, row rfl,
      row (congrArg some (setWidth_eq_word _)), row (congrArg some (setWidth_eq_word _)), row rfl, row rfl, row rfl, row rfl,
      row rfl, row rfl, row rfl, row rfl, row rfl, fun c hc => ⟨row ?_, row ?_⟩, row rfl, row rfl,
      fun hn => srGet_faults hi (State.srValue_unlisted _ hn),
      gives_of_aluDone hi (f := fun _ => word s.time) rfl rfl, gives_of_aluDone hi (f := fun _ => word s.tick) rfl rfl,
      gives_of_aluDone hi (f := fun _ => s.ptsRead s.cur.tid) rfl rfl, rdtime, rdtick, rdpts, (decodeScalar_time 5).1⟩
    · rfl
    · simp only [State.srValue, State.asidOf, hc, setWidth_eq_word]
    · simp only [State.srValue, hc, Option.elim_some, setWidth_eq_word]
    · simp only [State.srValue, hc, Option.elim_some]
    · simp only [State.srValue, hc, Option.elim_some]
  · intro s t hi d h l n
    have writes {t' : Thread} {m : Nat} (hv : t.srWrite m (t.S d) = some t') (e : n = m) :
        Becomes s (.srSet d h l) t'.step4 := srSet_writes hi (by rw [show srNumber h l = m from e, hv])
    exact ⟨writes (t' := { t with fpflags := BitVec.ofNat 6 (t.S d).toNat }) rfl,
      writes (t' := { t with fpctl := BitVec.ofNat 5 (t.S d).toNat }) rfl,
      writes (t' := { t with rngkey := t.S d }) rfl, writes (t' := { t with rngctr := t.S d }) rfl,
      fun hn => srSet_faults hi (Thread.srWrite_unlisted hn _)⟩

end Sys2Proof.Machine
end

section
/-! SUPPORT. Lane blocks as the scalar sequencer sees them (R195, R257, R258, R311), and the pools of registers and tiles
(R261, R312). -/

namespace Sys2Proof.Machine

section blocks
variable {s : State} {t : Thread} {d a b : BitVec 6}

/-- A scalar instruction that waits leaves its thread where it stands (R334). -/
theorem Issues.hold (hi : Issues s t) (w : Wait) :
    s.hold s.cur.tid .scalar w = s.setThread s.cur.tid { t with wait := some w } := hi.onLive rfl _

section entry
variable {x : Section} (hi : Issues s t) (hx : s.laneSection t = some x) (hb : b.toNat ≤ 56)
include hi hb

theorem laneLrun_misaligned (ha : (t.S a).toNat % 4 ≠ 0) : Faults s t (.laneLrun a b) 0x04 (t.S a) 0 := by
  show execLaneLrun a b s = _
  simp [execLaneLrun, onThread_of hi, Nat.not_lt.mpr hb, ha, faultOut]

include hx

theorem laneLrun_outside (ha : (t.S a).toNat % 4 = 0) (ho : x.size ≤ (t.S a).toNat) :
    Faults s t (.laneLrun a b) 0x05 (t.S a) 0 := by
  show execLaneLrun a b s = _
  simp [execLaneLrun, onThread_of hi, Nat.not_lt.mpr hb, ha, hx, ho, faultOut]

variable (ha : (t.S a).toNat % 4 = 0) (ho : (t.S a).toNat < x.size)
include ha ho

theorem laneLrun_queues (hl : t.blocks.length < 8) : Becomes s (.laneLrun a b)
    { t.step4 with blocks := t.blocks ++ [{ entry := (t.S a).setWidth 32, args := t.blockArgs b }] } := by
  show execLaneLrun a b s = _
  simp [execLaneLrun, onThread_of hi, Nat.not_lt.mpr hb, ha, hx, Nat.not_le.mpr ho, Thread.lbq, Nat.not_le.mpr hl]

theorem laneLrun_waits (hl : 8 ≤ t.blocks.length) : Becomes s (.laneLrun a b) { t with wait := some .again } := by
  show execLaneLrun a b s = _
  simp [execLaneLrun, onThread_of hi, Nat.not_lt.mpr hb, ha, hx, Nat.not_le.mpr ho, Thread.lbq, hl, hi.hold]

end entry

theorem laneLwait_waits (hi : Issues s t) (hb : b.toNat ≤ 7) (hl : b.toNat < t.blocks.length) :
    Becomes s (.laneLwait b) { t with wait := some .again } := by
  show execLaneLwait b s = _
  simp [execLaneLwait, onThread_of hi, Nat.not_lt.mpr hb, Thread.lbq, Nat.not_le.mpr hl, hi.hold]

/-- With few enough blocks left, what the completed ones have posted is the scalar sequencer's (R195). -/
theorem laneLwait_passes (hi : Issues s t) (hb : b.toNat ≤ 7) (hl : t.blocks.length ≤ b.toNat) :
    ∃ u : State, u.mem = s.mem ∧ (∀ j, j ≠ s.cur.tid → look u.threads j = look s.threads j)
      ∧ BecomesOn s u (.laneLwait b) (t.passed t.uid (fun p => p == Party.past) .scalar).step4 := by
  obtain ⟨hk, he⟩ := issuer_eq_some.mp hi
  obtain ⟨hm, ht⟩ := State.passOps_frame hk he t.uid (fun p => p == Party.past) .scalar
  refine ⟨_, hm, fun j hj => by rw [ht, look_put_ne _ _ hj], ?_⟩
  show execLaneLwait b s = _
  simp only [execLaneLwait, onThread_of hi, Nat.not_lt.mpr hb, if_false, Thread.lbq, hl, if_true,
    State.onLive_of (t := t.passed _ _ _) (ht ▸ look_put_same _ _ _) he]

theorem laneLres_gives (hi : Issues s t) (hb : b.toNat ≤ 7) : GivesS s t (.laneLres d b) d (t.y.get64 b.toNat) := by
  show execLaneLres d b s = _
  simp [execLaneLres, onThread_of hi, Nat.not_lt.mpr hb, aluDone]

end blocks

/-- Settles O20: each instruction in the order of its checks. -/
theorem laneBlockQueue : Obligations.LaneBlockQueue := by
  intro s t hi d a b x hx
  exact ⟨fun hb ha ho => ⟨laneLrun_queues hi hx hb ha ho, laneLrun_waits hi hx hb ha ho⟩, laneLrun_misaligned hi,
    laneLrun_outside hi hx, fun hb => ⟨laneLwait_passes hi hb, laneLwait_waits hi hb⟩, laneLres_gives hi⟩

section pools
variable {s : State} {t : Thread} {c : Cohort} {d k : BitVec 6} (hi : Issues s t) (hn : k.toNat ≠ 0)
include hi hn

theorem poolGive_faults (hv : t.vregs < 8 * k.toNat + 8) : Faults s t (.poolGive d k) 0x0F 0 0 := by
  show execPoolGive d k s = _
  simp [execPoolGive, onThread_of hi, hn, hv, faultOut]

theorem poolClaim_faults (hv : 248 < t.vregs + 8 * k.toNat) : Faults s t (.poolClaim d k) 0x0F 0 0 := by
  show execPoolClaim d k s = _
  simp [execPoolClaim, onThread_of hi, hn, hv, faultOut]

theorem poolTgive_faults (hm : t.tiles.length < k.toNat) : Faults s t (.poolTgive d k) 0x0F 0 0 := by
  show execPoolTgive d k s = _
  simp [execPoolTgive, onThread_of hi, hn, hm, faultOut]

theorem poolTclaim_faults (hm : 8 < t.tiles.length + k.toNat) : Faults s t (.poolTclaim d k) 0x0F 0 0 := by
  show execPoolTclaim d k s = _
  simp [execPoolTclaim, onThread_of hi, hn, hm, faultOut]

variable (hc : look s.cohorts t.cohort = some c)
include hc

theorem poolGive_hands (hv : 8 * k.toNat + 8 ≤ t.vregs) (hb : t.blocks = []) :
    BecomesOn s (s.setCohort t.cohort { c with freeUnits := c.freeUnits + t.slices * k.toNat }) (.poolGive d k)
      ((({ t with vregs := t.vregs - 8 * k.toNat
                  vpoison := t.vpoison.filter (fun x => decide (x % 124 * 2 < t.vregs - 8 * k.toNat)) }
        : Thread).setS d (word (t.vregs - 8 * k.toNat))).step4) := by
  show execPoolGive d k s = _
  simp only [execPoolGive, onThread_of hi, hn, Nat.not_lt.mpr hv, Thread.lbq, hb, List.length_nil, ne_eq, not_true_eq_false,
    if_false, State.setThread_cohorts, hc]
  rfl

theorem poolTgive_hands (hm : k.toNat ≤ t.tiles.length) (hb : t.blocks = [])
    (hf : (upFrom (t.tiles.length - k.toNat) k.toNat).any (s.tileBusy s.cur.tid t.uid) = false) :
    BecomesOn s (s.setCohort t.cohort { c with poolTiles := c.poolTiles
        ++ (t.tiles.drop (t.tiles.length - k.toNat)).reverse.map (fun x => { x with tag := t.slices }) }) (.poolTgive d k)
      ((({ t with tiles := t.tiles.take (t.tiles.length - k.toNat) } : Thread).setS d
        (word (t.tiles.length - k.toNat))).step4) := by
  show execPoolTgive d k s = _
  simp only [execPoolTgive, onThread_of hi, hn, Nat.not_lt.mpr hm, Thread.lbq, hb, hf, List.length_nil, ne_eq,
    not_true_eq_false, Bool.false_eq_true, or_self, if_false, State.setThread_cohorts, hc]
  rfl

/-- A thread that has claimed registers, numbered from VREGS on, with the free values of a birth (R261, log 2). -/
def Thread.claimed (t : Thread) (birth n : Nat) : Thread :=
  { t.undefine birth t.vregs (8 * n) with vregs := t.vregs + 8 * n }

theorem poolClaim_takes (hv : t.vregs + 8 * k.toNat ≤ 248) (hf : c.claimFirst s.cur.tid false = true)
    (hu : t.slices * k.toNat ≤ c.freeUnits) :
    BecomesOn s { s.setCohort t.cohort { c.leaveClaim s.cur.tid with freeUnits := c.freeUnits - t.slices * k.toNat } with
        freeCount := s.freeCount + 1 } (.poolClaim d k)
      (((t.claimed s.freeCount k.toNat).setS d (word (t.vregs + 8 * k.toNat))).step4) := by
  show execPoolClaim d k s = _
  simp only [execPoolClaim, onThread_of hi, hn, Nat.not_lt.mpr hv, if_false, hc, hf, hu, and_self, if_true]
  rfl

theorem poolTclaim_takes (hm : t.tiles.length + k.toNat ≤ 8) (hf : c.claimFirst s.cur.tid true = true)
    (hl : (takeTiles t.slices k.toNat c.poolTiles).1.length = k.toNat) :
    BecomesOn s (s.setCohort t.cohort { c.leaveClaim s.cur.tid with
        poolTiles := (takeTiles t.slices k.toNat c.poolTiles).2 }) (.poolTclaim d k)
      ((({ t with tiles := t.tiles ++ (takeTiles t.slices k.toNat c.poolTiles).1 } : Thread).setS d
        (word (t.tiles.length + k.toNat))).step4) := by
  show execPoolTclaim d k s = _
  simp only [execPoolTclaim, onThread_of hi, hn, Nat.not_lt.mpr hm, if_false, hc, hf, hl, and_self, if_true,
    List.length_append]
  rfl

end pools

/-- Settles O21: each instruction in the order of its checks; a claim's thread and cohort are those it leaves. -/
theorem registerPools : Obligations.RegisterPools := by
  intro s t c hi hc d k n m
  have readsBack (u : Thread) (v : Word) (hd : d ≠ 0) : (u.setS d v).step4.S d = v := by
    rw [Thread.S_step4, Thread.S_setS, if_neg hd, if_pos rfl]
  refine ⟨fun hn => poolGive_faults hi hn, fun hn => poolGive_hands hi hn hc, fun hn => poolClaim_faults hi hn,
    fun hn hv hf hu => ⟨_, _, poolClaim_takes hi hn hc hv hf hu, ?_, readsBack _ _, ?_, rfl, ?_⟩,
    fun hn => poolTgive_faults hi hn, fun hn => poolTgive_hands hi hn hc, fun hn => poolTclaim_faults hi hn,
    fun hn hm hf hl => ⟨_, _, poolTclaim_takes hi hn hc hm hf hl, ?_, ?_, rfl, readsBack _ _⟩⟩
  · simp [Thread.claimed, n]
  · simp [Thread.claimed, Thread.undefine]
  · simp [look_put_same, n]
  · simp [n]
  · simp

end Sys2Proof.Machine
end

section
/-! SUPPORT. The end of a thread (R218, R260, R386, R396): what leaving every waiter list can change, and what stands after. -/

namespace Sys2Proof.Machine

/-- The second machine differs from the first in the flows, the slices' queues, the queues' lists of waiters, the cohorts and
the work put off to the end of a step alone. -/
def Leaves (s u : State) : Prop :=
  ∃ flows slices queues cohorts chores, u = { s with flows, slices, queues, cohorts, chores }

section leaving
variable {s u v : State}

theorem Leaves.refl (s : State) : Leaves s s := ⟨_, _, _, _, _, rfl⟩

theorem Leaves.trans (h : Leaves s u) (k : Leaves u v) : Leaves s v := by
  obtain ⟨_, _, _, _, _, rfl⟩ := h
  obtain ⟨_, _, _, _, _, rfl⟩ := k
  exact ⟨_, _, _, _, _, rfl⟩

theorem Leaves.cur (h : Leaves s u) : u.cur = s.cur := by obtain ⟨_, _, _, _, _, rfl⟩ := h; rfl
theorem Leaves.mem (h : Leaves s u) : u.mem = s.mem := by obtain ⟨_, _, _, _, _, rfl⟩ := h; rfl
theorem Leaves.ctxs (h : Leaves s u) : u.ctxs = s.ctxs := by obtain ⟨_, _, _, _, _, rfl⟩ := h; rfl
theorem Leaves.threads (h : Leaves s u) : u.threads = s.threads := by obtain ⟨_, _, _, _, _, rfl⟩ := h; rfl
theorem Leaves.windows (h : Leaves s u) : u.windows = s.windows := by obtain ⟨_, _, _, _, _, rfl⟩ := h; rfl
theorem Leaves.sysReqs (h : Leaves s u) : u.sysReqs = s.sysReqs := by obtain ⟨_, _, _, _, _, rfl⟩ := h; rfl

theorem State.leaves_askBack (s : State) (uid : Nat) : Leaves s (s.askBack uid) := by
  unfold State.askBack
  split
  · exact ⟨_, _, _, _, _, rfl⟩
  · exact .refl s

theorem State.leaves_putQueue (s : State) (r : QRef) (q : Queue) : Leaves s (s.putQueue r q) := by
  unfold State.putQueue
  cases r with
  | global pa => exact ⟨_, _, _, _, _, rfl⟩
  | scratch ck off =>
    simp only
    split
    · exact ⟨_, _, _, _, _, rfl⟩
    · exact .refl s

theorem State.leaves_resettle (s : State) (r : QRef) (q : Queue) : Leaves s (s.resettle r q) := by
  unfold State.resettle State.addChore
  split
  · exact .refl s
  · exact ⟨_, _, _, _, _, rfl⟩

theorem State.leaves_leaveQueues (tid : Nat) (qs : List (QRef × Queue)) (s : State) : Leaves s (s.leaveQueues tid qs) := by
  unfold State.leaveQueues
  induction qs generalizing s with
  | nil => exact .refl s
  | cons x qs ih =>
    refine Leaves.trans ?_ (ih _)
    dsimp only
    split
    · exact (s.leaves_putQueue _ _).trans (State.leaves_resettle _ _ _)
    · exact .refl s

/-- A thread that leaves every list it waits in changes those lists alone (R229, R334). -/
theorem State.leaves_withdraw (s : State) (tid : Nat) : Leaves s (s.withdraw tid) := by
  unfold State.withdraw
  extract_lets s1 s2 s3 ck
  have h1 : Leaves s s1 := by
    unfold s1
    cases look s.threads tid with
    | none => exact .refl s
    | some t => exact s.leaves_askBack _
  have h2 : Leaves s1 s2 := by
    unfold s2
    split
    · exact ⟨_, _, _, _, _, rfl⟩
    · exact .refl _
  have h3 : Leaves s s3 := (h1.trans h2).trans (State.leaves_leaveQueues _ _ _)
  split
  · exact h3
  · next c _ =>
    refine h3.trans ((State.leaves_leaveQueues tid (c.queues.map (fun q => (QRef.scratch ck q.1, q.2))) s3).trans ?_)
    dsimp only
    split
    · split
      · exact ⟨_, _, _, _, _, rfl⟩
      · exact .refl _
    · exact .refl _

end leaving

/-- A thread that has ended: nothing it waits for, runs, holds or has still to push stands (R386, R396). -/
def Thread.atEnd (t : Thread) (faulted : Bool) : Thread :=
  { t with
    ended := true, faulted, wait := none, blocks := [], running := false, grant := [], reserved := [], emits := []
    sl := t.sl.map (fun x => { x with st := .idle, wait := none, held := false }) }

/-- A machine whose thread has left every list and ended, its reserved positions and its task's account not yet settled. -/
def State.atEnd (s : State) (tid : Nat) (t : Thread) (faulted : Bool) : State :=
  let u := ((s.withdraw tid).setThread tid (t.atEnd faulted)).unpinPages t.grant
  { u with sysReqs := u.sysReqs.filter (fun r => r.uid != t.uid) }

section ended
variable (s : State) (tid : Nat) (t : Thread) (faulted : Bool)

theorem State.atEnd_mem : (s.atEnd tid t faulted).mem = s.mem := by
  simp only [State.atEnd, State.unpinPages, State.setThread_mem, (s.leaves_withdraw tid).mem]

theorem State.atEnd_ctxs : (s.atEnd tid t faulted).ctxs = s.ctxs := by
  simp only [State.atEnd, State.unpinPages, State.setThread_ctxs, (s.leaves_withdraw tid).ctxs]

theorem State.atEnd_windows : (s.atEnd tid t faulted).windows = s.windows := by
  simp only [State.atEnd, State.unpinPages, State.setThread_windows, (s.leaves_withdraw tid).windows]

theorem State.atEnd_threads : (s.atEnd tid t faulted).threads = put s.threads tid (t.atEnd faulted) := by
  simp only [State.atEnd, State.unpinPages, State.setThread_threads, (s.leaves_withdraw tid).threads]

theorem State.atEnd_sysReqs : (s.atEnd tid t faulted).sysReqs = s.sysReqs.filter (fun r => r.uid != t.uid) := by
  simp only [State.atEnd, State.unpinPages, State.setThread_sysReqs, (s.leaves_withdraw tid).sysReqs]

end ended

theorem State.endThread_eq {s : State} {tid : Nat} {t : Thread} (h : look s.threads tid = some t) (faulted : Bool) :
    s.endThread tid faulted = ((s.atEnd tid t faulted).leaveReserved t).taskThreadEnds t faulted := by
  rw [State.endThread, h]
  rfl

/-- A task's account of a thread changes the tasks alone (R291, R329). -/
theorem State.taskThreadEnds_frame (s : State) (t : Thread) (faulted : Bool) :
    ∃ tasks, s.taskThreadEnds t faulted = { s with tasks } := by
  unfold State.taskThreadEnds
  split
  · exact ⟨_, rfl⟩
  · dsimp only
    split
    · exact ⟨_, rfl⟩
    · exact ⟨_, rfl⟩

/-- Positions left behind are work put off or their window's, and nothing else changes (R218). -/
theorem State.leaveReserved_frame (s : State) (t : Thread) :
    ∃ windows chores, s.leaveReserved t = { s with windows, chores } := by
  unfold State.leaveReserved
  split
  · split
    · exact ⟨_, _, rfl⟩
    · exact ⟨_, _, rfl⟩
  · exact ⟨_, _, rfl⟩

/-- The positions of a thread that runs no window step are to be committed by their homes (R218). -/
theorem State.leaveReserved_commits {s : State} {t : Thread} (h : t.step = none) :
    ∀ r ∈ t.reserved, Chore.commit r.1 r.2.1 r.2.2 ∈ (s.leaveReserved t).chores := by
  intro r hr
  simp only [State.leaveReserved, h, Option.bind_none, State.commitReserved]
  exact List.mem_append_right _ (List.mem_map_of_mem hr)

/-- The positions of a window's thread go on with its window (R218). -/
theorem State.leaveReserved_window {s : State} {t : Thread} {st : StepRef} {w : Window} (h : t.step = some st)
    (hw : look s.windows st.win = some w) :
    (look (s.leaveReserved t).windows st.win).map (fun w => w.reserved) = some t.reserved := by
  simp only [State.leaveReserved, h, Option.bind_some, hw, Option.map_some]
  split
  · next e => rw [hw, Option.map_some, ← e]
  · rw [State.setWindow_windows, look_put_same, Option.map_some]

/-- Settles O31: a thread's end withdraws it, marks it ended, then settles its positions and its task's account, and each of
these leaves the fields of the others alone. -/
theorem endOfThread : Obligations.EndOfThread := by
  intro s tid t faulted hl _ x
  obtain ⟨windows, chores, hr⟩ := (s.atEnd tid t faulted).leaveReserved_frame t
  obtain ⟨tasks, ht⟩ := ((s.atEnd tid t faulted).leaveReserved t).taskThreadEnds_frame t faulted
  have hx : x = { (s.atEnd tid t faulted).leaveReserved t with tasks } := (State.endThread_eq hl faulted).trans ht
  have hthreads : x.threads = put s.threads tid (t.atEnd faulted) := by
    rw [hx, hr, State.atEnd_threads]
  refine ⟨?_, ?_, ?_, fun hs r hm => ?_, fun st w hs hk => ?_, t.atEnd faulted, ?_, rfl, rfl, rfl, rfl, rfl, rfl, rfl, rfl,
    rfl, rfl, rfl, fun j hj => ?_⟩
  · rw [hx, hr, State.atEnd_mem]
  · rw [hx, hr, State.atEnd_ctxs]
  · rw [hx, hr, State.atEnd_sysReqs]
  · rw [hx]; exact State.leaveReserved_commits hs r hm
  · rw [hx]; exact State.leaveReserved_window hs (by rw [State.atEnd_windows, hk])
  · rw [hthreads, look_put_same]
  · rw [hthreads, look_put_ne _ _ hj]

end Sys2Proof.Machine
end

section
/-! SUPPORT. Branches of a gang, slice by slice (R255, R256, R302), and the outcome of a branch on one slice (R303-R307). -/

namespace Sys2Proof.Machine

section slices
variable {gs : List Nat} {f : Nat → Slice → Option Slice}

/-- Where every slice has an outcome, the list of the outcomes is what the gang's instruction leaves. -/
theorem actSlices_ok (xs : List Slice) : ∀ (i : Nat) (sl : List Slice), sl.length = xs.length →
    (∀ (j : Nat) (x : Slice), xs[j]? = some x → sl[j]? = if i + j ∈ gs then f (i + j) x else some x) →
    actSlices gs f i xs = .ok sl := by
  induction xs with
  | nil =>
    intro i sl hl _
    rw [List.eq_nil_of_length_eq_zero hl, actSlices]
  | cons x xs ih =>
    intro i sl hl ha
    obtain ⟨y, ys, rfl⟩ := List.exists_cons_of_length_eq_add_one hl
    have head : (if gs.contains i then f i x else some x) = some y := by
      simpa using (ha 0 x rfl).symm
    have tail : actSlices gs f (i + 1) xs = .ok ys := by
      refine ih (i + 1) ys (by simpa using hl) (fun j z hz => ?_)
      have h := ha (j + 1) z hz
      rwa [show i + (j + 1) = i + 1 + j by omega] at h
    rw [actSlices, head, tail]

/-- The first slice without an outcome is the one the gang's instruction fails on. -/
theorem actSlices_error (xs : List Slice) : ∀ (i j : Nat) (x : Slice), xs[j]? = some x → i + j ∈ gs →
    f (i + j) x = none →
    (∀ (k : Nat) (y : Slice), k < j → xs[k]? = some y → i + k ∈ gs → (f (i + k) y).isSome = true) →
    actSlices gs f i xs = .error (i + j) := by
  induction xs with
  | nil => intro i j x hx; simp at hx
  | cons w xs ih =>
    intro i j x hx hm hf hb
    cases j with
    | zero =>
      obtain rfl : w = x := by simpa using hx
      have head : (if gs.contains i then f i w else some w) = none := by simpa [show i ∈ gs from hm] using hf
      rw [actSlices, head]; rfl
    | succ j =>
      have e : i + (j + 1) = i + 1 + j := by omega
      have tail : actSlices gs f (i + 1) xs = .error (i + (j + 1)) := by
        rw [e]
        refine ih (i + 1) j x hx (e ▸ hm) (e ▸ hf) (fun k y hk hy hg => ?_)
        have e' : i + (k + 1) = i + 1 + k := by omega
        exact e' ▸ hb (k + 1) y (by omega) hy (e' ▸ hg)
      have head : ∃ y, (if gs.contains i then f i w else some w) = some y := by
        by_cases hg : i ∈ gs
        · obtain ⟨y, hy⟩ := Option.isSome_iff_exists.mp (hb 0 w (by omega) rfl hg)
          exact ⟨y, by simpa [hg] using hy⟩
        · exact ⟨w, by simp [hg]⟩
      obtain ⟨y, hy⟩ := head
      rw [actSlices, hy, tail]

end slices

section gangs
variable {s : State} {t : Thread} {g : Nat} (hi : Issues s t) (hp : s.cur.party = .gang g)
  (hg : (t.gangSlices g).isEmpty = false)
include hi hp hg

/-- An LB instruction of a gang acts on its slices in order, and the first that fails stops it (R302). -/
theorem lbOp_of (f : Thread → Nat → Slice → Option Slice) : lbOp s f =
    match actSlices (t.gangSlices g) (f t) 0 t.sl with
    | .error i => faultOut s s.cur.tid (gangF t g 0x0C
        (4 * i + ctz 4 (match t.sl[i]? with | some x => x.mask | none => 0).toNat) 0 0)
    | .ok sl => .next (s.setThread s.cur.tid { t with sl := regangDone (partGang (t.gangSlices g) sl) }) := by
  have hi' : issuer s = some t := hi
  simp only [lbOp, hi', hp, hg, Bool.false_eq_true, if_false] <;> rfl

theorem becomes_of_lbOp {i : Instr} {f : Thread → Nat → Slice → Option Slice} (hx : exec i s = lbOp s f) {sl : List Slice}
    (hl : sl.length = t.sl.length) (ha : ∀ (j : Nat) (x : Slice), t.sl[j]? = some x →
      sl[j]? = if j ∈ t.gangSlices g then f t j x else some x) :
    Becomes s i { t with sl := regangDone (partGang (t.gangSlices g) sl) } := by
  have h := actSlices_ok (gs := t.gangSlices g) (f := f t) t.sl 0 sl hl (fun j x hx => by simpa using ha j x hx)
  rw [Becomes, hx, lbOp_of hi hp hg, h]

theorem gangFaults_of_lbOp {i : Instr} {f : Thread → Nat → Slice → Option Slice} (hx : exec i s = lbOp s f) {j : Nat}
    {x : Slice} (hj : t.sl[j]? = some x) (hm : j ∈ t.gangSlices g) (hf : f t j x = none)
    (hb : ∀ (k : Nat) (y : Slice), k < j → t.sl[k]? = some y → k ∈ t.gangSlices g → (f t k y).isSome = true) :
    GangFaults s t g i 0x0C (4 * j + ctz 4 x.mask.toNat) 0 0 := by
  have h := actSlices_error (gs := t.gangSlices g) (f := f t) t.sl 0 j x hj (by simpa using hm) (by simpa using hf)
    (by simpa using hb)
  rw [Nat.zero_add] at h
  rw [GangFaults, hx, lbOp_of hi hp hg, h]
  simp only [hj, faultOut]

end gangs

/-- Settles O39: every LB instruction acts slice by slice; where all have an outcome the gang parts, and the first that has
none faults. -/
theorem laneBranches : Obligations.LaneBranches := by
  intro s t g o hi hp hg gs n does next
  have acts {i : Instr} {f : Thread → Nat → Slice → Option Slice} (hx : exec i s = lbOp s f) : does i (f t) :=
    ⟨fun _ hl ha _ => becomes_of_lbOp hi hp hg hx hl ha, fun _ _ hj hm hf hb => gangFaults_of_lbOp hi hp hg hx hj hm hf hb⟩
  exact ⟨acts (f := fun t i x => brcSlice x (t.cond4 i o) o.im n) rfl,
    acts (f := fun t i x => brkSlice x (t.cond4 i o) o.im n) rfl,
    acts (f := fun t i x => contSlice x (t.cond4 i o) o.im n) rfl, acts (f := fun _ _ x => jmpSlice x o.im n) rfl,
    acts (f := fun _ _ x => some (joinSlice x n)) rfl,
    acts (f := fun _ _ x => some { x with st := .atRegang, skip := n, wait := none }) rfl,
    acts (f := fun _ _ x => some { x with st := .ended, stack := [], mask := 0xF, wait := none }) rfl,
    acts (f := fun _ _ x => some { x with lpc := next x, wait := none }) rfl⟩

end Sys2Proof.Machine
end

section
/-! SUPPORT. The token stack of a slice (R303, R304, R307): the level of a stack with a token more, what Unwind reaches, and
where FindLoop finds or inserts its token. -/

namespace Sys2Proof.Machine

/-! The level of a stack (R303). -/

/-- The level with a token more, from the level two tokens below, the lanes the token below keeps back and the level so far. -/
def Token.levelOn (k : Token) (before below cur : BitVec 4) : BitVec 4 :=
  match k.kind with
  | .ifTok => cur &&& ~~~k.pending
  | .elseTok => before &&& below
  | .loopTok => cur &&& ~~~(k.pending ||| k.exited)

theorem levelFrom_cons (b l c : BitVec 4) (k : Token) (st : List Token) :
    levelFrom b l c (k :: st) = levelFrom c k.pending (k.levelOn b l c) st := rfl

/-- The last token of a stack gives its level, an ELSE token from the level below the token it stands on. -/
theorem levelFrom_append (b l c : BitVec 4) (st : List Token) (k : Token) : ∃ b' l' : BitVec 4,
    levelFrom b l c (st ++ [k]) = k.levelOn b' l' (levelFrom b l c st)
    ∧ (st = [] → b' = b ∧ l' = l)
    ∧ ∀ st' i, st = st' ++ [i] → b' = levelFrom b l c st' ∧ l' = i.pending := by
  induction st generalizing b l c with
  | nil => exact ⟨b, l, rfl, fun _ => ⟨rfl, rfl⟩, fun st' i h => by simp at h⟩
  | cons x xs ih =>
    obtain ⟨b', l', h, hn, hc⟩ := ih c x.pending (x.levelOn b l c)
    refine ⟨b', l', h, fun h => by simp at h, fun st' i e => ?_⟩
    cases st' with
    | nil =>
      obtain ⟨rfl, rfl⟩ : x = i ∧ xs = [] := by simpa using e
      exact hn rfl
    | cons y ys =>
      obtain ⟨rfl, rfl⟩ : x = y ∧ xs = ys ++ [i] := by simpa using e
      exact hc ys i rfl

section level
variable {st : List Token} {k : Token}

theorem level_ifTok (hk : k.kind = .ifTok) : level (st ++ [k]) = level st &&& ~~~k.pending := by
  obtain ⟨_, _, h, -, -⟩ := levelFrom_append 0xF 0 0xF st k
  rw [level, h, Token.levelOn, hk]; rfl

theorem level_loopTok (hk : k.kind = .loopTok) : level (st ++ [k]) = level st &&& ~~~(k.pending ||| k.exited) := by
  obtain ⟨_, _, h, -, -⟩ := levelFrom_append 0xF 0 0xF st k
  rw [level, h, Token.levelOn, hk]; rfl

/-- The ELSE part has the lanes that its IF token kept back. -/
theorem level_elseTok {i : Token} (hk : k.kind = .elseTok) : level (st ++ [i, k]) = level st &&& i.pending := by
  obtain ⟨b', l', h, -, hc⟩ := levelFrom_append 0xF 0 0xF (st ++ [i]) k
  obtain ⟨rfl, rfl⟩ := hc st i rfl
  rw [level, show st ++ [i, k] = st ++ [i] ++ [k] by simp, h, Token.levelOn, hk]; rfl

/-- Below a token that leaves lanes there are lanes. -/
theorem level_below_ne_zero (hk : k.kind ≠ .elseTok) (h : level (st ++ [k]) ≠ 0) : level st ≠ 0 := by
  intro h0
  apply h
  cases hc : k.kind with
  | ifTok => rw [level_ifTok hc, h0]; exact BitVec.zero_and
  | loopTok => rw [level_loopTok hc, h0]; exact BitVec.zero_and
  | elseTok => exact absurd hc hk

end level

/-! Unwind (R307). -/

/-- Unwind with fuel for two turns per token reaches a level with lanes: a turn that pops none clears the PENDING of a LOOP
token, and the next one pops it. -/
theorem unwind_reaches (f : Nat) : ∀ (st : List Token) (pc : BitVec 32),
    2 * st.length ≤ f ∨ 2 * st.length ≤ f + 1 ∧ (∃ r k, st = r ++ [k] ∧ k.pending = 0) →
    level (unwind f st pc).1 ≠ 0 ∧ (unwind f st pc).1.length ≤ st.length := by
  induction f with
  | zero =>
    intro st pc h
    have hl : 2 * st.length ≤ 1 := by rcases h with h | ⟨h, -⟩ <;> omega
    obtain rfl : st = [] := List.eq_nil_of_length_eq_zero (by omega)
    exact ⟨fun h => absurd (show (0xF : BitVec 4) = 0 from h) (by decide), le_rfl⟩
  | succ f ih =>
    intro st pc h
    have hl : 2 * st.length ≤ f + 2 := by rcases h with h | ⟨h, -⟩ <;> omega
    by_cases h0 : level st = 0
    · rcases List.eq_nil_or_concat' st with rfl | ⟨r, k, rfl⟩
      · exact absurd h0 (by decide)
      · rw [List.length_append, List.length_singleton] at hl
        have pops (r' : List Token) (pc' : BitVec 32) (hr : r'.length ≤ r.length) :
            level (unwind f r' pc').1 ≠ 0 ∧ (unwind f r' pc').1.length ≤ (r ++ [k]).length := by
          obtain ⟨h1, h2⟩ := ih r' pc' (.inl (by omega))
          exact ⟨h1, by rw [List.length_append]; omega⟩
        simp only [unwind, h0, ne_eq, not_true_eq_false, if_false, List.getLast?_concat, List.dropLast_concat]
        cases hk : k.kind with
        | ifTok => exact pops r _ le_rfl
        | elseTok => exact pops r.dropLast _ (by rw [List.length_dropLast]; omega)
        | loopTok =>
          simp only
          split
          · next hp =>
            have full : 2 * (r ++ [k]).length ≤ f + 1 := by
              rcases h with h | ⟨-, r', k', e, hz⟩
              · exact h
              · obtain ⟨-, rfl⟩ := List.append_inj' e rfl |>.imp_right (List.cons.inj · |>.1)
                rw [hz] at hp
                exact absurd BitVec.and_zero hp
            obtain ⟨h1, h2⟩ := ih (r ++ [{ k with pending := 0 }]) (k.join - 12)
              (.inr ⟨by simpa using full, r, _, rfl, rfl⟩)
            exact hk ▸ ⟨h1, by simpa using h2⟩
          · exact pops r _ le_rfl
    · rw [unwind, if_pos h0]
      exact ⟨h0, le_rfl⟩

/-- A stack that leaves lanes is kept as it is. -/
theorem unwind_stays {st : List Token} (h : level st ≠ 0) (f : Nat) (pc : BitVec 32) : unwind (f + 1) st pc = (st, pc) := by
  rw [unwind, if_pos h]

theorem Slice.at_of (x : Slice) {st : List Token} (h : level st ≠ 0) (pc : BitVec 32) :
    x.at st pc = { x with stack := st, lpc := pc, mask := level st, wait := none } := by
  rw [Slice.at, unwind_stays h]

/-- A slice that MASK follows the stack of, with lanes left and at most 24 tokens (R254, R303). -/
def Slice.keeps (y : Slice) : Prop := y.mask = level y.stack ∧ y.mask ≠ 0 ∧ y.stack.length ≤ 24

theorem Slice.at_keeps (x : Slice) {st : List Token} (h : st.length ≤ 24) (pc : BitVec 32) : (x.at st pc).keeps := by
  obtain ⟨h1, h2⟩ := unwind_reaches 64 st pc (.inl (by omega))
  exact ⟨rfl, h1, le_trans h2 h⟩

/-! FindLoop (R304). -/

section find
variable {p : Token → Bool} {lo hi : List Token} {k : Token}

/-- The topmost token of a test stands below those the test fails. -/
theorem topmost_append (hh : ∀ h ∈ hi, p h = false) (hk : p k = true) : topmost p (lo ++ k :: hi) = some lo.length := by
  have none_above : hi.reverse.findIdx? p = none := List.findIdx?_eq_none_iff.mpr (fun h hm => hh h (List.mem_reverse.mp hm))
  have e : (lo ++ k :: hi).reverse.findIdx? p = some hi.length := by
    rw [List.reverse_append, List.reverse_cons, List.append_assoc, List.findIdx?_append, none_above]
    simp [List.findIdx?_cons, hk]
  rw [topmost, e]
  simp only [List.length_append, List.length_cons, Option.some.injEq]
  omega

theorem topmost_none {st : List Token} (h : ∀ k ∈ st, p k = false) : topmost p st = none := by
  have e : st.reverse.findIdx? p = none := List.findIdx?_eq_none_iff.mpr (fun k hm => h k (List.mem_reverse.mp hm))
  rw [topmost, e]

/-- A stack has a topmost token of a test, or none at all. -/
theorem exists_topmost (p : Token → Bool) (st : List Token) :
    (∀ k ∈ st, p k = false) ∨ ∃ lo k hi, st = lo ++ k :: hi ∧ p k = true ∧ ∀ h ∈ hi, p h = false := by
  induction st with
  | nil => exact .inl (by simp)
  | cons x xs ih =>
    rcases ih with h | ⟨lo, k, hi, rfl, hk, hh⟩
    · cases hx : p x with
      | true => exact .inr ⟨[], x, xs, rfl, hx, h⟩
      | false => exact .inl (by simpa [hx] using h)
    · exact .inr ⟨x :: lo, k, hi, rfl, hk, hh⟩

/-- One token of a stack changed by its place. -/
theorem zipIdx_map_at (f : Token → Token) :
    ((lo ++ k :: hi).zipIdx.map (fun x => if x.2 = lo.length then f x.1 else x.1)) = lo ++ f k :: hi := by
  refine List.ext_getElem (by simp) (fun i h1 h2 => ?_)
  simp only [List.getElem_map, List.getElem_zipIdx, Nat.zero_add]
  rcases lt_trichotomy i lo.length with h | rfl | h
  · rw [if_neg (by omega), List.getElem_append_left h, List.getElem_append_left h]
  · simp
  · have h' : i ≠ lo.length := by omega
    obtain ⟨d, hd⟩ : ∃ d, i - lo.length = d + 1 := ⟨i - lo.length - 1, by omega⟩
    rw [if_neg h', List.getElem_append_right (by omega), List.getElem_append_right (by omega)]
    simp only [hd, List.getElem_cons_succ]

variable {j : BitVec 32}

theorem loopPos_found (hh : hi.all (fun h => h.kind != .loopTok) = true) (hk : k.kind = .loopTok) (hj : k.join = j) :
    loopPos j (lo ++ k :: hi) = (lo.length, true) := by
  have ht : topmost (fun t => t.kind == .loopTok) (lo ++ k :: hi) = some lo.length :=
    topmost_append (fun h hm => by simpa using List.all_eq_true.mp hh h hm) (by simp [hk])
  rw [loopPos, ht]
  simp [hj]

/-- FindLoop changes the topmost LOOP token where it is the one (R304). -/
theorem findLoop_found (hh : hi.all (fun h => h.kind != .loopTok) = true) (hk : k.kind = .loopTok) (hj : k.join = j)
    (f : Token → Token) : findLoop j (lo ++ k :: hi) f = some (lo ++ f k :: hi) := by
  rw [findLoop, loopPos_found hh hk hj]
  simp only [if_true, zipIdx_map_at]

/-- The place of a new LOOP token: above the topmost token whose JOIN is at or past its own. -/
theorem insertAt_eq (hh : hi.all (fun h => decide (h.join < j)) = true) (hl : ∀ k, lo.getLast? = some k → j ≤ k.join) :
    loopPos.insertAt j (lo ++ hi) = lo.length := by
  have above : ∀ h ∈ hi, decide (j ≤ h.join) = false := fun h hm =>
    decide_eq_false (BitVec.not_le.mpr (of_decide_eq_true (List.all_eq_true.mp hh h hm)))
  rcases List.eq_nil_or_concat' lo with rfl | ⟨l, k, rfl⟩
  · rw [List.nil_append, loopPos.insertAt, topmost_none above]; rfl
  · have at_ : decide (j ≤ k.join) = true := decide_eq_true (hl k (by simp))
    rw [List.append_assoc, List.singleton_append, loopPos.insertAt, topmost_append above at_]
    simp

theorem loopPos_missing (hn : ∀ (l' h' : List Token) (k : Token), lo ++ hi = l' ++ k :: h' →
      h'.all (fun h => h.kind != .loopTok) = true → k.kind = .loopTok → k.join ≠ j)
    (hh : hi.all (fun h => decide (h.join < j)) = true) (hl : ∀ k, lo.getLast? = some k → j ≤ k.join) :
    loopPos j (lo ++ hi) = (lo.length, false) := by
  rw [← insertAt_eq hh hl, loopPos]
  rcases exists_topmost (fun t => t.kind == .loopTok) (lo ++ hi) with h | ⟨l', k, h', e, hk, hb⟩
  · rw [topmost_none h]
  · have hj : k.join ≠ j := hn l' h' k e (List.all_eq_true.mpr (fun h hm => by simpa using hb h hm)) (by simpa using hk)
    rw [e, topmost_append hb hk]
    simp [hj]

/-- Elsewhere FindLoop inserts a LOOP token, unless the stack is full (R304). -/
theorem findLoop_missing (hn : ∀ (l' h' : List Token) (k : Token), lo ++ hi = l' ++ k :: h' →
      h'.all (fun h => h.kind != .loopTok) = true → k.kind = .loopTok → k.join ≠ j)
    (hh : hi.all (fun h => decide (h.join < j)) = true) (hl : ∀ k, lo.getLast? = some k → j ≤ k.join)
    (f : Token → Token) : findLoop j (lo ++ hi) f
      = if 24 ≤ (lo ++ hi).length then none else some (lo ++ f (loopToken j) :: hi) := by
  rw [findLoop, loopPos_missing hn hh hl]
  simp

/-- FindLoop never leaves more than 24 tokens. -/
theorem findLoop_length {st st' : List Token} (hs : st.length ≤ 24) {f : Token → Token} (h : findLoop j st f = some st') :
    st'.length ≤ 24 := by
  rw [findLoop] at h
  split at h
  · cases h; simpa using hs
  · split at h
    · cases h
    · next hn =>
      cases h
      simp only [List.length_append, List.length_cons, List.length_take, List.length_drop]
      omega

end find

end Sys2Proof.Machine
end

section
/-! SUPPORT. What each branch makes of one slice (R304-R307): the outcomes of a back edge by the stack it finds, every outcome
within the slice's invariant, and each case of a slice with lanes. -/

namespace Sys2Proof.Machine

/-- Lanes that neither meet a condition nor fail it are none. -/
theorem lanes_eq_zero {m c : BitVec 4} (hn : m &&& ~~~c = 0) (hy : m &&& c = 0) : m = 0 := by
  revert m c; decide

theorem lanes_without (m c : BitVec 4) : m &&& ~~~(m &&& c) = m &&& ~~~c := by
  revert m c; decide

/-- The stack a back edge to a LOOP token's JOIN begins with: the token at the top has nothing PENDING (R304). -/
def backStack (j : BitVec 32) (st : List Token) : List Token :=
  if topLoop j st then
    (match st.getLast? with | some t => st.dropLast ++ [{ t with pending := 0 }] | none => st)
  else st

theorem backStack_other {j : BitVec 32} {st : List Token} (h : topLoop j st = false) : backStack j st = st := by
  rw [backStack, h]; rfl

theorem topLoop_concat {j : BitVec 32} {st : List Token} {k : Token} (hk : k.kind = .loopTok) (hj : k.join = j) :
    topLoop j (st ++ [k]) = true := by
  simp [topLoop, hk, hj]

theorem backStack_concat {j : BitVec 32} {st : List Token} {k : Token} (hk : k.kind = .loopTok) (hj : k.join = j) :
    backStack j (st ++ [k]) = st ++ [{ k with pending := 0 }] := by
  simp [backStack, topLoop_concat hk hj]

theorem backStack_length {j : BitVec 32} (st : List Token) : (backStack j st).length = st.length := by
  rcases List.eq_nil_or_concat' st with rfl | ⟨r, k, rfl⟩
  · rfl
  · unfold backStack
    split <;> simp

section outcomes
variable {x y : Slice} {c : BitVec 4} {im : BitVec 32} {n : Nat}

theorem brcSlice_forward (hp : 0 < im.toInt) : brcSlice x c im n =
    if x.mask &&& ~~~c = 0 then some (x.at x.stack (x.lpc + im))
    else if x.mask &&& c = 0 then some (x.at x.stack (x.lpc + BitVec.ofNat 32 n))
    else if 24 ≤ x.stack.length then none
    else some (x.at (x.stack ++ [{ kind := .ifTok, pending := x.mask &&& c, exited := 0, join := x.lpc + im }])
      (x.lpc + BitVec.ofNat 32 n)) := by
  rw [brcSlice, if_pos hp]

theorem brcSlice_back (hp : im.toInt ≤ 0) : brcSlice x c im n =
    (let next := x.lpc + BitVec.ofNat 32 n
    let st := backStack next x.stack
    if level st &&& ~~~c = 0 then some (x.at st (x.lpc + im))
    else if level st &&& c = 0 then some (x.at (if topLoop next x.stack then st.dropLast else st) next)
    else (findLoop next st (fun t => { t with exited := t.exited ||| (level st &&& ~~~c) })).map
      (fun st => x.at st (x.lpc + im))) := by
  rw [brcSlice, if_neg (Int.not_lt.mpr hp)]
  rfl

/-! Every outcome keeps the slice's invariant. -/

theorem keeps_of_at {st : List Token} (h : st.length ≤ 24) {pc : BitVec 32} (e : some (x.at st pc) = some y) : y.keeps := by
  cases e; exact x.at_keeps h pc

theorem keeps_of_findLoop {j pc : BitVec 32} {st : List Token} {f : Token → Token} (h : st.length ≤ 24)
    (e : (findLoop j st f).map (fun st => x.at st pc) = some y) : y.keeps := by
  obtain ⟨st', hs, rfl⟩ := Option.map_eq_some_iff.mp e
  exact x.at_keeps (findLoop_length h hs) pc

section kept
variable (hl : x.stack.length ≤ 24)
include hl

theorem take_length_le (k : Nat) : (x.stack.take k).length ≤ 24 := by rw [List.length_take]; omega

theorem brcSlice_keeps (h : brcSlice x c im n = some y) : y.keeps := by
  rcases lt_or_ge 0 im.toInt with hp | hp
  · rw [brcSlice_forward hp] at h
    split at h
    · exact keeps_of_at hl h
    split at h
    · exact keeps_of_at hl h
    split at h
    · cases h
    · exact keeps_of_at (by rw [List.length_append, List.length_singleton]; omega) h
  · rw [brcSlice_back hp] at h
    extract_lets next st at h
    have hs : st.length ≤ 24 := (backStack_length _).trans_le hl
    split at h
    · exact keeps_of_at hs h
    split at h
    · refine keeps_of_at ?_ h
      split
      · rw [List.length_dropLast]; omega
      · exact hs
    · exact keeps_of_findLoop hs h

theorem brkSlice_keeps (h : brkSlice x c im n = some y) : y.keeps := by
  unfold brkSlice at h
  dsimp only at h
  split at h
  · exact keeps_of_at hl h
  split at h
  · exact keeps_of_at (take_length_le hl _) h
  · exact keeps_of_findLoop hl h

theorem contSlice_keeps (h : contSlice x c im n = some y) : y.keeps := by
  unfold contSlice at h
  extract_lets j next out p tok lanes keep at h
  split at h
  · exact keeps_of_at hl h
  split at h
  · exact keeps_of_at (take_length_le hl _) h
  · exact keeps_of_findLoop hl h

theorem jmpSlice_keeps (h : jmpSlice x im n = some y) : y.keeps := by
  unfold jmpSlice at h
  extract_lets next at h
  split at h
  · split at h
    · split at h
      · cases h
      · exact keeps_of_at (by rw [List.length_append, List.length_singleton]; omega) h
    · exact keeps_of_at hl h
  · exact keeps_of_at hl h

theorem joinSlice_keeps : (joinSlice x n).keeps := by
  unfold joinSlice
  extract_lets next
  split
  · split
    · refine x.at_keeps ?_ _
      split
      · rw [List.length_dropLast, List.length_dropLast]; omega
      · rw [List.length_dropLast]; omega
    · exact x.at_keeps hl _
  · exact x.at_keeps hl _

end kept

/-! The outcomes of a slice with lanes whose MASK is the level of its stack. -/

/-- A slice on another stack at another lane PC, its MASK that stack's level. -/
def Slice.onto (x : Slice) (st : List Token) (pc : BitVec 32) : Slice :=
  { x with stack := st, lpc := pc, mask := level st, wait := none }

theorem map_at_of_findLoop {r : Option (List Token)} {st : List Token} {pc : BitVec 32} (hr : r = some st)
    (h : level st ≠ 0) : r.map (fun st => x.at st pc) = some (x.onto st pc) := by
  rw [hr, Option.map_some, x.at_of h]; rfl

section stack
variable (hx : x.mask = level x.stack) (h0 : x.mask ≠ 0)
include hx h0

/-- With its stack as it is, a slice with lanes moves its lane PC alone. -/
theorem Slice.at_stack (pc : BitVec 32) : x.at x.stack pc = { x with lpc := pc, wait := none } := by
  rw [x.at_of (hx ▸ h0), ← hx]

theorem brcSlice_forward_all (hp : 0 < im.toInt) (hn : x.mask &&& ~~~c = 0) :
    brcSlice x c im n = some { x with lpc := x.lpc + im, wait := none } := by
  rw [brcSlice_forward hp, if_pos hn, Slice.at_stack hx h0]

theorem brcSlice_forward_none (hp : 0 < im.toInt) (hy : x.mask &&& c = 0) :
    brcSlice x c im n = some { x with lpc := x.lpc + BitVec.ofNat 32 n, wait := none } := by
  rw [brcSlice_forward hp, if_neg (fun hn => h0 (lanes_eq_zero hn hy)), if_pos hy, Slice.at_stack hx h0]

omit h0 in
/-- Some lanes branch: they are kept back in an IF token (R304). -/
theorem brcSlice_forward_some (hp : 0 < im.toInt) (hn : x.mask &&& ~~~c ≠ 0) (hy : x.mask &&& c ≠ 0)
    (hl : x.stack.length < 24) : brcSlice x c im n = some { x with
      lpc := x.lpc + BitVec.ofNat 32 n
      wait := none
      mask := x.mask &&& ~~~c
      stack := x.stack ++ [{ kind := .ifTok, pending := x.mask &&& c, exited := 0, join := x.lpc + im }] } := by
  have hm : level (x.stack ++ [{ kind := .ifTok, pending := x.mask &&& c, exited := 0, join := x.lpc + im }])
      = x.mask &&& ~~~c := by
    rw [level_ifTok rfl, ← hx]
    exact lanes_without x.mask c
  rw [brcSlice_forward hp, if_neg hn, if_neg hy, if_neg (Nat.not_le.mpr hl), x.at_of (hm ▸ hn), hm]

omit hx h0 in
theorem brcSlice_forward_full (hp : 0 < im.toInt) (hn : x.mask &&& ~~~c ≠ 0) (hy : x.mask &&& c ≠ 0)
    (hl : 24 ≤ x.stack.length) : brcSlice x c im n = none := by
  rw [brcSlice_forward hp, if_neg hn, if_neg hy, if_pos hl]

section other
variable (hp : im.toInt ≤ 0) (ht : topLoop (x.lpc + BitVec.ofNat 32 n) x.stack = false)
include hp ht

theorem brcSlice_back_all (hn : x.mask &&& ~~~c = 0) :
    brcSlice x c im n = some { x with lpc := x.lpc + im, wait := none } := by
  rw [brcSlice_back hp]
  simp only [backStack_other ht, ← hx, hn, if_true, Slice.at_stack hx h0]

theorem brcSlice_back_none (hy : x.mask &&& c = 0) :
    brcSlice x c im n = some { x with lpc := x.lpc + BitVec.ofNat 32 n, wait := none } := by
  have hn : x.mask &&& ~~~c ≠ 0 := fun hn => h0 (lanes_eq_zero hn hy)
  rw [brcSlice_back hp]
  simp only [backStack_other ht, ← hx, hn, if_false, hy, if_true, ht, Bool.false_eq_true, Slice.at_stack hx h0]

omit h0 in
theorem brcSlice_back_some (hn : x.mask &&& ~~~c ≠ 0) (hy : x.mask &&& c ≠ 0) : brcSlice x c im n =
    (findLoop (x.lpc + BitVec.ofNat 32 n) x.stack (fun k => { k with exited := k.exited ||| (x.mask &&& ~~~c) })).map
      (fun st => x.at st (x.lpc + im)) := by
  rw [brcSlice_back hp]
  simp only [backStack_other ht, ← hx, hn, if_false, hy]

end other

theorem brkSlice_stays (hy : x.mask &&& c = 0) :
    brkSlice x c im n = some { x with lpc := x.lpc + BitVec.ofNat 32 n, wait := none } := by
  rw [brkSlice]
  simp only [hy, if_true, Slice.at_stack hx h0]

theorem contSlice_stays (hy : x.mask &&& c = 0) :
    contSlice x c im n = some { x with lpc := x.lpc + BitVec.ofNat 32 n, wait := none } := by
  rw [contSlice]
  simp only [hy, if_true, Slice.at_stack hx h0]

theorem jmpSlice_moves (hk : ∀ k, x.stack.getLast? = some k → k.kind = .ifTok → k.join ≠ x.lpc + BitVec.ofNat 32 n) :
    jmpSlice x im n = some { x with lpc := x.lpc + im, wait := none } := by
  unfold jmpSlice
  split
  · next k e => rw [if_neg (fun h => hk k e h.1 h.2), Slice.at_stack hx h0]
  · rw [Slice.at_stack hx h0]

theorem joinSlice_moves (hk : ∀ k, x.stack.getLast? = some k → k.join ≠ x.lpc) :
    joinSlice x n = { x with lpc := x.lpc + BitVec.ofNat 32 n, wait := none } := by
  unfold joinSlice
  split
  · next k e => rw [if_neg (hk k e), Slice.at_stack hx h0]
  · rw [Slice.at_stack hx h0]

/-- A join at the point of the token at the top pops it (R306). -/
theorem joinSlice_pops {st : List Token} {k : Token} (hs : x.stack = st ++ [k]) (hj : k.join = x.lpc)
    (hk : k.kind ≠ .elseTok) : joinSlice x n = x.onto st (x.lpc + BitVec.ofNat 32 n) := by
  have below : level st ≠ 0 := level_below_ne_zero hk (hs ▸ hx ▸ h0)
  rw [joinSlice, hs]
  simp only [List.getLast?_concat, hj, if_true, hk, if_false, List.dropLast_concat, x.at_of below]
  rfl

/-- A join at the point of an ELSE token pops it with the IF token below (R306). -/
theorem joinSlice_popsElse {st : List Token} {i k : Token} (hs : x.stack = st ++ [i, k]) (hj : k.join = x.lpc)
    (hk : k.kind = .elseTok) : joinSlice x n = x.onto st (x.lpc + BitVec.ofNat 32 n) := by
  have below : level st ≠ 0 := by
    intro hz
    rw [hx, hs, level_elseTok hk, hz] at h0
    exact h0 BitVec.zero_and
  have hs' : x.stack = st ++ [i] ++ [k] := by rw [hs, List.append_assoc, List.singleton_append]
  rw [joinSlice, hs']
  simp only [List.getLast?_concat, hj, if_true, hk, List.dropLast_concat, x.at_of below]
  rfl

end stack

section loop
variable {st : List Token} {k : Token} (hp : im.toInt ≤ 0) (hs : x.stack = st ++ [k]) (hk : k.kind = .loopTok)
  (hj : k.join = x.lpc + BitVec.ofNat 32 n)
include hp hs hk hj

/-- A back edge whose LOOP token is at the top begins its next turn (R304). -/
theorem brcSlice_loop : brcSlice x c im n =
    (let back := st ++ [{ k with pending := 0 }]
    if level back &&& ~~~c = 0 then some (x.at back (x.lpc + im))
    else if level back &&& c = 0 then some (x.at st (x.lpc + BitVec.ofNat 32 n))
    else some (x.at (st ++ [{ k with pending := 0, exited := k.exited ||| (level back &&& ~~~c) }]) (x.lpc + im))) := by
  have found (f : Token → Token) : findLoop (x.lpc + BitVec.ofNat 32 n) (st ++ [{ k with pending := 0 }]) f
      = some (st ++ [f { k with pending := 0 }]) :=
    findLoop_found (hi := []) (k := { k with pending := 0 }) rfl hk hj f
  rw [brcSlice_back hp]
  simp only [hs, backStack_concat hk hj, topLoop_concat hk hj, if_true, List.dropLast_concat, found, Option.map_some]

theorem brcSlice_loop_all (hn : level (st ++ [{ k with pending := 0 }]) &&& ~~~c = 0)
    (hb : level (st ++ [{ k with pending := 0 }]) ≠ 0) :
    brcSlice x c im n = some (x.onto (st ++ [{ k with pending := 0 }]) (x.lpc + im)) := by
  rw [brcSlice_loop hp hs hk hj]
  simp only [if_pos hn, x.at_of hb]
  rfl

theorem brcSlice_loop_none (hy : level (st ++ [{ k with pending := 0 }]) &&& c = 0)
    (hb : level (st ++ [{ k with pending := 0 }]) ≠ 0) (hst : level st ≠ 0) :
    brcSlice x c im n = some (x.onto st (x.lpc + BitVec.ofNat 32 n)) := by
  rw [brcSlice_loop hp hs hk hj]
  simp only [if_neg (fun hn => hb (lanes_eq_zero hn hy)), if_pos hy, x.at_of hst]
  rfl

theorem brcSlice_loop_some (hn : level (st ++ [{ k with pending := 0 }]) &&& ~~~c ≠ 0)
    (hy : level (st ++ [{ k with pending := 0 }]) &&& c ≠ 0) (ho : level (st ++ [{ k with
      pending := 0, exited := k.exited ||| (level (st ++ [{ k with pending := 0 }]) &&& ~~~c) }]) ≠ 0) :
    brcSlice x c im n = some (x.onto (st ++ [{ k with
      pending := 0, exited := k.exited ||| (level (st ++ [{ k with pending := 0 }]) &&& ~~~c) }]) (x.lpc + im)) := by
  rw [brcSlice_loop hp hs hk hj]
  simp only [if_neg hn, if_neg hy, x.at_of ho]
  rfl

end loop

section leaving
variable (hc : x.mask &&& c ≠ 0)
include hc

theorem brkSlice_leaves : brkSlice x c im n =
    (let p := loopPos (x.lpc + im) x.stack
    if level (x.stack.take p.1) &&& ~~~(tokenAt x.stack p (x.lpc + im)).exited &&& ~~~(x.mask &&& c) = 0 then
      some (x.at (x.stack.take p.1) (x.lpc + im))
    else (findLoop (x.lpc + im) x.stack (fun k => { k with exited := k.exited ||| (x.mask &&& c) })).map
      (fun st => x.at st (x.lpc + BitVec.ofNat 32 n))) := by
  rw [brkSlice]
  simp only [if_neg hc]

/-- The lanes that a `lb.cont` sets aside are the last of their turn (R305). -/
def turnOver (x : Slice) (c : BitVec 4) (j : BitVec 32) : Prop :=
  let p := loopPos j x.stack
  level (x.stack.take p.1) &&& ~~~(tokenAt x.stack p j).exited &&& ~~~(x.mask &&& c) &&& ~~~(tokenAt x.stack p j).pending = 0
    ∧ (x.stack.drop (if p.2 then p.1 + 1 else p.1)).all (fun k => k.kind == .loopTok) = true

theorem contSlice_over (ht : turnOver x c (x.lpc + im)) : contSlice x c im n =
    (let p := loopPos (x.lpc + im) x.stack
    some (x.at (x.stack.take (if p.2 then p.1 + 1 else p.1)) (x.lpc + im - 12))) := by
  rw [contSlice]
  simp only [if_neg hc]
  exact if_pos ht

theorem contSlice_waits (ht : ¬ turnOver x c (x.lpc + im)) : contSlice x c im n =
    (findLoop (x.lpc + im) x.stack (fun k => { k with pending := k.pending ||| (x.mask &&& c) })).map
      (fun st => x.at st (x.lpc + BitVec.ofNat 32 n)) := by
  rw [contSlice]
  simp only [if_neg hc]
  exact if_neg ht

end leaving

section jump
variable {st : List Token} {k : Token} (hs : x.stack = st ++ [k]) (hk : k.kind = .ifTok)
  (hj : k.join = x.lpc + BitVec.ofNat 32 n)
include hs hk hj

theorem jmpSlice_full (hl : 24 ≤ x.stack.length) : jmpSlice x im n = none := by
  rw [hs] at hl
  rw [jmpSlice, hs]
  simp only [List.getLast?_concat, hk, hj, and_self, if_true, hl]

/-- A jump at the else point begins the ELSE part with the lanes the IF token kept back (R306). -/
theorem jmpSlice_else (hl : x.stack.length < 24) (hm : level st &&& k.pending ≠ 0) : jmpSlice x im n = some { x with
    lpc := x.lpc + BitVec.ofNat 32 n
    wait := none
    stack := x.stack ++ [{ kind := .elseTok, pending := 0, exited := 0, join := x.lpc + im }]
    mask := level st &&& k.pending } := by
  have he : level (x.stack ++ [{ kind := .elseTok, pending := 0, exited := 0, join := x.lpc + im }])
      = level st &&& k.pending := by
    rw [hs, List.append_assoc, List.singleton_append, level_elseTok rfl]
  have hl' : ¬ 24 ≤ x.stack.length := Nat.not_le.mpr hl
  have last : x.stack.getLast? = some k := by rw [hs, List.getLast?_concat]
  rw [jmpSlice, last]
  simp only [hk, hj, and_self, if_true, hl', if_false, x.at_of (he ▸ hm), he]

end jump
end outcomes

/-- Settles O40: the invariant by the reach of Unwind, the two cases of FindLoop, and the outcomes one by one. -/
theorem branchOutcomes : Obligations.BranchOutcomes := by
  refine ⟨?_, fun j lo hi k f hh hk hj => findLoop_found hh hk hj f,
    fun j lo hi f hn hh hl => ⟨fun h => ?_, fun h => ?_⟩, ?_⟩
  · rintro x y c im n - - hl (h | h | h | h | rfl)
    · exact brcSlice_keeps hl h
    · exact brkSlice_keeps hl h
    · exact contSlice_keeps hl h
    · exact jmpSlice_keeps hl h
    · exact joinSlice_keeps hl
  · rw [findLoop_missing hn hh hl, if_neg (Nat.not_le.mpr h)]; rfl
  · rw [findLoop_missing hn hh hl, if_pos h]
  · intro x c im n hx h0 next goes
    refine ⟨brcSlice_forward_all hx h0, brcSlice_forward_none hx h0, brcSlice_forward_some hx, brcSlice_forward_full,
      brcSlice_back_all hx h0, brcSlice_back_none hx h0, ?_, ?_,
      fun hc => ⟨brkSlice_stays hx h0 hc, contSlice_stays hx h0 hc⟩,
      ?_, jmpSlice_moves hx h0, fun st k hs hk hj => ⟨jmpSlice_full hs hk hj, jmpSlice_else hs hk hj⟩,
      joinSlice_moves hx h0, fun st k => joinSlice_pops hx h0, fun st i k => joinSlice_popsElse hx h0⟩
    · intro hp ht hn hy r
      have hb : brcSlice x c im n = r.map (fun st => x.at st (x.lpc + im)) := brcSlice_back_some hx hp ht hn hy
      exact ⟨fun hr => by rw [hb, hr, Option.map_none], fun st hr hl => hb.trans (map_at_of_findLoop hr hl)⟩
    · intro st k hp hs hk hj back
      refine ⟨brcSlice_loop_all hp hs hk hj, brcSlice_loop_none hp hs hk hj, ?_⟩
      intro hn hy on ho
      exact brcSlice_loop_some hp hs hk hj hn hy ho
    · intro hc p k lanes keep stays waits turn
      refine ⟨fun hz hl => ?_, fun hz => ?_, fun ht hl => ?_, fun ht => ?_⟩
      · rw [brkSlice_leaves hc]
        exact (if_pos hz).trans (congrArg some (x.at_of hl _))
      · have hb : brkSlice x c im n = stays.map (fun st => x.at st next) := (brkSlice_leaves hc).trans (if_neg hz)
        exact ⟨fun hr => by rw [hb, hr, Option.map_none], fun st hr hl => hb.trans (map_at_of_findLoop hr hl)⟩
      · rw [contSlice_over hc ht]
        exact congrArg some (x.at_of hl _)
      · have hb : contSlice x c im n = waits.map (fun st => x.at st next) := contSlice_waits hc ht
        exact ⟨fun hr => by rw [hb, hr, Option.map_none], fun st hr hl => hb.trans (map_at_of_findLoop hr hl)⟩

end Sys2Proof.Machine
end

section
/-! SUPPORT. The TASK instructions (R286-R295, R327-R330): what each does, case by case. -/

namespace Sys2Proof.Machine

/-- The fields of a handle's die (R285). -/
theorem hDie_eq (h : Word) : hDie h = h.toNat % 4 := by simp [hDie, bits]

/-- A release with nothing to wait for leaves the machine as it is (R182, R216). -/
theorem Quiet.release {s : State} {t : Thread} (h : Quiet s t) : s.release t.uid = (s, true) :=
  State.release_quiet h.posted h.engines h.remote

section tasks
variable {s : State} {t : Thread} {d a : BitVec 6}

section foreign
variable (hi : Issues s t) (hp : hPart (t.S a) ≠ partOfCtx t.ctx)
include hi hp

theorem taskNote_foreign : Faults s t (.taskNote a) 0x14 (t.S a) 0 := by
  show execTaskNote a s = _
  simp only [execTaskNote, onThread_of hi, hp, ne_eq, not_false_eq_true, if_true, faultOut]

theorem taskTquery_foreign : Faults s t (.taskTquery d a) 0x14 (t.S a) 0 := by
  show execTaskTquery d a s = _
  simp only [execTaskTquery, onThread_of hi, hp, ne_eq, not_false_eq_true, if_true, faultOut]

end foreign

section own
variable (hi : Issues s t) (hp : hPart (t.S a) = partOfCtx t.ctx) (hb : (t.S a).toNat < 2 ^ 38)
include hi hp hb

theorem taskNote_sends (hq : Quiet s t) : BecomesOn s (s.sendDecrement (t.S a) false) (.taskNote a) t.dirty.step4 := by
  show execTaskNote a s = _
  have here : (s.sendDecrement (t.S a) false).threads = s.threads := rfl
  simp only [execTaskNote, onThread_of hi, hp, ne_eq, not_true_eq_false, if_false, Nat.not_le.mpr hb, hq.release,
    Bool.not_true, Bool.false_eq_true, hi.onLive here]

theorem taskTquery_gives : GivesS s t (.taskTquery d a) d (word (s.taskWord (t.S a))) := by
  show execTaskTquery d a s = _
  simp only [execTaskTquery, onThread_of hi, hp, ne_eq, not_true_eq_false, if_false, Nat.not_le.mpr hb, aluDone]

end own

/-- A decrement stands last of those on their way to its die (R290). -/
theorem State.decs_sendDecrement (s : State) (h : Word) (failed : Bool) :
    ((s.sendDecrement h failed).dieAt (h.toNat % 4)).decs = (s.dieAt (h.toNat % 4)).decs ++ [(h, failed)] := by
  simp only [State.sendDecrement, hDie_eq, State.dieAt, State.setDie_dies, look_put_same, Option.getD_some]

theorem taskRnext_faults (hi : Issues s t) (hr : t.ranged = false) : Faults s t (.taskRnext d) 0x0D 0 0 := by
  show execTaskRnext d s = _
  simp [execTaskRnext, onThread_of hi, hr, faultOut]

section piece
variable {p : Piece} (hi : Issues s t) (hr : t.ranged = true) (hg : (s.taskAt (hKey t.task)).gen.toNat = hGen t.task)
  (hp : (s.taskAt (hKey t.task)).pieces[t.piece]? = some p)
include hi hr hg hp

theorem taskRnext_ends (hc : p.hi ≤ p.cur) :
    Becomes s (.taskRnext d) (((t.setS d (BitVec.allOnes 64)).dirty).step4) := by
  show execTaskRnext d s = _
  simp only [execTaskRnext, onThread_of hi, hr, not_true_eq_false, if_false, hg, if_true, hp, hc, hi.onLive rfl]
  rfl

/-- The cursor of the thread's piece moves by the grain of its packet (R295). -/
theorem taskRnext_moves (hc : p.cur < p.hi) :
    BecomesOn s (s.setTask (hKey t.task) { s.taskAt (hKey t.task) with
        pieces := setNth (s.taskAt (hKey t.task)).pieces t.piece
          { p with cur := p.cur + pkGrain (s.taskAt (hKey t.task)).packet } }) (.taskRnext d)
      (((t.setS d (wordI p.cur)).dirty).step4) := by
  show execTaskRnext d s = _
  simp only [execTaskRnext, onThread_of hi, hr, not_true_eq_false, if_false, hg, if_true, hp, Int.not_le.mpr hc,
    hi.onLive (State.setTask_threads s _ _)]

end piece

/-- A thread whose own posted reductions are owed to the task it leaves (R329). -/
def Thread.owing (t : Thread) : Thread :=
  { t with redBuf := t.redBuf.map (fun r => if r.uid = t.uid then { r with owed := true } else r) }

/-- Operations marked as owed change no byte of memory, and of the threads only their own (R329). -/
theorem State.oweOps_frame {tid : Nat} (hl : look s.threads tid = some t) (he : t.ended = false) :
    (s.oweOps tid t.uid).mem = s.mem ∧ (s.oweOps tid t.uid).threads = put s.threads tid t.owing := by
  unfold State.oweOps
  extract_lets owe hit s1 s2 s3
  have h1 : s1.mem = s.mem ∧ s1.threads = s.threads := by
    unfold s1
    split <;> exact ⟨rfl, rfl⟩
  have h2 : s2.mem = s1.mem ∧ s2.threads = s1.threads := by
    unfold s2
    split <;> exact ⟨rfl, rfl⟩
  have h3 : s3 = s2.setThread tid t.owing := State.onLive_of (by rwa [h2.2, h1.2]) he _
  exact ⟨by rw [h3, State.setThread_mem, h2.1, h1.1], by rw [h3, State.setThread, h2.2, h1.2]⟩

theorem taskDone_faults (hi : Issues s t) (h : t.step.isSome = true ∨ t.detached = true) :
    Faults s t .taskDone 0x0D 0 0 := by
  show execTaskDone s = _
  simp only [execTaskDone, onThread_of hi, h, if_true, faultOut]

/-- A thread that detaches leaves its task's account, and what it has posted stays owed to the task (R329). -/
theorem taskDone_detaches (hi : Issues s t) (hs : t.step = none) (hd : t.detached = false) :
    ∃ u : State, exec .taskDone s = .next u ∧ u.mem = s.mem
      ∧ look u.threads s.cur.tid = some { t.owing.step4 with detached := true } := by
  obtain ⟨hl, he⟩ := issuer_eq_some.mp hi
  obtain ⟨hm, ht⟩ := State.oweOps_frame hl he
  have stays : ¬ (t.step.isSome = true ∨ t.detached = true) := by simp [hs, hd]
  have hx : exec .taskDone s = execTaskDone s := rfl
  rw [hx, execTaskDone, onThread_of hi, if_neg stays]
  extract_lets k ts s1
  have hm1 : s1.mem = s.mem := (State.setTask_mem _ _ _).trans hm
  have ht1 : s1.threads = put s.threads s.cur.tid t.owing := (State.setTask_threads _ _ _).trans ht
  clear_value s1
  obtain ⟨tasks, hf⟩ := s1.taskThreadEnds_frame t false
  have here : look (s1.taskThreadEnds t false).threads s.cur.tid = some t.owing := by
    simp only [hf, ht1, look_put_same]
  refine ⟨_, rfl, ?_, ?_⟩
  · simp only [State.onLive_mem, hf, hm1]
  · rw [State.onLive_of here he, look_setThread]

/-- A spawn that has its packet and its release takes the lowest free slot (R286, R328). -/
theorem spawnCopied_takes {z : State} {b : List Byte} {slot tid : Nat} {p : Word} (hz : s.release t.uid = (z, true))
    (hf : z.freeSlot (dieOfCore (coreOf tid)) = some slot) : spawnCopied s tid t d p b =
      (let r := z.acceptPacket (dieOfCore (coreOf tid)) slot t.ctx b p (pkPrio b) none
      .next (r.2.onLive tid (fun t => ((t.setS d r.1).dirty).step4))) := by
  simp only [spawnCopied, hz, Bool.not_true, Bool.false_eq_true, if_false, hf]

theorem taskSpawn_copied (hi : Issues s t) {b : List Byte} {w : Bool} (hw : t.wait = some (.spawn b w)) :
    exec (.taskSpawn d a) s = spawnCopied s s.cur.tid t d (t.S a) b := by
  show execTaskSpawn d a s = _
  simp only [execTaskSpawn, onThread_of hi, hw]

theorem taskSpawn_copies {s1 s2 : State} {w0 b : List Byte} {n : Nat} (hi : Issues s t)
    (hw : ∀ b' w, t.wait ≠ some (.spawn b' w)) (ha : (t.S a).toNat % 8 = 0) (hk : s.check t (t.S a) 8 .read false = none)
    (hl : s.loadT s.cur.tid t (t.S a).toNat 8 = .ok (w0, s1)) (hn : pkLen (leNat w0) = some n)
    (hk1 : s1.check t (t.S a) n .read false = none) (hl1 : s1.loadT s.cur.tid t (t.S a).toNat n = .ok (b, s2))
    (hp : packetOk b = true) : exec (.taskSpawn d a) s = spawnCopied s2 s.cur.tid t d (t.S a) b := by
  show execTaskSpawn d a s = _
  rw [execTaskSpawn, onThread_of hi]
  split
  · next e => exact absurd e (hw _ _)
  · simp only [ha, ne_eq, not_true_eq_false, if_false, hk, hl, accOut, hn, hk1, hl1, hp, Bool.not_true, Bool.false_eq_true]

end tasks

/-- Settles O27: each instruction in the order of its checks; a spawn by what it has copied. -/
theorem taskInstructions : Obligations.TaskInstructions := by
  intro s s1 s2 t hi d a tid h
  refine ⟨fun hp => ⟨taskNote_foreign hi hp, taskTquery_foreign hi hp⟩,
    fun hp hb hq => ⟨taskNote_sends hi hp hb hq, s.decs_sendDecrement h false⟩, fun hp hb => taskTquery_gives hi hp hb,
    taskRnext_faults hi,
    fun p hr hg hp => ⟨taskRnext_ends hi hr hg hp, fun hc => ⟨_, taskRnext_moves hi hr hg hp hc, rfl, rfl, ?_⟩⟩,
    fun hs hd => taskDone_detaches hi hs hd, taskDone_faults hi, ?_, ?_⟩
  · simp only [State.taskAt, State.setTask_tasks, look_put_same, Option.getD_some]
  · intro w0 b n slot z hw ha hk hl hn hk1 hl1 hp hz hf r
    exact (taskSpawn_copies hi hw ha hk hl hn hk1 hl1 hp).trans (spawnCopied_takes hz hf)
  · intro b w slot z hw hz hf r
    exact (taskSpawn_copied hi hw).trans (spawnCopied_takes hz hf)

end Sys2Proof.Machine
end

section
/-! SUPPORT. `sync.wait` (R315, R316), the barriers (R317-R319) and the SYS instructions (R364-R366, R393-R397). -/

namespace Sys2Proof.Machine

section waits
variable {s : State} {t : Thread} {d a b : BitVec 6}

/-- The deadline of a `sync.wait` that has none yet: after its timeout in reference ticks, none for the largest (R316). -/
def State.freshDeadline (s : State) (t : Thread) (b : BitVec 6) : Option Nat :=
  if (t.S b).toNat % 2 ^ 48 = 2 ^ 48 - 1 then none else some (s.tick + (t.S b).toNat % 2 ^ 48)

/-- The deadline of a `sync.wait` as it issues: one that a save withdrew keeps its own (R316, R334). -/
def State.deadlineOf (s : State) (t : Thread) (b : BitVec 6) : Option Nat :=
  match t.wait with
  | some (.resync k) => k
  | _ => s.freshDeadline t b

/-- A wait that passes its checks is evaluated at once (R316). -/
theorem syncWait_evaluates (hi : Issues s t) (hk : s.syncCheck s.cur.tid t a b = none) : exec (.syncWait d a b) s =
    match s.syncEval s.cur.tid t a b (s.deadlineOf t b) with
    | .returns m => .next (s.syncReturn s.cur.tid d (t.conds a) m)
    | .corrupt addr m => faultOut s s.cur.tid (scalarF t 0x08 addr (word m))
    | .waits => .next (s.hold s.cur.tid .scalar (.sync d a b (s.deadlineOf t b))) := by
  have hx : exec (.syncWait d a b) s = execSyncWait d a b s := rfl
  have hn : bits (t.S b).toNat 47 0 = (t.S b).toNat % 2 ^ 48 := by simp [bits]
  rw [hx, execSyncWait, onThread_of hi]
  simp only [hn, hk] <;> rfl

/-- Whether the conditions of a wait are met as it asks: any of them, or with ALL every one that is not NONE (R316). -/
def State.condsMet (s : State) (tid : Nat) (t : Thread) (a b : BitVec 6) : Prop :=
  ((t.S b).getLsbD 63 = false ∧ s.condMask tid t (t.conds a) ≠ 0)
    ∨ ((t.S b).getLsbD 63 = true ∧ s.condMask tid t (t.conds a) = wantMask (t.conds a))

section intact
variable (hc : (t.conds a).all (fun c => (s.condCorrupt t c).isNone) = true)
include hc

theorem find_corrupt_eq_none : (t.conds a).find? (fun c => (s.condCorrupt t c).isSome) = none := by
  rw [List.find?_eq_none]
  intro c hm
  have h := List.all_eq_true.mp hc c hm
  rw [Option.isNone_iff_eq_none.mp h]
  simp

theorem syncEval_met (tid : Nat) (dl : Option Nat) (hm : s.condsMet tid t a b) :
    s.syncEval tid t a b dl = .returns (s.condMask tid t (t.conds a)) := by
  unfold State.syncEval
  simp only [find_corrupt_eq_none hc, Bool.not_eq_true]
  exact if_pos hm

theorem syncEval_unmet (tid : Nat) (dl : Option Nat) (hm : ¬ s.condsMet tid t a b) : s.syncEval tid t a b dl =
    match dl with
    | some n => if n ≤ s.tick then .returns 0 else .waits
    | none => .waits := by
  unfold State.syncEval
  simp only [find_corrupt_eq_none hc, Bool.not_eq_true]
  exact (if_neg hm).trans rfl

theorem syncEval_zero (tid : Nat) (hm : ¬ s.condsMet tid t a b) (hn : (t.S b).toNat % 2 ^ 48 = 0) :
    s.syncEval tid t a b (s.freshDeadline t b) = .returns 0 := by
  rw [syncEval_unmet hc tid _ hm, State.freshDeadline, if_neg (by omega), hn]
  simp

theorem syncEval_later (tid : Nat) (hm : ¬ s.condsMet tid t a b) (hn : (t.S b).toNat % 2 ^ 48 ≠ 0) :
    s.syncEval tid t a b (s.freshDeadline t b) = .waits := by
  rw [syncEval_unmet hc tid _ hm, State.freshDeadline]
  split
  · next e =>
    split at e
    · cases e
    · cases e; rw [if_neg (by omega)]
  · rfl

end intact
end waits

/-- Settles O28: one evaluation decides, and of intact queues it is the mask, then the deadline. -/
theorem syncWaits : Obligations.SyncWaits := by
  intro s t hi d a b hk n fresh deadline m
  have hd : s.deadlineOf t b = deadline := rfl
  refine ⟨fun m' he => ?_, fun he => ?_, ?_⟩
  · rw [syncWait_evaluates hi hk, hd, he]
  · rw [Becomes, syncWait_evaluates hi hk, hd, he]
    exact congrArg _ (hi.hold _)
  · intro hc all met
    exact ⟨syncEval_met hc _ _, syncEval_zero hc _, syncEval_later hc _⟩

end Sys2Proof.Machine
end

section
/-! SUPPORT. Barriers in a cohort's registers and in memory (R317-R319): an arrival as it latches a count and ends a phase, what
an access leaves of its line's name, and each instruction. -/

namespace Sys2Proof.Machine

/-! A line that has been accessed stands in L2 under its name (R159, R161, R186). -/

section named
variable {s u : State} {ctx va pa : Nat}

/-- The line of an address stands in L2 under its name. -/
def State.isNamed (s : State) (ctx va : Nat) : Prop := (s.lineNamed (s.asidOf ctx) (va / 128)).isSome = true

theorem State.place_of_isNamed (h : s.isNamed ctx va) : ∃ pa, s.place ctx va = .byte pa := by
  obtain ⟨x, hx⟩ := Option.isSome_iff_exists.mp h
  exact ⟨_, State.place_named hx⟩

theorem State.asidOf_congr (h : u.ctxs = s.ctxs) (ctx : Nat) : u.asidOf ctx = s.asidOf ctx := by
  simp only [State.asidOf, h]

theorem State.isNamed_congr (hl : u.l2 = s.l2) (hc : u.ctxs = s.ctxs) : u.isNamed ctx va ↔ s.isNamed ctx va := by
  simp only [State.isNamed, State.lineNamed, hl, State.asidOf_congr hc]

/-- A line of L2 with an address's name names it. -/
theorem State.isNamed_of_look {pl : Nat} {l : L2Line} (h : look s.l2 pl = some l) (ha : l.asid = s.asidOf ctx)
    (hv : l.vline = va / 128) : s.isNamed ctx va := by
  rw [State.isNamed, State.lineNamed, List.find?_isSome]
  exact ⟨(pl, l), mem_of_look h, by simp [ha, hv]⟩

/-- A fill leaves the line of its byte in L2 under the address's name (R161, R186). -/
theorem State.look_fillLine (s : State) (ctx va pa die : Nat) : ∃ l : L2Line,
    look (s.fillLine ctx va pa die).l2 (pa / 128) = some l ∧ l.asid = s.asidOf ctx ∧ l.vline = va / 128 := by
  have entered (v : State) (old : L2Line) : ∃ l : L2Line,
      look (v.enterLine ctx va (pa / 128) die old).l2 (pa / 128) = some l ∧ l.asid = v.asidOf ctx ∧ l.vline = va / 128 := by
    unfold State.enterLine
    extract_lets w ch v1 v2 region
    have h1 : v1.ctxs = v.ctxs := (v.touches_missCount ctx va ch die).ctxs
    have h2 : v2.ctxs = v.ctxs := by
      unfold v2
      split
      · exact h1
      · exact h1
    exact ⟨_, look_put_same _ _ _, State.asidOf_congr h2 ctx, rfl⟩
  unfold State.fillLine
  extract_lets pl
  split
  · next l hl =>
    split
    · next h => exact ⟨l, hl, h.1, h.2⟩
    · exact entered (s.dropLine pl) l
  · exact entered s _

/-- A store leaves the line of its byte in L2 under the address's name (R175). -/
theorem State.writeTouch_isNamed (s : State) (a : Asker) (ctx va pa : Nat) (before : Option (Nat × Nat)) :
    (s.writeTouch a ctx va pa before).isNamed ctx va := by
  have hc : (s.writeTouch a ctx va pa before).asidOf ctx = s.asidOf ctx :=
    State.asidOf_congr (State.writeTouch_ctxs _ _ _ _ _ _) ctx
  obtain ⟨l, hl, ha, hv⟩ := (s.leaveQueue ctx va).look_fillLine ctx va pa a.die
  rw [State.asidOf_congr (s.touches_leaveQueue ctx va).ctxs] at ha
  have stands : ∃ l' : L2Line, look (s.writeTouch a ctx va pa before).l2 (pa / 128) = some l' ∧ l'.asid = l.asid
      ∧ l'.vline = l.vline := by
    unfold State.writeTouch
    simp only [hl]
    cases a with
    | core n => exact ⟨_, look_put_same _ _ _, rfl, rfl⟩
    | unit d => exact ⟨_, look_put_same _ _ _, rfl, rfl⟩
  obtain ⟨l', hl', ha', hv'⟩ := stands
  exact State.isNamed_of_look hl' (by rw [ha', ha, hc]) (by rw [hv', hv])

theorem State.writeChunk_isNamed (s : State) (a : Asker) (ctx va pa : Nat) (before : Option (Nat × Nat)) (bs : List Byte) :
    (s.writeChunk a ctx va pa before bs).isNamed ctx va := by
  simpa only [State.writeChunk, State.unpoison, State.isNamed, State.lineNamed, State.asidOf] using s.writeTouch_isNamed a ctx va pa before

/-- Bytes written within one line leave it in L2 under the address's name. -/
theorem State.writeBytes_isNamed {a : Asker} {bs : List Byte} (h0 : 0 < bs.length) (h : va % 128 + bs.length ≤ 128)
    (hw : s.writeBytes a ctx va bs = .ok u) : u.isNamed ctx va := by
  rw [State.writeBytes, State.writeAfter, chunks_one va bs.length h0 h, State.reachAll] at hw
  cases hr : s.reach ctx va with
  | fault c => simp [accAll, hr] at hw
  | wait => simp [accAll, hr] at hw
  | ok pa =>
    simp only [accAll, hr, State.writeChunks, Acc.ok.injEq] at hw
    rw [← hw]
    exact s.writeChunk_isNamed a ctx va pa none _

/-- An arrival at an aligned object leaves its line in L2 under the address's name (R318). -/
theorem State.arriveMem_isNamed {a : Asker} {n : Option (BitVec 16)} {old : Barrier} (ha : va % 16 = 0)
    (hw : s.arriveMem a ctx va n = .ok (old, u)) : u.isNamed ctx va := by
  unfold State.arriveMem at hw
  split at hw
  · dsimp only at hw
    split at hw
    · next he =>
      obtain ⟨rfl, rfl⟩ := Prod.mk.inj (Acc.ok.inj hw)
      have hl (l : Barrier) : l.bytes.length = 6 := by simp [Barrier.bytes]
      exact State.writeBytes_isNamed (by rw [hl]; decide) (by rw [hl]; omega) he
    · cases hw
    · cases hw
  · cases hw
  · cases hw

end named

/-! An arrival's barrier (R318). -/

section arrival
variable {l : Barrier} {n : BitVec 16}

/-- The barrier after an arrival that carries the latched count, or the first one. -/
def Barrier.counted (l : Barrier) (n : BitVec 16) : Barrier :=
  if n.toNat ≤ (l.arrived + 1).toNat then { phase := l.phase + 1, count := 0, arrived := 0 }
  else { phase := l.phase, count := n, arrived := l.arrived + 1 }

theorem Barrier.arrive_counts (hn : n ≠ 0) (hc : l.count = 0 ∨ l.count = n) : l.arrive (some n) = l.counted n := by
  have e : (if l.count = 0 then (some n).getD 0 else l.count) = n := by
    rcases hc with h | h
    · rw [if_pos h]; rfl
    · rw [h, if_neg hn]
  simp only [Barrier.arrive, Barrier.counted, e, hn, ne_eq, not_false_eq_true, true_and]

/-- The phase arrived in has passed once the arrivals have reached the count, and not before. -/
theorem phaseReached_counted : phaseReached (l.counted n).phase (l.phase + 1) = decide (n.toNat ≤ (l.arrived + 1).toNat) := by
  unfold Barrier.counted phaseReached
  split
  · next h => rw [BitVec.sub_self, decide_eq_true h]; rfl
  · next h =>
    have e : l.phase - (l.phase + 1) = 0xFFFF#16 := by
      generalize l.phase = p
      bv_omega
    rw [e, decide_eq_false h]; rfl

end arrival

section registers
variable {s : State} {t : Thread} {c : Cohort} {d a b : BitVec 6} (hi : Issues s t) (hk : barOk (t.S a) = true)
  (hm : barMem (t.S a) = false)
include hi hk hm

theorem syncBphase_register (hc : look s.cohorts t.cohort = some c) : GivesS s t (.syncBphase d a) d
    ((c.barAt (barName (t.S a))).state 0) := by
  show execSyncBphase d a s = _
  simp only [execSyncBphase, onThread_of hi, hk, hm, Bool.not_true, Bool.false_eq_true, if_false, State.cohortOf, hc,
    Option.elim_some, aluDone]

section init
variable (hc : look s.cohorts t.cohort = some c) (hb : (t.S b).toNat < 2 ^ 16)
include hc hb

theorem syncBinit_busy (hz : (c.barAt (barName (t.S a))).arrived ≠ 0) : Faults s t (.syncBinit a b) 0x0D 0 0 := by
  show execSyncBinit a b s = _
  simp only [execSyncBinit, onThread_of hi, hk, hm, Bool.not_true, Bool.false_eq_true, if_false, Bool.false_or,
    decide_eq_true_eq, Nat.not_le.mpr hb, hc, hz, ne_eq, not_false_eq_true, if_true, faultOut]

theorem syncBinit_sets (hz : (c.barAt (barName (t.S a))).arrived = 0) : BecomesOn s
    (s.setCohort t.cohort { c with bars := put c.bars (barName (t.S a)) ⟨(t.S b).setWidth 16, 0, 0⟩ }) (.syncBinit a b)
    t.step4 := by
  show execSyncBinit a b s = _
  simp only [execSyncBinit, onThread_of hi, hk, hm, Bool.not_true, Bool.false_eq_true, if_false, Bool.false_or,
    decide_eq_true_eq, Nat.not_le.mpr hb, hc, hz, ne_eq, not_true_eq_false, hi.onLive (State.setCohort_threads s _ _)]

end init

end registers

section arrive
variable {s : State} {t : Thread} {d a b : BitVec 6}

/-- An arrival's end on a machine whose thread stands as it was: d takes the phase arrived in, and with WAIT the thread blocks
until that has passed (R318). -/
theorem State.arriveDone_of {u : State} {tid : Nat} (hu : look u.threads tid = some t) (he : t.ended = false) (w : Word)
    (p : BitVec 16) (waits : Bool) : u.arriveDone tid d w p waits = u.setThread tid
      (if waits = true ∧ ((u.barPeer t w).isSome = true ∨ phaseReached (u.phaseOf t w) (p + 1) = false) then
        { (t.setS d (word p.toNat)).dirty with wait := some (.phase w p) }
      else (t.setS d (word p.toNat)).dirty.step4) := by
  have hp (v : Word) : u.barPeer (t.setS d v).dirty w = u.barPeer t w := by simp [State.barPeer, Thread.dirty]
  have hf (v : Word) : u.phaseOf (t.setS d v).dirty w = u.phaseOf t w := by
    simp [State.phaseOf, State.cohortOf, Thread.dirty]
  simp only [State.arriveDone, State.onLive_of hu he, setWidth_eq_word, hp, hf, Thread.block, Bool.not_eq_true]

variable (hi : Issues s t) (hk : barOk (t.S a) = true) (hn : BitVec.ofNat 16 (t.S b).toNat ≠ 0)
  (hb : (t.S b).toNat < 2 ^ 17)

section guard
include hk hn hb

/-- The checks of an arrival's operands (R42, R318). -/
theorem arrive_operands :
    (!barOk (t.S a) || decide (2 ^ 17 ≤ (t.S b).toNat) || (t.S b).setWidth 16 == (0 : BitVec 16)) = false := by
  have hz : ((t.S b).setWidth 16 == (0 : BitVec 16)) = false := beq_false_of_ne hn
  rw [hk, hz, decide_eq_false (Nat.not_le.mpr hb)]
  rfl

end guard

section register
variable {c : Cohort} (hm : barMem (t.S a) = false) (hq : Quiet s t) (hc : look s.cohorts t.cohort = some c)
include hi hk hn hb hm hq hc

/-- An arrival that passes its checks meets the register of its cohort (R318). -/
theorem syncArrive_register : exec (.syncArrive d a b) s =
    (let n : BitVec 16 := BitVec.ofNat 16 (t.S b).toNat
    let l := c.barAt (barName (t.S a))
    if l.count != 0 && l.count != n then
      faultOut s s.cur.tid (scalarF t 0x0B (word (barName (t.S a))) (word (l.count.toNat * 2 ^ 16 + n.toNat)))
    else .next ((s.setCohort t.cohort { c with bars := put c.bars (barName (t.S a)) (l.arrive (some n)) }).arriveDone
      s.cur.tid d (t.S a) l.phase ((t.S b).getLsbD 16))) := by
  have hx : exec (.syncArrive d a b) s = execSyncArrive d a b s := rfl
  have h1 : s.arrivalBusy t (t.S a) = false := by simp [State.arrivalBusy, hm]
  have h2 : s.arrivalPriv (coreOf s.cur.tid) t (t.S a) = false := by simp [State.arrivalPriv, hm]
  rw [hx, execSyncArrive, onThread_of hi]
  simp only [h1, h2, arrive_operands hk hn hb, hm, Bool.false_eq_true, if_false, hq.release, if_true, hc]
  rfl

theorem syncArrive_miscounts (h : (c.barAt (barName (t.S a))).count ≠ 0
      ∧ (c.barAt (barName (t.S a))).count ≠ BitVec.ofNat 16 (t.S b).toNat) :
    Faults s t (.syncArrive d a b) 0x0B (word (barName (t.S a)))
      (word ((c.barAt (barName (t.S a))).count.toNat * 2 ^ 16 + (BitVec.ofNat 16 (t.S b).toNat).toNat)) := by
  rw [Faults, syncArrive_register hi hk hn hb hm hq hc]
  exact if_pos (by simpa using h)

/-- An arrival that is counted: the phase ends with the last, and one that is not and waits stays blocked (R318). -/
theorem syncArrive_counts (h : (c.barAt (barName (t.S a))).count = 0
      ∨ (c.barAt (barName (t.S a))).count = BitVec.ofNat 16 (t.S b).toNat) :
    let n : BitVec 16 := BitVec.ofNat 16 (t.S b).toNat
    let l := c.barAt (barName (t.S a))
    let t' := (t.setS d (word l.phase.toNat)).dirty
    BecomesOn s (s.setCohort t.cohort { c with bars := put c.bars (barName (t.S a)) (l.counted n) }) (.syncArrive d a b)
      (if (t.S b).getLsbD 16 = true ∧ ¬ n.toNat ≤ (l.arrived + 1).toNat
        then { t' with wait := some (.phase (t.S a) l.phase) } else t'.step4) := by
  intro n l t'
  obtain ⟨hl, he⟩ := issuer_eq_some.mp hi
  have counts : (l.count != 0 && l.count != n) = false := by
    rcases h with h | h
    · rw [show l.count = 0 from h]; rfl
    · rw [show l.count = n from h]; simp
  have here : look (s.setCohort t.cohort { c with bars := put c.bars (barName (t.S a)) (l.arrive (some n)) }).threads s.cur.tid
      = some t := hl
  have peer (u : State) : u.barPeer t (t.S a) = none := by simp [State.barPeer, hm]
  have phase : (s.setCohort t.cohort { c with bars := put c.bars (barName (t.S a)) (l.counted n) }).phaseOf t (t.S a)
      = (l.counted n).phase := by
    simp [State.phaseOf, hm, State.cohortOf, look_put_same, Cohort.barAt]
  rw [BecomesOn, syncArrive_register hi hk hn hb hm hq hc]
  refine (if_neg (by rw [counts]; decide)).trans (congrArg Host.Outcome.next ?_)
  rw [State.arriveDone_of here he, l.arrive_counts hn h, peer, phase, phaseReached_counted]
  simp only [Option.isSome_none, Bool.false_eq_true, false_or, decide_eq_false_iff_not]
  rfl

end register

section memory
variable {pa : Nat} (hm : barMem (t.S a) = true)
  (hck : s.check t (word (barName (t.S a))) 16 .atomic true = none) (hp : s.place t.ctx (barName (t.S a)) = .byte pa)
  (hw : s.mustWait t.ctx (barName (t.S a)) pa = false) (hz : s.poisoned pa 16 = false)
include hi hm hck hp hw hz

theorem syncArrive_denied (hs : s.barrierAdmits t.ctx (coreOf s.cur.tid)
      (barrierScope (s.peekBytes t.ctx (barName (t.S a)) 16)) = false) :
    Faults s t (.syncArrive d a b) 0x14 (word (barName (t.S a))) 0 := by
  have hx : exec (.syncArrive d a b) s = execSyncArrive d a b s := rfl
  have h1 : s.arrivalBusy t (t.S a) = false := by simp [State.arrivalBusy, State.reach_byte hp hw]
  have h2 : s.arrivalPriv (coreOf s.cur.tid) t (t.S a) = true := by
    simp [State.arrivalPriv, hm, hck, State.reach_byte hp hw, hz, hs]
  rw [Faults, hx, execSyncArrive, onThread_of hi]
  simp only [h1, h2, Bool.false_eq_true, if_false, if_true, faultOut]

variable (hs : s.barrierAdmits t.ctx (coreOf s.cur.tid)
    (barrierScope (s.peekBytes t.ctx (barName (t.S a)) 16)) = true) (hq : Quiet s t)
  (hport : s.portHeld (coreOf s.cur.tid) = false)
include hk hn hb hs hq hport

/-- An arrival that passes its checks meets the barrier object at its home (R318). -/
theorem syncArrive_object : exec (.syncArrive d a b) s =
    (let n : BitVec 16 := BitVec.ofNat 16 (t.S b).toNat
    let k := barName (t.S a)
    let l := barrierOf (s.peekBytes t.ctx k 16)
    if l.count != 0 && l.count != n then
      faultOut s s.cur.tid (scalarF t 0x0B (word k) (word (l.count.toNat * 2 ^ 16 + n.toNat)))
    else accOut s s.cur.tid t .scalar (word k) 16 (s.arriveMem (.core (coreOf s.cur.tid)) t.ctx k (some n)) (fun r =>
      .next (r.2.arriveDone s.cur.tid d (t.S a) r.1.phase ((t.S b).getLsbD 16)))) := by
  have hx : exec (.syncArrive d a b) s = execSyncArrive d a b s := rfl
  have h1 : s.arrivalBusy t (t.S a) = false := by simp [State.arrivalBusy, State.reach_byte hp hw]
  have h2 : s.arrivalPriv (coreOf s.cur.tid) t (t.S a) = false := by
    simp [State.arrivalPriv, State.reach_byte hp hw, hs]
  rw [hx, execSyncArrive, onThread_of hi]
  simp only [h1, h2, arrive_operands hk hn hb, hm, Bool.false_eq_true, if_false, if_true, hck, hp, hq.release, hport,
    State.reach_byte hp hw, hz, Bool.not_false, Bool.and_true]
  rfl

theorem syncArrive_objectMiscounts (h : (barrierOf (s.peekBytes t.ctx (barName (t.S a)) 16)).count ≠ 0
      ∧ (barrierOf (s.peekBytes t.ctx (barName (t.S a)) 16)).count ≠ BitVec.ofNat 16 (t.S b).toNat) :
    Faults s t (.syncArrive d a b) 0x0B (word (barName (t.S a)))
      (word ((barrierOf (s.peekBytes t.ctx (barName (t.S a)) 16)).count.toNat * 2 ^ 16
        + (BitVec.ofNat 16 (t.S b).toNat).toNat)) := by
  rw [Faults, syncArrive_object hi hk hn hb hm hck hp hw hz hs hq hport]
  exact if_pos (by simpa using h)

/-- An arrival at an object is counted at its home, and one that waits stays blocked until the phase has passed (R318). -/
theorem syncArrive_objectCounts {s2 : State} {old : Barrier} (ha : barName (t.S a) % 16 = 0)
    (h : (barrierOf (s.peekBytes t.ctx (barName (t.S a)) 16)).count = 0
      ∨ (barrierOf (s.peekBytes t.ctx (barName (t.S a)) 16)).count = BitVec.ofNat 16 (t.S b).toNat)
    (hr : s.arriveMem (.core (coreOf s.cur.tid)) t.ctx (barName (t.S a)) (some (BitVec.ofNat 16 (t.S b).toNat))
      = .ok (old, s2)) (hl : look s2.threads s.cur.tid = some t) :
    let t' := (t.setS d (word old.phase.toNat)).dirty
    let ended := phaseReached (s2.phaseOf t (t.S a)) (old.phase + 1)
    BecomesOn s s2 (.syncArrive d a b) (if (t.S b).getLsbD 16 = true ∧ (s2.barPeer t (t.S a)).isNone = true ∧ ended = false
      then { t' with wait := some (.phase (t.S a) old.phase) } else t'.step4) := by
  intro t' ended
  obtain ⟨-, he⟩ := issuer_eq_some.mp hi
  have counts : ((barrierOf (s.peekBytes t.ctx (barName (t.S a)) 16)).count != 0
      && (barrierOf (s.peekBytes t.ctx (barName (t.S a)) 16)).count != BitVec.ofNat 16 (t.S b).toNat) = false := by
    rcases h with h | h
    · rw [h]; rfl
    · rw [h]; simp
  have peer : s2.barPeer t (t.S a) = none := by
    obtain ⟨pa', hpa⟩ := State.place_of_isNamed (State.arriveMem_isNamed ha hr)
    simp [State.barPeer, hpa]
  rw [BecomesOn, syncArrive_object hi hk hn hb hm hck hp hw hz hs hq hport]
  refine (if_neg (by rw [counts]; decide)).trans ?_
  simp only [hr, accOut, State.arriveDone_of hl he, peer, Option.isSome_none, Option.isNone_none, Bool.false_eq_true, false_or,
    true_and]
  rfl

end memory
end arrive

/-! Objects read and set (R319). -/

theorem barName_lt (w : Word) : barName w < 2 ^ 57 := Nat.mod_lt _ (by decide)

theorem barName_word (w : Word) : (word (barName w)).toNat = barName w :=
  (BitVec.toNat_ofNat _ _).trans (Nat.mod_eq_of_lt ((barName_lt w).trans (by decide)))

/-- An object that passes its checks is aligned (R42, R317). -/
theorem State.check_aligned {s : State} {t : Thread} {w : Word} {k : Kind}
    (h : s.check t (word (barName w)) 16 k true = none) : barName w % 16 = 0 := by
  have h16 := State.aligned_of_check h
  rwa [barName_word] at h16

/-- The bytes that `sync.binit` writes (R319). -/
theorem Barrier.bytes_binit {x : Word} (hx : x.toNat < 2 ^ 21) :
    (⟨x.setWidth 16, 0, 0⟩ : Barrier).bytes ++ leBytes 1 (bits x.toNat 20 16)
      = leBytes 2 (x.toNat % 2 ^ 16) ++ leBytes 4 0 ++ leBytes 1 (x.toNat / 2 ^ 16) := by
  have hs : bits x.toNat 20 16 = x.toNat / 2 ^ 16 := Nat.mod_eq_of_lt (by omega)
  have hz : leBytes 2 (0 : BitVec 16).toNat ++ leBytes 2 (0 : BitVec 16).toNat = leBytes 4 0 := rfl
  rw [hs, ← hz]
  simp only [Barrier.bytes, BitVec.toNat_setWidth, List.append_assoc]

section object
variable {s s1 : State} {t : Thread} {d a b : BitVec 6} {bs : List Byte} (hi : Issues s t) (hk : barOk (t.S a) = true)
  (hm : barMem (t.S a) = true) (hr : s.loadHomeT s.cur.tid t (barName (t.S a)) 16 = .ok (bs, s1))
include hi hk hm hr

theorem syncBphase_object (hck : s.check t (word (barName (t.S a))) 16 .read true = none)
    (hl : look s1.threads s.cur.tid = some t) :
    BecomesOn s s1 (.syncBphase d a) ((t.setS d ((barrierOf bs).state (barrierScope bs))).step4) := by
  show execSyncBphase d a s = _
  simp only [execSyncBphase, onThread_of hi, hk, hm, Bool.not_true, Bool.false_eq_true, if_false, if_true, hck, hr, accOut,
    State.finish, State.onLive_of hl (issuer_eq_some.mp hi).2]

section init
variable (hx : (t.S b).toNat < 2 ^ 21) (hck : s.check t (word (barName (t.S a))) 16 .write true = none)
include hx hck

theorem syncBinit_objectBusy (hz : (barrierOf bs).arrived ≠ 0) :
    exec (.syncBinit a b) s = .next (s1.fault s.cur.tid (scalarF t 0x0D 0 0)) := by
  show execSyncBinit a b s = _
  simp only [execSyncBinit, onThread_of hi, hk, hm, Bool.not_true, if_false, if_true, Bool.false_or,
    decide_eq_true_eq, Nat.not_le.mpr hx, hck, hr, accOut, hz, ne_eq, not_false_eq_true, faultOut]

theorem syncBinit_objectSets {s2 : State} (hz : (barrierOf bs).arrived = 0)
    (hw : s1.storeT s.cur.tid t (barName (t.S a)) (leBytes 2 ((t.S b).toNat % 2 ^ 16) ++ leBytes 4 0
      ++ leBytes 1 ((t.S b).toNat / 2 ^ 16)) = .ok s2) (hl : look s2.threads s.cur.tid = some t) :
    BecomesOn s s2 (.syncBinit a b) t.dirty.step4 := by
  show execSyncBinit a b s = _
  simp only [execSyncBinit, onThread_of hi, hk, hm, Bool.not_true, if_false, if_true, Bool.false_or,
    decide_eq_true_eq, Nat.not_le.mpr hx, hck, hr, accOut, hz, ne_eq, not_true_eq_false, Barrier.bytes_binit hx, hw,
    State.onLive_of hl (issuer_eq_some.mp hi).2]

end init
end object

/-- Settles O29: an arrival meets its barrier as `Barrier.arrive` counts it, in a register or at the object's home, whose line
the access has left under its name; `sync.binit` and `sync.bphase` are read off. -/
theorem cohortBarriers : Obligations.CohortBarriers := by
  intro s t c hi hc d a b hk k l n tid waits
  refine ⟨fun hm => ⟨fun hn hb hq => ⟨?_, ?_⟩, fun hb => ⟨?_, ?_⟩, ?_⟩, fun hm => ⟨?_, ?_, ?_⟩⟩
  · exact syncArrive_miscounts hi hk hn hb hm hq hc
  · exact syncArrive_counts hi hk hn hb hm hq hc
  · exact syncBinit_busy hi hk hm hc hb
  · exact syncBinit_sets hi hk hm hc hb
  · exact syncBphase_register hi hk hm hc
  · exact fun bs s1 hck hr hl => syncBphase_object hi hk hm hr hck hl
  · exact fun bs s1 hx hck hr => ⟨syncBinit_objectBusy hi hk hm hr hx hck, fun hz s2 hw hl =>
      syncBinit_objectSets hi hk hm hr hx hck hz hw hl⟩
  · intro pa hn hb hck hp hw hz o m
    refine ⟨fun hs => syncArrive_denied hi hm hck hp hw hz hs, fun hs hq hport => ⟨?_, ?_⟩⟩
    · exact syncArrive_objectMiscounts hi hk hn hb hm hck hp hw hz hs hq hport
    · exact fun h old s2 hr hl =>
        syncArrive_objectCounts hi hk hn hb hm hck hp hw hz hs hq hport (State.check_aligned hck) h hr hl

end Sys2Proof.Machine
end

section
/-! SUPPORT. The service instructions (R364-R366, R393-R397), case by case. -/

namespace Sys2Proof.Machine

/-- A request of a thread's own sequencer (R364). -/
def scalarRequest (t : Thread) (tid : Nat) (svc : BitVec 16) (block : Word) (d : BitVec 6) : SysReq :=
  { milli := milliOf (coreOf tid), tid, uid := t.uid, slice := 8, svc, mask := 0, block, d, pc := t.pc }

/-- The requests of the slices of mask m (R393). -/
def sliceRequests (t : Thread) (tid m : Nat) (svc : BitVec 16) (block : Word) (d : BitVec 6) : List SysReq :=
  ((upFrom 0 t.slices).filter (fun i => m.testBit i)).map (fun i => sysRequest t tid i svc block d)

theorem slice_sliceRequests {t : Thread} {tid m : Nat} {svc : BitVec 16} {block : Word} {d : BitVec 6} :
    (sliceRequests t tid m svc block d).map (fun r => r.slice) = (upFrom 0 t.slices).filter (fun i => m.testBit i) := by
  rw [sliceRequests, List.map_map]
  exact List.map_id _

/-- A thread as it goes on with the slices of mask m held (R393). -/
def Thread.holdSlices (t : Thread) (d : BitVec 6) (m : Nat) : Thread :=
  { ((t.setS d 0).dirty).step4 with
    sl := t.sl.zipIdx.map (fun x => if m.testBit x.2 then { x.1 with held := true } else x.1) }

section services
variable {s : State} {t : Thread} {c : Ctx} {d a b : BitVec 6} (hi : Issues s t)

section request
variable (hw : (t.S a).toNat < 2 ^ 24) (hr : s.check t (t.S b) 128 .read true = none)
  (hwr : s.check t (t.S b) 128 .write true = none) (hq : Quiet s t)

/-- The mask of slices of a request whose reserved bits are zero (R393). -/
theorem bits_slices {x : Nat} (h : x < 2 ^ 24) : bits x 23 16 = x / 2 ^ 16 := Nat.mod_eq_of_lt (by omega)

include hi hw hr hwr hq

theorem sysSys_scalar (hm : (t.S a).toNat / 2 ^ 16 = 0) : BecomesOn s
    ({ s with sysReqs := s.sysReqs ++ [scalarRequest t s.cur.tid ((t.S a).setWidth 16) (t.S b) d] } : State) (.sysSys d a b)
    { t.dirty with wait := some .sys } := by
  have hz : bits (t.S a).toNat 23 16 = 0 := (bits_slices hw).trans hm
  have legal : ¬ (2 ^ 24 ≤ (t.S a).toNat ∨ 2 ^ t.slices ≤ 0) := by
    have := Nat.two_pow_pos t.slices
    omega
  show execSysSys d a b s = _
  simp only [execSysSys, onThread_of hi, hz, legal, if_false, hr, hwr, Option.or_none, hq.release, Bool.not_true,
    Bool.false_eq_true, if_true]
  exact congrArg Host.Outcome.next (State.onLive_of (by exact (issuer_eq_some.mp hi).1) (issuer_eq_some.mp hi).2 _)

/-- A request with a slice mask: one request for each of the slices, which are held, and the thread goes on (R393). -/
theorem sysSys_slices (hs : (t.S a).toNat / 2 ^ 16 < 2 ^ t.slices) (hm : (t.S a).toNat / 2 ^ 16 ≠ 0) :
    let m := (t.S a).toNat / 2 ^ 16
    BecomesOn s ({ s with sysReqs := s.sysReqs ++ sliceRequests t s.cur.tid m ((t.S a).setWidth 16) (t.S b) d } : State)
      (.sysSys d a b) (t.holdSlices d m) := by
  intro m
  have legal : ¬ (2 ^ 24 ≤ (t.S a).toNat ∨ 2 ^ t.slices ≤ (t.S a).toNat / 2 ^ 16) := by omega
  show execSysSys d a b s = _
  simp only [execSysSys, onThread_of hi, bits_slices hw, legal, if_false, hr, hwr, Option.or_none, hq.release, Bool.not_true,
    Bool.false_eq_true, hm]
  exact congrArg Host.Outcome.next (State.onLive_of (by exact (issuer_eq_some.mp hi).1) (issuer_eq_some.mp hi).2 _)

end request

include hi

theorem sysTrap_faults : Faults s t (.sysTrap a) 0x11 0 (t.S a) := by
  show execSysTrap a s = _
  simp only [execSysTrap, onThread_of hi, faultOut]

section interrupt
variable (hc : look s.ctxs t.ctx = some c)
include hc

theorem sysUint_sends {u : UintEntry} (hu : look c.uints (t.S a).toNat = some u) (he : (t.S a).toNat ≤ 63)
    (hv : u.flags.getLsbD 0 = true) :
    let z := s.setCtx t.ctx { c with uints := put c.uints (t.S a).toNat { u with sent := u.sent + 1 } }
    let n : UintMsg := { ctx := t.ctx, entry := (t.S a).toNat, data := t.S b, seq := u.sent }
    BecomesOn s ({ z with uints := z.uints ++ [n] } : State) (.sysUint a b) t.dirty.step4 := by
  intro z n
  have sends : ¬ (63 < (t.S a).toNat ∨ ¬ u.valid = true) := by
    rintro (h | h)
    · omega
    · exact h hv
  show execSysUint a b s = _
  simp only [execSysUint, onThread_of hi, hc, hu, Option.bind_some, Option.map_some, sends, if_false]
  exact congrArg Host.Outcome.next (State.onLive_of (by exact (issuer_eq_some.mp hi).1) (issuer_eq_some.mp hi).2 _)

theorem sysUint_faults (hu : look c.uints (t.S a).toNat = none) : Faults s t (.sysUint a b) 0x0D 0 0 := by
  show execSysUint a b s = _
  simp only [execSysUint, onThread_of hi, hc, hu, Option.bind_some, Option.map_none, faultOut]

end interrupt

theorem sysEnd_ends (hs : t.step = none) :
    exec .sysEnd s = .next ((s.sampleLast s.cur.tid t.cohort).endThread s.cur.tid false) := by
  show execSysEnd s = _
  simp only [execSysEnd, onThread_of hi, hs]

end services

/-- Settles O30: each service instruction case by case; a request's slice mask is what stands above its service number. -/
theorem serviceInstructions : Obligations.ServiceInstructions := by
  intro s t c hi hc d a b tid m r
  refine ⟨fun hw hs hr hwr hq => ⟨fun hm => sysSys_scalar hi hw hr hwr hq hm, fun hm => ?_⟩, sysTrap_faults hi, ?_, ?_, ?_,
    ?_, ?_⟩
  · refine ⟨_, sysSys_slices hi hw hr hwr hq hs hm, rfl, ?_⟩
    rw [List.map_append, slice_sliceRequests]
  · exact fun u hu he hv => sysUint_sends hi hc hu he hv
  · exact sysUint_faults hi hc
  · exact sysEnd_ends hi
  · exact fun hp => sysHalt_halts hi hc ((State.privileged_of hc).trans hp)
  · exact fun hp => sysHalt_denied hi ((State.privileged_of hc).trans hp)

end Sys2Proof.Machine
end

section
/-! SUPPORT. Gating, errors and alarms (R16, R378-R380, R414-R416): what a record of an alarm leaves, levels, and each event. -/

namespace Sys2Proof.Machine

variable {s : State}

theorem State.awake_iff : s.awake = true ↔ s.run ≠ .halted := bne_iff_ne

theorem State.awake_of_halted (h : s.run = .halted) : s.awake = false := by rw [State.awake, h]; rfl

/-! Records (R379, R417). -/

/-- The record stands last in its die's log. -/
theorem State.dieAt_addRas (s : State) (type struct die part addr : Nat) (info : List Word) :
    ((s.addRas type struct die part addr info).dieAt die).ras.getLast?
      = some ⟨type, struct, die, part, addr, info, s.time, (s.dieAt die).rasCount⟩ := by
  have sent (v : State) (l : List (Nat × Partition)) : (l.foldl (fun s p => s.msix1 p.1) v).dies = v.dies :=
    foldl_field (f := fun s p => s.msix1 p.1) State.dies (fun _ _ => rfl) l v
  have logged (v : State) (d : DieSt) (h : v.dies = (s.setDie die d).dies) : v.dieAt die = d := by
    rw [State.dieAt, h]; simp only [State.setDie_dies, look_put_same, Option.getD_some]
  unfold State.addRas
  dsimp only
  split
  · rw [logged _ _ (sent _ _)]; exact List.getLast?_concat
  · rw [logged (State.msix1 _ part) _ rfl]; exact List.getLast?_concat

theorem State.addRas_parts (s : State) (type struct die part addr : Nat) (info : List Word) :
    (s.addRas type struct die part addr info).parts = s.parts := by
  obtain ⟨_, _, h⟩ := s.addRas_eq type struct die part addr info
  rw [h]

theorem State.addRas_threads (s : State) (type struct die part addr : Nat) (info : List Word) :
    (s.addRas type struct die part addr info).threads = s.threads := by
  obtain ⟨_, _, h⟩ := s.addRas_eq type struct die part addr info
  rw [h]

theorem State.addRas_poison (s : State) (type struct die part addr : Nat) (info : List Word) :
    (s.addRas type struct die part addr info).poison = s.poison := by
  obtain ⟨_, _, h⟩ := s.addRas_eq type struct die part addr info
  rw [h]

theorem State.alarmRecord_parts (src : Nat) (scope : Option Nat) (level : Nat) :
    (s.alarmRecord src scope level).parts = s.parts := State.addRas_parts _ _ _ _ _ _ _

/-! Levels (R378-R380). -/

/-- A partition's level only rises. -/
theorem State.level_alarmPart (part level : Nat) :
    ((s.alarmPart part level).partAt part).level = max (s.partAt part).level level := by
  unfold State.alarmPart
  simp only [State.partAt, State.setPart, look_put_same, Option.getD_some]

/-- Level 3 of any scope halts the device. -/
theorem State.alarm_halts (src : Nat) (scope : Option Nat) :
    (s.alarm src scope 3).run = .halted ∧ (s.alarm src scope 3).identity = false := by
  cases scope <;> exact ⟨rfl, rfl⟩

theorem State.alarm_below (src : Nat) (scope : Option Nat) {level : Nat} (h : level < 3) : s.alarm src scope level
    = scope.elim ((s.alarmRecord src scope level).alarmDevice level)
      (fun p => (s.alarmRecord src scope level).alarmPart p level) := by
  cases scope with
  | none => rfl
  | some p => exact if_neg (Nat.not_le.mpr h)

/-- The level that a device request would take is at least each partition's policy level. -/
theorem le_foldl_max {α : Type} (f : α → Nat) (l : List α) (m n : Nat) :
    n ≤ l.foldl (fun m x => max m (f x)) m ↔ n ≤ m ∨ ∃ x ∈ l, n ≤ f x := by
  induction l generalizing m with
  | nil => simp
  | cons x l ih => simp only [List.foldl_cons, ih, le_max_iff, List.exists_mem_cons_iff, or_assoc]

theorem three_le_wanted (level : Nat) :
    3 ≤ s.parts.foldl (fun m p => max m (max level (p.2.polLevel 2))) level
      ↔ 3 ≤ level ∨ ∃ p ∈ s.parts, 3 ≤ p.2.polLevel 2 := by
  rw [le_foldl_max]
  constructor
  · rintro (h | ⟨p, hp, h⟩)
    · exact .inl h
    · exact (le_max_iff.mp h).imp id (fun h => ⟨p, hp, h⟩)
  · rintro (h | ⟨p, hp, h⟩)
    · exact .inl h
    · exact .inr ⟨p, hp, le_max_iff.mpr (.inr h)⟩

theorem State.alarmRequest_halts {level : Nat} (h : 3 ≤ level ∨ ∃ p ∈ s.parts, 3 ≤ p.2.polLevel 2) :
    s.alarmRequest level = s.alarm 6 none 3 := if_pos ((three_le_wanted level).mpr h)

/-- A request no partition's policy raises is the alarm of its level. -/
theorem State.alarmRequest_below {level : Nat} (h : level < 3) (hp : ∀ p ∈ s.parts, p.2.polLevel 2 ≤ level) :
    s.alarmRequest level = (s.alarmRecord 6 none level).alarmDevice level := by
  have low : ¬ (3 ≤ level ∨ ∃ p ∈ s.parts, 3 ≤ p.2.polLevel 2) := by
    rintro (h' | ⟨p, hm, h'⟩)
    · omega
    · have := hp p hm; omega
  have same (v : State) : (s.alarmRecord 6 none level).parts.foldl (fun s p => s.alarmPart p.1 (max level (p.2.polLevel 2))) v
      = (s.alarmRecord 6 none level).parts.foldl (fun s p => s.alarmPart p.1 level) v := by
    refine List.foldl_ext _ _ _ (fun u p hm => ?_)
    rw [State.alarmRecord_parts] at hm
    rw [max_eq_left (hp p hm)]
  refine (if_neg (mt (three_le_wanted level).mp low)).trans ((same _).trans ?_)
  exact (if_neg (Nat.not_le.mpr h)).symm

/-! Events. -/

section awake
variable (h : s.run ≠ .halted)
include h

theorem issueGatingStart_gates (hg : s.gated = false) :
    exec .issueGatingStart s = .next (State.addRas { s with gated := true } 5 0 0 255 0 []) := by
  show execIssueGatingStart s = _
  simp only [execIssueGatingStart, hg, State.awake_iff.mpr h, Bool.not_true, Bool.or_false, Bool.false_eq_true, if_false]

theorem alarmPrivrep_raises (hr : s.privRep s.arg.obj = true) : exec .alarmPrivrep s = .next
    ((s.setPart s.arg.obj { s.partAt s.arg.obj with privAt := [] }).alarm 5 (some s.arg.obj)
      ((s.partAt s.arg.obj).polLevel 1)) := by
  show execAlarmPrivrep s = _
  simp only [execAlarmPrivrep, State.awake_iff.mpr h, hr, Bool.and_true, if_true]

/-- A request for a level, by what it names (R378). -/
theorem doeAlarmRequest_level (hf : s.arg.flag = false) :
    (s.arg.obj = 0 → s.arg.obj2 = 255 → exec .doeAlarmRequest s = .next (s.alarmRequest (min s.arg.obj3 3)))
    ∧ (s.arg.obj2 ≠ 255 → (s.arg.obj = 0 ∨ s.arg.obj = s.arg.obj2) → (look s.parts s.arg.obj2).isSome = true →
      exec .doeAlarmRequest s
        = .next (s.alarm 6 (some s.arg.obj2) (max (min s.arg.obj3 3) ((s.partAt s.arg.obj2).polLevel 2))))
    ∧ (s.arg.obj ≠ 0 → s.arg.obj ≠ s.arg.obj2 → Skips s .doeAlarmRequest) := by
  have hx : exec .doeAlarmRequest s = execDoeAlarmRequest s := rfl
  simp only [Skips, hx, execDoeAlarmRequest, State.awake_iff.mpr h, Bool.not_true, Bool.false_eq_true, if_false, hf]
  refine ⟨fun hk h2 => ?_, fun h2 hk hp => ?_, fun hk hne => ?_⟩
  · rw [if_pos h2, if_pos hk]
  · rw [if_neg h2, if_pos ⟨hk, hp⟩]
  · by_cases h2 : s.arg.obj2 = 255
    · rw [if_pos h2, if_neg hk]
    · rw [if_neg h2, if_neg (fun x => x.1.elim hk hne)]

/-- A request for a fused source's level (R378, log 27). -/
theorem doeAlarmRequest_fused (hf : s.arg.flag = true) :
    (s.arg.obj = 0 → s.arg.obj2 < 4 → exec .doeAlarmRequest s = .next { s with
      fused := put s.fused s.arg.obj2 (max (min s.arg.obj3 3) ((look s.fused s.arg.obj2).getD 0)) })
    ∧ (s.arg.obj ≠ 0 → Skips s .doeAlarmRequest) := by
  have hx : exec .doeAlarmRequest s = execDoeAlarmRequest s := rfl
  simp only [Skips, hx, execDoeAlarmRequest, State.awake_iff.mpr h, Bool.not_true, Bool.false_eq_true, if_false, hf, if_true]
  exact ⟨fun hk h4 => by rw [if_pos ⟨hk, h4⟩], fun hk => by rw [if_neg (fun x => hk x.1)]⟩

theorem doeAlarmClear_clears (hk : s.arg.obj = 0) (hl : (s.partAt s.arg.obj2).level = 1) : exec .doeAlarmClear s
    = .next (s.setPart s.arg.obj2 { s.partAt s.arg.obj2 with level := 0 }) := by
  show execDoeAlarmClear s = _
  simp only [execDoeAlarmClear, State.awake_iff.mpr h, hk, hl, beq_self_eq_true, Bool.and_self, if_true]

/-- An uncorrectable error in HBM or L2 poisons its sector and changes no byte (R414). -/
theorem eccUncorrected_poisons {x : Nat} (ht : s.eccThere s.arg.place = true)
    (hp : s.arg.place = .hbm x ∨ s.arg.place = .l2 x) :
    ∃ u : State, exec .eccUncorrected s = .next u ∧ x ∈ u.poison ∧ u.mem = s.mem ∧ u.threads = s.threads := by
  have hurts : s.eccHurts s.arg.place = s.addPoison [x] := by
    rcases hp with hp | hp <;> rw [hp] <;> rfl
  have hx : exec .eccUncorrected s = execEccUncorrected s := rfl
  simp only [hx, execEccUncorrected, State.awake_iff.mpr h, ht, Bool.not_true, Bool.or_self, Bool.false_eq_true, if_false, hurts]
  refine ⟨_, rfl, ?_, ?_, ?_⟩
  · rw [State.addRas_poison]; exact mem_addNat s.poison x
  · rw [State.addRas_mem]; rfl
  · rw [State.addRas_threads]; rfl

/-- A corrected error is counted (R416). -/
theorem eccCorrected_counts (ht : s.eccThere s.arg.place = true)
    (hn : (s.countEcc (s.eccDie s.arg.place) (eccRow s.arg.place) 0).1 % 1024 ≠ 0) :
    exec .eccCorrected s = .next (s.countEcc (s.eccDie s.arg.place) (eccRow s.arg.place) 0).2 := by
  show execEccCorrected s = _
  simp only [execEccCorrected, State.awake_iff.mpr h, ht, Bool.not_true, Bool.or_self, Bool.false_eq_true, if_false, hn]

end awake

/-- Settles O56: a record comes last in its die's log and leaves partitions alone; a partition's level is set to the greater of
two; each event case by case. -/
theorem alarmsAndErrors : Obligations.AlarmsAndErrors := by
  intro s k awake
  refine ⟨issueGatingStart_gates, fun hg => ?_, rfl, ?_, fun h => ?_, State.alarm_halts, State.level_alarmPart,
    fun src scope level => ⟨State.alarm_below src scope, State.dieAt_addRas _ _ _ _ _ _ _, fun p => ?_⟩, alarmPrivrep_raises,
    fun hr => ?_, doeAlarmRequest_level, doeAlarmRequest_fused, fun level => State.alarmRequest_halts,
    fun level => State.alarmRequest_below, doeAlarmClear_clears, fun hl => ?_, fun x h => eccUncorrected_poisons h,
    fun h ht hn => ⟨eccCorrected_counts h ht hn, rfl, rfl⟩⟩
  · show execIssueGatingStart s = _
    simp only [execIssueGatingStart, hg, Bool.true_or, if_true]
  · intro h fused
    have ha := State.awake_iff.mpr h
    exact ⟨congrArg Host.Outcome.next (if_pos ha), congrArg Host.Outcome.next (if_pos ha),
      congrArg Host.Outcome.next (if_pos ha), congrArg Host.Outcome.next (if_pos ha)⟩
  · have ha : ¬ s.awake = true := by rw [State.awake_of_halted h]; decide
    exact ⟨congrArg Host.Outcome.next (if_neg ha), congrArg Host.Outcome.next (if_neg ha),
      congrArg Host.Outcome.next (if_neg ha), congrArg Host.Outcome.next (if_neg ha)⟩
  · simp only [State.partAt, State.alarmRecord_parts]
  · show execAlarmPrivrep s = _
    rw [execAlarmPrivrep, hr, Bool.and_false]
    rfl
  · show execDoeAlarmClear s = _
    simp only [execDoeAlarmClear, beq_false_of_ne hl, Bool.and_false, Bool.false_eq_true, if_false]

end Sys2Proof.Machine
end

section
/-! SUPPORT. The mailbox (R359, R360, R367): what a Milliner answers to a request, and the events of BAR0 and the user port. -/

namespace Sys2Proof.Machine

/-! Requests (R360). -/

/-- What a request's event does with what its Milliner answers, z the machine that the event leaves to it. -/
def Answered (s : State) (i : Instr) (code : Nat) (z : State) (act : State → MboxReq → MboxAns) : Prop :=
  let r := s.arg.req
  let busy := (s.fnAt r.fn).mboxst.getLsbD 0
  (s.run = .running → s.arg.flag = busy → s.fnServes r.fn = true →
    let y := if s.arg.flag then z else z.ring r code
    let waits : Prop := exec i s = .next { y with later := y.later ++ [.event i { y.arg with flag := true }] }
    (s.counted r.fn = false →
      (∀ u, act y r = .done u → exec i s = .next (u.respond r 0))
      ∧ (act y r = .refused → exec i s = .next (y.respond r 1))
      ∧ (act y r = .malformed → exec i s = .next (y.respond r 2))
      ∧ (act y r = .wait → waits))
    ∧ (s.counted r.fn = true → waits))
  ∧ (s.run = .running → s.arg.flag = false → busy = true → exec i s = .next (z.ringBusy r.fn))
  ∧ (s.run = .running → s.arg.flag = true → busy = false → exec i s = .next z)
  ∧ (s.run = .recovery → s.arg.flag = false → busy = false → exec i s = .next ((s.ring r code).respond r 1))

/-- A machine in which what decides on a request stands as before. -/
structure Prepared (s z : State) : Prop where
  run : z.run = s.run
  arg : z.arg = s.arg
  fns : z.fns = s.fns
  parts : z.parts = s.parts

theorem Prepared.refl (s : State) : Prepared s s := ⟨rfl, rfl, rfl, rfl⟩

section
variable {s z : State} {i : Instr} {code : Nat} {act : State → MboxReq → MboxAns} (h : Prepared s z)
include h

theorem Prepared.fnAt (fn : Nat) : z.fnAt fn = s.fnAt fn := by simp only [State.fnAt, h.fns]

theorem Prepared.fnServes (fn : Nat) : z.fnServes fn = s.fnServes fn := by simp only [State.fnServes, h.parts]

theorem Prepared.counted (fn : Nat) : z.counted fn = s.counted fn := by simp only [State.counted, State.partAt, h.parts]

theorem Prepared.awake_of_running (hr : s.run = .running) : z.awake = true := by
  rw [State.awake_iff, h.run, hr]; decide

/-- A request of a running device reaches its Milliner when BUSY is as the event needs it. -/
theorem mbox_served (hr : s.run = .running) (hb : s.arg.flag = (s.fnAt s.arg.req.fn).mboxst.getLsbD 0)
    (hs : s.fnServes s.arg.req.fn = true) :
    mbox i code act z =
      (let y := if s.arg.flag then z else z.ring s.arg.req code
      match (if s.counted s.arg.req.fn then .wait else act y s.arg.req) with
      | .done u => .next (u.respond s.arg.req 0)
      | .refused => .next (y.respond s.arg.req 1)
      | .malformed => .next (y.respond s.arg.req 2)
      | .wait => .next { y with later := y.later ++ [.event i { y.arg with flag := true }] }) := by
  have run (f : Bool) : ((if f then z else z.ring s.arg.req code).run == .recovery) = false := by
    have : (if f then z else z.ring s.arg.req code).run = .running := by cases f <;> exact h.run.trans hr
    rw [this]; rfl
  have serves (f : Bool) : (if f then z else z.ring s.arg.req code).fnServes s.arg.req.fn = true := by
    cases f <;> exact (h.fnServes _).trans hs
  have counted (f : Bool) : (if f then z else z.ring s.arg.req code).counted s.arg.req.fn = s.counted s.arg.req.fn := by
    cases f <;> exact h.counted _
  simp only [mbox, h.awake_of_running hr, h.arg, h.fnAt, ← hb, Bool.not_true, Bool.and_not_self, Bool.not_and_self,
    Bool.false_eq_true, if_false, run, serves, counted, Bool.or_false] <;> rfl

theorem mbox_busy (hr : s.run = .running) (hf : s.arg.flag = false)
    (hb : (s.fnAt s.arg.req.fn).mboxst.getLsbD 0 = true) : mbox i code act z = .next (z.ringBusy s.arg.req.fn) := by
  simp only [mbox, h.awake_of_running hr, h.arg, h.fnAt, hf, hb, Bool.not_true, Bool.not_false, Bool.and_self,
    Bool.false_eq_true, if_false, if_true]

theorem mbox_answered (hr : s.run = .running) (hf : s.arg.flag = true)
    (hb : (s.fnAt s.arg.req.fn).mboxst.getLsbD 0 = false) : mbox i code act z = .next z := by
  simp only [mbox, h.awake_of_running hr, h.arg, h.fnAt, hf, hb, Bool.not_true, Bool.not_false, Bool.and_self,
    Bool.false_eq_true, if_false, if_true]

end

/-- In the recovery state every request gives response 1 (R384). -/
theorem mbox_recovery {s : State} {i : Instr} {code : Nat} {act : State → MboxReq → MboxAns} (hr : s.run = .recovery)
    (hf : s.arg.flag = false) (hb : (s.fnAt s.arg.req.fn).mboxst.getLsbD 0 = false) :
    mbox i code act s = .next ((s.ring s.arg.req code).respond s.arg.req 1) := by
  have ha : s.awake = true := by rw [State.awake_iff, hr]; decide
  have recovers : ((s.ring s.arg.req code).run == .recovery) = true := by rw [show (s.ring _ code).run = .recovery from hr]; rfl
  simp only [mbox, ha, hf, hb, Bool.not_true, Bool.and_false, Bool.false_and, Bool.false_eq_true, if_false, recovers,
    Bool.true_or, if_true]

/-- An event that is a request on a prepared machine, and on the machine itself in the recovery state, answers as R360 has it. -/
theorem answered_of_mbox {s z : State} {i : Instr} {code : Nat} {act : State → MboxReq → MboxAns} (h : Prepared s z)
    (hx : s.run = .running → exec i s = mbox i code act z) (hn : s.run = .recovery → exec i s = mbox i code act s) :
    Answered s i code z act := by
  refine ⟨fun hr hb hs => ?_, fun hr hf hb => ?_, fun hr hf hb => ?_, fun hr hf hb => ?_⟩
  · have served := (hx hr).trans (mbox_served h hr hb hs)
    refine ⟨fun hc => ?_, fun hc => ?_⟩
    · simp only [hc, Bool.false_eq_true, if_false] at served
      refine ⟨fun u ha => ?_, fun ha => ?_, fun ha => ?_, fun ha => ?_⟩ <;> rw [served, ha]
    · simp only [hc, if_true] at served
      exact served
  · rw [hx hr]; exact mbox_busy h hr hf hb
  · rw [hx hr]; exact mbox_answered h hr hf hb
  · rw [hn hr]; exact mbox_recovery hr hf hb

theorem answered_plain {s : State} {i : Instr} {code : Nat} {act : State → MboxReq → MboxAns}
    (hx : exec i s = mbox i code act s) : Answered s i code s act :=
  answered_of_mbox (.refl s) (fun _ => hx) (fun _ => hx)

/-- A context that is to end issues no more (R397). -/
theorem Prepared.stopContext (s : State) : Prepared s s.stopContext := by
  unfold State.stopContext
  dsimp only
  split
  · split
    · exact .refl s
    · exact ⟨rfl, rfl, rfl, rfl⟩
  · exact .refl s

theorem mboxEndContext_answers (s : State) : Answered s .mboxEndContext 2 s.stopContext endContext := by
  refine answered_of_mbox (.stopContext s) (fun hr => ?_) (fun hr => ?_) <;>
    · show execMboxEndContext s = _
      rw [execMboxEndContext, hr]
      rfl

/-- A core closes for a partition word while the device runs (R158). -/
theorem Prepared.closeCore (s : State) : Prepared s s.closeCore := by
  unfold State.closeCore
  dsimp only
  split
  · exact ⟨rfl, rfl, rfl, rfl⟩
  · exact .refl s

theorem mboxWritePartition_answers (s : State) : Answered s .mboxWritePartition 8 s.closeCore writePartition := by
  refine answered_of_mbox (.closeCore s) (fun _ => rfl) (fun hr => ?_)
  have still : s.closeCore = s := by
    refine if_neg (fun hc => ?_)
    obtain ⟨-, -, -, -, -, -, hrun⟩ := hc
    rw [hr] at hrun
    cases hrun
  show execMboxWritePartition s = _
  rw [execMboxWritePartition, still]

/-! The registers of BAR0 (R359). -/

theorem State.respond_fn (s : State) (r : MboxReq) (code : Nat) :
    let f := (s.respond r code).fnAt r.fn
    f.mboxst.getLsbD 0 = false ∧ f.mboxst.getLsbD 1 = true ∧ f.msix0 = (s.fnAt r.fn).msix0 + 1 := by
  have hf : (s.respond r code).fnAt r.fn = { s.fnAt r.fn with
      mboxrsp := wordsBytes [mboxHeader r.tag 0 r.ctx.toNat code]
      mboxst := ((s.fnAt r.fn).mboxst &&& ~~~1#3) ||| 2#3
      msix0 := (s.fnAt r.fn).msix0 + 1 } := by
    simp only [State.respond, State.fnAt, State.setFn, look_put_same, Option.getD_some]
  rw [hf]
  refine ⟨?_, ?_, rfl⟩ <;> simp

theorem mboxDoorbellBusy_overruns {s : State} (hr : s.run ≠ .halted) (hb : (s.fnAt s.arg.obj).mboxst.getLsbD 0 = true) :
    ∃ u : State, exec .mboxDoorbellBusy s = .next u
      ∧ (u.fnAt s.arg.obj).mboxst = (s.fnAt s.arg.obj).mboxst ||| 4 ∧ u.mem = s.mem := by
  refine ⟨s.ringBusy s.arg.obj, ?_, ?_, rfl⟩
  · show execMboxDoorbellBusy s = _
    simp only [execMboxDoorbellBusy, State.awake_iff.mpr hr, hb, Bool.and_self, if_true]
  · simp only [State.ringBusy, State.fnAt, State.setFn, look_put_same, Option.getD_some]
    rfl

section
variable {s : State} (hr : s.run ≠ .halted)
include hr

theorem mboxstWrite_clears : exec .mboxstWrite s = .next (s.setFn s.arg.obj { s.fnAt s.arg.obj with
    mboxst := (s.fnAt s.arg.obj).mboxst &&& ~~~(s.arg.word.setWidth 3) }) :=
  congrArg Host.Outcome.next (if_pos (State.awake_iff.mpr hr))

theorem pathsyncRead_answers (hw : s.later.any waitingWrite = false) :
    exec .pathsyncRead s = .next { s with scpResp := [word ((look s.scpWrites s.arg.obj).getD 0)] } := by
  show execPathsyncRead s = _
  simp only [execPathsyncRead, State.awake_iff.mpr hr, hw, Bool.not_true, Bool.false_eq_true, if_false]

theorem pathsyncRead_waits (hw : s.later.any waitingWrite = true) : exec .pathsyncRead s = .next (s.postpone .pathsyncRead) := by
  show execPathsyncRead s = _
  simp only [execPathsyncRead, State.awake_iff.mpr hr, hw, Bool.not_true, Bool.false_eq_true, if_false, if_true]

theorem bar0WriteOther_request (h1 : 0x100 ≤ s.arg.obj2) (h2 : s.arg.obj2 + s.arg.bytes.length ≤ 0x200) :
    exec .bar0WriteOther s = .next (s.setFn s.arg.obj { s.fnAt s.arg.obj with
      mboxreq := patchBytes (padBytes (s.fnAt s.arg.obj).mboxreq 256) (s.arg.obj2 - 0x100) s.arg.bytes }) :=
  if_pos ⟨State.awake_iff.mpr hr, h1, h2⟩

end

theorem bar0WriteOther_ignored {s : State} (h : s.arg.obj2 < 0x100 ∨ 0x200 < s.arg.obj2 + s.arg.bytes.length) :
    Skips s .bar0WriteOther := by
  refine if_neg (fun hc => ?_)
  obtain ⟨-, h1, h2⟩ := hc
  omega

/-- A byte of a context's user port as a read of BAR0 returns it (R359, R367). -/
theorem State.bar0Byte_port {s : State} {fn off : Nat} (h1 : 0x1000 ≤ off) (h2 : off < 0x2000)
    (hc : (look s.ctxs (fn * 64 + (off - 0x1000) / 64)).isSome = true) :
    s.bar0Byte fn off = Mem.read s.mem (portKey (fn * 64 + (off - 0x1000) / 64) + off % 64) := by
  have above {n : Nat} (hn : n ≤ 0x1000) : ¬ off < n := by omega
  simp only [State.bar0Byte, above, hc, h2, if_true, if_false, Nat.reduceLeDiff, Nat.le_refl]

/-! The user port (R361, R367). -/

section port
variable {s : State} {c : Ctx}

/-- Whether a write of the host to a context's port is taken: through the coherent port where its page is exposed. -/
def State.portTakes (s : State) (c : Ctx) : Bool :=
  if s.arg.flag then c.portPage.any (fun va => s.scpTakes s.arg.obj va 8)
  else s.run == .running && (s.partAt (partOfCtx s.arg.obj)).level == 0

theorem State.portTakes_iff : s.portTakes c = true ↔ if s.arg.flag = true then
    ∃ va, c.portPage = some va ∧ s.scpTakes s.arg.obj va 8 = true
    else s.run = .running ∧ (s.partAt (partOfCtx s.arg.obj)).level = 0 := by
  unfold State.portTakes
  cases s.arg.flag with
  | true => cases c.portPage <;> simp
  | false => simp only [Bool.false_eq_true, if_false, Bool.and_eq_true, beq_iff_eq]

/-- VALUE and COUNT after a write to a port (R367). -/
theorem State.writePort_reads (v : State) (k : Nat) (w : Word) :
    Mem.readN (v.writePort k c w).mem (portKey k) 8 = w.toNat ∧ (v.writePort k c w).portCount k = v.portCount k + 1 := by
  have mem : (v.writePort k c w).mem
      = Mem.writeN (Mem.writeN v.mem (portKey k) 8 w.toNat) (portKey k + 8) 8 (v.portCount k + 1).toNat := by
    unfold State.writePort
    cases c.portPage with
    | none => rfl
    | some va => simp only [State.writeTouch_mem]
  constructor
  · have before : Mem.readBytes (v.writePort k c w).mem (portKey k) 8
        = Mem.readBytes (Mem.writeBytes v.mem (portKey k) (leBytes 8 w.toNat)) (portKey k) 8 := by
      refine Mem.readBytes_congr 8 _ _ _ (fun j _ hj => ?_)
      rw [mem, Mem.writeN_eq, Mem.writeN_eq, Mem.read_writeBytes_before _ _ _ _ hj]
    rw [Mem.readN_eq, before, ← Mem.readN_eq, Mem.readN_writeBytes_leBytes]
    exact Nat.mod_eq_of_lt w.isLt
  · rw [State.portCount, mem, Mem.writeN_eq, Mem.readN_writeBytes_leBytes, word]
    exact BitVec.eq_of_toNat_eq (by rw [BitVec.toNat_ofNat]; omega)

/-- A write to a port changes memory and what its line's home keeps, and nothing of threads or counts. -/
theorem State.writePort_frame (v : State) (k : Nat) (w : Word) :
    (v.writePort k c w).threads = v.threads ∧ (v.writePort k c w).scpWrites = v.scpWrites := by
  unfold State.writePort
  cases c.portPage with
  | none => exact ⟨rfl, rfl⟩
  | some va => simp only [State.writeTouch_threads, State.writeTouch_scpWrites, and_self]

variable (hc : look s.ctxs s.arg.obj = some c)
include hc

theorem userPortWrite_eq : exec .userPortWrite s =
    if s.portTakes c = true then
      if s.counted (partOfCtx s.arg.obj) = true ∨ s.portWaits s.arg.obj c = true ∨ s.behind .userPortWrite = true then
        .next (s.postpone .userPortWrite)
      else .next ((if s.arg.flag then s.countScp (partOfCtx s.arg.obj) else s).writePort s.arg.obj c s.arg.word)
    else .next s := by
  have word : (if s.arg.flag then s.countScp (partOfCtx s.arg.obj) else s).arg.word = s.arg.word := by
    cases s.arg.flag <;> rfl
  show execUserPortWrite s = _
  simp only [execUserPortWrite, hc]
  change (if (!s.portTakes c) = true then _ else _) = _
  cases s.portTakes c with
  | true => simp only [Bool.not_true, Bool.false_eq_true, if_false, if_true, Bool.or_eq_true, or_assoc, word]
  | false => rfl

theorem userPortWrite_writes (ht : s.portTakes c = true) (h1 : s.counted (partOfCtx s.arg.obj) = false)
    (h2 : s.portWaits s.arg.obj c = false) (h3 : s.behind .userPortWrite = false) :
    ∃ u : State, exec .userPortWrite s = .next u ∧ Mem.readN u.mem (portKey s.arg.obj) 8 = s.arg.word.toNat
      ∧ u.portCount s.arg.obj = s.portCount s.arg.obj + 1 ∧ u.threads = s.threads
      ∧ u.scpWrites = if s.arg.flag then
          put s.scpWrites (partOfCtx s.arg.obj) ((look s.scpWrites (partOfCtx s.arg.obj)).getD 0 + 1) else s.scpWrites := by
  have goes : ¬ (s.counted (partOfCtx s.arg.obj) = true ∨ s.portWaits s.arg.obj c = true
      ∨ s.behind .userPortWrite = true) := by
    rw [h1, h2, h3]; decide
  refine ⟨_, (userPortWrite_eq hc).trans ((if_pos ht).trans (if_neg goes)), ?_⟩
  obtain ⟨hv, hn⟩ := State.writePort_reads (c := c) (if s.arg.flag then s.countScp (partOfCtx s.arg.obj) else s) s.arg.obj
    s.arg.word
  obtain ⟨hth, hsc⟩ := State.writePort_frame (c := c) (if s.arg.flag then s.countScp (partOfCtx s.arg.obj) else s) s.arg.obj
    s.arg.word
  refine ⟨hv, hn.trans ?_, hth.trans ?_, hsc.trans ?_⟩ <;> cases s.arg.flag <;> rfl

end port

/-- A request with a code that the function may not use (R360). -/
theorem mboxBadRequest_answers (s : State) : let code := s.arg.obj % 2 ^ 16
    ((code = 0 ∨ 8 < code) → Answered s .mboxBadRequest code s (fun _ _ => .malformed))
    ∧ (code = 8 → s.arg.req.fn ≠ 0 → Answered s .mboxBadRequest code s (fun _ _ => .refused)) := by
  intro code
  have hx : exec .mboxBadRequest s = execMboxBadRequest s := rfl
  refine ⟨fun h => answered_plain (hx.trans (if_pos h)), fun h hf => answered_plain (hx.trans ?_)⟩
  have h8 : ¬ (code = 0 ∨ 8 < code) := by omega
  exact (if_neg h8).trans (if_pos ⟨h, hf⟩)

/-- Settles O57: every request goes through `mbox`, which answers as its Milliner does on a machine prepared for it; the other
events of BAR0 and the user port case by case. -/
theorem mailboxEvents : Obligations.MailboxEvents := by
  intro s r busy answers
  refine ⟨answered_plain rfl, mboxEndContext_answers s, answered_plain rfl, answered_plain rfl, answered_plain rfl,
    answered_plain rfl, answered_plain rfl, mboxWritePartition_answers s, mboxBadRequest_answers s, s.respond_fn, fun hr =>
      ⟨mboxDoorbellBusy_overruns hr, mboxstWrite_clears hr, pathsyncRead_answers hr, pathsyncRead_waits hr⟩, fun c => ?_,
    ⟨bar0WriteOther_ignored, bar0WriteOther_request⟩, fun fn off => State.bar0Byte_port⟩
  intro k takes hc
  refine ⟨fun ht h1 h2 h3 => userPortWrite_writes hc (State.portTakes_iff.mpr ht) h1 h2 h3, fun ht h => ?_, fun ht => ?_⟩
  · exact (userPortWrite_eq hc).trans ((if_pos (State.portTakes_iff.mpr ht)).trans (if_pos h))
  · exact (userPortWrite_eq hc).trans (if_neg (mt State.portTakes_iff.mp ht))

end Sys2Proof.Machine
end

section
/-! SUPPORT. Power-up, measurement, inspection and census (R382-R384, R408-R412, R419), event by event. -/

namespace Sys2Proof.Machine

variable {s : State}

/-! Boot (R383, R384). -/

theorem powerUp_boots (h : BootImageOk s.arg.img = true) : exec .powerUp s = .next (s.powerOn.boot s.arg.img) :=
  congrArg Host.Outcome.next (if_pos h)

theorem powerUp_recovers (h : BootImageOk s.arg.img = false) :
    ∃ u : State, exec .powerUp s = .next u ∧ u.run = .recovery ∧ u.threads = [] ∧ u.ctxs = [] :=
  ⟨_, congrArg Host.Outcome.next (if_neg (by rw [h]; decide)), rfl, rfl, rfl⟩

/-- The state an image boots into before its measurement is compared. -/
theorem State.boot_unmeasured (h : s.expected = none) (m : BootImage) :
    s.boot m = State.setPart { s with run := .running, version := m.version, bootm := bootMeasure m } 0
      { s.partAt 0 with partm := bootMeasure m } := by
  unfold State.boot
  dsimp only
  have he (p : Partition) : (State.setPart { s with run := .running, version := m.version, bootm := bootMeasure m } 0 p).expected
      = none := h
  simp only [he]

theorem State.boot_measures (h : s.expected = none) (m : BootImage) :
    (s.boot m).run = .running ∧ (s.boot m).version = m.version ∧ (s.boot m).bootm = bootMeasure m
      ∧ ((s.boot m).partAt 0).partm = bootMeasure m := by
  rw [State.boot_unmeasured h]
  refine ⟨rfl, rfl, rfl, ?_⟩
  simp only [State.partAt, State.setPart, look_put_same, Option.getD_some]

theorem bootImageOk_iff {m : BootImage} : BootImageOk m = true ↔ m.pubkey.length = 64 ∧ sha256 m.pubkey = fusedKeyDigest
    ∧ m.sigOk = true ∧ Config.minVersion.toNat ≤ m.version.toNat := by
  simp only [BootImageOk, Bool.and_eq_true, beq_iff_eq, decide_eq_true_eq, and_assoc]

theorem doeRecoveryImage_boots (hr : s.run = .recovery) (h : BootImageOk s.arg.img = true) :
    exec .doeRecoveryImage s = .next (s.boot s.arg.img) := by
  show execDoeRecoveryImage s = _
  simp only [execDoeRecoveryImage, hr, h, beq_self_eq_true, Bool.and_self, if_true]

theorem doeRecoveryImage_skips (hr : s.run ≠ .recovery) : Skips s .doeRecoveryImage := by
  show execDoeRecoveryImage s = _
  simp only [execDoeRecoveryImage, beq_false_of_ne hr, Bool.false_and, Bool.false_eq_true, if_false]

/-! Attestation, sessions and expected values (R358, R382, R383). -/

section
variable (hr : s.run = .running)
include hr

theorem doeAttest_reports (hi : s.identity = true) (hs : s.fnServes s.arg.obj = true) : exec .doeAttest s
    = .next (s.setFn s.arg.obj { s.fnAt s.arg.obj with doeResp := s.report s.arg.obj s.arg.bytes }) := by
  show execDoeAttest s = _
  simp only [execDoeAttest, hr, hi, hs, beq_self_eq_true, Bool.and_self, if_true, State.doe]

theorem spdmSession_opens (hs : s.fnServes s.arg.obj = true) (hk : (s.partAt s.arg.obj).key.isSome = true) :
    exec .spdmSession s = .next (s.setFn s.arg.obj { s.fnAt s.arg.obj with spdm := true }) := by
  show execSpdmSession s = _
  simp only [execSpdmSession, hr, hs, hk, beq_self_eq_true, Bool.and_self, if_true]

theorem expectedMeasurement_part (hp : (look s.parts s.arg.obj).isSome = true) (hk : s.arg.obj ≠ 255) :
    exec .expectedMeasurementInstall s
      = .next ((s.setPart s.arg.obj { s.partAt s.arg.obj with expected := some s.arg.big }).measure s.arg.obj) := by
  show execExpectedMeasurementInstall s = _
  simp only [execExpectedMeasurementInstall, hr, bne_self_eq_false, Bool.false_eq_true, if_false, hk, hp, if_true]

theorem expectedMeasurement_boot (hk : s.arg.obj = 255) (hb : s.bootm = s.arg.big) :
    exec .expectedMeasurementInstall s = .next { s with expected := some s.arg.big } := by
  show execExpectedMeasurementInstall s = _
  simp only [execExpectedMeasurementInstall, hr, bne_self_eq_false, Bool.false_eq_true, if_false, hk, hb, if_true]

end

theorem spdmSession_skips (hk : (s.partAt s.arg.obj).key = none) : Skips s .spdmSession := by
  show execSpdmSession s = _
  simp only [execSpdmSession, hk, Option.isSome_none, Bool.and_false, Bool.false_eq_true, if_false]

/-! Loading (R57, R377, R425). -/

section load
variable {c : Ctx} (hc : look s.ctxs s.arg.obj = some c)
include hc

theorem sectionMarkedLoaded_marks (hr : s.run = .running) (ha : (s.partAt (partOfCtx s.arg.obj)).accepts s.arg.sec = true)
    (hl : launchesAgree s.arg.sec.launches c.launches = true) :
    ∃ u : State, exec .sectionMarkedLoaded s = .next u ∧ (c.sections.any (fun y => y.obj == s.arg.sec.obj) = true →
      (look u.ctxs s.arg.obj).map (fun x => x.sections) = some
        (c.sections ++ [⟨s.arg.sec.base.toNat, s.arg.sec.size, s.arg.sec.lane, s.arg.sec.obj⟩])) := by
  have hx : exec .sectionMarkedLoaded s = execSectionMarkedLoaded s := rfl
  simp only [hx, execSectionMarkedLoaded, hc, hr, ha, hl, bne_self_eq_false, Bool.not_true, Bool.or_self, Bool.false_eq_true,
    if_false]
  split
  · exact ⟨_, rfl, fun _ => by simp only [State.setCtx, look_put_same, Option.map_some]⟩
  · next h => exact ⟨_, rfl, fun seen => absurd seen h⟩

theorem sectionMarkedLoaded_refuses (h : (s.partAt (partOfCtx s.arg.obj)).accepts s.arg.sec = false
      ∨ launchesAgree s.arg.sec.launches c.launches = false) : Skips s .sectionMarkedLoaded := by
  have refused : (s.run != .running || !(s.partAt (partOfCtx s.arg.obj)).accepts s.arg.sec
      || !launchesAgree s.arg.sec.launches c.launches) = true := by
    rcases h with h | h <;> simp [h]
  show execSectionMarkedLoaded s = _
  simp only [execSectionMarkedLoaded, hc, refused, if_true]

end load

/-! Census (R412). -/

theorem doeCensus_begins (hr : s.run = .running) (hp : (look s.parts s.arg.obj).isSome = true)
    (hc : (s.partAt s.arg.obj).census = 0) : ∃ u : State, exec .doeCensus s = .next u ∧ (u.partAt s.arg.obj).census = 1 := by
  refine ⟨_, if_pos (by simp [hr, hp, hc]), ?_⟩
  simp only [State.partAt, State.setPart, look_put_same, Option.getD_some]

theorem censusDone_reports (h : s.censusReady s.arg.obj = true) : exec .censusDone s
    = .next ((s.setPart s.arg.obj { s.partAt s.arg.obj with census := 2 }).doe s.arg.obj (leBytes 8 1)) := if_pos h

theorem doeCensusResume_resumes (hr : s.run ≠ .halted) (hp : (look s.parts s.arg.obj).isSome = true) :
    exec .doeCensusResume s = .next (s.setPart s.arg.obj { s.partAt s.arg.obj with census := 0 }) :=
  congrArg Host.Outcome.next (if_pos (by rw [State.awake_iff.mpr hr, hp]; rfl))

/-! Inspection (R408-R411). -/

section inspect
variable (hr : s.run ≠ .halted)
include hr

section request
variable (hi : (s.fnAt s.arg.obj).insp = none) (hf : s.arg.flag = false)
include hi hf

theorem doeInspectRead_takes {a : InspAddr} (ha : inspAddr s.arg.word = some a) (hok : inspAllowed s.arg.obj a = true)
    (h1 : 1 ≤ s.arg.obj2) (h2 : s.arg.obj2 ≤ 512) : exec .doeInspectRead s
      = .next (s.setFn s.arg.obj { s.fnAt s.arg.obj with insp := some ⟨s.arg.word, s.arg.obj2, []⟩ }) := by
  show execDoeInspectRead s = _
  simp only [execDoeInspectRead, hr, if_false, hi, hf, Bool.false_eq_true, ha, hok, h1, h2, and_self, if_true]

theorem doeInspectRead_refuses (h : ∀ a, inspAddr s.arg.word = some a →
      inspAllowed s.arg.obj a = false ∨ s.arg.obj2 = 0 ∨ 512 < s.arg.obj2) :
    exec .doeInspectRead s = .next (s.setFn s.arg.obj { s.fnAt s.arg.obj with doeResp := [] }) := by
  show execDoeInspectRead s = .next (s.doe s.arg.obj [])
  simp only [execDoeInspectRead, hr, if_false, hi, hf, Bool.false_eq_true]
  cases ha : inspAddr s.arg.word with
  | none => rfl
  | some a =>
    refine if_neg (fun hc => ?_)
    obtain ⟨hok, h1, h2⟩ := hc
    rcases h a ha with h | h | h
    · rw [hok] at h; cases h
    · omega
    · omega

end request

section word
variable {r : InspRead} {a : InspAddr} (hi : (s.fnAt s.arg.obj).insp = some r) (hf : s.arg.flag = true)
  (ha : inspAddr r.addr = some a)
include hi hf ha

/-- The event reads the next word of the read under way (R411). -/
theorem doeInspectRead_reads : exec .doeInspectRead s =
    (let got := r.got ++ [s.inspectWord a r.got.length]
    .next (if r.left ≤ 1 then (s.setFn s.arg.obj { s.fnAt s.arg.obj with insp := none }).doe s.arg.obj (wordsBytes got)
      else s.setFn s.arg.obj { s.fnAt s.arg.obj with insp := some { r with left := r.left - 1, got := got } })) := by
  show execDoeInspectRead s = _
  simp only [execDoeInspectRead, hr, if_false, hi, hf, if_true, State.inspectNext, ha]

theorem doeInspectRead_next (hl : 1 < r.left) : exec .doeInspectRead s = .next (s.setFn s.arg.obj { s.fnAt s.arg.obj with
    insp := some { r with left := r.left - 1, got := r.got ++ [s.inspectWord a r.got.length] } }) :=
  (doeInspectRead_reads hr hi hf ha).trans (congrArg Host.Outcome.next (if_neg (Nat.not_le.mpr hl)))

theorem doeInspectRead_last (hl : r.left = 1) : ∃ u : State, exec .doeInspectRead s = .next u
    ∧ (u.fnAt s.arg.obj).doeResp = wordsBytes (r.got ++ [s.inspectWord a r.got.length]) ∧ (u.fnAt s.arg.obj).insp = none
    ∧ u.mem = s.mem ∧ u.threads = s.threads := by
  refine ⟨_, (doeInspectRead_reads hr hi hf ha).trans (congrArg Host.Outcome.next (if_pos (Nat.le_of_eq hl))), ?_, ?_, rfl,
    rfl⟩ <;>
    simp only [State.doe, State.fnAt, State.setFn, look_put_same, Option.getD_some]

end word
end inspect

theorem doeQueueUnbind_unbinds {a : InspAddr} {x : QRef × Queue} (ha : inspAddr s.arg.word = some a)
    (hx : (s.directory (a.index / 65536))[a.index % 65536]? = some x) (hr : s.run = .running) (hc : a.cls = 0x09)
    (hok : inspAllowed s.arg.obj a = true) (hp : partOfCtx x.2.ctx = a.part) (hz : x.2.frozen ≠ none) :
    exec .doeQueueUnbind s = .next (s.unbind x.1) := by
  have all : s.run = .running ∧ a.cls = 0x09 ∧ inspAllowed s.arg.obj a = true ∧ partOfCtx x.2.ctx = a.part
      ∧ x.2.frozen ≠ none := ⟨hr, hc, hok, hp, hz⟩
  show execDoeQueueUnbind s = _
  simp only [execDoeQueueUnbind, ha, hx]
  exact if_pos all

/-- Settles O59: each event case by case; a booted image's measurement is compared with nothing where nothing is expected. -/
theorem managementEvents : Obligations.ManagementEvents := by
  intro s k m
  refine ⟨powerUp_boots, powerUp_recovers, fun h => State.boot_measures h m, bootImageOk_iff.mp, doeRecoveryImage_boots,
    doeRecoveryImage_skips, doeAttest_reports, spdmSession_opens, spdmSession_skips, expectedMeasurement_part,
    expectedMeasurement_boot, fun c hc => sectionMarkedLoaded_marks hc, fun c hc => sectionMarkedLoaded_refuses hc,
    doeCensus_begins, censusDone_reports, doeCensusResume_resumes, ?_, fun a x => doeQueueUnbind_unbinds⟩
  intro hr f
  exact ⟨fun a hi hf => doeInspectRead_takes hr hi hf, doeInspectRead_refuses hr, fun r a hi hf ha =>
    ⟨doeInspectRead_next hr hi hf ha, doeInspectRead_last hr hi hf ha⟩⟩

end Sys2Proof.Machine
end

section
/-! SUPPORT. The task engine's own steps (R286-R297), event by event. -/

namespace Sys2Proof.Machine

variable {s : State}

/-! Packets of a submission queue (R286, R287, R289). -/

section pop
variable {r : QRef} {die : Nat} {c : Ctx} (hr : s.submitRef s.arg.obj = some r)
  (hd : s.spawnDie (partOfCtx s.arg.obj) = some die) (hc : look s.ctxs s.arg.obj = some c) (hx : s.ctxRuns s.arg.obj = true)
  (hb : s.queueBusy r false 1 = false)

/-- The die of a context's submission queue. -/
def State.submitDie (s : State) (ctx : Nat) (c : Ctx) : Nat := s.homeOf ctx c.submitQ.toNat / 128

include hr hd hc hx hb

/-- The engine pops one packet at the queue's home. -/
theorem taskEnginePop_pops : exec .taskEnginePop s =
    (let home := s.submitDie s.arg.obj c
    let h := s.homePop r (.unit home) 1
    let u := h.s.applyEnds h.ended
    match h.ans with
    | .many (p :: _) (e :: _) poison =>
      if poison then .next (u.dropPacket home s.arg.obj 0x07 c.submitQ (word p))
      else
        match packetIn e with
        | none => .next (u.dropPacket home s.arg.obj 0x0D c.submitQ (word p))
        | some b =>
          match u.freeSlot die with
          | some slot => .next (u.acceptPacket die slot s.arg.obj b 0 (pkPrio b) none).2
          | none => .next u
    | .corrupt m => .next (u.dropPacket home s.arg.obj 0x08 c.submitQ (word m))
    | _ => .next u) := by
  show execTaskEnginePop s = _
  simp only [execTaskEnginePop, hr, hd, hc, hx, hb, Bool.not_true, Bool.or_self, Bool.false_eq_true, if_false] <;> rfl

/-- What becomes of a packet that the pop gets: poison and a bad packet are recorded, a good one takes a slot. -/
theorem taskEnginePop_takes {p : Nat} {ps : List Nat} {e : List Byte} {es : List (List Byte)} {poison : Bool}
    (ha : (s.homePop r (.unit (s.submitDie s.arg.obj c)) 1).ans = .many (p :: ps) (e :: es) poison) :
    let home := s.submitDie s.arg.obj c
    let h := s.homePop r (.unit home) 1
    let u := h.s.applyEnds h.ended
    (poison = true → exec .taskEnginePop s = .next (u.dropPacket home s.arg.obj 0x07 c.submitQ (word p)))
    ∧ (poison = false → packetIn e = none →
        exec .taskEnginePop s = .next (u.dropPacket home s.arg.obj 0x0D c.submitQ (word p)))
    ∧ (∀ b slot, poison = false → packetIn e = some b → u.freeSlot die = some slot →
        exec .taskEnginePop s = .next (u.acceptPacket die slot s.arg.obj b 0 (pkPrio b) none).2) := by
  have pops := taskEnginePop_pops hr hd hc hx hb
  simp only [ha] at pops
  refine ⟨fun hz => ?_, fun hz he => ?_, fun b slot hz he hs => ?_⟩
  · rw [pops, if_pos hz]
  · rw [pops, if_neg (by rw [hz]; decide), he]
  · rw [pops, if_neg (by rw [hz]; decide), he]
    simp only [hs]

end pop

theorem taskEnginePop_skips (hx : s.ctxRuns s.arg.obj = false) : Skips s .taskEnginePop := by
  show execTaskEnginePop s = _
  unfold execTaskEnginePop
  dsimp only
  split
  · simp only [hx, Bool.not_false, Bool.true_or, if_true]
  · rfl

/-! Decrements (R290). -/

theorem taskDecrement_skips (h : ∀ e ∈ (s.dieAt s.arg.obj).decs, s.partServes (hPart e.1) = false) :
    Skips s .taskDecrement := by
  have none : s.nextDecrement s.arg.obj = none := List.find?_eq_none.mpr (fun e he => by rw [h e he]; decide)
  show execTaskDecrement s = _
  simp only [execTaskDecrement, none]

theorem taskDecrement_performs {e : Word × Bool} {r : List (Word × Bool)} (hd : (s.dieAt s.arg.obj).decs = e :: r)
    (hs : s.partServes (hPart e.1) = true) : exec .taskDecrement s
      = .next (State.decrAll eventFuel (s.setDie s.arg.obj { s.dieAt s.arg.obj with decs := r }) [e]) := by
  have first : s.nextDecrement s.arg.obj = some e := by rw [State.nextDecrement, hd, List.find?_cons, hs]
  show execTaskDecrement s = _
  simp only [execTaskDecrement, first, hd, List.erase_cons_head]

/-! Launches and completion (R291-R294). -/

/-- The requests posted for a list of pieces: one each, on the task's die, and nothing else. -/
theorem State.postTasks_frame (die k : Nat) (is : List Nat) (s : State) :
    let u := is.foldl (fun s i => s.postTask die k i) s
    u.mem = s.mem ∧ u.tasks = s.tasks ∧ u.threads = s.threads
      ∧ (u.dieAt die).reqs.length = (s.dieAt die).reqs.length + is.length := by
  induction is generalizing s with
  | nil => exact ⟨rfl, rfl, rfl, rfl⟩
  | cons i is ih =>
    have one : ((s.postTask die k i).dieAt die).reqs.length = (s.dieAt die).reqs.length + 1 := by
      simp [State.postTask, State.dieAt, State.setDie, look_put_same]
    obtain ⟨hm, ht, hth, hl⟩ := ih (s.postTask die k i)
    refine ⟨hm, ht, hth, ?_⟩
    rw [List.foldl_cons, hl, one, List.length_cons]
    omega

theorem taskLaunch_asks (h : s.launchReady s.arg.obj = true) : ∃ u : State, exec .taskLaunch s = .next u ∧ u.mem = s.mem
    ∧ u.tasks = s.tasks ∧ u.threads = s.threads ∧ (u.dieAt (s.arg.obj / 65536)).reqs.length
      = (s.dieAt (s.arg.obj / 65536)).reqs.length + (s.taskAt s.arg.obj).pieces.length := by
  obtain ⟨hm, ht, hth, hl⟩ := State.postTasks_frame (s.arg.obj / 65536) s.arg.obj
    (upFrom 0 (s.taskAt s.arg.obj).pieces.length) s
  rw [upFrom_length] at hl
  exact ⟨_, if_pos h, hm, ht, hth, hl⟩

theorem taskLaunch_counts (h : s.launchReady s.arg.obj = false) (hc : s.countUnread s.arg.obj = true) : exec .taskLaunch s
    = .next (State.decrAll eventFuel (s.makeReady s.arg.obj).1 (s.makeReady s.arg.obj).2) := by
  show execTaskLaunch s = _
  simp only [execTaskLaunch, h, hc, Bool.false_eq_true, if_false, if_true]

theorem taskLaunch_skips (h : s.launchReady s.arg.obj = false) (hc : s.countUnread s.arg.obj = false) : Skips s .taskLaunch := by
  show execTaskLaunch s = _
  simp only [execTaskLaunch, h, hc, Bool.false_eq_true, if_false]

/-- A finished task stands done, or failed, with no thread (R291-R293). -/
theorem State.taskAt_finishTask (k : Nat) (failed : Bool) :
    ((s.finishTask k failed).1.taskAt k).st = (if failed then .failed else .done)
      ∧ ((s.finishTask k failed).1.taskAt k).threads = 0 := by
  simp only [State.finishTask, State.taskAt, State.setTask, look_put_same, Option.getD_some, and_self]

/-! Splits (R295). -/

/-- The middle of a piece of at least two grains lies a grain inside it on each side. -/
theorem split_within {g lo hi : Int} (hg : 0 < g) (h : 2 * g ≤ hi - lo) :
    lo + g ≤ lo + (hi - lo) / 2 / g * g ∧ lo + (hi - lo) / 2 / g * g + g ≤ hi := by
  have half : g ≤ (hi - lo) / 2 := by omega
  have one : 1 ≤ (hi - lo) / 2 / g := Int.le_ediv_of_mul_le hg (by omega)
  have low : g ≤ (hi - lo) / 2 / g * g := le_mul_of_one_le_left hg.le one
  have high : (hi - lo) / 2 / g * g ≤ (hi - lo) / 2 := Int.ediv_mul_le _ hg.ne'
  omega

theorem rangeSplit_splits {part j i : Nat} {p : Piece} {g : Int} (hp : s.partServing s.arg.obj = some part)
    (hn : s.noneReady part = true) (hc : s.splitChoice part = some (j, i, p, g)) :
    let mid := p.cur + (p.hi - p.cur) / 2 / g * g
    ∃ u : State, exec .rangeSplit s = .next u ∧ u.mem = s.mem ∧ u.threads = s.threads
      ∧ (u.taskAt j).pieces = setNth (s.taskAt j).pieces i { p with hi := mid }
          ++ [{ lo := mid, cur := mid, hi := p.hi, live := true }]
      ∧ (0 < g → 2 * g ≤ p.hi - p.cur → p.cur + g ≤ mid ∧ mid + g ≤ p.hi) := by
  intro mid
  have hx : exec .rangeSplit s = execRangeSplit s := rfl
  simp only [hx, execRangeSplit, hp, hn, hc, Bool.not_true, Bool.false_eq_true, if_false]
  refine ⟨_, rfl, rfl, rfl, ?_, split_within⟩
  simp only [State.postTask, State.setDie, State.taskAt, State.setTask, look_put_same, Option.getD_some]
  rfl

/-! Time-triggered releases (R296, R297). -/

section release
variable {t : TTSlot}

theorem ttRelease_skips (h : s.releaseDue s.arg.obj s.arg.obj2 = false) : Skips s .ttRelease := by
  show execTtRelease s = _
  unfold execTtRelease
  dsimp only
  split
  · rfl
  · simp only [h, Bool.not_false, if_true]

variable (ht : s.ttAt s.arg.obj s.arg.obj2 = some t)
include ht

theorem ttRelease_spawns (h : s.releaseDue s.arg.obj s.arg.obj2 = true) :
    let s1 := s.resident t.ctx t.templ.toNat 256
    let later : TTSlot := { t with nextRel := t.nextRel + t.period }
    let die0 := s1.homeOf t.ctx t.templ.toNat / 128
    ∀ w0 s2 len b s3 die slot, s1.readBytes (.unit die0) t.ctx t.templ.toNat 8 = .ok (w0, s2) →
      pkLen (leNat w0) = some len →
      s2.readBytes (.unit die0) t.ctx t.templ.toNat len = .ok (b, s3) → packetOk b = true →
      s3.spawnDie s.arg.obj = some die → s3.freeSlot die = some slot →
      let y := (s3.setTT s.arg.obj s.arg.obj2 later).acceptPacket die slot t.ctx b t.templ t.prio (some s.arg.obj2)
      exec .ttRelease s = .next (y.2.setTT s.arg.obj s.arg.obj2 { later with last := some y.1 }) := by
  intro s1 later die0 w0 s2 len b s3 die slot h1 hlen h2 hok hd hs y
  have hx : exec .ttRelease s = execTtRelease s := rfl
  simp only [die0, s1] at h1 h2
  simp only [hx, execTtRelease, ht, h, h1, hlen, h2, hok, hd, hs, Bool.not_true, Bool.false_eq_true, if_false, y, later]

theorem ttReleaseSkip_skips (h : s.skipDue s.arg.obj s.arg.obj2 = true) : exec .ttReleaseSkip s
    = .next (s.setTT s.arg.obj s.arg.obj2 { t with
        nextRel := t.nextRel + t.period
        overrun := if t.overrun = BitVec.allOnes 32 then t.overrun else t.overrun + 1
        sticky := true }) := by
  show execTtReleaseSkip s = _
  simp only [execTtReleaseSkip, ht, h, if_true]

end release

/-- Settles O53: each step of the engine case by case; a split leaves at least a grain on each side. -/
theorem taskEngineEvents : Obligations.TaskEngineEvents := by
  intro s k n
  refine ⟨?_, taskEnginePop_skips, taskDecrement_skips, fun e r => taskDecrement_performs, taskLaunch_asks, taskLaunch_counts,
    taskLaunch_skips, ?_, fun h => if_neg (by rw [h]; decide), fun part j i p g => rangeSplit_splits, ttRelease_skips,
    fun t ht h => ttRelease_spawns ht h, fun t ht h => ttReleaseSkip_skips ht h⟩
  · intro r die c hr hd hc hx hb home h u p ps e es poison ha
    exact taskEnginePop_takes hr hd hc hx hb ha
  · intro h x
    exact ⟨if_pos h, s.taskAt_finishTask k (s.taskAt k).bad⟩

end Sys2Proof.Machine
end

section
/-! SUPPORT. A save on a machine whose collection of threads is out of order (R403): a thread withdrawn before the save is put
in its place once more, and then stands twice. -/

namespace Sys2Proof.Machine

namespace OutOfOrder

/-- A request to be saved. -/
def ask : PreReq := { bound := none, req := 0, since := 0 }

/-- A cohort that is to be saved. -/
def cohort : Cohort := { Cohort.bare 0 0 0 with saving := some ask }

/-- A machine whose thread 0, with one posted reduction, is listed behind thread 1 of another cohort. -/
def machine : State :=
  { State.reset with
    threads := [(1, { Thread.image 0 0 0 with cohort := 1 }), (0, { Thread.image 0 0 0 with redBuf := [FullBuffer.red] })]
    cohorts := [(0, cohort)] }

/-- The machine as the save leaves it. -/
def saved : State := machine.saveCohort 0 cohort

theorem cohort_found : look machine.cohorts 0 = some cohort := rfl

theorem save_due : machine.coreRuns 0 cohort.ctx = true ∧ machine.saveAsked cohort = true ∧ machine.withdrawDue 0 = false
    ∧ machine.saveReady 0 = true := by decide +kernel

theorem cohortSave_saves : exec .cohortSave machine = .next saved := by
  obtain ⟨hr, ha, hw, hs⟩ := save_due
  show execCohortSave machine = _
  have at0 : machine.arg.obj = 0 := rfl
  simp only [execCohortSave, at0, cohort_found, Nat.zero_div, hr, ha, hw, hs, Bool.not_true, Bool.or_self,
    Bool.false_eq_true, if_false, if_true, saved]

/-- The core has one reduction posted twice. -/
theorem posted_twice : (saved.coreAt 0).posted.length = 2 := by decide +kernel

theorem posted_once : ((machine.coreAt 0).posted ++ (machine.membersOf 0).flatMap (fun m => m.2.redBuf)).length = 1 := by
  decide +kernel

end OutOfOrder

/-- Refutes O54: that a save posts what the cohort's threads had posted, once, needs the machine's threads listed in the
order of their names, and the statement is about every machine. On the witness the thread to be saved is listed behind one
of a higher name: withdrawn, it is put in its place once more, and its one reduction is posted twice. -/
theorem not_placementEvents : ¬ Obligations.PlacementEvents := by
  intro h
  obtain ⟨-, -, -, -, cohorts, -⟩ := h OutOfOrder.machine
  obtain ⟨-, -, -, -, saves, -⟩ := cohorts OutOfOrder.cohort OutOfOrder.cohort_found OutOfOrder.save_due.1
  obtain ⟨-, ha, hw, hs⟩ := OutOfOrder.save_due
  obtain ⟨ready, -⟩ := saves ha hw
  obtain ⟨u, hu, -, -, hp⟩ := ready hs
  have hsaved : OutOfOrder.saved = u := Host.Outcome.next.inj (OutOfOrder.cohortSave_saves.symm.trans hu)
  have twice := OutOfOrder.posted_twice
  rw [hsaved, show (u.coreAt 0).posted = _ from hp] at twice
  exact absurd (OutOfOrder.posted_once.symm.trans twice) (by decide)

end Sys2Proof.Machine
end

section
/-! SUPPORT. The window instructions (R265-R273, R320-R326) on a bound stream that admits the thread, case by case. -/

namespace Sys2Proof.Machine

/-! The home's store of a control block (R175, R207). -/

theorem State.putQcb_threads (s : State) (r : QRef) (bs : List Byte) : (s.putQcb r bs).threads = s.threads := by
  fun_cases State.putQcb <;> rfl

theorem State.putQueue_threads (s : State) (r : QRef) (q : Queue) : (s.putQueue r q).threads = s.threads := by
  fun_cases State.putQueue <;> rfl

theorem State.store_threads (s : State) (r : QRef) (q : Queue) (b : List Byte) : (s.store r q b).threads = s.threads := by
  rw [State.store, State.putQcb_threads, State.putQueue_threads]

/-- The block that a bind writes (R267, R326): the spec, the late queue and the lateness bound. -/
def boundBlock (bk spec : List Byte) (sp lq : Nat) : List Byte :=
  let bk := setField (setField bk 0x50 8 sp) 0x58 8 lq
  if wsLate spec = 0 then bk else setField bk 0x48 8 (wsLate spec)

/-- A bind leaves HEAD as it stands. -/
theorem qHead_boundBlock {bk spec : List Byte} {sp lq : Nat} (h : bk.length = 128) :
    qHead (boundBlock bk spec sp lq) = qHead bk := by
  have h1 : (setField bk 0x50 8 sp).length = 128 := (setField_length (by omega) sp).trans h
  have h2 : (setField (setField bk 0x50 8 sp) 0x58 8 lq).length = 128 := (setField_length (by omega) lq).trans h1
  have head2 : qHead (setField (setField bk 0x50 8 sp) 0x58 8 lq) = qHead bk :=
    (leAt_setField_ne (by omega) (.inl (by decide)) lq).trans (leAt_setField_ne (by omega) (.inl (by decide)) sp)
  unfold boundBlock
  dsimp only
  split
  · exact head2
  · exact (leAt_setField_ne (by omega) (.inl (by decide)) _).trans head2

section windows
variable {s s1 : State} {t : Thread} {d a b : BitVec 6} {pa : Nat} {q : Queue}

/-- A thread whose instruction leaves it on a machine that still has it. -/
theorem State.onLive_here {u : State} (hi : Issues s t) (hu : look u.threads s.cur.tid = some t) (f : Thread → Thread) :
    u.onLive s.cur.tid f = u.setThread s.cur.tid (f t) := State.onLive_of hu (issuer_eq_some.mp hi).2 f

theorem State.look_onLive {u : State} (hi : Issues s t) (hu : look u.threads s.cur.tid = some t) (f : Thread → Thread) :
    look (u.onLive s.cur.tid f).threads s.cur.tid = some (f t) := by
  rw [State.onLive_here hi hu]
  exact look_put_same _ _ _

theorem State.onLive_streams (u : State) (tid : Nat) (f : Thread → Thread) : (u.onLive tid f).streams = u.streams := by
  unfold State.onLive
  split
  · split <;> rfl
  · rfl

theorem queueDone_here {u : State} (hi : Issues s t) (hu : look u.threads s.cur.tid = some t) (v : Word) :
    queueDone u s.cur.tid d v = .next (u.setThread s.cur.tid (((t.setS d v).dirty).step4)) :=
  queueDone_of hu (issuer_eq_some.mp hi).2 d v

/-! Parks (R321, R396). -/

section park
variable (hi : Issues s t)
include hi

theorem winPark_faults (hs : t.step = none) : Faults s t .winPark 0x0D 0 0 := by
  show execWinPark s = _
  simp only [execWinPark, onThread_of hi, hs, faultOut]

theorem winPark_parks {st : StepRef} (hs : t.step = some st) : exec .winPark s = .next (s.parkStep s.cur.tid t st) := by
  show execWinPark s = _
  simp only [execWinPark, onThread_of hi, hs]

theorem sysEnd_parks {st : StepRef} (hs : t.step = some st) : exec .sysEnd s = .next (s.parkStep s.cur.tid t st) := by
  show execSysEnd s = _
  simp only [execSysEnd, onThread_of hi, hs]

end park

/-- A bound stream, in global memory, that admits the thread and whose home takes the operation (R211, R320). -/
structure Streams (s : State) (t : Thread) (a : Word) (pa : Nat) (q : Queue) : Prop where
  global : ∀ off, spaceOf a ≠ some (.scratch off)
  names  : Names s t a (.global pa) q
  stream : q.stream = true
  takes  : Takes s (.global pa) true 0
  intact : s.causes (.global pa) q = 0

/-- The checks of a window instruction on its stream pass (R320). -/
theorem Streams.withStream {w : Word} (h : Streams s t w pa q) (k : Nat → Queue → List Byte → Out) :
    withStream s s.cur.tid t w k = k pa q (s.qcbBytes (.global pa) 128) := by
  have size : q.size = 128 := by rw [Queue.size, h.stream]; rfl
  have checks : ∀ out : Out, (match spaceOf w with
      | some (.scratch _) => faultOut s s.cur.tid (scalarF t 0x05 w 0)
      | _ => out) = out := by
    intro out
    split
    · next off ho => exact absurd ho (h.global off)
    · rfl
  unfold Machine.withStream
  refine (checks _).trans ?_
  simp only [h.names.ref, h.names.bound, h.names.admits, h.stream, Bool.not_true, Bool.false_eq_true, if_false,
    h.names.withIntact h.takes h.intact, size]

section stream
variable (hi : Issues s t) (hs : Streams s t (t.S a) pa q)
include hi hs

theorem winWmark_pushes (hb : (t.S b).toNat < 2 ^ 63) : exec (.winWmark d a b) s = streamPush s s.cur.tid t d (t.S a) pa
    (padBytes (leBytes 8 0 ++ leBytes 8 (2 ^ 63 + (t.S b).toNat)) (qEsize (s.qcbBytes (.global pa) 128))) := by
  show execWinWmark d a b s = _
  simp only [execWinWmark, onThread_of hi, hs.withStream, Nat.not_le.mpr hb, if_false]

theorem winWmark_faults (hb : 2 ^ 63 ≤ (t.S b).toNat) : Faults s t (.winWmark d a b) 0x0D 0 0 := by
  show execWinWmark d a b s = _
  simp only [execWinWmark, onThread_of hi, hs.withStream, hb, if_true, faultOut]

theorem winWclose_unbound (hq : Quiet s t) (hl : look s.streams pa = none) :
    BecomesOn s s (.winWclose d a b) (((t.setS d 0).dirty).step4) := by
  show execWinWclose d a b s = _
  simp only [execWinWclose, onThread_of hi, hs.withStream, hq.release, Bool.not_true, Bool.false_eq_true, if_false, hl,
    queueDone_here hi (issuer_eq_some.mp hi).1]

/-- A close of a key takes its place in the key's order and returns the number of its windows (R324). -/
theorem winWclose_places {ctl : StreamCtl} (hq : Quiet s t) (hl : look s.streams pa = some ctl) :
    ∃ u : State, BecomesOn s u (.winWclose d a b)
        (((t.setS d (word (s.openWindows pa (t.S b) true ++ s.openWindows pa (t.S b) false).length)).dirty).step4)
      ∧ u.mem = s.mem ∧ u.threads = s.threads
      ∧ (look u.streams pa).map (fun c => c.steps.length) = some (ctl.steps.length + 1) := by
  have hx : exec (.winWclose d a b) s = execWinWclose d a b s := rfl
  simp only [BecomesOn, hx, execWinWclose, onThread_of hi, hs.withStream, hq.release, Bool.not_true, Bool.false_eq_true,
    if_false, hl]
  refine ⟨_, queueDone_here hi (by exact (issuer_eq_some.mp hi).1) _, rfl, rfl, ?_⟩
  simp only [State.setStream, look_put_same, Option.map_some, List.length_append, List.length_singleton]

/-! Emissions (R322). -/

theorem winWemit_waited {bs : List Byte} (ht : t.step = none) (hw : t.wait = some (.loaded bs)) :
    exec (.winWemit d a b) s = streamPush s s.cur.tid t d (t.S a) pa bs := by
  show execWinWemit d a b s = _
  simp only [execWinWemit, onThread_of hi, hs.withStream, ht, hw, Option.isSome_none, Bool.false_and, Bool.false_eq_true,
    if_false]

section load
variable {bs : List Byte} (hw : ∀ bs', t.wait ≠ some (.loaded bs'))
  (hc : s.bufferCheck t (t.S b) (qEsize (s.qcbBytes (.global pa) 128)) .read = none)
  (hl : s.bufferLoad s.cur.tid t (t.S b) (qEsize (s.qcbBytes (.global pa) 128)) = .ok (bs, s1))
include hw hc hl

/-- An emission that finds room among those held loads its element (R322). -/
theorem winWemit_loads (hf : (t.step.isSome && decide (8 ≤ t.emits.length)) = false) : exec (.winWemit d a b) s =
    if t.step.isNone then streamPush s1 s.cur.tid t d (t.S a) pa bs
    else if qClosed (s.qcbBytes (.global pa) 128) then faultOut s1 s.cur.tid (scalarF t 0x0A (t.S a) 0)
    else .next (s1.onLive s.cur.tid (fun x =>
      { (x.setS d (word x.emits.length)).step4 with emits := x.emits ++ [(t.S a, bs)] })) := by
  show execWinWemit d a b s = _
  simp only [execWinWemit, onThread_of hi, hs.withStream, hf, Bool.false_eq_true, if_false, hc, hl, accOut]

theorem winWemit_pushes (ht : t.step = none) : exec (.winWemit d a b) s = streamPush s1 s.cur.tid t d (t.S a) pa bs := by
  rw [winWemit_loads hi hs hw hc hl (by rw [ht]; rfl), if_pos (by rw [ht]; rfl)]

theorem winWemit_holds (hlk : look s1.threads s.cur.tid = some t) (ht : t.step.isSome = true) (hn : t.emits.length < 8)
    (hz : qClosed (s.qcbBytes (.global pa) 128) = false) : BecomesOn s s1 (.winWemit d a b)
      { (t.setS d (word t.emits.length)).step4 with emits := t.emits ++ [(t.S a, bs)] } := by
  have room : (t.step.isSome && decide (8 ≤ t.emits.length)) = false := by
    rw [decide_eq_false (Nat.not_le.mpr hn), Bool.and_false]
  have held : ¬ t.step.isNone = true := by
    rw [Option.isNone_iff_eq_none]
    exact Option.isSome_iff_ne_none.mp ht
  rw [BecomesOn, winWemit_loads hi hs hw hc hl room, if_neg held, if_neg (by rw [hz]; decide), State.onLive_here hi hlk]

end load

/-! Binds (R267, R326). -/

/-- An unbind of a stream with no window and no record left. -/
theorem winWbind_unbinds (hb : t.S b = 0) (hc : s.check t 0 128 .read false = none)
    (hw : s.windows.any (fun w => w.2.stream == pa) = false)
    (he : qHead (s.qcbBytes (.global pa) 128) = qTail (s.qcbBytes (.global pa) 128)) :
    ∃ u : State, exec (.winWbind d a b) s = .next u ∧ look u.streams pa = none
      ∧ look u.threads s.cur.tid = some t.dirty.step4 := by
  have hx : exec (.winWbind d a b) s = execWinWbind d a b s := rfl
  simp only [hx, execWinWbind, onThread_of hi, hs.withStream, hb, hw, he, bne_self_eq_false, Bool.and_false, Bool.or_self,
    Bool.false_eq_true, if_false, ne_eq, hc, if_true]
  refine ⟨_, rfl, ?_, ?_⟩
  · simp only [State.onLive_streams, look_del, if_true]
  · refine State.look_onLive hi ?_ _
    simp only [State.store_threads, State.touchQcb_threads]
    exact (issuer_eq_some.mp hi).1

/-- A bind of a spec that obeys R267. -/
theorem winWbind_binds {spec : List Byte} (hb : t.S b ≠ 0) (ha : (t.S b).toNat % 128 = 0)
    (hc : s.check t (t.S b) 128 .read false = none) (ho : leAt (s.qcbBytes (.global pa) 128) 0x50 8 = 0)
    (hl : s.loadT s.cur.tid t (t.S b).toNat 128 = .ok (spec, s1)) (hok : wsOk spec = true) (hd : t.S d = 0)
    (hlk : look s1.threads s.cur.tid = some t) :
    ∃ u : State, exec (.winWbind d a b) s = .next u ∧ look u.threads s.cur.tid = some t.dirty.step4
      ∧ (look u.streams pa).map (fun c => (c.spec, c.taken, c.steps.length))
        = some (spec, qHead (s.qcbBytes (.global pa) 128), 0) := by
  have head := qHead_boundBlock (bk := s.qcbBytes (.global pa) 128) (spec := spec) (sp := (t.S b).toNat) (lq := (0 : Word).toNat)
    (Mem.readBytes_length _ _ _)
  have hx : exec (.winWbind d a b) s = execWinWbind d a b s := rfl
  simp only [hx, execWinWbind, onThread_of hi, hs.withStream, ho, bne_self_eq_false, Bool.false_and, beq_false_of_ne hb,
    Bool.or_self, Bool.false_eq_true, if_false, ha, ne_eq, not_true_eq_false, hc, hb, hl, accOut, hok, Bool.not_true, hd,
    false_and]
  refine ⟨_, rfl, ?_, ?_⟩
  · refine State.look_onLive hi ?_ _
    simp only [State.setStream, State.store_threads, State.touchQcb_threads]
    exact hlk
  · simp only [State.onLive_streams, State.setStream, look_put_same, Option.map_some, List.length_nil]
    exact congrArg (fun h => some (spec, h, 0)) head

end stream

/-! Records of a key's windows (R325). -/

/-- The windows of a key that have committed a step, in the order of their starts. -/
def State.stateWindows (s : State) (pa : Nat) (key : Word) : List (Nat × Window) :=
  sortBy (fun a b => decide (a.2.start ≤ b.2.start))
    ((s.openWindows pa key true ++ s.openWindows pa key false).filter (fun w => w.2.phase != .opening))

section state
variable {blk : List Byte} (hi : Issues s t) (ha : (t.S a).toNat % 8 = 0) (hc : s.check t (t.S a) 32 .read false = none)
  (hl : s.loadT s.cur.tid t (t.S a).toNat 32 = .ok (blk, s1)) (hlk : look s1.threads s.cur.tid = some t)
  (hcur : s1.cur = s.cur) (hs : Streams s1 t (wordAt blk 0) pa q) (hz : leAt blk 20 12 = 0) (hb : (t.S b).toNat % 256 = 0)
  (hm : leAt blk 16 4 ≤ 64)
include hi ha hc hl hlk hcur hs hz hb hm

omit hlk in
/-- A read of window records whose operands pass their checks (R325). -/
theorem winWstate_reads : exec (.winWstate d a b) s =
    (let ws := s1.stateWindows pa (wordAt blk 8)
    let n := min (leAt blk 16 4) ws.length
    if n = 0 then queueDone s1 s.cur.tid d (word ws.length)
    else
      match s1.check t (t.S b) (256 * n) .write false with
      | some f => faultOut s1 s.cur.tid (scalarF t f (t.S b) 0)
      | none =>
        let va := (look s1.streams pa).elim (wordAt blk 0) (fun c => c.va)
        accOut s1 s.cur.tid t .scalar (t.S b) (256 * n)
          (s1.storeT s.cur.tid t (t.S b).toNat ((ws.take n).flatMap (fun w => w.2.record va)))
          (fun s' => queueDone s' s.cur.tid d (word ws.length))) := by
  have hst := hs.withStream
  rw [hcur] at hst
  have ok : ¬ (64 < leAt blk 16 4 ∨ leAt blk 20 12 ≠ 0) := by omega
  show execWinWstate d a b s = _
  simp only [execWinWstate, onThread_of hi, ha, ne_eq, not_true_eq_false, if_false, hc, hl, accOut, hst, hb]
  exact if_neg ok

theorem winWstate_counts (hn : min (leAt blk 16 4) (s1.stateWindows pa (wordAt blk 8)).length = 0) :
    BecomesOn s s1 (.winWstate d a b) (((t.setS d (word (s1.stateWindows pa (wordAt blk 8)).length)).dirty).step4) := by
  rw [BecomesOn, winWstate_reads hi ha hc hl hcur hs hz hb hm]
  exact (if_pos hn).trans (queueDone_here hi hlk _)

omit hlk in
theorem winWstate_stores {s2 : State} {ctl : StreamCtl}
    (hn : min (leAt blk 16 4) (s1.stateWindows pa (wordAt blk 8)).length ≠ 0)
    (hck : s1.check t (t.S b) (256 * min (leAt blk 16 4) (s1.stateWindows pa (wordAt blk 8)).length) .write false = none)
    (hst : look s1.streams pa = some ctl)
    (hw : s1.storeT s.cur.tid t (t.S b).toNat (((s1.stateWindows pa (wordAt blk 8)).take
      (min (leAt blk 16 4) (s1.stateWindows pa (wordAt blk 8)).length)).flatMap (fun w => w.2.record ctl.va)) = .ok s2)
    (hlk2 : look s2.threads s.cur.tid = some t) :
    BecomesOn s s2 (.winWstate d a b) (((t.setS d (word (s1.stateWindows pa (wordAt blk 8)).length)).dirty).step4) := by
  rw [BecomesOn, winWstate_reads hi ha hc hl hcur hs hz hb hm]
  refine (if_neg hn).trans ?_
  simp only [hck, hst, Option.elim_some, hw, accOut, queueDone_here hi hlk2]

end state

/-- A push that its stream's home performs once the release has nothing to wait for (R216, R323). -/
theorem streamPush_pushes {e : List Byte} {s2 : State} {p : Nat} {ps : List Nat} {es : List (List Byte)} {z : Bool} {t' : Thread}
    {w : Word} (hr : s.release t.uid = (s2, true)) (ht : Takes s2 (.global pa) true 1) (hcur : s2.cur = s.cur)
    (ha : (s2.homePush (.global pa) (.core (coreOf s.cur.tid)) [e]).ans = .many (p :: ps) es z)
    (hl : look ((s2.homePush (.global pa) (.core (coreOf s.cur.tid)) [e]).s.applyEnds
      (s2.homePush (.global pa) (.core (coreOf s.cur.tid)) [e]).ended).threads s.cur.tid = some t') (he : t'.ended = false) :
    streamPush s s.cur.tid t d w pa e = .next (((s2.homePush (.global pa) (.core (coreOf s.cur.tid)) [e]).s.applyEnds
      (s2.homePush (.global pa) (.core (coreOf s.cur.tid)) [e]).ended).setThread s.cur.tid
        (((t'.setS d (word p)).dirty).step4)) := by
  simp only [streamPush, hr, Bool.not_true, Bool.false_eq_true, if_false, ht.atHome (show s2.cur.tid = s.cur.tid by rw [hcur])]
  rw [homeDone_of ha (by simp) (by simp)]
  exact queueDone_of hl he d (word p)

end windows

/-- Settles O32: the checks on a stream pass, and then each window instruction is read off; a bind leaves HEAD as it stands. -/
theorem windowInstructions : Obligations.WindowInstructions := by
  intro s s1 t d a b pa q hi tid bk
  refine ⟨winPark_faults hi, fun st hs => ⟨winPark_parks hi hs, sysEnd_parks hi hs⟩, fun hg hn hq ht hc => ?_,
    fun blk ha hk hl hlk hg hcur hn hq ht hc hz hb hm => ?_, ?_⟩
  · have hs : Streams s t (t.S a) pa q := ⟨hg, hn, hq, ht, hc⟩
    exact ⟨winWmark_pushes hi hs, winWmark_faults hi hs, winWclose_unbound hi hs, fun ctl => winWclose_places hi hs,
      fun bs => winWemit_waited hi hs,
      fun bs hw hk hl hlk => ⟨winWemit_pushes hi hs hw hk hl, winWemit_holds hi hs hw hk hl hlk⟩,
      winWbind_unbinds hi hs, fun spec => winWbind_binds hi hs⟩
  · have hs : Streams s1 t (wordAt blk 0) pa q := ⟨hg, hn, hq, ht, hc⟩
    exact ⟨winWstate_counts hi ha hk hl hlk hcur hs hz hb hm, fun s2 ctl => winWstate_stores hi ha hk hl hcur hs hz hb hm⟩
  · exact fun e s2 p ps es z t' hr ht ha hl he => streamPush_pushes hr ht (State.release_cur hr) ha hl he

end Sys2Proof.Machine
end

section
/-! SUPPORT. The Carder's own steps (R268-R280, R322, R418), event by event. -/

namespace Sys2Proof.Machine

variable {s : State} {stream : Nat} {key : Word}

theorem mem_sortBy {α : Type} {le : α → α → Bool} {l : List α} {x : α} : x ∈ sortBy le l ↔ x ∈ l := by
  rw [sortBy_eq_insertionSort, List.mem_insertionSort]

/-! What a stream that is held back does (R379, R397, R412). -/

section held
variable (h : s.streamRuns stream = false)
include h

theorem State.resolved_held : s.resolved stream key = s := if_neg (by rw [h]; decide)

theorem State.stepReady_held : s.stepReady stream key = none := by
  unfold State.stepReady
  split
  · simp only [h, Bool.not_false, Bool.or_true, if_true]
  · rfl

theorem State.ctxRuns_held {ctl : StreamCtl} (hl : look s.streams stream = some ctl) : s.ctxRuns ctl.ctx = false := by
  rw [State.streamRuns, hl] at h
  exact h

theorem State.takeReady_held : s.takeReady stream = false := by
  unfold State.takeReady
  dsimp only
  split
  · next ctl q hl _ => simp only [State.ctxRuns_held h hl, Bool.false_and]
  · rfl

end held

/-! Steps delivered to their windows (R268, R272, R278). -/

/-- A step posted to its die's dispatcher leaves windows, partitions and memory (R298). -/
theorem State.postStep_frame (s : State) (stream : Nat) (ctl : StreamCtl) (wk : Nat) (r : StepReq) :
    (s.postStep stream ctl wk r).windows = s.windows ∧ (s.postStep stream ctl wk r).parts = s.parts
      ∧ (s.postStep stream ctl wk r).mem = s.mem := by
  unfold State.postStep State.setHead
  dsimp only
  split <;> exact ⟨rfl, rfl, rfl⟩

theorem deliver_none (reasons : List Reason) (phase : WinPhase) (h : s.stepReady stream key = none) :
    deliver s stream key reasons phase = .next (s.resolved stream key) := by
  simp only [deliver, h]

/-- A step that is ready, handed to the dispatcher for its window, which comes to the window cache. -/
theorem deliver_posts {reasons : List Reason} {phase : WinPhase} {r : StepReq} {ctl : StreamCtl} {wk : Nat} {w : Window}
    (h : s.stepReady stream key = some r) (hr : reasons.contains r.reason = true)
    (hl : look (s.resolved stream key).streams stream = some ctl)
    (hw : (s.resolved stream key).windowOf stream r = some (wk, w)) :
    deliver s stream key reasons phase
      = .next ((((s.resolved stream key).promote (.window wk) (partOfCtx w.ctx) w.tier w.key).setWindow wk { w with
          tier := 0, phase := phase, replays := min r.replays 255 }).postStep stream ctl wk r) := by
  simp only [deliver, h, hr, Bool.not_true, Bool.false_eq_true, if_false, hl, hw]

theorem windowStepExpire_none (h : s.stepReady s.arg.obj s.arg.word = none) :
    exec .windowStepExpire s = .next (s.resolved s.arg.obj s.arg.word) := by
  show execWindowStepExpire s = _
  simp only [execWindowStepExpire, h]

theorem windowStepExpire_delivers {r : StepReq} {c : StreamCtl} (h : s.stepReady s.arg.obj s.arg.word = some r)
    (hc : look s.streams s.arg.obj = some c) (he : wsEntry c.spec .expire false ≠ 0) :
    exec .windowStepExpire s = deliver s s.arg.obj s.arg.word [.expire] .expiring := by
  have entered : ¬ (r.reason = .expire ∧ (!r.pane) = true ∧ wsEntry c.spec .expire false = 0) := fun x => he x.2.2
  show execWindowStepExpire s = _
  simp only [execWindowStepExpire, h, hc]
  exact if_neg entered

/-! Windows born (R272, R277, R278). -/

theorem windowStepOpen_skips (h : s.stepReady s.arg.obj s.arg.word = none) : Skips s .windowStepOpen := by
  show execWindowStepOpen s = _
  simp only [execWindowStepOpen, h]

section born
variable {r : StepReq} {ctl : StreamCtl} (h : s.stepReady s.arg.obj s.arg.word = some r) (hr : r.reason = .openR)
  (hl : look (s.resolved s.arg.obj s.arg.word).streams s.arg.obj = some ctl)
include h hr hl

/-- A window that finds room is born with the partition's next identifier. -/
theorem windowStepOpen_bears {u : State}
    (hf : (s.resolved s.arg.obj s.arg.word).tierFull (partOfCtx ctl.ctx)
      ((s.resolved s.arg.obj s.arg.word).dieOfKey (partOfCtx ctl.ctx) s.arg.word) 2 = false)
    (hu : (s.resolved s.arg.obj s.arg.word).roomIn (partOfCtx ctl.ctx)
      ((s.resolved s.arg.obj s.arg.word).dieOfKey (partOfCtx ctl.ctx) s.arg.word) 2 0 = some u) :
    let part := partOfCtx ctl.ctx
    ∃ (v : State) (w : Window), exec .windowStepOpen s = .next v
      ∧ look v.windows (part * 2 ^ 64 + (u.partAt part).winNext) = some w
      ∧ w.winid = word (u.partAt part).winNext ∧ w.key = r.key ∧ w.count = 0 ∧ w.carry = List.replicate 16 0
      ∧ w.phase = .opening ∧ (v.partAt part).winNext = (u.partAt part).winNext + 1 ∧ v.mem = u.mem := by
  intro part
  have hx : exec .windowStepOpen s = execWindowStepOpen s := rfl
  simp only [hx, execWindowStepOpen, h, hr, ne_eq, not_true_eq_false, if_false, hl, hf, Bool.false_eq_true, hu]
  refine ⟨_, newWindow { ctl with full := ctl.full.filter (fun x => x.1 != s.arg.word) } s.arg.obj r
    (u.partAt part).winNext u.time, rfl, ?_, rfl, rfl, rfl, rfl, rfl, ?_, ?_⟩
  · rw [(State.postStep_frame _ _ _ _ _).1]
    exact look_put_same _ _ _
  · rw [State.partAt, (State.postStep_frame _ _ _ _ _).2.1]
    simp only [State.yieldWays, State.setWindow, State.setStream, State.setPart, look_put_same, Option.getD_some, part]
  · simp only [(State.postStep_frame _ _ _ _ _).2.2, State.yieldWays_mem, State.setWindow_mem, State.setStream_mem,
      State.setPart_mem]

theorem windowStepOpen_full
    (hf : (s.resolved s.arg.obj s.arg.word).tierFull (partOfCtx ctl.ctx)
      ((s.resolved s.arg.obj s.arg.word).dieOfKey (partOfCtx ctl.ctx) s.arg.word) 2 = true)
    (hn : ctl.full.any (fun x => x.1 == s.arg.word) = false) :
    exec .windowStepOpen s = .next (((s.resolved s.arg.obj s.arg.word).setStream s.arg.obj
      { ctl with full := ctl.full ++ [(s.arg.word, (s.resolved s.arg.obj s.arg.word).time)] }).sendStall 2 ctl.ctx
        ((s.resolved s.arg.obj s.arg.word).dieOfKey (partOfCtx ctl.ctx) s.arg.word) s.arg.word ctl.va) := by
  show execWindowStepOpen s = _
  simp only [execWindowStepOpen, h, hr, ne_eq, not_true_eq_false, if_false, hl, hf, if_true, hn, Bool.false_eq_true]

theorem windowStepOpen_stuck
    (hf : (s.resolved s.arg.obj s.arg.word).tierFull (partOfCtx ctl.ctx)
      ((s.resolved s.arg.obj s.arg.word).dieOfKey (partOfCtx ctl.ctx) s.arg.word) 2 = false)
    (hn : (s.resolved s.arg.obj s.arg.word).roomIn (partOfCtx ctl.ctx)
      ((s.resolved s.arg.obj s.arg.word).dieOfKey (partOfCtx ctl.ctx) s.arg.word) 2 0 = none) :
    exec .windowStepOpen s = .next (s.resolved s.arg.obj s.arg.word) := by
  show execWindowStepOpen s = _
  simp only [execWindowStepOpen, h, hr, ne_eq, not_true_eq_false, if_false, hl, hf, Bool.false_eq_true, hn]

end born

/-! Records taken (R268, R269). -/

section take
variable {ctl : StreamCtl} {q : Queue} (hl : look s.streams s.arg.obj = some ctl)
  (hq : s.queueAt (.global s.arg.obj) = some q) (hr : s.takeReady s.arg.obj = true)
include hl hq hr

theorem carderTakeRecord_freezes (hc : s.causes (.global s.arg.obj) q ≠ 0) :
    let h := s.freeze (.global s.arg.obj) q (s.causes (.global s.arg.obj) q)
    exec .carderTakeRecord s = .next ((h.s.applyEnds h.ended).carderRecord (s.homeOf q.ctx q.va.toNat / 128) q.ctx 0x08 q.va
      (word (s.causes (.global s.arg.obj) q))) := by
  show execCarderTakeRecord s = _
  simp only [execCarderTakeRecord, hl, hq, hr, Bool.not_true, Bool.false_eq_true, if_false]
  exact if_pos hc

/-- An intact stream's next record is read, and classified or, poisoned, recorded. -/
theorem carderTakeRecord_takes (hc : s.causes (.global s.arg.obj) q = 0) :
    let b := s.qcbBytes (.global s.arg.obj) 128
    let x := (s.slotReady (.global s.arg.obj) q b ctl.taken).1.readSlot (.global s.arg.obj) q b ctl.taken
    let sr : StreamRec := { pos := ctl.taken, seq := leAt b 0x60 8 - posSub (qTail b) ctl.taken,
                            addr := slotAddr b ctl.taken, bytes := x.1 }
    let c : StreamCtl := { ctl with taken := (ctl.taken + 1) % 2 ^ 32 }
    let u := x.2.2.setStream s.arg.obj c
    let die := u.dieOfKey (partOfCtx c.ctx) sr.key
    (x.2.1 = false → exec .carderTakeRecord s = .next (u.classify s.arg.obj die c sr))
    ∧ (x.2.1 = true → exec .carderTakeRecord s
        = .next ((u.carderRecord die c.ctx 0x07 q.va 0).retire s.arg.obj sr.pos)) := by
  intro b x sr c u die
  have hx : exec .carderTakeRecord s = execCarderTakeRecord s := rfl
  have taken : execCarderTakeRecord s =
      if x.2.1 = true then .next ((u.carderRecord die c.ctx 0x07 q.va 0).retire s.arg.obj sr.pos)
      else .next (u.classify s.arg.obj die c sr) := by
    simp only [execCarderTakeRecord, hl, hq, hr, Bool.not_true, Bool.false_eq_true, if_false]
    exact if_neg (not_not_intro hc)
  rw [hx, taken]
  exact ⟨fun hz => if_neg (by rw [hz]; decide), fun hz => if_pos hz⟩

end take

/-! The timing wheel (R280). -/

/-- Windows marked as expiring, one after another: each of them ends so marked, and memory and threads stay. -/
theorem State.markFiring_frame (ws : List (Nat × Window)) (s : State) :
    let u := ws.foldl (fun s w => s.setWindow w.1 { w.2 with firing := true }) s
    u.mem = s.mem ∧ u.threads = s.threads
      ∧ ∀ k, ((∃ w, (k, w) ∈ ws) ∨ ∃ w, look s.windows k = some w ∧ w.firing = true) →
          ∃ w, look u.windows k = some w ∧ w.firing = true := by
  induction ws generalizing s with
  | nil => exact ⟨rfl, rfl, fun k h => h.resolve_left (fun ⟨_, hw⟩ => by cases hw)⟩
  | cons x ws ih =>
    obtain ⟨hm, hth, hk⟩ := ih (s.setWindow x.1 { x.2 with firing := true })
    refine ⟨hm, hth, fun k h => hk k ?_⟩
    by_cases hx : k = x.1
    · exact .inr ⟨_, by rw [hx]; exact look_put_same _ _ _, rfl⟩
    · rcases h with ⟨w, hw⟩ | ⟨w, hw, hfire⟩
      · refine .inl ⟨w, (List.mem_cons.mp hw).resolve_left (fun e => hx ?_)⟩
        rw [← e]
      · exact .inr ⟨w, (look_put_ne _ _ hx).trans hw, hfire⟩

/-- A window stands among its key's open ones. -/
theorem State.mem_openWindows {wk : Nat} {w : Window} (h : look s.windows wk = some w) :
    (wk, w) ∈ s.openWindows w.stream w.key w.paneWin := by
  simp only [State.openWindows, mem_sortBy, List.mem_filter, beq_self_eq_true, Bool.and_self, and_true]
  exact mem_of_look h

theorem State.expireKey_marks {ctl : StreamCtl} {wk : Nat} {w : Window} (h : look s.windows wk = some w) :
    let u := s.expireKey w.stream ctl w.key
    u.mem = s.mem ∧ u.threads = s.threads ∧ ∃ w', look u.windows wk = some w' ∧ w'.firing = true := by
  have among : (wk, w) ∈ s.openWindows w.stream w.key true ++ s.openWindows w.stream w.key false := by
    have hm := State.mem_openWindows h
    cases hp : w.paneWin with
    | true => rw [hp] at hm; exact List.mem_append_left _ hm
    | false => rw [hp] at hm; exact List.mem_append_right _ hm
  unfold State.expireKey
  dsimp only
  obtain ⟨hm, hth, hk⟩ := State.markFiring_frame
    (s.openWindows w.stream w.key true ++ s.openWindows w.stream w.key false) (s.setStream w.stream _)
  exact ⟨hm, hth, hk wk (.inl ⟨w, among⟩)⟩

/-- A window that fires is among those that expire with it. -/
theorem State.mem_firingSet {wk : Nat} {w : Window} (h : look s.windows wk = some w) :
    (wk, w) ∈ s.firingSet w.stream w.key wk := by
  have hm := State.mem_openWindows h
  unfold State.firingSet
  cases hp : w.paneWin with
  | true =>
    rw [hp] at hm
    exact List.mem_append_left _ (List.mem_filter.mpr ⟨hm, by simp⟩)
  | false =>
    rw [hp] at hm
    exact List.mem_append_right _ (List.mem_filter.mpr ⟨hm, by simp⟩)

theorem wheelFire_marks {ctl : StreamCtl} {w : Window} (hl : look s.streams s.arg.obj = some ctl)
    (hr : s.ctxRuns ctl.ctx = true) (h0 : s.arg.obj2 ≠ 0) (hw : look s.windows s.arg.obj2 = some w)
    (hst : w.stream = s.arg.obj) (hkey : w.key = s.arg.word) (hf : w.fires s.time = true)
    (hb : (look ctl.keys s.arg.word.toNat).any (fun k => k.firing) = false) :
    ∃ u : State, exec .wheelFire s = .next u ∧ u.mem = s.mem ∧ u.threads = s.threads
      ∧ ∃ w', look u.windows s.arg.obj2 = some w' ∧ w'.firing = true := by
  have hx : exec .wheelFire s = execWheelFire s := rfl
  simp only [hx, execWheelFire, hl, hr, hb, h0, hw, hst, hkey, hf, beq_self_eq_true, Bool.not_true, Bool.or_self,
    Bool.and_self, Bool.false_eq_true, if_false, if_true]
  rw [← hst, ← hkey]
  split
  · exact ⟨_, rfl, State.expireKey_marks hw⟩
  · obtain ⟨hm, hth, hk⟩ := State.markFiring_frame (s.firingSet w.stream w.key s.arg.obj2) (s.setStream w.stream _)
    exact ⟨_, rfl, hm, hth, hk _ (.inl ⟨w, State.mem_firingSet hw⟩)⟩

/-! Tiers (R278, R418). -/

/-- A record moves down a tier that has room. -/
theorem State.demote_moves {u v : State} {h : HatRec} {part tier : Nat} (hu : s.roomIn part (s.dieOfKey part key) (1 - tier)
    (tier + 1) = some u) (hv : u.setTier h (tier + 1) = some v) : s.demote h part key tier = v := by
  rw [State.demote, hu, Option.bind_some, hv]
  rfl

theorem hatboxDemote_window {w : Window} {u v : State} (h0 : s.arg.obj ≠ 0) (hw : look s.windows s.arg.obj = some w)
    (hd : s.demoteDue w = true)
    (hu : s.roomIn (partOfCtx w.ctx) (s.dieOfKey (partOfCtx w.ctx) w.key) (1 - w.tier) (w.tier + 1) = some u)
    (hv : u.setTier (.window s.arg.obj) (w.tier + 1) = some v) : exec .hatboxDemote s = .next v := by
  show execHatboxDemote s = _
  simp only [execHatboxDemote, h0, if_false, hw, hd, if_true, State.demote_moves hu hv]

theorem hatboxDemote_entry {ctl : StreamCtl} {k : KeyEnt} {u v : State} (h0 : s.arg.obj = 0)
    (hl : look s.streams s.arg.obj2 = some ctl) (hk : look ctl.keys s.arg.word.toNat = some k) (hr : s.ctxRuns ctl.ctx = true)
    (hi : (s.partAt (partOfCtx ctl.ctx)).idleOver k.tier k.lastCommit s.time = true)
    (hu : s.roomIn (partOfCtx ctl.ctx) (s.dieOfKey (partOfCtx ctl.ctx) s.arg.word) (1 - k.tier) (k.tier + 1) = some u)
    (hv : u.setTier (.entry s.arg.obj2 s.arg.word.toNat) (k.tier + 1) = some v) : exec .hatboxDemote s = .next v := by
  show execHatboxDemote s = _
  simp only [execHatboxDemote, h0, if_true, hl, hk, hr, hi, Bool.and_self, State.demote_moves hu hv]

/-- A stall message stands last among those sent, and changes no memory and no window (R418). -/
theorem State.sendStall_frame (s : State) (event ctx die : Nat) (subject need : Word) :
    (s.sendStall event ctx die subject need).mem = s.mem ∧ (s.sendStall event ctx die subject need).windows = s.windows
      ∧ (s.sendStall event ctx die subject need).events = s.events ++ [stallMessage event ctx die subject need s.time] := by
  unfold State.sendStall
  dsimp only
  obtain ⟨dies, fns, he⟩ := State.addRas_eq { s with events := s.events ++ [stallMessage event ctx die subject need s.time] }
    (10 + event) 0 die (partOfCtx ctx) 0 (stallMessage event ctx die subject need s.time)
  rw [he]
  exact ⟨rfl, rfl, rfl⟩

theorem hatboxFullRepeat_sends {ctl : StreamCtl} (hl : look s.streams s.arg.obj = some ctl)
    (hd : s.fullDue ctl s.arg.word = true) : ∃ u : State, exec .hatboxFullRepeat s = .next u ∧ u.mem = s.mem
      ∧ u.windows = s.windows ∧ ∃ m, u.events = s.events ++ [m] := by
  have hx : exec .hatboxFullRepeat s = execHatboxFullRepeat s := rfl
  simp only [hx, execHatboxFullRepeat, hl, hd, if_true]
  obtain ⟨hm, hw, he⟩ := State.sendStall_frame (s.setStream s.arg.obj { ctl with
    full := ctl.full.map (fun x => if x.1 = s.arg.word then (x.1, s.time) else x) }) 2 ctl.ctx
    (s.dieOfKey (partOfCtx ctl.ctx) s.arg.word) s.arg.word ctl.va
  exact ⟨_, rfl, hm, hw, _, he⟩

theorem hatboxFullRepeat_held (h : s.streamRuns s.arg.obj = false) : Skips s .hatboxFullRepeat := by
  show execHatboxFullRepeat s = _
  unfold execHatboxFullRepeat
  dsimp only
  split
  · next ctl hl => simp only [State.fullDue, State.ctxRuns_held h hl, Bool.false_and, Bool.false_eq_true, if_false]
  · rfl

theorem carderTakeRecord_held (h : s.streamRuns s.arg.obj = false) : Skips s .carderTakeRecord := by
  show execCarderTakeRecord s = _
  unfold execCarderTakeRecord
  dsimp only
  split
  · simp only [State.takeReady_held h, Bool.not_false, if_true]
  · rfl

/-! Held emissions (R322). -/

/-- What becomes of an emission as its stream's home answers (R322). -/
def State.emitDone (u : State) (die : Nat) (r : QRef) (e : Nat × Nat × Word × List Byte) : QAns → Out
  | .closed => .next (u.carderRecord die e.2.1 0x0A e.2.2.1 0)
  | .corrupt m => .next (u.carderRecord die e.2.1 0x08 e.2.2.1 (word m))
  | .unmapped => .next (u.carderRecord die e.2.1 0x06 e.2.2.1 0)
  | .blocked => .next (u.joinWait r true { who := .carder die, op := .emit e.1 e.2.1 e.2.2.2 })
  | _ => .next u

/-- A held emission that its stream's home takes leaves its die's list, and is pushed. -/
theorem carderEmitPush_pushes {e : Nat × Nat × Word × List Byte} {va : Nat} {r : QRef} (hn : s.nextEmit s.arg.obj = some e)
    (ha : spaceOf e.2.2.1 = some (.global va)) (hg : s.globalRef e.2.1 va = some r) (hb : s.queueBusy r true 1 = false)
    (hsc : engineScope (s.qcbBytes r 64) = true) :
    let s1 := s.setDie s.arg.obj { s.dieAt s.arg.obj with emits := (s.dieAt s.arg.obj).emits.erase e }
    let h := s1.homePush r (.unit s.arg.obj) [e.2.2.2]
    exec .carderEmitPush s = (h.s.applyEnds h.ended).emitDone s.arg.obj r e h.ans := by
  intro s1 h
  show execCarderEmitPush s = _
  simp only [execCarderEmitPush, hn, ha, hg, hb, hsc, Bool.not_true, Bool.and_false, Bool.false_eq_true, if_false, h, s1]
  generalize State.homePush _ r _ _ = answered
  cases answered.ans <;> rfl

/-- Settles O52: each event case by case; a key with no step ready is only resolved, a stream held back is not even that, and the
windows that the wheel marks are those of the fold. -/
theorem carderEvents : Obligations.CarderEvents := by
  intro s stream key z
  refine ⟨fun r ctl u h hr hl => ?_, fun r ctl h hr hl => ?_, fun r ctl wk w h hl hw => ?_, fun h => ?_, fun h => ?_,
    fun h => ?_, fun ctl q hl hq hr => ?_, fun ctl w => wheelFire_marks, fun w u v => hatboxDemote_window,
    fun ctl k u v => hatboxDemote_entry, fun ctl => hatboxFullRepeat_sends, fun e va r hn ha => ?_⟩
  · exact fun hf hu => windowStepOpen_bears h hr hl hf hu
  · exact ⟨windowStepOpen_full h hr hl, windowStepOpen_stuck h hr hl⟩
  · intro posts
    refine ⟨fun hr => deliver_posts h ?_ hl hw, fun hr => deliver_posts h ?_ hl hw, fun hr => deliver_posts h ?_ hl hw,
      fun hr c0 hc he => (windowStepExpire_delivers h hc he).trans (deliver_posts h ?_ hl hw)⟩
    · rcases hr with hr | hr <;> rw [hr] <;> rfl
    all_goals rw [hr]; rfl
  · exact ⟨windowStepOpen_skips h, deliver_none _ _ h, deliver_none _ _ h, deliver_none _ _ h, windowStepExpire_none h⟩
  · exact congrArg Host.Outcome.next (if_pos h)
  · have none : s.stepReady stream key = none := State.stepReady_held h
    have still : s.resolved stream key = s := State.resolved_held h
    have held (reasons : List Reason) (phase : WinPhase) : deliver s stream key reasons phase = .next s :=
      (deliver_none _ _ none).trans (congrArg Host.Outcome.next still)
    exact ⟨carderTakeRecord_held h, windowStepOpen_skips none, held _ _, held _ _, held _ _,
      (windowStepExpire_none none).trans (congrArg Host.Outcome.next still),
      congrArg Host.Outcome.next (if_neg (by rw [h]; decide)), hatboxFullRepeat_held h⟩
  · exact ⟨carderTakeRecord_freezes hl hq hr, carderTakeRecord_takes hl hq hr⟩
  · intro s1 hg hb hsc h u
    have pushes (x : QAns) (hx : h.ans = x) : exec .carderEmitPush s = u.emitDone stream r e x :=
      (carderEmitPush_pushes hn ha hg hb hsc).trans (congrArg (u.emitDone stream r e) hx)
    exact ⟨fun ps es p => pushes _, pushes _, pushes _, fun m => pushes _⟩

end Sys2Proof.Machine
end
